-- ==== Sys2Proof/Word.lean ====
section
/-! DEFINITION. The word types of the KX96, the bits of a scratchpad or DRAM word and the plain-data map
that holds every large store of the model. -/

namespace Sys2Proof

/-- A 64-bit word, the unit of every scratchpad, DRAM and register access (R28, R633). -/
abbrev Word := BitVec 64
/-- A byte. -/
abbrev Byte := BitVec 8
/-- The bits of a lane of the finish unit or of the dense array (R294, R303). -/
abbrev Lane32 := BitVec 32
/-- The six arithmetic flags in the bit positions of R109: 0 NX, 1 UF, 2 OF, 3 DZ, 4 NV, 5 SAT. -/
abbrev FlagBits := BitVec 6
/-- A site ID 0-8,063: Y × 96 + X (R8, R14). -/
abbrev Site := Fin 8064
/-- A tile cycle of a frame, 0-2,047 (R14). -/
abbrev FrameCycle := Fin 2048
/-- One of the 16 link dies, memory dies or request engines. -/
abbrev Die := Fin 16

/-- A sparse store: pairs of a key and a value, keys rising, no value equal to what an unlisted key reads as. -/
abbrev SMap (α : Type) := List (Nat × α)

/-- The check-bit state of a stored word (R29, R30): its check bits hold, a single-bit upset that a read
corrects, a double-bit upset that a read delivers poisoned, or a word that was written with a poison mark. -/
inductive Ecc where
  | good | single | double | marked
deriving DecidableEq, Repr

/-- A stored word of the scratchpad or of module DRAM. For `single` the bits are the corrected ones. -/
structure SWord where
  bits : Word
  ecc : Ecc
deriving DecidableEq, Repr

/-- What a word that nothing has written reads as: 0 with valid check bits (R37, R448). -/
def SWord.zero : SWord := ⟨0, .good⟩

/-- A word in flight: its bits and its poison mark (R30). -/
structure RWord where
  bits : Word
  poison : Bool
deriving DecidableEq, Repr

/-- The zero word without a mark. -/
def RWord.zero : RWord := ⟨0, false⟩

/-- A lane in flight: 32 bits and a poison mark (R294, R303). -/
structure PLane where
  bits : Lane32
  poison : Bool
deriving DecidableEq, Repr

/-- The zero lane. -/
def PLane.zero : PLane := ⟨0, false⟩

/-- A saturating counter of width `w` with its overflow flag (R631). -/
structure Sat (w : Nat) where
  cnt : BitVec w
  ovf : Bool
deriving DecidableEq, Repr

/-- A counter at reset. -/
def Sat.zero (w : Nat) : Sat w := ⟨0, false⟩

end Sys2Proof
end

