-- ==== Sys2Proof/Syntax/Forms.lean ====
section
/-! DEFINITION. The operands that a tile's commands share: the issue of a control-core instruction, the performance of a
sequencer entry, and the fields of the dense array's and the finish unit's entries. -/

namespace Sys2Proof

/-- The issue of a control-core instruction: its tile, the tile cycle of the current frame, and its guard G (R278). -/
structure CcHdr where
  site : Site
  k : FrameCycle
  g : BitVec 4
deriving DecidableEq, Repr

/-- An event of a tile in a tile cycle of the current frame. -/
structure TileAt where
  site : Site
  k : FrameCycle
deriving DecidableEq, Repr

/-- A sequencer entry as its store holds it (R286): its tile, its store index and its position in program-store order,
CYC, LANE, LG and BSEL, and the REP iteration performed (0 outside a REP). -/
structure SeqHdr where
  site : Site
  idx : BitVec 12
  ord : BitVec 12
  cyc : BitVec 15
  lane : BitVec 6
  lg : Bool
  bsel : BitVec 3
  iter : BitVec 10
deriving DecidableEq, Repr

/-- The fields of an FU entry other than OP (R304). -/
structure FuArgs where
  vd : BitVec 5
  va : BitVec 5
  vb : BitVec 5
  vc : BitVec 5
  rm : BitVec 2
  satb : Bool
  km : BitVec 2
deriving DecidableEq, Repr

/-- The fields of a FUM entry other than FOP (R310). -/
structure FumArgs where
  vreg : BitVec 5
  line : BitVec 16
  fmt : BitVec 4
  h : BitVec 2
  rm : BitVec 2
  satb : Bool
  sline : BitVec 16
  sel : BitVec 8
deriving DecidableEq, Repr

/-- The fields of an LDW entry (R295). -/
structure LdwArgs where
  sb : Bool
  line : BitVec 16
  nl : BitVec 9
  ori : Bool
  wl : BitVec 3
  ef : BitVec 2
deriving DecidableEq, Repr

/-- The fields of a MUL entry (R295). -/
structure MulArgs where
  sb : Bool
  aline : BitVec 16
  af : BitVec 2
  acc : BitVec 3
  am : BitVec 2
  scr : BitVec 2
deriving DecidableEq, Repr

/-- A lath node as R223 numbers it: 0-8,063 tile site, 8,064 link die, 8,080 memory die, 8,096 service die. -/
abbrev Node := Fin 8097
/-- A calibration block 0-55 (R177), whose hub carries its number (R220). -/
abbrev Block := Fin 56
/-- A macro of a tile: tier × 1,024 + macro (R191). -/
abbrev MacroIx := BitVec 13
/-- A KLP session ID d × 256 + i (R482). -/
abbrev SessId := BitVec 12
/-- A stream ID (R8). -/
abbrev Sid := BitVec 14
/-- A sub-port 8p + s of a link die (R472). -/
abbrev SubPort := Fin 24
/-- A local port of a link die. -/
abbrev LocalPort := Fin 3

/-- A configuration write as CFG_WR carries it (R262). -/
structure CfgArgs where
  node : Node
  off : BitVec 24
  shadow : Bool
  cgid : BitVec 16
  sel : BitVec 16
  data : List Word
deriving DecidableEq, Repr

/-- An error report as ERR_REPORT carries it (R547). -/
structure RptArgs where
  src : Node
  code : BitVec 6
  frame : BitVec 48
  unit : Word
  detail : List Word
deriving DecidableEq, Repr

/-- A CG_PREPARE (R406). -/
structure PrepArgs where
  cgid : BitVec 16
  frame : BitVec 48
  scope : BitVec 8
  blocks : BitVec 56
  listed : List Node
deriving DecidableEq, Repr

/-- A step result of R418. -/
structure StepArgs where
  sid : Sid
  lane : BitVec 6
  status : BitVec 2
  last : Bool
  prefill : Bool
  token : BitVec 18
  pos : BitVec 21
  ntok : Byte
  logp : Lane32
deriving DecidableEq, Repr

/-- What a sub-port finds in a received frame (R476): an ARP request or neighbour solicitation or echo request for its
own addresses, an IEEE 1588 message, a UDP datagram for the KLP port on its own address, or anything else; and the
frame's length and whether its FEC codewords were corrected. -/
inductive FrameKind where
  | arp | nd | echo | ptp | klp | other
deriving DecidableEq, Repr

/-- A KLP packet (R480). -/
structure KlpArgs where
  ver : Byte
  op : Byte
  flags : Byte
  status : Byte
  session : BitVec 16
  epoch : BitVec 16
  psn : BitVec 32
  apsn : BitVec 32
  credit : BitVec 32
  reqId : BitVec 16
  arg : Word
  payload : List Byte
  tag : BitVec 128
  ce : Bool
deriving DecidableEq, Repr

/-- An OPEN (R482, R529): the MAC and IP addresses that it came from (R476), its payload fields and its credential. -/
structure OpenArgs where
  mac : BitVec 48
  ip4 : BitVec 32
  ip6h : Word
  ip6l : Word
  agent : BitVec 16
  aepoch : BitVec 16
  tenant : BitVec 16
  kind : Byte
  alt : Byte
  window : BitVec 16
  rto : Byte
  regBase : Word
  regLen : Word
  epub : List Byte
  keyId : BitVec 16
  sig : List Byte
deriving DecidableEq, Repr

/-- What the hardware finds during the boot stages of a cold reset: the halt code of the stage that fails (0 none), the
tiles that stay silent at LATH, and the boot time in ms (R602, R603, R620). -/
structure BootArgs where
  halt : BitVec 4
  silent : List Site
  ms : BitVec 16
deriving DecidableEq, Repr

/-- What a warm reset finds: the event code that caused it, whether software asked for it, its duration in ms, and whether
a further class W event came during it (R556, R570). -/
structure WarmArgs where
  cause : BitVec 6
  asked : Bool
  ms : BitVec 16
  again : Nat
deriving DecidableEq, Repr

end Sys2Proof
end

