-- ==== Sys2Proof/Syntax.lean ====
section
/-! DEFINITION. The commands of the module: one constructor per row of the opcode table, with the row's operands. -/

namespace Sys2Proof

/-- A command. Control-core instructions (R274-R285) carry their issue in a `CcHdr`, sequencer entries (R286-R310) their
entry fields in a `SeqHdr`; the other rows are events, messages, verbs and register writes. -/
inductive Instr where
  | add (h : CcHdr) (rd ra rb : BitVec 5)
  | sub (h : CcHdr) (rd ra rb : BitVec 5)
  | and (h : CcHdr) (rd ra rb : BitVec 5)
  | or (h : CcHdr) (rd ra rb : BitVec 5)
  | xor (h : CcHdr) (rd ra rb : BitVec 5)
  | shl (h : CcHdr) (rd ra rb : BitVec 5)
  | shr (h : CcHdr) (rd ra rb : BitVec 5)
  | sar (h : CcHdr) (rd ra rb : BitVec 5)
  | mul (h : CcHdr) (rd ra rb : BitVec 5)
  | mulhu (h : CcHdr) (rd ra rb : BitVec 5)
  | mulhs (h : CcHdr) (rd ra rb : BitVec 5)
  | divu (h : CcHdr) (rd ra rb : BitVec 5)
  | remu (h : CcHdr) (rd ra rb : BitVec 5)
  | divideComplete (a : TileAt)
  | min (h : CcHdr) (rd ra rb : BitVec 5)
  | max (h : CcHdr) (rd ra rb : BitVec 5)
  | minu (h : CcHdr) (rd ra rb : BitVec 5)
  | maxu (h : CcHdr) (rd ra rb : BitVec 5)
  | clz (h : CcHdr) (rd ra : BitVec 5)
  | popc (h : CcHdr) (rd ra : BitVec 5)
  | addi (h : CcHdr) (rd ra : BitVec 5) (imm : BitVec 12)
  | andi (h : CcHdr) (rd ra : BitVec 5) (imm : BitVec 12)
  | ori (h : CcHdr) (rd ra : BitVec 5) (imm : BitVec 12)
  | xori (h : CcHdr) (rd ra : BitVec 5) (imm : BitVec 12)
  | shli (h : CcHdr) (rd ra : BitVec 5) (imm : BitVec 12)
  | shri (h : CcHdr) (rd ra : BitVec 5) (imm : BitVec 12)
  | sari (h : CcHdr) (rd ra : BitVec 5) (imm : BitVec 12)
  | lui (h : CcHdr) (rd : BitVec 5) (imm : BitVec 17)
  | cmp (h : CcHdr) (fn : BitVec 3) (pd : BitVec 3) (ra rb : BitVec 5)
  | cmpi (h : CcHdr) (fn : BitVec 3) (pd : BitVec 3) (ra : BitVec 5) (imm : BitVec 12)
  | plog (h : CcHdr) (op : BitVec 2) (pd pa pb : BitVec 3)
  | ld (h : CcHdr) (rd ra : BitVec 5) (imm : BitVec 12)
  | ccLoadBankRead (a : TileAt)
  | st (h : CcHdr) (rs ra : BitVec 5) (imm : BitVec 12)
  | storeQueueDrain (a : TileAt)
  | br (h : CcHdr) (off : BitVec 22)
  | brl (h : CcHdr) (off : BitVec 22)
  | jr (h : CcHdr) (rd ra : BitVec 5) (imm : BitVec 12)
  | desc (h : CcHdr) (ra rb : BitVec 5)
  | cret (h : CcHdr) (ra : BitVec 5) (win : BitVec 5)
  | lsend (h : CcHdr) (n : BitVec 5) (ra : BitVec 5) (name code : BitVec 6)
  | rdsr (h : CcHdr) (rd : BitVec 5) (n : BitVec 3)
  | wrsr (h : CcHdr) (ra : BitVec 5) (n : BitVec 3)
  | rdlane (h : CcHdr) (rd ra : BitVec 5)
  | waitc (h : CcHdr) (ra : BitVec 5)
  | waitcResume (a : TileAt)
  | halt (h : CcHdr)
  | frameBoundary
  | beatBoundary (q : Byte)
  | seqNop (h : SeqHdr)
  | inj (h : SeqHdr) (line dline : BitVec 16) (laneRec dly msel : Bool)
  | rq (h : SeqHdr) (dline sline : BitVec 16) (dly : Bool) (tag : BitVec 4)
  | srv (h : SeqHdr) (w : BitVec 4) (dly : Bool)
  | rel (h : SeqHdr) (win : BitVec 5) (count : BitVec 16)
  | mop (h : SeqHdr) (aline sline dline : BitVec 16) (tier : BitVec 3) (lm : BitVec 10) (sel : BitVec 6)
  | macroOpComplete (a : TileAt)
  | clipReport (site : Site)
  | ldw (h : SeqHdr) (a : LdwArgs)
  | ldwComplete (a : TileAt)
  | lds (h : SeqHdr) (sb : Bool) (line : BitVec 16) (gm : BitVec 2)
  | daMul (h : SeqHdr) (a : MulArgs)
  | daMulComplete (a : TileAt)
  | sets (h : SeqHdr) (pair : BitVec 2) (half : Bool) (line : BitVec 16) (elem : BitVec 6)
  | daSt (h : SeqHdr) (acc : BitVec 3) (line : BitVec 16) (nl : Bool)
  | fadd (h : SeqHdr) (a : FuArgs)
  | fsub (h : SeqHdr) (a : FuArgs)
  | fmul (h : SeqHdr) (a : FuArgs)
  | fma (h : SeqHdr) (a : FuArgs)
  | fmin (h : SeqHdr) (a : FuArgs)
  | fmax (h : SeqHdr) (a : FuArgs)
  | fabs (h : SeqHdr) (a : FuArgs)
  | fneg (h : SeqHdr) (a : FuArgs)
  | frcp (h : SeqHdr) (a : FuArgs)
  | frsq (h : SeqHdr) (a : FuArgs)
  | fexp (h : SeqHdr) (a : FuArgs)
  | fexp2 (h : SeqHdr) (a : FuArgs)
  | fsig (h : SeqHdr) (a : FuArgs)
  | ftanh (h : SeqHdr) (a : FuArgs)
  | fsilu (h : SeqHdr) (a : FuArgs)
  | fgelu (h : SeqHdr) (a : FuArgs)
  | frsum (h : SeqHdr) (a : FuArgs)
  | frmax (h : SeqHdr) (a : FuArgs)
  | fcmp (h : SeqHdr) (a : FuArgs)
  | fsel (h : SeqHdr) (a : FuArgs)
  | fbc (h : SeqHdr) (a : FuArgs)
  | fcvt (h : SeqHdr) (a : FuArgs)
  | vtopm (h : SeqHdr) (a : FuArgs)
  | viota (h : SeqHdr) (a : FuArgs)
  | iadd (h : SeqHdr) (a : FuArgs)
  | isub (h : SeqHdr) (a : FuArgs)
  | iand (h : SeqHdr) (a : FuArgs)
  | ior (h : SeqHdr) (a : FuArgs)
  | ixor (h : SeqHdr) (a : FuArgs)
  | ishl (h : SeqHdr) (a : FuArgs)
  | ishr (h : SeqHdr) (a : FuArgs)
  | imin (h : SeqHdr) (a : FuArgs)
  | imax (h : SeqHdr) (a : FuArgs)
  | vrng (h : SeqHdr) (a : FuArgs)
  | vmov (h : SeqHdr) (a : FuArgs)
  | vld (h : SeqHdr) (a : FumArgs)
  | vst (h : SeqHdr) (a : FumArgs)
  | vldq (h : SeqHdr) (a : FumArgs)
  | vstq (h : SeqHdr) (a : FumArgs)
  | vsts (h : SeqHdr) (a : FumArgs)
  | dtake (h : SeqHdr) (n : BitVec 3) (line : BitVec 16)
  | bld (h : SeqHdr) (n : BitVec 3) (line : BitVec 16) (word : BitVec 4) (half : BitVec 2)
  | msk (h : SeqHdr) (mask : BitVec 16)
  | rep (h : SeqHdr) (nb : BitVec 6) (count step : BitVec 10) (lstep : BitVec 2) (linc : BitVec 7)
  | flitArrival (a : TileAt) (port : Fin 6) (crcOk : Bool)
  | ejectionWrite (a : TileAt)
  | rimInjection (rim : BitVec 6) (port : BitVec 3) (k : FrameCycle)
  | lathMessageReceive (sender receiver : Node) (bytes : List Byte)
  | lathAckTimeout (sender receiver : Node)
  | heartbeatSend (node : Node)
  | heartbeat (sender : Node) (summary : Option (BitVec 144)) (epoch : BitVec 16)
  | hbMiss (node : Node)
  | tileResetTimeout (site : Site)
  | hubPromotion (b : Block)
  | credit (site : Site) (source : Byte) (win : BitVec 5) (lines : BitVec 16)
  | cfgWr (a : CfgArgs)
  | cfgRd (node : Node) (off : BitVec 24) (count : Byte) (tag : BitVec 16)
  | cfgRsp (tag : BitVec 16) (status : Byte) (words : List Word)
  | errReport (a : RptArgs)
  | errorLogEntry
  | cgPrepare (node : Node) (a : PrepArgs)
  | cgVote (at_ sender : Node) (cgid yes : BitVec 16) (no : Byte) (noNode : BitVec 16)
  | hubVoteDeadline (b : Block) (cgid : BitVec 16)
  | cgDecide (cgid : BitVec 16)
  | cgApply (node : Node) (cgid : BitVec 16) (frame : BitVec 48)
  | cgDiscard (node : Node) (cgid : BitVec 16) (reason : Byte)
  | indoubtReinstatement (node : Node)
  | fence (node : Node) (computeOnly : Bool) (epoch : BitVec 16)
  | rejoin (node : Node) (epoch : BitVec 16)
  | tileReset (site : Site) (retrain : Bool)
  | freeze (stop : BitVec 48) (cause : BitVec 2)
  | trimPeriod (temps : List (BitVec 12))
  | calStart (v : Word)
  | converterMeasure (site : Site) (mac : MacroIx) (group : BitVec 3) (conv : BitVec 8) (codes : List (BitVec 6))
  | referenceScan (site : Site) (mac : MacroIx) (same : List (BitVec 64))
  | calRunComplete
  | pageProgram (host : Bool) (addr : BitVec 44) (line : List Word)
  | pageProgramComplete (site : Site) (mac : MacroIx) (failing : BitVec 528)
  | macroErase (host : Bool) (addr : BitVec 44) (line : List Word)
  | eraseComplete (site : Site) (mac : MacroIx) (ok : Bool)
  | pageRead (host : Bool) (addr : BitVec 44)
  | pageStateRead (host : Bool) (addr : BitVec 44)
  | eraseStatusRead (host : Bool) (addr : BitVec 44)
  | verifyFailRepair (site : Site) (mac : MacroIx) (failing : BitVec 528)
  | spareColumnReplacement (site : Site) (mac : MacroIx) (col : BitVec 9)
  | retentionTick
  | refresh (m : Byte) (slice : BitVec 16)
  | stagedSwap (m : Byte) (group : Byte)
  | inPlaceSwap (m : Byte) (slice : BitVec 16)
  | modelEviction (need : BitVec 13)
  | libraryEviction (need : BitVec 32)
  | residentStoreRestore (site : Site)
  | shardCheck
  | imgBegin (sess : Option SessId) (len : Word) (abort : Bool) (flash : BitVec 2) (drain : BitVec 16)
  | imgData (sess : Option SessId) (off : BitVec 32) (bytes : List Byte)
  | imageVerify
  | drainComplete
  | drainTimeout
  | rehome (site : Site) (holdMs : BitVec 16)
  | courseMove (q : Byte)
  | pageHome (sid : Sid)
  | submit (sess : SessId) (engine : Die) (queue : BitVec 6) (records : List (List Word))
  | requestIntake (engine : Die)
  | admitTask (engine : Die) (slot : BitVec 18)
  | adapterLoad (engine : Die) (slot : BitVec 18)
  | prefill (engine : Die) (slot : BitVec 18)
  | decode (engine : Die) (slot : BitVec 18)
  | sample (engine : Die) (slot : BitVec 18)
  | emit (engine : Die) (slot : BitVec 18)
  | migrate (engine : Die) (slot : BitVec 18)
  | replay (engine : Die) (slot : BitVec 18)
  | cancel (engine : Die) (tenant : BitVec 12) (sid : Sid) (gen : BitVec 16)
  | readyNotice (engine : Die)
  | dispatchDecision (q : Byte)
  | samplingDelivery (q : Byte) (lane : BitVec 6)
  | stepResult (a : StepArgs)
  | closingCommit (sid : Sid)
  | ringRecordWrite (sid : Sid)
  | batchTimeout (sid : Sid)
  | rcredit (sess : SessId) (arg : Word)
  | tmapWrite (engine : Die) (q : Byte) (hi : Bool) (v : Word)
  | sqEnable (engine : Die) (queue : BitVec 6) (v : Word)
  | pipeEnable (engine : Die) (q : Byte) (v : Word)
  | acquire (agent aepoch : BitVec 16) (lock : Byte)
  | release (agent aepoch : BitVec 16) (lock : Byte)
  | fetch (w0 w1 : Word)
  | dramAppend (die : Die) (dline : BitVec 38) (tenant : BitVec 12) (mask : BitVec 128) (line : List Word)
  | scrub (die : Die)
  | bulkPass (die : Die)
  | parcelDelivery (die : Die) (r : BitVec 32)
  | extentTableWrite (die : Die) (e : BitVec 16) (v : BitVec 32)
  | libraryCopyMigration (m : Byte)
  | frameReceive (die : Die) (sub : SubPort) (kind : FrameKind) (len : BitVec 16) (tags : BitVec 2) (corrected uncorrected : Bool)
  | modeApply (die : Die) (p : LocalPort)
  | modeChangeComplete (die : Die) (p : LocalPort) (los : Byte)
  | pauseFrame (die : Die) (p : LocalPort) (received : Option Byte) (fill : Byte)
  | ecnRateStep (sess : SessId)
  | klpPacketReceive (die : Die) (a : KlpArgs)
  | openSession (die : Die) (sub : SubPort) (a : OpenArgs)
  | closeSession (sess : SessId)
  | klpHeartbeat (sess : SessId)
  | klpHeartbeatSend (sess : SessId)
  | sessionTimeout (sess : SessId)
  | ack (sess : SessId) (ctrl : Bool) (apsn credit : BitVec 32)
  | nak (sess : SessId) (ctrl : Bool) (psn : BitVec 32)
  | retransmitTimeout (sess : SessId) (ctrl : Bool)
  | subportDown (die : Die) (sub : SubPort)
  | write (sess : SessId) (addr : Word) (data : List Word)
  | read (sess : SessId) (addr : Word) (len : BitVec 32)
  | histWr (sess : SessId) (arg : Word) (tokens : List (BitVec 32))
  | histRd (sess : SessId) (arg : Word) (count : BitVec 32)
  | regRd (sess : Option SessId) (addr : BitVec 48) (n : BitVec 32)
  | regWr (sess : Option SessId) (addr : BitVec 48) (data : List Word)
  | registerWrite (addr : BitVec 48) (v : Word)
  | shardBegin (sess : SessId) (manLen : BitVec 32) (shardLen : Word) (pin dist : Bool) (span : Byte)
  | shardData (sess : SessId) (off : Word) (bytes : List Byte)
  | shardDistribution (span : Byte)
  | resLoad (sess : SessId) (m : Byte)
  | resSwap (sess : SessId) (m : Byte) (atomic noInPlace : Bool) (ver : BitVec 32)
  | resEvict (sess : SessId) (m : Byte)
  | resRefresh (sess : SessId) (m : Byte)
  | resPin (sess : SessId) (m : Byte)
  | resUnpin (sess : SessId) (m : Byte)
  | land (sess : SessId) (route : Word) (entries : List (BitVec 16 × List Word))
  | spanSend (die : Die)
  | ptpMessage (die : Die) (sub : SubPort) (t1 t2 t3 t4 : Word) (locked : Bool)
  | member (sess : SessId) (arg frameBase : Word)
  | memberTableWrite (upper : Bool) (slot : BitVec 7) (w : BitVec 2) (v : Word)
  | epochSet (sess : SessId) (arg : Word)
  | sync (sess : SessId) (epoch : BitVec 16) (members : List (BitVec 7 × List Word)) (spans : List (Byte × List Word))
  | syncSend
  | takeover (sess : SessId) (arg : Word)
  | standbyTakeover (upper : Bool)
  | orphanTimeout
  | provisionalSessionTimeout (sess : SessId)
  | memberLost (upper : Bool) (slot : BitVec 7)
  | spanSet (sess : SessId) (arg spanId : Word) (slots : List Byte)
  | spanDown (sess : SessId) (span : Byte)
  | leave (sess : SessId)
  | distress (sess : SessId) (arg : Word) (bytes : List Byte)
  | probePush (sess : SessId) (off : Word) (bytes : List Byte)
  | freq (sess : SessId) (arg : Word)
  | signedLifecycle
  | signedDebug
  | signedRevoke
  | keyInstall
  | raiseRollback
  | writeOwnerSlot (slot : BitVec 3)
  | debugLevelRequest (req : BitVec 2)
  | probeSetInstall (bytes : List Byte)
  | probeSlot (site : Site)
  | probeMismatch (site : Site)
  | historyEvent (kind : BitVec 4) (addr : Word) (code : BitVec 6)
  | optRecord
  | dustSheet (site : Site)
  | rimSilent (rim : BitVec 6)
  | deputyWatchdog (die : Die) (silence : BitVec 2)
  | warmReset (a : WarmArgs)
  | feedLoss (b : Bool)
  | feedReturn (b : Bool)
  | lastGasp
  | sensorConversion (site : Site) (mv : BitVec 11)
  | zoneRegulation (z : Fin 48)
  | bond (site : Site)
  | supplyFault (domain : BitVec 4) (unit : BitVec 6) (kind : BitVec 2)
  | softStartRetry (ok : Bool)
  | governorStep (power : BitVec 16)
  | pstateP0
  | pstateP1
  | pstateP2
  | pstateP3
  | gaugeCheck (ev eq vstore : BitVec 16)
  | recal (low : Bool)
  | frequencyStep (code : BitVec 4)
  | hazEn (on : Bool)
  | hazard (site : Site) (code : BitVec 4)
  | podAlignment (err : BitVec 32)
  | elasticBufferSlip (site : Site) (port : Fin 5)
  | temperatureLimit (b : Block) (temp : BitVec 12)
  | coldReset (a : BootArgs)
  | rstN (a : BootArgs)
  | strapCheck (pins : BitVec 18)
  | svcResetCold (a : BootArgs)
  | svcResetWarm (a : WarmArgs)
  | svcResetTile (site : BitVec 13)
  | svcResetPort (port : BitVec 6)
  | svcMgmtIp4 (v : Word)
  | freezeN (us : BitVec 16)
  | frzReq
  | freezeStop
  | idcode
  | bypass (tdi : Bool)
  | samplePreload (bits : List Bool)
  | extest
  | frzSel (addr : BitVec 48)
  | frzData
  | ledPeriod (n : Fin 4) (current50 atSetting over3 : Bool)
  | ppsOut
  | subportUp (die : Die) (sub : SubPort)
  | holdupChargeTimeout
deriving DecidableEq, Repr

end Sys2Proof
end

