-- ==== Sys2Proof/Decode.lean ====
section
/-! DEFINITION. The decoder of the opcode table's words. The table gives no row any bits: a command is not a word but what reaches the
module, so the decoder reads none. -/

namespace Sys2Proof

/-- The command that a word of the opcode table spells. No row of the table gives bits, so no word spells one. -/
def decodeTableWord (_nbits _w : Nat) : Option Instr := none

end Sys2Proof
end

