-- ==== Sys2Proof/Config.lean ====
section
/-! DEFINITION. The values that the specification leaves open or to another standard: constants without a body, of which
nothing can be proved but that they are what they are. -/

namespace Sys2Proof.Config

/-- VTOPM whose VA and VB name one register: the lanes it leaves there, a function of the register numbers and the
operand lanes (the specification states no result). -/
opaque vtopmSame : List Lane32 → Nat → Lane32

/-- SEC_CHAL after its n-th draw: "random" (R527, R543). -/
opaque challenge : Nat → Word

/-- Byte i of the image of a page read in state INTERRUPTED or INCONSISTENT: unspecified (R149). -/
opaque badPage : Nat → Nat → Byte

/-- SHA-384 (R239 and the other signatures). -/
opaque sha384 : List Byte → BitVec 384

/-- ECDSA P-384: whether a signature holds over a digest under the public key with the given number, as the one-time
store holds it: 0 HMK, 1 the Helawen release key (R523). -/
opaque fixedKeyVerifies : Nat → BitVec 384 → List Byte → Bool

/-- ECDSA P-384: whether a signature holds over a digest under a compressed public key (R524, R525). -/
opaque verifies : BitVec 392 → BitVec 384 → List Byte → Bool

/-- The session key of an OPEN: HKDF-SHA-384 over ECDH of the module's ephemeral key with the agent's, salted with the
session ID (R529). -/
opaque sessionKey : Nat → List Byte → Nat → BitVec 256

/-- The payload of an OPEN response: the module's ephemeral public key and its DIK signature (R529). -/
opaque openResponse : Nat → List Byte → List Byte

/-- AES-256-CMAC (R530). -/
opaque cmac : BitVec 256 → List Byte → BitVec 128

/-- AES-256-GCM of a ring record: key, nonce, associated data and body give the sealed body and its tag (R531). -/
opaque gcm : BitVec 256 → List Byte → List Byte → List Byte → List Byte

/-- AES-256 of one block (R532, R533). -/
opaque aes256 : BitVec 256 → List Byte → List Byte

/-- The unwrapped key of a key install, none when AES-256-KW rejects it: EPUB, the salt STACK_SN, the wrapped key (R528). -/
opaque unwrap : List Byte → Word → List Byte → Option (BitVec 256)

/-- The DIK signature of a signature record (R566). -/
opaque dikSignature : BitVec 384 → List Byte

/-- The DIK public key and its certificate, word i of 128 (R542). -/
opaque dikCertificate : Nat → Word

/-- Byte i of SIG of the good-tile map, the manufacturing key's signature (R17). -/
opaque mapSignature : Nat → Byte

/-- Boundary cell i as the n-th scan captures it: the pins, which no rule gives (R617). -/
opaque boundary : Nat → Nat → Bool

/-- The one-time store: STACK_SN and the base MAC address (R17, R500, R601). -/
opaque stackSn : Word
/-- The base MAC address of the one-time store (R500, R601). -/
opaque baseMac : BitVec 48

/-- The stage-2 tiles of a projection by PROJ_ID, each with the B panels that it holds: (LX, LY, panels). The image's stencil
fixes them, and no rule gives their form (R128, R256). -/
opaque stage2Tiles : Nat → List (Nat × Nat × List Nat)

/-- The landing offset D, in frames, of the lane window (position 0) or the sampling window (position 1) of a pipeline of the
image with an ID: the toolchain's choice, at least 4 (R217, R365, R439). -/
opaque landing : Word → Nat → Nat → Nat

/-- The CAUSE byte of the FAULT record of a stream for whose next page no home exists: R340 gives none. -/
opaque noHomeCause : Nat

/-- The length in ms of the n-th hold that a re-home inside a larger command makes: a measured time (R346). -/
opaque holdMs : Nat → BitVec 16

/-- The setpoint in mV that the governor's pre-positioning gives a zone, from its number, ZONE_DW and its setpoint: no rule gives the
law (R580). -/
opaque prePosition : Nat → Nat → Nat → Nat

/-- The PLL trim in ppb after the n-th draw: no rule gives the loop's law, only its bound of ±30 ppm (R591). -/
opaque pllTrim : Nat → Int

/-- The length in ms of the n-th recovery from P3, at most 3 s: a measured time (R583). -/
opaque wakeMs : Nat → Nat

end Sys2Proof.Config
end

