-- ==== Sys2Proof/Machine/Flags.lean ====
section
/-! DEFINITION. The flag bits of R109, the saturating counters of R631 and the flag registers of R110 and R275. -/

namespace Sys2Proof.Machine

/-- No flag. -/
def flNone : FlagBits := 0
/-- NX, inexact (R109). -/
def flNX : FlagBits := 0b000001
/-- UF, tiny and inexact (R109). -/
def flUF : FlagBits := 0b000010
/-- OF, overflow (R109). -/
def flOF : FlagBits := 0b000100
/-- DZ, division by zero (R109, R280). -/
def flDZ : FlagBits := 0b001000
/-- NV, invalid (R109). -/
def flNV : FlagBits := 0b010000
/-- SAT, a result replaced by the end of its range (R109). -/
def flSAT : FlagBits := 0b100000

/-- A flag when a condition holds. -/
def flIf (b : Bool) (f : FlagBits) : FlagBits := if b then f else flNone

/-- The OR of the flags of the elements of one vector operation (R110). -/
def flOr (l : List FlagBits) : FlagBits := l.foldl (· ||| ·) flNone

/-- One increment of a saturating counter: at its largest value the count stays and OVF sets (R631). -/
def satInc {w : Nat} (c : Sat w) : Sat w :=
  if c.cnt = BitVec.allOnes w then { c with ovf := true } else { c with cnt := c.cnt + 1 }

/-- `n` increments of a saturating counter. -/
def satAdd {w : Nat} (c : Sat w) (n : Nat) : Sat w :=
  if c.cnt.toNat + n ≤ 2 ^ w - 1 then { c with cnt := BitVec.ofNat w (c.cnt.toNat + n) }
  else { cnt := BitVec.allOnes w, ovf := true }

/-- A W1C write of an overflow flag (R11). -/
def satW1C {w : Nat} (c : Sat w) (b : Bool) : Sat w := { c with ovf := c.ovf && !b }

/-- A sticky flag register with the flags raised in its latest raising cycle, so that a WRSR in that cycle
leaves them set (R110, R275). -/
structure FlagReg where
  val : FlagBits
  lastT : Nat
  lastBits : FlagBits
deriving DecidableEq, Repr

/-- A flag register at reset. -/
def FlagReg.zero : FlagReg := ⟨0, 0, 0⟩

/-- Flags raised in tile cycle `t` are ORed into the register (R110). -/
def flagRaise (r : FlagReg) (t : Nat) (f : FlagBits) : FlagReg :=
  if f = flNone then r
  else { val := r.val ||| f, lastT := t, lastBits := if r.lastT = t then r.lastBits ||| f else f }

/-- A WRSR in tile cycle `t` replaces the flags; a flag raised in the same cycle ends set (R110, R275). -/
def flagWrite (r : FlagReg) (t : Nat) (f : FlagBits) : FlagReg :=
  { r with val := f ||| (if r.lastT = t then r.lastBits else flNone) }

end Sys2Proof.Machine
end

