-- ==== Sys2Proof/Machine/TileState.lean ====
section
/-! DEFINITION. The state of one tile: scratchpad, control core, slot sequencer, dense array, finish unit,
weight-fabric interface and its cells, mesh router, probe engine and sensor. -/

namespace Sys2Proof.Machine

/-! ### Scratchpad (R27-R40, R44-R50) -/

/-- The local-side write units in the conflict order of R33, then the mesh side. -/
inductive WUnit where
  | fabric | da | fu | dtake | store | mesh
deriving DecidableEq, Repr

/-- A scratchpad write on its way to bank cycle `cyc`: a line, its word enables and its 16 words (R28). -/
structure PWrite where
  cyc : Nat
  unit : WUnit
  line : BitVec 16
  wen : BitVec 16
  words : List RWord
deriving DecidableEq, Repr

/-- Window n of the tile with its credits and its release state (R49, R50, R218, R219). -/
structure Win where
  base : BitVec 16
  lines : BitVec 17
  typ : BitVec 2
  source : Byte
  quota : BitVec 16
  credits : BitVec 16
  nextRel : Byte
  arr0 : Nat
  arr1 : Nat
  arr2 : Nat
  arr3 : Nat
  late : Bool
deriving DecidableEq, Repr

/-- An unused window. -/
def Win.none : Win := ⟨0, 0, 0, 0, 0, 0, 0, 0, 0, 0, 0, false⟩

/-- The scratchpad of a tile and its TILE_ counters. `rdCyc` and `rdRows` are the rows that sequencer-scheduled
reads opened in the latest even bank cycle (R635). `hazOn` is set while the hazard detector compares, and `haz` holds,
by hazard code, the count not yet reported with the cycle and store index of its first (R324-R326). -/
structure Pad where
  words : SMap SWord
  pend : List PWrite
  rdCyc : Nat
  rdRows : SMap Nat
  ce : Sat 16
  ue : Bool
  eccWord : BitVec 20
  eccType : Bool
  eccValid : Bool
  confl : Sat 16
  landDrop : Sat 16
  lastWin : BitVec 5
  win : SMap Win
  storeQ : List (Nat × Nat × Word)
  hazOn : Bool
  haz : SMap (Nat × Nat × Nat)
deriving DecidableEq, Repr

/-- The scratchpad at reset (R37, R46-R50). -/
def Pad.reset : Pad :=
  { words := [], pend := [], rdCyc := 0, rdRows := [], ce := Sat.zero 16, ue := false, eccWord := 0,
    eccType := false, eccValid := false, confl := Sat.zero 16, landDrop := Sat.zero 16, lastWin := 0,
    win := [], storeQ := [], hazOn := false, haz := [] }

/-! ### Control core (R274-R285) -/

/-- CC_STATE of TILE_STATUS (R46). -/
inductive CcState where
  | idle | running | frozen | stopped
deriving DecidableEq, Repr

/-- A DIVU or REMU in progress (R281). -/
structure DivOp where
  rem : Bool
  rd : BitVec 5
  a : Word
  b : Word
  due : Nat
deriving DecidableEq, Repr

/-- A load in flight: its register, its word index, its issue cycle, and the data of the newest matching queued
store at its issue (R35, R36). -/
structure LoadOp where
  rd : BitVec 5
  word : Nat
  issued : Nat
  fwd : Option Word
deriving DecidableEq, Repr

/-- A message of the control core's lath send queue (R284). -/
inductive CcMsg where
  | credit (source : Byte) (win : BitVec 5) (lines : BitVec 16)
  | report (name : BitVec 6) (code : BitVec 6) (words : List Word)
deriving DecidableEq, Repr

/-- The control core. `next` is the first cycle in which the next instruction may issue and `rdy` the first cycle in
which an instruction that depends on a register may issue (R279); `descQ` holds each descriptor with the cycle of its
push (R283). -/
structure CCore where
  g : SMap RWord
  p : SMap Bool
  pc : BitVec 14
  st : CcState
  div : Option DivOp
  loads : List LoadOp
  wait : Option (BitVec 15)
  fcc : FlagReg
  next : Nat
  rdy : SMap Nat
  descQ : List (Nat × Word × Word)
  lathQ : List CcMsg
  iram : SMap (BitVec 32)
deriving DecidableEq, Repr

/-- The control core at reset (R274). -/
def CCore.reset : CCore :=
  { g := [], p := [], pc := 0, st := .idle, div := none, loads := [], wait := none, fcc := FlagReg.zero,
    next := 0, rdy := [], descQ := [], lathQ := [], iram := [] }

/-! ### Slot sequencer (R286-R292) -/

/-- A REP record of the current invocation: its position in program-store order and its fields (R289). -/
structure RepRec where
  ord : Nat
  nb : Nat
  count : Nat
  step : Nat
  lstep : Nat
  linc : Nat
deriving DecidableEq, Repr

/-- A read-return entry: destination line and the source line requested (R213). -/
structure ReadRet where
  dest : BitVec 16
  src : BitVec 16
deriving DecidableEq, Repr

/-- An RDREQ collected by the read unit: the cycle of its ejection, its line and its tag (R213). -/
structure RdReq where
  cyc : Nat
  line : BitVec 16
  tag : BitVec 4
deriving DecidableEq, Repr

/-- The slot sequencer with the tile's stores of the image and its lane tables. -/
structure Seqr where
  base : SMap RWord
  m1 : BitVec 16
  reps : List RepRec
  lUse : List Nat
  daUse : Option Nat
  fuUse : Option Nat
  retn : SMap ReadRet
  reqs : List RdReq
  prog0 : SMap Word
  prog1 : SMap Word
  names : SMap Word
  selTags : SMap (BitVec 16)
  macroMap : SMap (BitVec 16)
  laneAct : SMap Word
  laneShadow : SMap Word
  pageOwn : SMap (BitVec 16)
deriving DecidableEq, Repr

/-- The sequencer at reset (R211, R248, R252, R292, R519). -/
def Seqr.reset : Seqr :=
  { base := [], m1 := 0, reps := [], lUse := [], daUse := none, fuUse := none, retn := [], reqs := [],
    prog0 := [], prog1 := [], names := [], selTags := [], macroMap := [], laneAct := [], laneShadow := [],
    pageOwn := [] }

/-! ### Dense array (R294-R302) -/

/-- A stationary buffer: the words that its LDW loaded with the order they were loaded in, its element format, its
group-scale mode and its 2,048 SC8 scales as 256 words (R294-R297). -/
structure SBuf where
  words : SMap RWord
  line : BitVec 16
  nl : Nat
  ori : Bool
  wl : BitVec 3
  ef : BitVec 2
  gm : BitVec 2
  scales : SMap RWord
  valid : Bool
deriving DecidableEq, Repr

/-- A cleared, invalid buffer. -/
def SBuf.clear : SBuf := ⟨[], 0, 0, false, 0, 0, 0, [], false⟩

/-- An LDW in progress: its buffer, first line, line count, issue cycle, groups of 16 lines already read, and
whether it is legal and whether its base was marked (R288, R296, R302). -/
structure LdwOp where
  sb : Bool
  line : BitVec 16
  nl : Nat
  t : Nat
  groups : Nat
  legal : Bool
  taint : Bool
  lane : BitVec 6
deriving DecidableEq, Repr

/-- What a MUL in flight does to one lane at t + 12: its FP32 term or its exact INT32 term (R299). -/
structure MulLane where
  lane : Nat
  term : Lane32
  dot : Int
  poison : Bool
  flags : FlagBits
deriving DecidableEq, Repr

/-- A MUL in flight (R302). -/
structure MulOp where
  t : Nat
  row : BitVec 3
  mode : BitVec 2
  lanes : List MulLane
deriving DecidableEq, Repr

/-- The dense array. -/
structure DArr where
  sb0 : SBuf
  sb1 : SBuf
  acc : SMap PLane
  pairs : SMap PLane
  load : Option LdwOp
  muls : List MulOp
  fda : FlagReg
deriving DecidableEq, Repr

/-- The dense array at reset (R294). -/
def DArr.reset : DArr :=
  { sb0 := SBuf.clear, sb1 := SBuf.clear, acc := [], pairs := [], load := none, muls := [],
    fda := FlagReg.zero }

/-! ### Finish unit (R303-R310) -/

/-- An effect of the sequencer's engines that lands in a later tile cycle. -/
inductive Eff where
  | vreg (reg : Nat) (lanes : List (Nat × PLane))
  | mask (k : Nat) (m sel : BitVec 64)
  | ffu (f : FlagBits)
  | fda (f : FlagBits)
  | sbuf (i : Nat) (b : BitVec 8 × Bool)
  | pair (i : Nat) (v : PLane)
  | base (n : Nat) (v : RWord)
  | ldsDone (sb : Bool) (gm : BitVec 2) (scales : SMap RWord) (revalid : Bool)
deriving DecidableEq, Repr

/-- The finish unit, with the effects on their way to a later cycle. Lane i of register r is at key 64r + i. -/
structure FUnit where
  v : SMap PLane
  k : SMap (BitVec 64)
  sbuf : SMap (BitVec 8 × Bool)
  effs : List (Nat × Eff)
  ffu : FlagReg
deriving DecidableEq, Repr

/-- The finish unit at reset (R303). -/
def FUnit.reset : FUnit := { v := [], k := [], sbuf := [], effs := [], ffu := FlagReg.zero }

/-! ### Weight fabric (R51-R92, R139-R151, R175-R195) -/

/-- A page of a macro: its cell levels, two bits a cell (528 cells of a data page, the low 512 of a strip page), and
the levels of its BEGIN and DONE markers (R139, R149). -/
structure Page where
  cells : BitVec 1056
  begin_ : BitVec 2
  done : BitVec 2
deriving DecidableEq, Repr

/-- An erased page (R149). -/
def Page.erased : Page := ⟨0, 0, 0⟩

/-- A macro-table entry (R83, R84) with the macro's erase count and its erase-pending mark of the history band
(R151, R153). -/
structure MEntry where
  fmt : BitVec 2
  res : Bool
  busyPe : Bool
  worn : Bool
  store : Bool
  pair : Byte
  spareValid : BitVec 16
  spareLo : BitVec 40
  spareHi : BitVec 40
  conv : Word
  erases : Nat
  erasePending : Bool
deriving DecidableEq, Repr

/-- An unassigned macro without repairs. -/
def MEntry.fresh : MEntry := ⟨0, false, false, false, false, 0, 0, 0, 0, 0, 0, false⟩

/-- A program or erase in progress: the macro, the page (none for an erase) and the line to program (R143). -/
structure PeOp where
  macroIx : Nat
  page : Option Nat
  image : List Word
deriving DecidableEq, Repr

/-- A macro operation in progress: start cycle, macro index, destination, outputs (R68-R71). -/
structure MacroOp where
  t0 : Nat
  macroIx : Nat
  dline : BitVec 16
  outs : List PLane
  invScale : Nat
deriving DecidableEq, Repr

/-- A trim pair of a converter: OFS in 1/16 level steps and GAIN, as stored codes (R175). -/
structure Trim where
  ofs : BitVec 7
  gain : BitVec 7
deriving DecidableEq, Repr

/-- The weight-fabric interface and the stack beneath the tile. `act` lists the latest starts as (cycle, macro); `busyFrom`
holds, plus one, the cycle since which a macro has run without a trim gap (R180), and `scans` the reference scans in
progress as (end cycle, macro, operand). `convErr` holds the converters whose true offset differs from their applied trim,
in 1/16 level steps; no rule gives the physics that moves it. -/
structure Fabric where
  pages : SMap Page
  mt : SMap MEntry
  clipRptEn : Bool
  pairDis : Bool
  mtLoaded : Bool
  opsCnt : BitVec 48
  clip : Sat 16
  sat : Sat 16
  clipAddr : BitVec 27
  clipValid : Bool
  invScale : Sat 16
  notRes : Sat 16
  conc : Sat 16
  ops : List MacroOp
  act : List (Nat × Nat)
  busyFrom : SMap Nat
  scans : List (Nat × Nat × List (BitVec 64))
  peOps : List PeOp
  clipN : Nat
  clipFirst : Word
  clipDue : Option (Nat × Word)
  convErr : SMap Int
deriving DecidableEq, Repr

/-- The weight fabric at the first reset: every cell at level 0 and no repairs (the history band's values are the
model's choice). -/
def Fabric.reset : Fabric :=
  { pages := [], mt := [], clipRptEn := true, pairDis := false, mtLoaded := false, opsCnt := 0,
    clip := Sat.zero 16, sat := Sat.zero 16, clipAddr := 0, clipValid := false, invScale := Sat.zero 16,
    notRes := Sat.zero 16, conc := Sat.zero 16, ops := [], act := [], busyFrom := [], scans := [], peOps := [], clipN := 0, clipFirst := 0,
    clipDue := none, convErr := [] }

/-! ### Mesh router (R196-R234) -/

/-- A flit without its check bits: payload, sideband fields and whether its sideband CRC holds (R196, R197). -/
structure Flit where
  sid : BitVec 14
  lane : BitVec 6
  kind : BitVec 3
  line : BitVec 16
  wen : BitVec 16
  rel : Byte
  src : Byte
  tag : BitVec 4
  err : Bool
  words : List RWord
  crcOk : Bool
deriving DecidableEq, Repr

/-- A flit in the ejection buffer with its cycle of ejection (R34). -/
structure Eject where
  cyc : Nat
  flit : Flit
deriving DecidableEq, Repr

/-- The mesh router and the stencil's run state. `beatAt` is the frame count at which the current invocation
started; `held` is set while a hold of the model runs its lanes idle (R162, R212). -/
structure Mesh where
  portCfg : Word
  slots : SMap Word
  sets : Word
  run : Bool
  set : Bool
  span : BitVec 4
  beat : BitVec 4
  beatAt : Nat
  held : Bool
  eject : List Eject
  drop : Sat 16
  linkErr : Sat 16
  fenceErr : Sat 16
  late : Sat 16
  miss : Sat 16
deriving DecidableEq, Repr

/-- The router at reset: every wire OFF (R230-R232). -/
def Mesh.reset : Mesh :=
  { portCfg := 0x0404040404, slots := [], sets := 0, run := false, set := false, span := 0, beat := 0, beatAt := 0, held := false,
    eject := [], drop := Sat.zero 16, linkErr := Sat.zero 16, fenceErr := Sat.zero 16, late := Sat.zero 16,
    miss := Sat.zero 16 }

/-! ### Probe engine and voltage sensor (R557-R560, R575-R578) -/

/-- The probe engine of a tile: FLT_PROBE_TILE, the rotation, the reference table (key 4 × macro + line), the capture
buffer, the probe to be repeated (its line plus 4 once the mismatch is confirmed), and the frames of each macro's last passing
probe and of the latest mismatch. -/
structure Probe where
  skip : Sat 16
  soft : Sat 16
  conf : Sat 16
  ptr : Nat
  lineNo : Nat
  refs : SMap (BitVec 32)
  capture : SMap Word
  again : Option (Nat × Nat)
  passAt : SMap Nat
  missAt : Nat
deriving DecidableEq, Repr

/-- The probe engine at reset (R570). -/
def Probe.reset : Probe := ⟨Sat.zero 16, Sat.zero 16, Sat.zero 16, 0, 0, [], [], none, [], 0⟩

/-- The voltage sensor: PWR_TILE_SENSE, the latest conversions, and the conversions since MUX and FILT changed
(R575, R597). -/
structure Sense where
  value : BitVec 11
  valid : Bool
  mux : BitVec 2
  filt : BitVec 3
  bond : Bool
  out : Bool
  hist : List Nat
  sinceMux : Nat
  sinceFilt : Nat
deriving DecidableEq, Repr

/-- The sensor at reset (R597). -/
def Sense.reset : Sense := ⟨0, false, 0, 2, false, false, [], 2, 64⟩

/-- A tile (R20). `pool` is set by the image for a tile of a POOL region (R519). -/
structure Tile where
  imageLoaded : Bool
  pool : Bool
  pad : Pad
  cc : CCore
  seq : Seqr
  da : DArr
  fu : FUnit
  fab : Fabric
  mesh : Mesh
  probe : Probe
  sense : Sense
deriving DecidableEq, Repr

/-- A tile after the first reset. -/
def Tile.reset : Tile :=
  { imageLoaded := false, pool := false, pad := Pad.reset, cc := CCore.reset, seq := Seqr.reset, da := DArr.reset,
    fu := FUnit.reset, fab := Fabric.reset, mesh := Mesh.reset, probe := Probe.reset, sense := Sense.reset }

/-- An error report on its way to the service die (R547): its code, the frame it was raised in, UNIT, the detail words
and the sending lath node. -/
structure Rpt where
  code : BitVec 6
  frame : BitVec 48
  unit : Word
  detail : List Word
  src : Nat
deriving DecidableEq, Repr

/-- What a tile sends out in a step: a report without its frame and sender, a flit at an input of its own router in a
tile cycle, a flit that leaves by an output in a tile cycle, a credit for a source agent (R39), or a tenant violation
(R521). -/
inductive TOut where
  | rpt (code : BitVec 6) (unit : Word) (detail : List Word)
  | flit (port : Nat) (cyc : Nat) (f : Flit)
  | send (port : Nat) (cyc : Nat) (f : Flit)
  | credit (source : Byte) (win : BitVec 5) (lines : BitVec 16)
  | viol (kind : Nat) (claimed owner : BitVec 12)
deriving DecidableEq, Repr

end Sys2Proof.Machine
end

