-- ==== Sys2Proof/Machine/LathState.lean ====
section
/-! DEFINITION. The state of the lath, of commit groups and locks, of error reports, the error log, the signature
records and the history band. Lath nodes are numbered as R223 numbers them. -/

namespace Sys2Proof.Machine

/-! ### The lath (R220-R234, R552) -/

/-- What a lath node holds of its own: its epoch and the counters of MESH_LATH_STAT (R233). -/
structure LNode where
  epoch : BitVec 16
  crc : Sat 16
  stale : Sat 16
deriving DecidableEq, Repr

/-- A node at reset. -/
def LNode.reset : LNode := ⟨0, Sat.zero 16, Sat.zero 16⟩

/-- A message sent on a lath link and not yet acknowledged: the two nodes of the link, the bytes, and how many times
its acknowledgement has timed out (R222). -/
structure LSent where
  sender : Nat
  receiver : Nat
  bytes : List Byte
  fails : Nat
deriving DecidableEq, Repr

/-- What a hub (or for hubs, rim dies and deputies the service die's listeners) knows of a node's heartbeats: whether
it was heard in the current interval and how many intervals in a row were missed (R552). -/
structure Heard where
  now : Bool
  missed : Nat
deriving DecidableEq, Repr

/-- A node of which nothing was missed. -/
def Heard.fresh : Heard := ⟨false, 0⟩

/-- The lath: nodes, the hubs' epoch copies, unacknowledged messages, messages that reached their destination node,
heartbeat counts, promoted hubs, tiles whose reset waits for a heartbeat, and tiles heard again whose neighbours' FENCE waits for a beat boundary (R608). -/
structure Lath where
  nodes : SMap LNode
  copies : SMap (BitVec 16)
  sent : List LSent
  inbox : List (Nat × List Byte)
  heard : SMap Heard
  blocks : SMap Heard
  svcMiss : SMap Nat
  promoted : BitVec 56
  resets : List Nat
  lifts : List Nat
deriving DecidableEq, Repr

/-- The lath at reset. -/
def Lath.reset : Lath :=
  { nodes := [], copies := [], sent := [], inbox := [], heard := [], blocks := [], svcMiss := [], promoted := 0,
    resets := [], lifts := [] }

/-! ### Commit groups (R404-R414) -/

/-- One shadow write of a group: an item of a participant's state. `word` is a word of a node's window; the others are
the changes that the service die and the engines make through a group of their own. -/
inductive CgItem where
  | word (node off : Nat) (v : Word)
  | fence (site : Nat) (full : Bool)
  | unfence (site : Nat)
  | image
  | admitItem (sid : Nat)
  | closing (sid : Nat)
  | pageHome (sid line : Nat) (entry : Word) (old : Word)
  | pageOwn (site line : Nat) (entry : BitVec 16)
  | migrate (sid : Nat) (pages : List (Nat × Word))
  | freq (k : BitVec 8)
  | probeSet
deriving DecidableEq, Repr

/-- A group's reason codes of R409 and vote reasons of R406. -/
inductive CgEnd where
  | none | apply | discard (reason : BitVec 3)
deriving DecidableEq, Repr

/-- A participant's shadow state of one group: its node, the refusal that makes it vote NO (0 none), whether the
PREPARE has reached it, and the decision it holds (R405, R407, R411). -/
structure CgPart where
  node : Nat
  cgid : BitVec 16
  items : List CgItem
  refused : BitVec 8
  prepared : Bool
  frame : BitVec 48
  decision : CgEnd
deriving DecidableEq, Repr

/-- A hub's combined vote of one group (R408). -/
structure HubVote where
  hub : Nat
  cgid : BitVec 16
  yes : BitVec 16
  no : BitVec 8
  noNode : BitVec 16
  voted : List Nat
  sent : Bool
deriving DecidableEq, Repr

/-- A group at the service die (R404, R407-R411). -/
structure CgGroup where
  cgid : BitVec 16
  frame : BitVec 48
  scope : BitVec 8
  blocks : BitVec 56
  listed : List Nat
  ring : Bool
  prepared : Bool
  parts : List Nat
  yes : BitVec 16
  no : BitVec 8
  noNode : BitVec 16
  withdrawn : Bool
  lost : Bool
  decision : CgEnd
deriving DecidableEq, Repr

/-- Commit groups: the service die's open groups and next CGID, the participants' shadow state, the hubs' combined
votes, what applied while a participant was in doubt (R411, R551), and the status record of R414. -/
structure Cg where
  groups : List CgGroup
  next : BitVec 16
  parts : List CgPart
  hubs : List HubVote
  owed : List CgPart
  lastCgid : BitVec 16
  lastReason : BitVec 3
  lastNo : BitVec 3
  lastNode : BitVec 13
  applied : BitVec 32
  discarded : BitVec 16
  indoubt : BitVec 15
  ovf : Bool
deriving DecidableEq, Repr

/-- Commit groups at reset (R414). -/
def Cg.reset : Cg :=
  { groups := [], next := 0, parts := [], hubs := [], owed := [], lastCgid := 0, lastReason := 0, lastNo := 0, lastNode := 0,
    applied := 0, discarded := 0, indoubt := 0, ovf := false }

/-- A hardware lock (R415). -/
structure Lock where
  held : Bool
  abandoned : Bool
  holder : BitVec 16
  aepoch : BitVec 16
  lepoch : BitVec 16
deriving DecidableEq, Repr

/-- A lock at cold reset: free and abandoned (R415, R417). -/
def Lock.reset : Lock := ⟨false, true, 0, 0, 0⟩

/-! ### Error reports and logs (R547, R561-R570) -/

/-- An entry of the error log (R564). -/
structure LogEntry where
  first : Word
  lastDt : BitVec 32
  count : BitVec 16
  code : BitVec 6
  n : Nat
  src : BitVec 16
  unit : Word
  detail : List Word
deriving DecidableEq, Repr

/-- What a log slot holds before any entry: zero bytes. -/
def LogEntry.zero : LogEntry := ⟨0, 0, 0, 0, 0, 0, 0, []⟩

/-- A unit of R563 and R566: its kind as key 6 of R566 numbers it and its address, coded as UNIT. -/
structure UnitId where
  kind : BitVec 4
  addr : Word
deriving DecidableEq, Repr

/-- A history event: the unit, the event code and its OPT (R563). -/
structure HistEvent where
  unit : UnitId
  code : BitVec 6
  opt : BitVec 40
deriving DecidableEq, Repr

/-- A Ralkotrix signature record (R566): the values of keys 2 to 12; key 1 is 1 and key 13 the signature over them. -/
structure SigRecord where
  stackSn : Word
  opt : BitVec 40
  frame : BitVec 48
  code : BitVec 6
  unit : UnitId
  permanent : Bool
  events : Nat
  action : BitVec 4
  imageId : Word
  detail : List Word
deriving DecidableEq, Repr

/-- The fault unit of the service die: FLT_ registers, intake queue, error log, signature ring and the reports on their
way to the service die. -/
structure Flt where
  probeEn : Bool
  probeDiv : BitVec 3
  remapEn : Bool
  warmEn : Bool
  warm : Sat 16
  lastCause : BitVec 6
  deputy : Bool
  fatal : Bool
  recovMs : BitVec 16
  wr : BitVec 16
  rd : BitVec 16
  lost : Sat 16
  inOvf : Sat 16
  sieCnt : BitVec 32
  sieOpt : BitVec 32
  sieTime : Option Word
  setPending : Bool
  confirmed : BitVec 16
  opt : BitVec 40
  sigWr : BitVec 8
  sigRd : BitVec 8
  sigLost : BitVec 16
  flight : List Rpt
  intake : List Rpt
  log : SMap LogEntry
  sig : SMap (Option SigRecord)
  newSet : Option (BitVec 32 × List Word)
  alertN : Bool
deriving DecidableEq, Repr

/-- The fault unit at reset (R570). -/
def Flt.reset : Flt :=
  { probeEn := true, probeDiv := 2, remapEn := true, warmEn := true, warm := Sat.zero 16, lastCause := 0,
    deputy := false, fatal := false, recovMs := 0, wr := 0, rd := 0, lost := Sat.zero 16, inOvf := Sat.zero 16,
    sieCnt := 0, sieOpt := 0, sieTime := none, setPending := false, confirmed := 0, opt := 0, sigWr := 0,
    sigRd := 0, sigLost := 0, flight := [], intake := [], log := [], sig := [], newSet := none, alertN := false }

end Sys2Proof.Machine
end

