-- ==== Sys2Proof/Machine/ImageState.lean ====
section
/-! DEFINITION. The Flehoine image as records, the image load, the trowel's placement, model residency with its library,
and calibration. -/

namespace Sys2Proof.Machine

/-! ### The image (R235-R261) -/

/-- The header fields that checks and registers use (R236). -/
structure ImgHeader where
  magic : Nat
  major : Nat
  id : Word
  ver : BitVec 32
  secVer : Nat
  devId : Nat
  minStep : Nat
  totalLen : Nat
  nsect : Nat
  keyId : Nat
  flags : Nat
  spanId : Word
  spanSize : Nat
  spanPos : Nat
deriving DecidableEq, Repr

/-- A directory entry (R237). -/
structure ImgSect where
  typ : Nat
  flags : Nat
  count : Nat
  off : Nat
  len : Nat
  crc : Nat
  rest : Nat
deriving DecidableEq, Repr

/-- A layer group of a model: first slice, number of slices, HANDOVER_BEATS (R240). -/
structure ImgGroup where
  first : Nat
  n : Nat
  beats : Nat
deriving DecidableEq, Repr

/-- A MODEL record (R240). -/
structure ImgModel where
  m : Nat
  nslice : Nat
  ver : BitVec 32
  id : Word
  assignHash : Word
  groups : List ImgGroup
deriving DecidableEq, Repr

/-- A variant of a region (R242). -/
structure ImgVariant where
  lw : Nat
  lh : Nat
  lanes : Nat
  s : Nat
  chunk : Nat
  split : Nat
  tileFirst : Nat
deriving DecidableEq, Repr

/-- A REGION record (R241): ROLE 0 ENTRY, 1 LAYER, 2 POOL, 3 SAMPLE, 4 BULK, 5 GATEWAY. -/
structure ImgRegion where
  id : Nat
  role : Nat
  model : Nat
  pipe : Nat
  pos : Nat
  b : Nat
  p : Nat
  anchor : Nat
  aslots : Nat
  firstSlice : Nat
  atLoad : Bool
  vars : List ImgVariant
deriving DecidableEq, Repr

/-- A PROFILE record with its variant selection (R244). -/
structure ImgProfile where
  prof : Nat
  nreg : Nat
  fixedTiles : Nat
  allTiles : Nat
  sel : List Nat
deriving DecidableEq, Repr

/-- A TILE record (R246); an index of 0xFFFF_FFFF means none. -/
structure ImgTile where
  region : Nat
  variant : Nat
  lx : Nat
  ly : Nat
  code : Nat
  seq0 : Nat
  seq1 : Nat
  slot0 : Nat
  slot1 : Nat
  win : Nat
  names : Nat
  altFirst : Nat
  nalt : Nat
deriving DecidableEq, Repr

/-- A blob-table entry, its offset counted from the start of the image (R247). -/
structure ImgBlob where
  kind : Nat
  len : Nat
  off : Nat
deriving DecidableEq, Repr

/-- A MACRO entry (R253): the tier and the logical macro i of LMAC are separate. -/
structure ImgMacro where
  logical : Nat
  region : Nat
  lx : Nat
  ly : Nat
  tier : Nat
  lmac : Nat
  m : Nat
  fmt : BitVec 2
  pair : Byte
  slice : Nat
  maxsum : Word
deriving DecidableEq, Repr

/-- A SKIM record (R256). -/
structure ImgSkim where
  proj : Nat
  region : Nat
  leadX : Nat
  leadY : Nat
  rank : Nat
  adapterCap : Bool
  aBase : Nat
  gaBase : Nat
  bBase : Nat
  gbBase : Nat
  k : Nat
  npanel : Nat
  adpA : Nat
  adpB : Nat
deriving DecidableEq, Repr

/-- A row of a power plan: FRAME_W and the 48 zone loads in 0.1 W (R257). -/
structure PlanRow where
  frameW : Nat
  zones : List Nat
deriving DecidableEq, Repr

/-- A power plan (R257). -/
structure PowerPlan where
  limitW : Nat
  resW : Nat
  rows : List PlanRow
deriving DecidableEq, Repr

/-- A RIM entry (R259). -/
structure ImgRim where
  rim : Nat
  port : Nat
  cyc : Nat
  region : Nat
  lx : Nat
  ly : Nat
deriving DecidableEq, Repr

/-- An ALT entry (R249). -/
structure ImgAlt where
  tileRec : Nat
  stackA : Nat
  stackB : Nat
  memberA : Nat
  memberB : Nat
  seq : Nat
  slot : Nat
deriving DecidableEq, Repr

/-- An image, parsed. -/
structure Image where
  hdr : ImgHeader
  sects : List ImgSect
  models : List ImgModel
  regions : List ImgRegion
  profiles : List ImgProfile
  tiles : List ImgTile
  blobs : List ImgBlob
  macros : List ImgMacro
  skims : List ImgSkim
  plans : List PowerPlan
  rims : List ImgRim
  span : Option (Nat × Nat)
  alts : List ImgAlt
deriving DecidableEq, Repr

/-! ### Placement (R327-R348) -/

/-- A shifted row: the logical row, the first logical tile east of the fence, and whether the fence came in service
(R348). -/
structure Shift where
  ly : Nat
  lx : Nat
  inService : Bool
deriving DecidableEq, Repr

/-- A placed region: its index in the REGION section, the variant, its south-west corner, its shifted rows, and its state
1 placed, 2 reserved empty, 3 re-homing (R348). -/
structure PlacedReg where
  reg : Nat
  variant : Nat
  x0 : Nat
  y0 : Nat
  shifts : List Shift
  st : Nat
deriving DecidableEq, Repr

/-- A placed course: its pipeline, origin, size and regions, and whether it is marked for rotation (R332, R343). -/
structure Course where
  pipe : Nat
  x0 : Nat
  y0 : Nat
  w : Nat
  h : Nat
  regs : List PlacedReg
  rotate : Bool
deriving DecidableEq, Repr

/-- The trowel: PLC_ registers and the placement of the active image; `pages` holds the homes of pages in pool arenas
(key: site · 4,096 + arena line / 8) as the stream that owns them. -/
structure Plc where
  rehomeEn : Bool
  wearRotEn : Bool
  rotThresh : BitVec 16
  busy : Bool
  lastOp : BitVec 3
  lastRes : BitVec 4
  rehome : Sat 16
  fail : Sat 16
  lastSite : BitVec 13
  lastRegion : BitVec 16
  lastHold : BitVec 16
  lastResult : BitVec 4
  lastValid : Bool
  spill : Sat 16
  gen : BitVec 16
  courses : List Course
  fencedSvc : List Nat
  deadPorts : List Nat
deriving DecidableEq, Repr

/-- The trowel at reset (R345-R347). -/
def Plc.reset : Plc :=
  { rehomeEn := true, wearRotEn := true, rotThresh := 2000, busy := false, lastOp := 0, lastRes := 0,
    rehome := Sat.zero 16, fail := Sat.zero 16, lastSite := 0, lastRegion := 0, lastHold := 0, lastResult := 0,
    lastValid := false, spill := Sat.zero 16, gen := 0, courses := [], fencedSvc := [], deadPorts := [] }

/-! ### Image load (R265-R273) -/

/-- The image load: its session, the runs of bytes received as (first, end), the flash slot to write, the length of the active copy, the parsed images, the request's mode and limit, the
placement staged for the commit, the member selection and the status record of R273. -/
structure Load where
  st : BitVec 4
  total : Nat
  parts : List (Nat × Nat)
  activeLen : Nat
  stagedImg : Option Image
  img : Option Image
  abort : Bool
  flash : Nat
  drainLimit : Nat
  stagedProf : Nat
  stagedPlace : List Course
  cgid : Option (BitVec 16)
  applyAt : Option (BitVec 48)
  members : SMap Nat
  activeId : Word
  activeVer : BitVec 32
  activeProf : BitVec 4
  lastResult : Byte
  lastSect : Byte
  lastDetail : BitVec 32
  applyFrame : BitVec 48
  copyBad : Bool
  sess : Option Nat
deriving DecidableEq, Repr

/-- The image load at reset (R273). -/
def Load.reset : Load :=
  { st := 0, total := 0, parts := [], activeLen := 0, stagedImg := none, img := none, abort := false, flash := 0,
    drainLimit := 0, stagedProf := 0, stagedPlace := [], cgid := none, applyAt := none, members := [],
    activeId := 0, activeVer := 0, activeProf := 0, lastResult := 0, lastSect := 0xFF, lastDetail := 0,
    applyFrame := 0, copyBad := false, sess := none }

/-! ### Residency (R157-R173) -/

/-- STATE of a model (R169). -/
inductive ResState where
  | free | library | loading | resident | swapping | degraded
deriving DecidableEq, Repr

/-- A macro of a slice: its site, the tier and the physical macro that holds it, the logical macro of the macro map, and
the image's LOGICAL_MACRO (R158, R253). -/
structure SliceMacro where
  site : Nat
  tier : Nat
  phys : Nat
  lmac : Nat
  logical : Nat
deriving DecidableEq, Repr

/-- A layer slice on this module: its number, its macros and store macros, the (site, line) pairs that its stores hold in
order, its retention age A in units of 2^-20 second at 85 degrees, and whether it is resident, is being built or has a
refresh due (R154, R161). -/
structure Slice where
  id : Nat
  macros : List SliceMacro
  stores : List SliceMacro
  lines : List (Nat × Nat)
  age : Nat
  resident : Bool
  due : Bool
deriving DecidableEq, Repr

/-- An entry of the model residency table with its library copies: the manifest, the length of the shard, and for each copy
the LIBRARY extents, die × 65,536 + extent, that hold the shard in order (R157-R169, R457). `assign` is the ASSIGN_HASH that its slices were placed
under, and `req` the session and OP of a residency request in progress (R269, R487). -/
structure Resid where
  id : Word
  ver : BitVec 32
  assign : Word
  st : ResState
  pin : Bool
  blocked : Bool
  lastErr : BitVec 4
  lastUse : BitVec 48
  slices : List Slice
  manifest : List Byte
  shardLen : Nat
  lib : List (List Nat)
  req : Option (Nat × Nat)
deriving DecidableEq, Repr

/-- A FREE entry. -/
def Resid.free : Resid :=
  { id := 0, ver := 0, assign := 0, st := .free, pin := false, blocked := false, lastErr := 0, lastUse := 0, slices := [],
    manifest := [], shardLen := 0, lib := [], req := none }

/-- A delivery in progress over KLP: its session, PIN, the span it is to be distributed to, the declared lengths and the
bytes received (R487, R510). -/
structure Delivery where
  sess : Nat
  pin : Bool
  span : Option Nat
  manLen : Nat
  shardLen : Nat
  manifest : SMap Byte
  shard : SMap Byte
  got : Nat
deriving DecidableEq, Repr

/-! ### Calibration (R175-R195) -/

/-- A trim: its values of the five sets, its target and its applied value (R176). -/
structure TrimVal where
  sets : List Int
  target : Int
  applied : Int
deriving DecidableEq, Repr

/-- The CAL_ registers, the trims that differ from manufacture (keyed by `trimKey`), the trim steps that wait for a trim
gap, and the run in progress: its command word, its first frame, the converters measured, the new values that passed and
are not yet stored, the macros that failed or whose converters or references are done, and the skipped kinds. -/
structure Cal where
  what : BitVec 2
  set : BitVec 3
  scope : BitVec 2
  model : Byte
  site : BitVec 13
  macroIx : BitVec 13
  hold : Bool
  busy : Bool
  last : BitVec 3
  defer : Sat 16
  pass : BitVec 32
  fail : BitVec 16
  skip : BitVec 16
  failAddr : BitVec 44
  failGroup : BitVec 3
  failReason : BitVec 4
  failValid : Bool
  marAddr : BitVec 44
  marMin : BitVec 6
  marValid : Bool
  temps : SMap Int
  tempValid : Bool
  trims : SMap TrimVal
  pend : List Nat
  run : Option Word
  since : Nat
  conv : List Nat
  vals : List (Nat × Int)
  bad : List Nat
  convDone : List Nat
  refDone : List Nat
  skips : List Nat
  startTemps : SMap Int
deriving DecidableEq, Repr

/-- Calibration at reset (R191-R195). -/
def Cal.reset : Cal :=
  { what := 0, set := 0, scope := 0, model := 0, site := 0, macroIx := 0, hold := false, busy := false, last := 0,
    defer := Sat.zero 16, pass := 0, fail := 0, skip := 0, failAddr := 0, failGroup := 0, failReason := 0,
    failValid := false, marAddr := 0, marMin := 0, marValid := false, temps := [], tempValid := false, trims := [],
    pend := [], run := none, since := 0, conv := [], vals := [], bad := [], convDone := [], refDone := [], skips := [],
    startTemps := [] }

end Sys2Proof.Machine
end

