-- ==== Sys2Proof/Machine/EngineState.lean ====
section
/-! DEFINITION. The state of the sixteen request engines, of the adapter slots, and of the sixteen memory dies. -/

namespace Sys2Proof.Machine

/-! ### Tasks and streams (R349-R376, R418-R433) -/

/-- STATE of a task (R350). -/
inductive TaskSt where
  | pending | ready | active | done | cancelled | failed
deriving DecidableEq, Repr

/-- A task record in the task store: its slot, the request it came with, the queue, queue entry, session (0 for none, else
one more) and tenant it came through, the fields of R350, the stream it belongs to once that is known, whether its home
engine has its notice, and the tokens or steps dispatched and committed so far. -/
structure Task where
  slot : Nat
  req : Nat
  queue : Nat
  entry : Nat
  session : Nat
  tenant : BitVec 12
  kind : Nat
  st : TaskSt
  result : BitVec 8
  flags : Byte
  idx : Nat
  succ : List Nat
  sid : Nat
  dep : Nat
  wait : Nat
  par : List Byte
  stream : Option Nat
  noticed : Bool
  sent : Nat
  done : Nat
deriving DecidableEq, Repr

/-- A step result of R418. -/
structure StepRes where
  sid : Nat
  lane : Nat
  status : BitVec 2
  last : Bool
  prefill : Bool
  token : BitVec 18
  pos : Nat
  ntok : Nat
  logp : Lane32
deriving DecidableEq, Repr

/-- A dispatched lane step whose commit boundary has not passed: the task's slot, the frame of its entry beat, the lane's
tempo, the boundary at which the lane enters the SAMPLE region, the commit boundary E, the lane record's fields, the sampling
parameter copy that was delivered for it, the step result once it has come, and whether it is a REPLAY chunk (R366, R420,
R439). -/
structure Flight where
  task : Nat
  entry : Nat
  n : Nat
  sample : Nat
  e : Nat
  lane : Nat
  pos : Nat
  ntok : Nat
  last : Bool
  replay : Bool
  params : List Word
  res : Option StepRes
deriving DecidableEq, Repr

/-- A ring record (R426, R427): its TYPE, sequence number, N, CIDX and the body bytes before sealing. -/
structure RingRec where
  typ : Byte
  seq : BitVec 32
  n : Byte
  cidx : BitVec 32
  body : List Byte
deriving DecidableEq, Repr

/-- STATE of a context (R357). -/
inductive CtxSt where
  | free | admitting | openSt | prefill | decode | waitSt | closing
deriving DecidableEq, Repr

/-- A stream context (R357, R425) with the engine's own record of the stream: its ring nonce, positions committed by
PREFILL, region-beats held, admission frame, pending and written records, the pending TOKENS batch, dispatched steps,
the cancellation or lost ring that waits for its boundary, the start tile of R339, the waits of R358 for an adapter and for a model, and
whether its final record is enqueued, its closing commit open and applied. -/
structure Ctx where
  tenant : BitVec 12
  st : CtxSt
  tier : Bool
  tempo : BitVec 2
  pipe : Byte
  m : Byte
  aslot : Byte
  aen : Bool
  replayOk : Bool
  fin : BitVec 4
  len : BitVec 21
  maxCtx : BitVec 21
  lastToken : BitVec 18
  gend : BitVec 21
  maxNew : BitVec 21
  gen : BitVec 16
  paramPtr : BitVec 48
  seq : BitVec 32
  head : BitVec 32
  raddr : Word
  session : BitVec 16
  log2n : BitVec 5
  flags : BitVec 3
  batchFr : BitVec 13
  nonce : BitVec 32
  prompt : Nat
  laneBeats : Nat
  admitFrame : Nat
  recs : List RingRec
  written : List RingRec
  batch : List (BitVec 18 × BitVec 32)
  batchAt : Nat
  flights : List Flight
  cancelAt : Option Nat
  start : Nat
  adapter : BitVec 32
  waitA : Bool
  waitM : Bool
  lostAt : Option Nat
  final : Bool
  closing : Bool
  closed : Bool
deriving DecidableEq, Repr

/-- A context at cold reset (R357). -/
def Ctx.free : Ctx :=
  { tenant := 0, st := .free, tier := false, tempo := 0, pipe := 0, m := 0, aslot := 0, aen := false,
    replayOk := false, fin := 0, len := 0, maxCtx := 0, lastToken := 0, gend := 0, maxNew := 0, gen := 0,
    paramPtr := 0, seq := 0, head := 0, raddr := 0, session := 0, log2n := 0, flags := 0, batchFr := 0, nonce := 0,
    prompt := 0, laneBeats := 0, admitFrame := 0, recs := [], written := [], batch := [], batchAt := 0,
    flights := [], cancelAt := none, start := 0, adapter := 0, waitA := false, waitM := false, lostAt := none, final := false,
    closing := false, closed := false }

/-- The registers of submission queue q (R375), and for each entry one more than the session that submitted it (R487). -/
structure Sq where
  base : BitVec 48
  en : Bool
  log2size : BitVec 4
  tenant : BitVec 12
  head : BitVec 16
  tail : BitVec 16
  sess : SMap Nat
deriving DecidableEq, Repr

/-- A submission queue at reset. -/
def Sq.reset : Sq := ⟨0, false, 0, 0, 0, 0, []⟩

/-- A task in a pipeline's ready queues: its stream, engine task slot, whether it goes in pf, the frame from which it
is eligible, the decision frame from which it was first eligible, the frame from which a cancel notice has removed it, and WAIT (R366, R371). -/
structure QTask where
  sid : Nat
  slot : Nat
  pf : Bool
  from_ : Nat
  first : Option Nat
  gone : Option Nat
  wait : Nat
deriving DecidableEq, Repr

/-- The registers of pipeline q in its home engine (R376), its ready queues, for each draining lane the beat at
which it takes entries again and for each lane the beat at which its last entry has left the chain (R363), and the bulk passes
that are not empty by first beat (R462). -/
structure Pipe where
  preempt : BitVec 12
  en : Bool
  tmap0 : Word
  tmap1 : Word
  limw : BitVec 60
  limd : BitVec 60
  cap : BitVec 60
  adm : List Nat
  entries : BitVec 32
  preempts : Sat 16
  queue : List QTask
  drain : SMap Nat
  lastEntry : SMap Nat
  passFilled : SMap Bool
deriving DecidableEq, Repr

/-- A pipeline at reset (R376). -/
def Pipe.reset : Pipe :=
  { preempt := 16, en := false, tmap0 := 0, tmap1 := 0, limw := 0, limd := 0, cap := 0, adm := [0, 0, 0, 0],
    entries := 0, preempts := Sat.zero 16, queue := [], drain := [], lastEntry := [], passFilled := [] }

/-- A notice on its way to a pipeline's home engine (R360): a task that became READY, or was cancelled. -/
structure Notice where
  pipe : Nat
  sid : Nat
  slot : Nat
  pf : Bool
  cancel : Bool
deriving DecidableEq, Repr

/-- A request engine: its registers, queues, pipelines, contexts and task store. `stopped` is set by its die's deputy
(R554). -/
structure Engine where
  admitEn : Bool
  errCode : Byte
  errSid : BitVec 14
  errValid : Bool
  failed : Sat 16
  cancels : Sat 16
  sq : SMap Sq
  rr : Nat
  pipes : SMap Pipe
  ctx : SMap Ctx
  tasks : List Task
  nextReq : Nat
  stopped : Bool
  notices : List Notice
deriving DecidableEq, Repr

/-- A request engine at cold reset (R374). -/
def Engine.reset : Engine :=
  { admitEn := true, errCode := 0, errSid := 0, errValid := false, failed := Sat.zero 16, cancels := Sat.zero 16,
    sq := [], rr := 0, pipes := [], ctx := [], tasks := [], nextReq := 0, stopped := false, notices := [] }

/-! ### Adapter slots and page geometry (R133-R136, R381) -/

/-- An adapter slot: STATE 0 FREE, 1 LOADING, 2 READY (R133), with its DRAM copy (R134): the (site, line) pairs that it
covers in order, and the DRAM address of the first. `task` is the engine and slot of the load in progress. -/
structure Adapter where
  id : BitVec 32
  tenant : BitVec 12
  st : BitVec 2
  rank : BitVec 3
  bind : BitVec 15
  lastUse : BitVec 48
  copy : List (Nat × Nat)
  copyAt : Option Nat
  task : Option (Nat × Nat)
deriving DecidableEq, Repr

/-- A FREE slot. -/
def Adapter.free : Adapter := ⟨0, 0, 0, 0, 0, 0, [], none, none⟩

/-- The reset value of a page geometry entry: MAX_PSZ_W and MAX_PSZ_D 8, STEP 4 (R381). -/
def geomReset : Word := 0x4880

/-! ### Memory dies (R447-R471) -/

/-- A run of granules of a CACHE extent given to one page or adapter copy: extent, first granule, count, tenant
(R457, R519). -/
structure Grant where
  ext : Nat
  first : Nat
  n : Nat
  tenant : BitVec 12
deriving DecidableEq, Repr

/-- A memory die. `ext` lists the extents whose entry differs from its reset value; `bad` counts the uncorrectable
words found in an extent and `known` the damaged words already counted (R456). `svcHeard` is the frame in which the service die was last
heard (R554). -/
structure MemDie where
  scrubEn : Bool
  scrubHrs : Byte
  bulkBw : BitVec 9
  trained : Byte
  cleared : Bool
  ce : Sat 16
  ue : Sat 16
  eccAddr : BitVec 43
  eccType : Bool
  eccValid : Bool
  tag : Sat 16
  tagM : Byte
  libMax : BitVec 16
  cacheMax : BitVec 16
  hostMax : BitVec 16
  ext : SMap (BitVec 32)
  bad : SMap Nat
  known : List Nat
  grants : List Grant
  bulkPipe : Byte
  bulkValid : Bool
  bulkErr : BitVec 2
  nch : BitVec 32
  bulkM : Byte
  passEmpty : Bool
  deputyActed : Bool
  svcHeard : Nat
deriving DecidableEq, Repr

/-- A memory die at cold reset (R469-R471). -/
def MemDie.reset : MemDie :=
  { scrubEn := true, scrubHrs := 24, bulkBw := 240, trained := 0, cleared := false, ce := Sat.zero 16,
    ue := Sat.zero 16, eccAddr := 0, eccType := false, eccValid := false, tag := Sat.zero 16, tagM := 0,
    libMax := 32768, cacheMax := 24576, hostMax := 7600, ext := [], bad := [], known := [], grants := [],
    bulkPipe := 0, bulkValid := false, bulkErr := 0, nch := 0, bulkM := 0, passEmpty := true,
    deputyActed := false, svcHeard := 0 }

end Sys2Proof.Machine
end

