-- ==== Sys2Proof/Machine/LinkState.lean ====
section
/-! DEFINITION. The state of the sixteen link dies and of the pod functions of the service die. -/

namespace Sys2Proof.Machine

/-- A packet sent and not yet acknowledged: its PSN, OP, ARG, payload and ECE bit (R479, R484). -/
structure KPkt where
  psn : BitVec 32
  op : Byte
  arg : Word
  payload : List Byte
  ece : Bool
deriving DecidableEq, Repr

/-- One channel of a session: next PSN to send, next PSN expected, the peer's CREDIT, the packets not yet acknowledged, oldest
first (R484), whether the next packet sent carries ECE (R479), and whether unacknowledged packets are sent again with RETX. -/
structure KChan where
  nextPsn : BitVec 32
  expect : BitVec 32
  credit : BitVec 32
  unacked : List KPkt
  echoCe : Bool
  retx : Bool
deriving DecidableEq, Repr

/-- A channel when its session opens. -/
def KChan.reset : KChan := ⟨0, 0, 0, [], false, false⟩

/-- A KLP session (R482): KIND 0 HOST, 1 OPERATOR, 2 SPAN, 3 POD. `rate` is the send rate in thousandths of the
sub-port rate (R479); `silent` counts heartbeat intervals without a packet (R486); `prov` marks a provisional POD
session and `upper` a session of the upper pod; `keyId` is the key its OPEN was signed with, and `mac` to `ip6l` are the peer's
addresses (R476). `span` of a SPAN session is one more than the peer's position, 0 where that is not known. -/
structure Session where
  mac : BitVec 48
  ip4 : BitVec 32
  ip6h : Word
  ip6l : Word
  agent : BitVec 16
  aepoch : BitVec 16
  tenant : BitVec 12
  kind : BitVec 2
  sub : Nat
  alt : Nat
  window : BitVec 16
  rto : Byte
  regBase : Word
  regLen : Word
  keyId : BitVec 16
  key : BitVec 256
  data : KChan
  ctrl : KChan
  rate : Nat
  silent : Nat
  prov : Bool
  upper : Bool
  span : Nat
deriving DecidableEq, Repr

/-- A port (R500) with the remaining step of a mode change. -/
structure Port where
  mode : BitVec 2
  en : Bool
  anEn : Bool
  pfcEn : Bool
  ecnEn : Bool
  up : Byte
  los : Byte
  modeSt : Bool
  modeAct : BitVec 2
  corr : BitVec 32
  uncorr : Sat 16
  paused : Byte
  pausing : Bool
deriving DecidableEq, Repr

/-- A port at cold reset under PORT_MODE `m` (R500). -/
def Port.reset (m : BitVec 2) : Port :=
  { mode := m, en := true, anEn := true, pfcEn := false, ecnEn := false, up := 0, los := 0, modeSt := false,
    modeAct := m, corr := 0, uncorr := Sat.zero 16, paused := 0, pausing := false }

/-- The addresses of a sub-port (R500); its MAC address is that of the one-time store until it is written. -/
structure Sub where
  mac : Option (BitVec 48)
  ip4 : BitVec 32
  ip6h : Word
  ip6l : Word
deriving DecidableEq, Repr

/-- A sub-port without addresses. -/
def Sub.none : Sub := ⟨Option.none, 0, 0, 0⟩

/-- A line that a gateway tile gave a link die, waiting to be packed (R492), with the frame it was received in. -/
structure GateLine where
  route : Word
  line : BitVec 16
  words : List RWord
  frame : Nat
deriving DecidableEq, Repr

/-- A link die (R499, R500). -/
structure LinkDie where
  udpPort : BitVec 16
  hbUs : Byte
  rtoUs : Byte
  dataPcp : BitVec 3
  dataDscp : BitVec 6
  vid : BitVec 12
  stale : Sat 16
  auth : Sat 16
  retx : Sat 16
  timeout : Sat 16
  other : Sat 16
  ptpEn : Bool
  ptpGm : Bool
  ptpSub : BitVec 5
  ptpTwoStep : Bool
  ptpP2p : Bool
  ptpOffset : BitVec 32
  ptpLocked : Bool
  late : Sat 16
  nocred : Sat 16
  ports : SMap Port
  subs : SMap Sub
  sess : SMap (Option Session)
  gate : List GateLine
  route : Word
  silent : Bool
deriving DecidableEq, Repr

/-- A link die at cold reset (R499). -/
def LinkDie.reset : LinkDie :=
  { udpPort := 47081, hbUs := 100, rtoUs := 20, dataPcp := 3, dataDscp := 26, vid := 0, stale := Sat.zero 16,
    auth := Sat.zero 16, retx := Sat.zero 16, timeout := Sat.zero 16, other := Sat.zero 16, ptpEn := false,
    ptpGm := false, ptpSub := 0, ptpTwoStep := true, ptpP2p := false, ptpOffset := 0, ptpLocked := false,
    late := Sat.zero 16, nocred := Sat.zero 16, ports := [], subs := [], sess := [], gate := [], route := 0,
    silent := false }

/-! ### Pods (R501-R516) -/

/-- A member-table entry (R516) with the hawk's FENCED mark (R505) and the session it opened. -/
structure Member where
  mac : BitVec 48
  valid : Bool
  standby : Bool
  live : Bool
  ip4 : BitVec 32
  ip6h : Word
  ip6l : Word
  fenced : Bool
  session : Option Nat
deriving DecidableEq, Repr

/-- An empty entry. -/
def Member.none : Member := ⟨0, false, false, false, 0, 0, 0, false, Option.none⟩

/-- A span as SPAN_SET gives it (R509). -/
structure Span where
  id : Word
  pos : Nat
  size : Nat
  slots : List Byte
  down : Bool
deriving DecidableEq, Repr

/-- A distribution of a weight package to a span (R510): the session of host software, the sessions to members whose
completion is awaited, the positions still to be served, and the ARG of the completion to report: the first member's failure, else the
latest success. -/
structure Dist where
  host : Nat
  wait : List Nat
  todo : List Nat
  arg : Word
deriving DecidableEq, Repr

/-- The pod functions: the pod record, the tables, the spans, pending epochs of the pod and of the upper pod with their apply
frames, the standby's synced copy, the session to the hawk and whether it timed out, the module (by MAC address) whose TAKEOVER was
last accepted, pod time T at frame `baseFrame` (R591), and whether the frame counter is to be aligned (R503). `epochMade` marks an
epoch change in the current heartbeat interval and `epochOwed` one that waits for the next; `distress` keeps the latest report from
each session's memory die, and `probe` the bytes of a probe set received so far. STATE is 0 ALONE, 1 JOINING, 2 MEMBER, 3 HAWK,
4 ORPHAN, 5 FENCED. -/
structure Pod where
  st : BitVec 3
  epoch : BitVec 16
  upper : Bool
  fences : Sat 16
  takeovers : Sat 16
  uepoch : BitVec 16
  uslot : BitVec 7
  table : SMap Member
  utable : SMap Member
  spans : SMap (Option Span)
  pendEpoch : Option (BitVec 16 × Nat)
  pendUpper : Option (BitVec 16 × Nat)
  synced : Option (BitVec 16 × SMap Member × SMap (Option Span))
  hawkSess : Option Nat
  takeFrom : Option Nat
  frameBase : Word
  baseFrame : Nat
  align : Bool
  epochMade : Bool
  epochOwed : Bool
  upperMade : Bool
  upperOwed : Bool
  slot : BitVec 7
  hawkLost : Bool
  distress : SMap (List Byte)
  probe : SMap Byte
  probeGot : Nat
  dist : Option Dist
deriving DecidableEq, Repr

/-- The pod functions of a standalone module at cold reset (R501, R516). -/
def Pod.reset : Pod :=
  { st := 0, epoch := 0, upper := false, fences := Sat.zero 16, takeovers := Sat.zero 16, uepoch := 0, uslot := 0,
    table := [], utable := [], spans := [], pendEpoch := none, pendUpper := none, synced := none, hawkSess := none, takeFrom := none,
    frameBase := 0, baseFrame := 0, align := false, epochMade := false, epochOwed := false, upperMade := false, upperOwed := false,
    slot := 0, hawkLost := false, distress := [], probe := [], probeGot := 0, dist := none }

end Sys2Proof.Machine
end

