-- ==== Sys2Proof/Machine/ServiceState.lean ====
section
/-! DEFINITION. The state of the service die's security, power, clock, reset, freeze and board functions. -/

namespace Sys2Proof.Machine

/-! ### Security (R517-R544) -/

/-- An owner key slot: the 49 key bytes, USE and FLAGS (R524). -/
structure OwnerKey where
  key : BitVec 392
  use : Byte
  dev : Bool
  revoked : Bool
  written : Bool
deriving DecidableEq, Repr

/-- An unwritten slot. -/
def OwnerKey.none : OwnerKey := ⟨0, 0, false, false, false⟩

/-- SEC_ registers, fuses, owner slots and the secret table. LC is 0 FACTORY, 1 OPEN, 2 PRODUCTION, 3 RETIRED. -/
structure Sec where
  lc : BitVec 2
  lcPend : Bool
  lcNext : BitVec 2
  ownLock : Bool
  op : BitVec 3
  result : BitVec 4
  slot : BitVec 3
  chal : Word
  rbMin : Byte
  rbNew : Byte
  inbox : SMap Word
  owners : SMap OwnerKey
  seals : SMap (Option (BitVec 256))
  weights : SMap (Option (BitVec 256))
  req : BitVec 2
  level : BitVec 2
  tokenMax : BitVec 2
  viol : Sat 16
  vKind : BitVec 4
  vClaimed : BitVec 12
  vOwner : BitVec 12
  vNode : BitVec 13
  vValid : Bool
deriving DecidableEq, Repr

/-- Security at the first cold reset of a module shipped in OPEN (the life cycle is the model's choice). -/
def Sec.reset : Sec :=
  { lc := 1, lcPend := false, lcNext := 0, ownLock := false, op := 0, result := 0, slot := 0, chal := 0, rbMin := 0,
    rbNew := 0, inbox := [], owners := [], seals := [], weights := [], req := 0, level := 0, tokenMax := 0,
    viol := Sat.zero 16, vKind := 0, vClaimed := 0, vOwner := 0, vNode := 0, vValid := false }

/-! ### Power (R571-R597) -/

/-- A VLOG zone: PWR_ZONEz_SET, _MIN and _MINT (R597). -/
structure Zone where
  setpt : BitVec 10
  limited : Bool
  bond : Bool
  bondSite : BitVec 13
  min : BitVec 10
  minSite : BitVec 13
  minValid : Bool
  minTime : Word
deriving DecidableEq, Repr

/-- A zone at reset: 720 mV (R597). -/
def Zone.reset : Zone := ⟨720, false, false, 0, 0, 0, false, 0⟩

/-- PWR_ registers, the supply and the governor. PSTATE_ACT 4 is P4; `hist` is the input power of the latest 64 frames,
newest first, `foldback` while a folded-back regulator waits for its retry, `overTemp` the calibration blocks last read above 95 °C
and `tempAlert` the alert of R629. Energies in mJ and the store voltage in 10 mV. -/
structure Pwr where
  pstate : BitVec 3
  capW : BitVec 15
  act : BitVec 3
  feedA : Bool
  feedB : Bool
  pwrOk : Bool
  pstateErr : Bool
  va : BitVec 16
  vb : BitVec 16
  pin : BitVec 16
  pinPeak : BitVec 16
  fDomain : BitVec 4
  fUnit : BitVec 6
  retries : BitVec 2
  latched : Bool
  fKind : Bool
  ev : BitVec 16
  eq : BitVec 16
  vstore : BitVec 16
  recal : Bool
  gaugeBad : Bool
  qOff : Bool
  down : Sat 16
  overFr : Sat 16
  hist : List Nat
  sinceStep : Nat
  belowFr : Nat
  zones : SMap Zone
  foldback : Bool
  overTemp : List Nat
  tempAlert : Bool
  hot : Bool
  lastGasp : Bool
  journal : Bool
deriving DecidableEq, Repr

/-- The supply with both feeds present and the store full (R597; the gauge's values are the model's choice). -/
def Pwr.reset : Pwr :=
  { pstate := 0, capW := 30000, act := 0, feedA := true, feedB := true, pwrOk := true, pstateErr := false, va := 0,
    vb := 0, pin := 0, pinPeak := 0, fDomain := 0, fUnit := 0, retries := 0, latched := false, fKind := false,
    ev := 12042, eq := 12042, vstore := 5600, recal := false, gaugeBad := false, qOff := false, down := Sat.zero 16,
    overFr := Sat.zero 16, hist := [], sinceStep := 128, belowFr := 0, zones := [], foldback := false,
    overTemp := [], tempAlert := false, hot := false, lastGasp := false,
    journal := false }

/-! ### Clocks (R588-R598) -/

/-- CLK_ registers, poisoned ports after a slip and the pod loop's run lengths. -/
structure Clk where
  kreq : BitVec 4
  k : BitVec 4
  podLock : Bool
  offGrid : Bool
  err : BitVec 32
  adj : BitVec 16
  inRun : Nat
  outRun : Nat
  slip : Sat 16
  slipSite : BitVec 13
  slipPort : BitVec 3
  slipValid : Bool
  slipPorts : SMap Nat
  slipTimes : SMap Nat
deriving DecidableEq, Repr

/-- Clocks at reset (R598). -/
def Clk.reset : Clk :=
  { kreq := 0, k := 0, podLock := false, offGrid := false, err := 0, adj := 0, inRun := 0,
    outRun := 0, slip := Sat.zero 16, slipSite := 0, slipPort := 0, slipValid := false, slipPorts := [],
    slipTimes := [] }

/-! ### Straps, reset, freeze and the board (R599-R627) -/

/-- The strap pins as STRAP_VAL lays them out (R621). -/
abbrev Straps := BitVec 18

/-- SVC_LEDn with the driver's diagnosis: the last diagnosed result, periods since a diagnosed pulse, and periods of the
current stretch window (R625-R627). -/
structure Led where
  duty : Byte
  fn : Bool
  stretch : Bool
  iset : BitVec 4
  diag : BitVec 2
  lastDiag : Option (BitVec 2)
  since : Nat
  phase : Nat
deriving DecidableEq, Repr

/-- An LED at reset (R627). -/
def Led.reset : Led := ⟨0, true, false, 5, 3, none, 0, 0⟩

/-- The instructions of the test access port (R617); a TAP reset selects IDCODE (IEEE 1149.1). -/
inductive TapIr where
  | idcode | bypass | samplePreload | extest | frzSel | frzData
deriving DecidableEq, Repr

/-- Service die: SVC_, STRAP_ and DBG_ registers, flash slots, freeze state, TAP and LEDs; `hazPrev` the frequency code that the
hazard detector's end restores (R324); `warming` until module time reaches
`warmEnd` after a warm reset, which class W events have restarted `warmN` times (R556). -/
structure Svc where
  stage : BitVec 4
  haltStage : BitVec 4
  halt : BitVec 4
  slot : BitVec 2
  bootMs : BitVec 16
  strapChg : Bool
  lastCold : BitVec 2
  mgmtIp4 : BitVec 32
  step : Byte
  grade : BitVec 2
  straps : Straps
  pins : Straps
  hazEn : Bool
  hazStop : Bool
  hazPrev : BitVec 4
  pinEn : Bool
  traceEn : Bool
  frz : BitVec 2
  frzCause : BitVec 2
  ign : BitVec 12
  stopFrame : BitVec 48
  tapIr : TapIr
  tapSel : BitVec 48
  tapOut : List Bool
  bsr : List Bool
  leds : SMap Led
  flashA : SMap Byte
  flashB : SMap Byte
  flashLenA : Nat
  flashLenB : Nat
  pps : Nat
  led3Until : Nat
  mgmtUp : Bool
  freezePin : Bool
  warming : Bool
  warmEnd : Nat
  warmN : Nat
  admitStop : Bool
deriving DecidableEq, Repr

/-- The service die at reset, before the boot that COLD_RESET performs (R620-R622; the pins are the model's choice). -/
def Svc.reset : Svc :=
  { stage := 0, haltStage := 0, halt := 0, slot := 0, bootMs := 0, strapChg := false, lastCold := 0,
    mgmtIp4 := 0xA9FE0110, step := 0, grade := 0, straps := 0, pins := 0, hazEn := false, hazStop := false,
    hazPrev := 0, pinEn := true, traceEn := false, frz := 0, frzCause := 0, ign := 0, stopFrame := 0, tapIr := .idcode, tapSel := 0,
    tapOut := [], bsr := [], leds := [], flashA := [], flashB := [], flashLenA := 0, flashLenB := 0,
    pps := 0, led3Until := 0, mgmtUp := true, freezePin := true, warming := false, warmEnd := 0, warmN := 0,
    admitStop := false }

end Sys2Proof.Machine
end

