-- ==== Sys2Proof/Machine/State.lean ====
section
/-! DEFINITION. The state of the module, its reset value, and the faults and refusals. -/

namespace Sys2Proof.Machine

/-- A flit on a mesh wire: the site and the input (0 N, 1 E, 2 S, 3 W, 4 L, 5 RIM) it reaches, and the tile cycle. -/
structure Flying where
  site : Nat
  port : Nat
  cyc : Nat
  flit : Flit
deriving DecidableEq, Repr

/-- A line that a rim die holds for injection: the destination site, the line, the release frame and the words (R215,
R392, R439, R461, R493). -/
structure RimLine where
  site : Nat
  line : BitVec 16
  rel : Byte
  words : List RWord
deriving DecidableEq, Repr

/-- A calendar entry of a rim die's copy: its port and cycle offset and the destination site (R215, R259). -/
structure CalEnt where
  port : Nat
  cyc : Nat
  dst : Nat
deriving DecidableEq, Repr

/-- The model's latch of the latest answer that a command gave its requester: the status code (R142, R263, R488), the
words with their poison marks, and the tags of R615. -/
structure Reply where
  status : Nat
  words : List RWord
  tags : List Nat
deriving DecidableEq, Repr

/-- A staged swap's pointer in the history band (R163, R164): model, first slice, and whether it is committed. -/
structure SwapEnt where
  m : Nat
  first : Nat
  committed : Bool
deriving DecidableEq, Repr

/-- The history band's module records (R561-R566, R333): events, units classed permanent, the recorded operating time,
the recorded image and placement, and the swap pointers. -/
structure Hist where
  events : List HistEvent
  permanent : List UnitId
  opt : BitVec 40
  imageId : Word
  place : List Course
  swaps : List SwapEnt
  setId : BitVec 32
  probeLines : SMap Word
deriving DecidableEq, Repr

/-- An empty band (the model's choice for a new module). -/
def Hist.reset : Hist :=
  { events := [], permanent := [], opt := 0, imageId := 0, place := [], swaps := [], setId := 0, probeLines := [] }

/-- The tile grid and what lies between the tiles and the rim dies. `fenced` has a bit set for every site that is not
exposed or is fenced; `gated` for a tile fenced compute-only (R549). `ready` lists the READY adapter slots of each pipeline's model at its
latest beat boundary (R137). `credit` holds the credits a source agent holds,
keyed (source × 8,064 + site) × 32 + window; `held` lists the pipelines under a hold, `begun` those whose
hold has begun, `release` the beats that a hold still runs, and `handover` the pipelines that run the handover stencil
(R162, R163). -/
structure Grid where
  tiles : SMap Tile
  fenced : BitVec 8064
  exposed : BitVec 8064
  gated : List Nat
  flits : List Flying
  rimQ : SMap (List RimLine)
  cal : SMap (List CalEnt)
  credit : SMap Nat
  held : List Nat
  begun : List Nat
  release : SMap Nat
  handover : List Nat
  ready : SMap (List Nat)
deriving DecidableEq, Repr

/-- The sites a module of the model's good-tile map does not expose: rows Y 40 to 43, 384 sites (grade A, R1, R17). -/
def unexposed : BitVec 8064 := ((1 <<< 384) - 1) <<< 3840

/-- The grid at the first cold reset. -/
def Grid.reset : Grid :=
  { tiles := [], fenced := unexposed, exposed := ~~~unexposed, gated := [], flits := [], rimQ := [], cal := [],
    credit := [], held := [], begun := [], release := [], handover := [],
    ready := [] }

/-- The state of the module and the queue of waiting commands. `frames` counts frame boundaries since cold reset (its
low 48 bits are the frame counter of R8) and `time` is module time in units of 1/7,927,920 ns, in which the frame of
every frequency code is a whole number; `draws` counts the model's free values. -/
structure State where
  pending : List Instr
  frames : Nat
  time : Nat
  draws : Nat
  grid : Grid
  dram : SMap SWord
  lath : Lath
  cg : Cg
  locks : SMap Lock
  hist : Hist
  cal : Cal
  plc : Plc
  load : Load
  resid : SMap Resid
  delivery : Option Delivery
  adapters : SMap Adapter
  geom : SMap Word
  eng : SMap Engine
  md : SMap MemDie
  ld : SMap LinkDie
  pod : Pod
  sec : Sec
  flt : Flt
  pwr : Pwr
  clk : Clk
  svc : Svc
  reply : Option Reply
deriving DecidableEq, Repr

/-- The module right after reset: every register at its Reset column, no image, every stream context FREE, memories
zero, no command waiting. -/
def State.reset : State :=
  { pending := [], frames := 0, time := 0, draws := 0, grid := Grid.reset, dram := [], lath := Lath.reset,
    cg := Cg.reset, locks := [], hist := Hist.reset, cal := Cal.reset, plc := Plc.reset, load := Load.reset,
    resid := [], delivery := none, adapters := [], geom := [], eng := [], md := [], ld := [], pod := Pod.reset,
    sec := Sec.reset, flt := Flt.reset, pwr := Pwr.reset, clk := Clk.reset, svc := Svc.reset, reply := none }

/-- The faults of the model: none. Every error that the manual describes is an effect on the state (safe). -/
inductive Fault where
  | none
deriving DecidableEq, Repr

/-- The refusals of the model. -/
inductive Refusal where
  /-- Raised by `exec` for a row that has no meaning in the model yet; safe. -/
  | notModelled (mnemonic : String)
deriving DecidableEq, Repr

end Sys2Proof.Machine
end

