-- ==== Sys2Proof/Machine/Sparse.lean ====
section
/-! DEFINITION. Reading and writing the sparse stores, the well-formedness of their canonical form, and small
list tables. -/

namespace Sys2Proof.Machine

variable {α : Type}

/-- Read a sparse store: the first entry of the key, `d` where none is listed. -/
def sget (d : α) : SMap α → Nat → α
  | [], _ => d
  | (k', v) :: t, k => if k' = k then v else sget d t k

/-- Insert an entry before the first greater key. -/
def sins (k : Nat) (v : α) : SMap α → SMap α
  | [] => [(k, v)]
  | (k', v') :: t => if k < k' then (k, v) :: (k', v') :: t else (k', v') :: sins k v t

/-- Drop every entry of a key. -/
def sdel (m : SMap α) (k : Nat) : SMap α := m.filter (fun e => e.1 != k)

/-- Write a sparse store, keeping the canonical form: the value an unlisted key reads as is not listed. -/
def sset [DecidableEq α] (d : α) (m : SMap α) (k : Nat) (v : α) : SMap α :=
  if v = d then sdel m k else sins k v (sdel m k)

/-- Read, change and write one entry. -/
def supd [DecidableEq α] (d : α) (m : SMap α) (k : Nat) (f : α → α) : SMap α :=
  sset d m k (f (sget d m k))

/-- The store whose keys 0 to n - 1 hold f 0 to f (n - 1). -/
def stab [DecidableEq α] (d : α) (n : Nat) (f : Nat → α) : SMap α :=
  (List.range n).filterMap (fun i => if f i = d then none else some (i, f i))

/-- Change every listed entry, dropping those that become the default. -/
def smap [DecidableEq α] (d : α) (m : SMap α) (f : Nat → α → α) : SMap α :=
  match m with
  | [] => []
  | (k, v) :: t => if f k v = d then sdel (smap d t f) k else (k, f k v) :: smap d t f

/-- Keep the entries that a test accepts. -/
def skeep (m : SMap α) (p : Nat → α → Bool) : SMap α := m.filter (fun e => p e.1 e.2)

/-- The canonical form: keys strictly rising and no entry that is the default. -/
abbrev SWf [DecidableEq α] (d : α) (m : SMap α) : Prop :=
  m.Pairwise (fun a b => a.1 < b.1) ∧ ∀ e ∈ m, e.2 ≠ d

/-- The element of a list at an index, with a default. -/
def lget (d : α) (l : List α) (i : Nat) : α := l.getD i d

/-- A list with one element replaced, unchanged where the index is beyond its end. -/
def lset (l : List α) (i : Nat) (v : α) : List α := l.set i v

/-- Change one element of a list. -/
def lupd (l : List α) (i : Nat) (f : α → α) : List α := l.modify i f

end Sys2Proof.Machine
end

