-- ==== Sys2Proof/Machine/Ops.lean ====
section
/-! DEFINITION. The shared operations of a tile: scratchpad lines and words, check-bit events, writes on their way to
their bank cycle, sequencer-scheduled reads, the release state of windows, and the advance of a tile to a cycle. -/

namespace Sys2Proof.Machine

/-! ### Numbers and lists -/

/-- Insert into a list kept in ascending order of a key, after equal keys. -/
def insBy {α : Type} (key : α → Nat) (x : α) : List α → List α
  | [] => [x]
  | y :: t => if key x < key y then x :: y :: t else y :: insBy key x t

/-- Sort by a key, equal keys in their first order. -/
def sortBy {α : Type} (key : α → Nat) (l : List α) : List α := l.foldl (fun acc x => insBy key x acc) []

/-- A line index formed from a base: it wraps modulo 65,536 (R287). -/
def lineAdd (l : BitVec 16) (n : Nat) : BitVec 16 := l + BitVec.ofNat 16 n

/-- The bank of a line (R27). -/
def bankOf (l : BitVec 16) : Nat := l.toNat % 64
/-- The row of a line within its bank (R27). -/
def rowOf (l : BitVec 16) : Nat := l.toNat / 64
/-- The word index A >> 3 of word w of a line (R27). -/
def wordIx (l : BitVec 16) (w : Nat) : Nat := 16 * l.toNat + w

/-- Byte i of a list of words, in little-endian order (R93). -/
def byteOf (ws : List Word) (i : Nat) : Byte := ((lget 0 ws (i / 8)) >>> (8 * (i % 8))).setWidth 8
/-- 16-bit element i of a list of words (R93). -/
def halfOf (ws : List Word) (i : Nat) : BitVec 16 := ((lget 0 ws (i / 4)) >>> (16 * (i % 4))).setWidth 16
/-- 32-bit element i of a list of words (R93). -/
def laneOf (ws : List Word) (i : Nat) : Lane32 := ((lget 0 ws (i / 2)) >>> (32 * (i % 2))).setWidth 32
/-- 4-bit element i of a list of words (R93). -/
def nibOf (ws : List Word) (i : Nat) : BitVec 4 := ((lget 0 ws (i / 16)) >>> (4 * (i % 16))).setWidth 4
/-- Pack bytes into 64-bit words, little-endian (R93). -/
def packBytes (bs : List Byte) (n : Nat) : List Word :=
  (List.range n).map (fun w => (List.range 8).foldl
    (fun acc b => acc ||| ((lget 0 bs (8 * w + b)).setWidth 64 <<< (8 * b))) 0)
/-- Pack 32-bit lanes into words: lane j in bits [31:0] of its word when j is even (R69, R93). -/
def packLanes (ls : List PLane) (n : Nat) : List RWord :=
  (List.range n).map (fun w =>
    let a := lget PLane.zero ls (2 * w)
    let b := lget PLane.zero ls (2 * w + 1)
    { bits := b.bits ++ a.bits, poison := a.poison || b.poison })
/-- The bits of words in flight. -/
def bitsOf (ws : List RWord) : List Word := ws.map RWord.bits
/-- Whether any word of a list is marked. -/
def anyPoison (ws : List RWord) : Bool := ws.any RWord.poison
/-- Mark every word. -/
def markAll (ws : List RWord) : List RWord := ws.map (fun w => { w with poison := true })
/-- Mark every word when a condition holds. -/
def markIf (b : Bool) (ws : List RWord) : List RWord := if b then markAll ws else ws

/-- Count a hazard, with the cycle and store index of the first of its code (R325, R326); it is kept only while the
detector compares. -/
def padHaz (p : Pad) (code cyc idx : Nat) : Pad :=
  if p.hazOn then
    let e := sget (0, 0, 0) p.haz code
    { p with haz := sset (0, 0, 0) p.haz code (if e.1 = 0 then (1, cyc, idx) else (e.1 + 1, e.2)) }
  else p

/-! ### Words and check bits (R28-R30) -/

/-- The stored word at a word index. -/
def padGet (p : Pad) (i : Nat) : SWord := sget SWord.zero p.words i

/-- A write stores a whole word with fresh check bits; a poison mark is stored with its word (R28, R30). -/
def stored (w : RWord) : SWord := { bits := w.bits, ecc := if w.poison then .marked else .good }

/-- What a read delivers of a stored word (R29, R30). -/
def delivered (w : SWord) : RWord :=
  { bits := w.bits, poison := decide (w.ecc = .double) || decide (w.ecc = .marked) }

/-- Store one word. -/
def padPut (p : Pad) (i : Nat) (w : RWord) : Pad := { p with words := sset SWord.zero p.words i (stored w) }

/-- Record a check-bit event when TILE_ECC_ADDR is armed (R29, R30, R47). -/
def eccCapture (p : Pad) (i : Nat) (ue : Bool) : Pad :=
  if p.eccValid then p else { p with eccWord := BitVec.ofNat 20 i, eccType := ue, eccValid := true }

/-- A bank read of one word: the word as delivered, with the check-bit events it has. A single-bit error is
corrected, counted and recorded and the stored word is not rewritten; a double-bit error sets UE, is recorded and
reported (R29, R30). -/
def bankRead (site : Nat) (p : Pad) (i : Nat) : Pad × RWord × List TOut :=
  let w := padGet p i
  match w.ecc with
  | .good => (p, delivered w, [])
  | .marked => (p, delivered w, [])
  | .single =>
    let ce := satInc p.ce
    (eccCapture { p with ce := ce } i false, delivered w,
      if ce.ovf && !p.ce.ovf then [.rpt 0x02 (BitVec.ofNat 64 site) [BitVec.ofNat 64 i]] else [])
  | .double =>
    (eccCapture { p with ue := true } i true, delivered w, [.rpt 0x01 (BitVec.ofNat 64 site) [BitVec.ofNat 64 i]])

/-- Read the words of a line that a mask names; the others come as zero and are not read. -/
def bankReadLine (site : Nat) (p : Pad) (l : BitVec 16) (mask : BitVec 16) : Pad × List RWord × List TOut :=
  (List.range 16).foldl (fun acc w =>
    if mask.getLsbD w then
      let r := bankRead site acc.1 (wordIx l w)
      (r.1, acc.2.1 ++ [r.2.1], acc.2.2 ++ r.2.2)
    else (acc.1, acc.2.1 ++ [RWord.zero], acc.2.2)) (p, [], [])

/-! ### Writes and bank cycles (R31-R34) -/

/-- The place of a write in the conflict order of its bank cycle (R33). -/
def unitRank : WUnit → Nat
  | .fabric => 0
  | .da => 1
  | .fu => 2
  | .dtake => 3
  | .store => 4
  | .mesh => 5

/-- Store the enabled words of a line (R28). -/
def putLine (p : Pad) (l : BitVec 16) (wen : BitVec 16) (ws : List RWord) : Pad :=
  (List.range 16).foldl (fun acc w =>
    if wen.getLsbD w then padPut acc (wordIx l w) (lget RWord.zero ws w) else acc) p

/-- One write of a bank cycle: performed when its bank's port is free, otherwise dropped and counted (R33).
The second component holds the latest bank cycle and the banks already written in it. -/
def landWrite (acc : Pad × Nat × List Nat) (w : PWrite) : Pad × Nat × List Nat :=
  let used := if acc.2.1 = w.cyc then acc.2.2 else []
  if used.contains (bankOf w.line) then (padHaz { acc.1 with confl := satInc acc.1.confl } 1 w.cyc 0, w.cyc, used)
  else (putLine acc.1 w.line w.wen w.words, w.cyc, bankOf w.line :: used)

/-- Whether a write on its way stores a masked word of a line in a bank cycle (R325, code 5). -/
def sameWord (p : Pad) (cyc : Nat) (l mask : BitVec 16) : Bool :=
  p.pend.any (fun w => w.cyc == cyc && w.line == l && (w.wen &&& mask) != 0)

/-- Perform every write whose bank cycle is earlier than `t` (R32, R33). -/
def landWrites (p : Pad) (t : Nat) : Pad :=
  let due := sortBy (fun w => 8 * w.cyc + unitRank w.unit) (p.pend.filter (fun w => decide (w.cyc < t)))
  let p1 := (due.foldl landWrite (p, 0, [])).1
  { p1 with pend := p.pend.filter (fun w => !decide (w.cyc < t)) }

/-- Put a write on its way. -/
def sendWrite (p : Pad) (w : PWrite) : Pad := { p with pend := p.pend ++ [w] }

/-- Whether a local-side write already uses a bank's write port in a bank cycle (R36). -/
def portUsed (p : Pad) (bank cyc : Nat) : Bool :=
  p.pend.any (fun w => w.cyc == cyc && bankOf w.line == bank)

/-! ### Windows (R38, R49, R218, R219) -/

/-- Window n. -/
def winGet (p : Pad) (n : Nat) : Win := sget Win.none p.win n
/-- Set window n. -/
def winPut (p : Pad) (n : Nat) (w : Win) : Pad := { p with win := sset Win.none p.win n w }
/-- Whether a line lies in a declared window. -/
def winHas (w : Win) (l : BitVec 16) : Bool :=
  w.typ ≠ 0 && decide (w.base.toNat ≤ l.toNat) && decide (l.toNat < w.base.toNat + w.lines.toNat)
/-- The number of the window that holds a line. -/
def winOf (p : Pad) (l : BitVec 16) : Option Nat := (List.range 32).find? (fun n => winHas (winGet p n) l)
/-- Whether the reads of a line are poisoned until its window's next release (R219). -/
def lineLate (p : Pad) (l : BitVec 16) : Bool :=
  (List.range 32).any (fun n => let w := winGet p n; w.late && w.typ == 1 && winHas w l)
/-- The first line above every window: the page arena of a pool tile begins there (R382). -/
def arenaBase (p : Pad) : Nat :=
  (List.range 32).foldl (fun m n => let w := winGet p n; if w.typ = 0 then m else max m (w.base.toNat + w.lines.toNat)) 0

/-! ### The arena check (R518-R520) -/

/-- The entry of a line's granule in the page-ownership table (R519). -/
def ownEntry (t : Tile) (l : BitVec 16) : BitVec 16 := sget 0 t.seq.pageOwn (l.toNat / 16)
/-- A base register with its mark; b0 is 0 and never marked (R292). -/
def baseGet (t : Tile) (n : Nat) : RWord := if n = 0 then RWord.zero else sget RWord.zero t.seq.base n
/-- Whether an access to a line passes the arena check (R520, R288). -/
def arenaOk (t : Tile) (l : BitVec 16) : Bool :=
  if t.pool && decide (arenaBase t.pad ≤ l.toNat) then
    let e := ownEntry t l
    let b := baseGet t 7
    e.getLsbD 15 && !b.poison && (e.setWidth 12 == b.bits.setWidth 12)
  else true
/-- The violation that a failed arena check raises (R521): KIND 1, the claimed tenant and the owner found. -/
def arenaViol (t : Tile) (l : BitVec 16) : TOut :=
  let e := ownEntry t l
  .viol 1 ((baseGet t 7).bits.setWidth 12) (if e.getLsbD 15 then e.setWidth 12 else 0)

/-! ### Sequencer-scheduled reads and local-side writes (R31, R635) -/

/-- A sequencer-scheduled read of the masked words of a line in bank cycle `cyc`. Reads of one bank in one cycle share
the row that the first of them names; a read of another row delivers zero words marked poisoned and is counted (R635).
A line of a window whose release was late, a line that the arena check refuses and a line formed from a marked base
deliver marked words (R219, R288, R518). -/
def seqRead (site cyc : Nat) (taint : Bool) (mask : BitVec 16) (t : Tile) (l : BitVec 16) :
    Tile × List RWord × List TOut :=
  let rows := if t.pad.rdCyc = cyc then t.pad.rdRows else []
  let open_ := sget 0 rows (bankOf l)
  if open_ ≠ 0 ∧ open_ ≠ rowOf l + 1 then
    ({ t with pad := padHaz { t.pad with confl := satInc t.pad.confl, rdCyc := cyc, rdRows := rows } 9 cyc 0 },
      List.replicate 16 { bits := 0, poison := true }, [])
  else
    let p := { t.pad with rdCyc := cyc, rdRows := sset 0 rows (bankOf l) (rowOf l + 1) }
    let r := bankReadLine site (if sameWord p cyc l mask then padHaz p 5 cyc 0 else p) l mask
    let ok := arenaOk t l
    ({ t with pad := r.1 }, markIf (taint || !ok || lineLate t.pad l) r.2.1,
      r.2.2 ++ if ok then [] else [arenaViol t l])

/-- A local-side write of a sequencer engine: put on its way, or not performed where the arena check refuses it
(R31, R518). Words written from a marked base are marked (R288). -/
def seqWrite (unit : WUnit) (cyc : Nat) (taint : Bool) (wen : BitVec 16) (t : Tile) (l : BitVec 16)
    (ws : List RWord) : Tile × List TOut :=
  if arenaOk t l then
    ({ t with pad := sendWrite t.pad ⟨cyc, unit, l, wen, markIf taint ws⟩ }, [])
  else (t, [arenaViol t l])

/-! ### Effects that land in a later cycle -/

/-- A vector register lane. -/
def vget (t : Tile) (r i : Nat) : PLane := sget PLane.zero t.fu.v (64 * r + i)
/-- The 64 lanes of a vector register. -/
def vlanes (t : Tile) (r : Nat) : List PLane := (List.range 64).map (vget t r)
/-- A mask register; k0 is all ones (R303). -/
def kget (t : Tile) (n : Nat) : BitVec 64 := if n = 0 then BitVec.allOnes 64 else sget 0 t.fu.k n

/-- Perform one effect in tile cycle `x`. -/
def applyEff (t : Tile) (x : Nat) (e : Eff) : Tile :=
  match e with
  | .vreg r ls =>
    { t with fu := { t.fu with v := ls.foldl (fun m l => sset PLane.zero m (64 * r + l.1) l.2) t.fu.v } }
  | .mask k m sel =>
    let v := (m &&& sel) ||| (sget 0 t.fu.k k &&& ~~~sel)
    { t with fu := { t.fu with k := if k = 0 then t.fu.k else sset 0 t.fu.k k v } }
  | .ffu f => { t with fu := { t.fu with ffu := flagRaise t.fu.ffu x f } }
  | .fda f => { t with da := { t.da with fda := flagRaise t.da.fda x f } }
  | .sbuf i b => { t with fu := { t.fu with sbuf := sset (0, false) t.fu.sbuf i b } }
  | .pair i v => { t with da := { t.da with pairs := sset PLane.zero t.da.pairs i v } }
  | .base n v => { t with seq := { t.seq with base := if n = 0 then t.seq.base else sset RWord.zero t.seq.base n v } }
  | .ldsDone sb gm scales revalid =>
    let f := fun (b : SBuf) => { b with gm := gm, scales := scales, valid := revalid }
    { t with da := if sb then { t.da with sb1 := f t.da.sb1 } else { t.da with sb0 := f t.da.sb0 } }

/-- Put an effect on its way to a cycle. -/
def sendEff (t : Tile) (x : Nat) (e : Eff) : Tile := { t with fu := { t.fu with effs := t.fu.effs ++ [(x, e)] } }

/-- Perform every effect whose cycle is `x` or earlier, in the order of their cycles and then of their issue. -/
def landEffs (t : Tile) (x : Nat) : Tile :=
  let due := sortBy Prod.fst (t.fu.effs.filter (fun e => decide (e.1 ≤ x)))
  let t1 := { t with fu := { t.fu with effs := t.fu.effs.filter (fun e => !decide (e.1 ≤ x)) } }
  due.foldl (fun acc e => applyEff acc e.1 e.2) t1

/-- A stationary buffer. -/
def sbGet (t : Tile) (sb : Bool) : SBuf := if sb then t.da.sb1 else t.da.sb0
/-- Set a stationary buffer. -/
def sbPut (t : Tile) (sb : Bool) (b : SBuf) : Tile :=
  { t with da := if sb then { t.da with sb1 := b } else { t.da with sb0 := b } }

/-- Read one group of 16 lines of an LDW in progress (R302): line q of the load supplies words 16q to 16q + 15. -/
def ldwGroup (site x : Nat) (t : Tile) (o : LdwOp) : Tile × List TOut :=
  (List.range (min 16 (o.nl - 16 * o.groups))).foldl (fun acc i =>
    let q := 16 * o.groups + i
    let r := seqRead site x o.taint (BitVec.allOnes 16) acc.1 (lineAdd o.line q)
    let b := sbGet r.1 o.sb
    let ws := if o.legal then
        (List.range 16).foldl (fun m w => sset RWord.zero m (16 * q + w) (lget RWord.zero r.2.1 w)) b.words
      else b.words
    (sbPut r.1 o.sb { b with words := ws }, acc.2 ++ r.2.2)) (t, [])

/-- The group reads of an LDW whose bank cycles are `x` or earlier; each sees the writes of earlier bank cycles. -/
def ldwReads : Nat → Nat → Nat → Tile → Tile × List TOut
  | 0, _, _, t => (t, [])
  | n + 1, site, x, t =>
    match t.da.load with
    | none => (t, [])
    | some o =>
      if o.t + 2 * o.groups ≤ x ∧ 16 * o.groups < o.nl then
        let c := o.t + 2 * o.groups
        let t1 := { t with pad := landWrites t.pad c }
        let r := ldwGroup site c t1 o
        let t2 := { r.1 with da := { r.1.da with load := some { o with groups := o.groups + 1 } } }
        let r2 := ldwReads n site x t2
        (r2.1, r.2 ++ r2.2)
      else (t, [])

/-- Advance a tile to tile cycle `x`: the engine reads up to it, every write of an earlier bank cycle, and every effect
that lands in it or before. -/
def tileSync (site x : Nat) (t : Tile) : Tile × List TOut :=
  let r := ldwReads 33 site x t
  (landEffs { r.1 with pad := landWrites r.1.pad x } x, r.2)

/-! ### Counted events -/

/-- Count a hazard on a tile. -/
def hazAdd (t : Tile) (code cyc idx : Nat) : Tile := { t with pad := padHaz t.pad code cyc idx }

/-- The cycle offset within the beat (R231, R275): 0 while the stencil does not run. -/
def beatCyc (t : Tile) (x : Nat) : Nat := if t.mesh.run then x - 2048 * t.mesh.beatAt else 0

end Sys2Proof.Machine
end

