-- ==== Sys2Proof/Machine/Operands.lean ====
section
/-! DEFINITION. The operand forms: control-core registers, predicates, guards and issue conditions; the cycle, lane and
line that a sequencer entry takes; the units that entries share in a cycle. -/

namespace Sys2Proof.Machine

/-! ### Control-core operands (R274-R279) -/

/-- A general register with its poison mark; g0 reads as 0 (R274). -/
def gGet (c : CCore) (r : BitVec 5) : RWord := if r = 0 then RWord.zero else sget RWord.zero c.g r.toNat
/-- The value of a general register. -/
def gVal (c : CCore) (r : BitVec 5) : Word := (gGet c r).bits
/-- Write a general register; a write to g0 is discarded (R274). -/
def gPut (c : CCore) (r : BitVec 5) (w : RWord) : CCore :=
  if r = 0 then c else { c with g := sset RWord.zero c.g r.toNat w }
/-- Write a value; the write clears the mark (R285). -/
def gSet (c : CCore) (r : BitVec 5) (v : Word) : CCore := gPut c r ⟨v, false⟩
/-- A predicate register; p0 reads as 1 (R274). -/
def pGet (c : CCore) (n : BitVec 3) : Bool := if n = 0 then true else sget false c.p n.toNat
/-- Write a predicate register; a write to p0 is discarded (R274). -/
def pSet (c : CCore) (n : BitVec 3) (b : Bool) : CCore :=
  if n = 0 then c else { c with p := sset false c.p n.toNat b }
/-- The guard: predicate p(G[2:0]), inverted when G[3] = 1 (R278). -/
def guardOn (c : CCore) (g : BitVec 4) : Bool := pGet c (g.setWidth 3) != g.getLsbD 3

/-- Whether a result is still on its way to a register: a load, a division, or a product (R279, R281). -/
def regBusy (c : CCore) (x : Nat) (r : BitVec 5) : Bool :=
  r ≠ 0 && (c.loads.any (fun l => l.rd == r) ||
    (match c.div with | some d => d.rd == r | none => false) || decide (x < sget 0 c.rdy r.toNat))

/-- Whether the core may issue an instruction in cycle `x`: it runs, no WAITC stalls it and the previous instruction
has taken its cycle (R21, R279). -/
def ccReady (c : CCore) (x : Nat) : Bool := c.st == .running && c.wait.isNone && decide (c.next ≤ x)

/-- Go on to an instruction index, the next instruction issuing in cycle `x + n` at the earliest. -/
def ccGoto (c : CCore) (x n : Nat) (pc : BitVec 14) : CCore := { c with pc := pc, next := x + n }
/-- Go on to the next instruction. The 14-bit index wraps (DEDUCED from its width, R274). -/
def ccNext (c : CCore) (x : Nat) : CCore := ccGoto c x 1 (c.pc + 1)

/-- The causes of a control-core fault with their codes (R285). -/
inductive CcCause where
  | illegal | misalign | address | poison
deriving DecidableEq, Repr

/-- The code of a cause (R285). -/
def causeCode : CcCause → Word
  | .illegal => 1
  | .misalign => 2
  | .address => 3
  | .poison => 4

/-- Take a fault: the core stops at the faulting instruction and the tile reports the cause (R285, R548). -/
def ccFault (site : Nat) (t : Tile) (k : CcCause) : Tile × List TOut :=
  ({ t with cc := { t.cc with st := .stopped } }, [.rpt 0x05 (BitVec.ofNat 64 site) [causeCode k]])

/-- The issue of a control-core instruction in cycle `x`, which every instruction shares: nothing happens while the core
cannot issue; an instruction whose guard is 0 only takes its cycle; one whose registers are still on their way stalls;
one that reads a marked register takes the POISON fault; otherwise the body has its effect (R278, R279, R285). -/
def ccIssue (site x : Nat) (guard : BitVec 4) (srcs dsts : List (BitVec 5))
    (body : Tile → Tile × List TOut) (t : Tile) : Tile × List TOut :=
  let r := tileSync site x t
  let t1 := r.1
  if ccReady t1.cc x then
    if guardOn t1.cc guard then
      if (srcs ++ dsts).any (regBusy t1.cc x) then (t1, r.2)
      else if srcs.any (fun g => (gGet t1.cc g).poison) then
        let f := ccFault site t1 .poison
        (f.1, r.2 ++ f.2)
      else
        let b := body t1
        (b.1, r.2 ++ b.2)
    else ({ t1 with cc := ccNext t1.cc x }, r.2)
  else (t1, r.2)

/-- A register result in the next cycle: write it and go on. -/
def ccResult (x lat : Nat) (rd : BitVec 5) (v : Word) (t : Tile) : Tile × List TOut :=
  let c := gSet t.cc rd v
  ({ t with cc := ccNext { c with rdy := if lat ≤ 1 then c.rdy else sset 0 c.rdy rd.toNat (x + lat) } x }, [])

/-- A predicate result. -/
def ccPred (x : Nat) (n : BitVec 3) (b : Bool) (t : Tile) : Tile × List TOut :=
  ({ t with cc := ccNext (pSet t.cc n b) x }, [])

/-- A jump: a target outside 0-16,383 is an ADDRESS fault; a taken branch's target issues 3 tc later (R279, R285).
`link` is the register that takes PC + 1, or g0 for none. -/
def ccJump (site x : Nat) (target : Int) (link : BitVec 5) (t : Tile) : Tile × List TOut :=
  if 0 ≤ target ∧ target < 16384 then
    let c := gSet t.cc link (BitVec.ofNat 64 (t.cc.pc.toNat + 1))
    ({ t with cc := ccGoto c x 3 (BitVec.ofInt 14 target) }, [])
  else ccFault site t .address

/-! ### Sequencer operands (R286-R291) -/

/-- What an entry takes at run time: its cycle, its lane, the lane's stream, what is added to its based field, whether
that base is marked, and whether the lane is idle under its LG. -/
structure SeqRun where
  cyc : Nat
  lane : BitVec 6
  sid : BitVec 14
  add : BitVec 16
  taint : Bool
  idle : Bool
deriving DecidableEq, Repr

/-- The active lane-table entry of a lane (R211). -/
def laneGet (t : Tile) (n : BitVec 6) : Word := sget 0 t.seq.laneAct n.toNat

/-- The REP record that covers an entry, by its position in program-store order (R289). -/
def repOf (t : Tile) (ord : Nat) : Option RepRec :=
  t.seq.reps.find? (fun r => decide (r.ord < ord) && decide (ord ≤ r.ord + r.nb))

/-- The run-time form of an entry: none where the stencil does not run, the iteration does not exist or its cycle lies
at or beyond the stencil span (R210, R289). -/
def seqRun (t : Tile) (ord : Nat) (cyc : BitVec 15) (lane : BitVec 6) (lg : Bool) (bsel : BitVec 3) (iter : Nat) :
    Option SeqRun :=
  let r := repOf t ord
  let z := match r with | some r => r | none => ⟨0, 0, 1, 0, 0, 0⟩
  let off := cyc.toNat + iter * z.step
  if t.mesh.run && decide (iter < z.count) && decide (off < 2048 * (t.mesh.span.toNat + 1)) then
    let ln := lane + BitVec.ofNat 6 (iter * z.lstep)
    let b := baseGet t bsel.toNat
    let e := laneGet t ln
    some { cyc := 2048 * t.mesh.beatAt + off, lane := ln, sid := e.setWidth 14,
           add := b.bits.setWidth 16 + BitVec.ofNat 16 (z.linc * iter), taint := b.poison,
           idle := lg && (t.mesh.held || !e.getLsbD 23) }
  else none

/-- An entry that is not performed: reported as SEQ_ENTRY with its store index (R290), and a hazard of code 3 (R325). -/
def seqDrop (site idx x : Nat) (t : Tile) : Tile × List TOut :=
  (hazAdd t 3 x idx, [.rpt 0x06 (BitVec.ofNat 64 site) [BitVec.ofNat 64 idx]])

/-- Whether the L input is free in an injection cycle (R290). -/
def lFree (t : Tile) (c : Nat) : Bool := !t.seq.lUse.contains c
/-- Take the L input in an injection cycle. -/
def lTake (t : Tile) (x c : Nat) : Tile :=
  { t with seq := { t.seq with lUse := c :: t.seq.lUse.filter (fun u => decide (x ≤ u)) } }

/-- What an entry does at run time, which every entry shares: the tile advances to its cycle; an entry that needs an
even cycle and falls on an odd one is not performed and is reported (R287, R290). -/
def seqEntry (site idx : Nat) (even : Bool) (run : Tile → Option SeqRun)
    (body : SeqRun → Tile → Tile × List TOut) (t : Tile) : Tile × List TOut :=
  match run t with
  | none => (t, [])
  | some e0 =>
    let r := tileSync site e0.cyc t
    match run r.1 with
    | none => r
    | some e =>
      if even && decide (e.cyc % 2 = 1) then
        let d := seqDrop site idx e.cyc r.1
        (d.1, r.2 ++ d.2)
      else
        let b := body e r.1
        (b.1, r.2 ++ b.2)

/-- The dense array takes one entry an array cycle; a second entry of the same cycle is not performed (R290). -/
def daEntry (site idx : Nat) (body : SeqRun → Tile → Tile × List TOut) (e : SeqRun) (t : Tile) : Tile × List TOut :=
  if t.seq.daUse = some e.cyc then seqDrop site idx e.cyc t
  else
    let t1 := { t with seq := { t.seq with daUse := some e.cyc } }
    if e.idle then (t1, []) else body e t1

/-- The finish unit takes one FU or FUM entry a tile cycle (R290). -/
def fuEntry (site idx : Nat) (body : SeqRun → Tile → Tile × List TOut) (e : SeqRun) (t : Tile) : Tile × List TOut :=
  if t.seq.fuUse = some e.cyc then seqDrop site idx e.cyc t
  else
    let t1 := { t with seq := { t.seq with fuUse := some e.cyc } }
    if e.idle then (t1, []) else body e t1

end Sys2Proof.Machine
end

