-- ==== Sys2Proof/Machine/TileSeq.lean ====
section
/-! DEFINITION. The sequencer entries that move lines, descriptors and base registers (R213, R214, R219, R286-R292). -/

namespace Sys2Proof.Machine

/-- The run-time form of an entry from its header. -/
def hdrRun (h : SeqHdr) (t : Tile) : Option SeqRun :=
  seqRun t h.ord.toNat h.cyc h.lane h.lg h.bsel h.iter.toNat

/-- A sequencer entry of a header. -/
def hdrEntry (h : SeqHdr) (even : Bool) (body : SeqRun → Tile → Tile × List TOut) (t : Tile) : Tile × List TOut :=
  seqEntry h.site h.idx.toNat even (hdrRun h) body t

/-- The flit kinds of R197. -/
def kIdle : BitVec 3 := 0
def kData : BitVec 3 := 1
def kRdReq : BitVec 3 := 2
def kRdRep : BitVec 3 := 3
def kCred : BitVec 3 := 4
def kLaneRec : BitVec 3 := 5

/-- A flit that a tile sends for a lane: SRC 0xFF and the stream of the lane (R212, R288). -/
def tileFlit (e : SeqRun) (kind : BitVec 3) (line wen : BitVec 16) (tag : BitVec 4) (err : Bool) (ws : List RWord) :
    Flit :=
  { sid := e.sid, lane := e.lane, kind := kind, line := line, wen := wen, rel := 0, src := 0xFF, tag := tag,
    err := err, words := ws, crcOk := true }

/-- A flit of KIND IDLE (R212). -/
def idleFlit (e : SeqRun) : Flit := tileFlit e kIdle 0 0 0 false (List.replicate 16 RWord.zero)

/-- The L input is number 4 of the router's ports N, E, S, W, L, RIM. -/
def portL : Nat := 4

/-- An injection through L at `c`: not performed where the input is taken (R290). -/
def inject (h : SeqHdr) (e : SeqRun) (c : Nat) (body : Tile → Tile × List TOut) (t : Tile) : Tile × List TOut :=
  if lFree t c then body (lTake t e.cyc c) else seqDrop h.site h.idx.toNat e.cyc t

/-- The injection cycle CYC + 2 + DLY (R288). -/
def injAt (e : SeqRun) (dly : Bool) : Nat := e.cyc + 2 + if dly then 1 else 0

/-- INJ: read a line at CYC and inject it as a DATA or LANEREC flit (R288, R291). -/
def seqInj (h : SeqHdr) (line dline : BitVec 16) (lanerec dly msel : Bool) (t : Tile) : Tile × List TOut :=
  hdrEntry h true (fun e t =>
    let c := injAt e dly
    inject h e c (fun t =>
      if e.idle then (t, [.flit portL c (idleFlit e)])
      else
        let r := seqRead h.site e.cyc e.taint (BitVec.allOnes 16) t (line + e.add)
        let f := if lanerec then tileFlit e kLaneRec 0 0xFFFF 0 false r.2.1
          else tileFlit e kData dline (if msel then r.1.seq.m1 else 0xFFFF) 0 false r.2.1
        (r.1, r.2.2 ++ [.flit portL c f])) t) t

/-- RQ: set a read-return entry and inject an RDREQ (R213, R288, R291). -/
def seqRq (h : SeqHdr) (dline sline : BitVec 16) (dly : Bool) (tag : BitVec 4) (t : Tile) : Tile × List TOut :=
  hdrEntry h false (fun e t =>
    let c := injAt e dly
    inject h e c (fun t =>
      if e.idle then (t, [.flit portL c (idleFlit e)])
      else
        let d : ReadRet := ⟨dline + e.add, sline⟩
        let f := tileFlit e kRdReq sline 0 tag false (markIf e.taint (List.replicate 16 RWord.zero))
        ({ t with seq := { t.seq with retn := sset ⟨0, 0⟩ t.seq.retn tag.toNat d } }, [.flit portL c f])) t) t

/-- RDREQs that no request window can still cover are discarded and counted (R213): a window ends at most 16 tc after
the ejections it covers. -/
def dropReqs (x : Nat) (t : Tile) : Tile :=
  let old := t.seq.reqs.filter (fun r => decide (r.cyc + 16 < x))
  { t with
    seq := { t.seq with reqs := t.seq.reqs.filter (fun r => !decide (r.cyc + 16 < x)) },
    mesh := { t.mesh with drop := satAdd t.mesh.drop old.length } }

/-- SRV: one bank read at r = CYC serves the RDREQs ejected in the W cycles before it, with the line and tag of the
first; a window that collected none sends ERR = 1 (R213, R214, R288). -/
def seqSrv (h : SeqHdr) (w : BitVec 4) (dly : Bool) (t : Tile) : Tile × List TOut :=
  hdrEntry { h with lg := false } true (fun e t0 =>
    let t := dropReqs e.cyc t0
    let c := injAt e dly
    inject h e c (fun t =>
      let lo := e.cyc - (w.toNat + 1)
      let inWin := fun (r : RdReq) => decide (lo ≤ r.cyc) && decide (r.cyc < e.cyc)
      match t.seq.reqs.filter inWin with
      | [] =>
        (t, [.flit portL c (tileFlit e kRdRep 0 0 0 true (List.replicate 16 ⟨0, true⟩))])
      | q :: _ =>
        let t1 := { t with seq := { t.seq with reqs := t.seq.reqs.filter (fun r => !inWin r) } }
        let r := seqRead h.site e.cyc false (BitVec.allOnes 16) t1 q.line
        (r.1, r.2.2 ++ [.flit portL c (tileFlit e kRdRep q.line 0 q.tag false r.2.1)])) t) t

/-- The arrival counter of a window for a release number (R218). -/
def arrGet (w : Win) (r : BitVec 2) : Nat :=
  if r = 0 then w.arr0 else if r = 1 then w.arr1 else if r = 2 then w.arr2 else w.arr3
/-- Set an arrival counter. -/
def arrPut (w : Win) (r : BitVec 2) (n : Nat) : Win :=
  if r = 0 then { w with arr0 := n } else if r = 1 then { w with arr1 := n }
  else if r = 2 then { w with arr2 := n } else { w with arr3 := n }

/-- REL: a release compares the window's arrival counter with COUNT; a short one is late: its reads are poisoned until
the next release, it is counted and reported. The counter clears and NR increments (R219, R232). -/
def seqRel (h : SeqHdr) (win : BitVec 5) (count : BitVec 16) (t : Tile) : Tile × List TOut :=
  hdrEntry { h with lg := false } false (fun e t =>
    let w := winGet t.pad win.toNat
    let nr : BitVec 2 := w.nextRel.setWidth 2
    let late := decide (arrGet w nr < count.toNat)
    let w1 := { arrPut w nr 0 with nextRel := w.nextRel + 1, late := late }
    let t1 := { t with pad := winPut t.pad win.toNat w1 }
    if late then
      (hazAdd { t1 with mesh := { t1.mesh with late := satInc t1.mesh.late } } 7 e.cyc 0,
        [.rpt 0x0B (BitVec.ofNat 64 h.site) [win.setWidth 64]])
    else (t1, [])) t

/-- DTAKE: pop up to N descriptors pushed before this cycle and write them, null where the queue had none; an idle lane
pops nothing (R283, R288, R291). -/
def seqDtake (h : SeqHdr) (n : BitVec 3) (line : BitVec 16) (t : Tile) : Tile × List TOut :=
  hdrEntry h true (fun e t =>
    let m := n.toNat + 1
    let avail := t.cc.descQ.takeWhile (fun d => decide (d.1 < e.cyc))
    let got := if e.idle then [] else avail.take m
    let ws := got.flatMap (fun d => [(⟨d.2.1, false⟩ : RWord), ⟨d.2.2, false⟩])
    let t1 := { t with cc := { t.cc with descQ := t.cc.descQ.drop got.length } }
    seqWrite .dtake e.cyc e.taint (BitVec.ofNat 16 (2 ^ (2 * m) - 1)) t1 (line + e.add) ws) t

/-- BLD: set base register b(N) from 16 bits of a word, with the word's mark; it applies from CYC + 4. N = 0 is reserved
(R288, R290). -/
def seqBld (h : SeqHdr) (n : BitVec 3) (line : BitVec 16) (word : BitVec 4) (hh : BitVec 2) (t : Tile) :
    Tile × List TOut :=
  hdrEntry { h with lg := false, bsel := 0 } true (fun e t =>
    if n = 0 then seqDrop h.site h.idx.toNat e.cyc t
    else
      let r := seqRead h.site e.cyc false (BitVec.ofNat 16 (2 ^ word.toNat)) t line
      let w := lget RWord.zero r.2.1 word.toNat
      let v : BitVec 16 := (w.bits >>> (16 * hh.toNat)).setWidth 16
      (sendEff r.1 (e.cyc + 4) (.base n.toNat ⟨v.setWidth 64, w.poison⟩), r.2.2)) t

/-- MSK: m1 := MASK (R288). -/
def seqMsk (h : SeqHdr) (mask : BitVec 16) (t : Tile) : Tile × List TOut :=
  hdrEntry { h with lg := false } false (fun _ t => ({ t with seq := { t.seq with m1 := mask } }, [])) t

/-- REP: the following NB entries are performed COUNT times; a REP inside the entries of another is a NOP (R289). -/
def seqRep (h : SeqHdr) (nb : BitVec 6) (count step : BitVec 10) (lstep : BitVec 2) (linc : BitVec 7) (t : Tile) :
    Tile × List TOut :=
  hdrEntry { h with lg := false } false (fun e t =>
    match repOf t h.ord.toNat with
    | some _ => (t, [])
    | none =>
      if nb = 0 then seqDrop h.site h.idx.toNat e.cyc t
      else
        let r : RepRec := ⟨h.ord.toNat, nb.toNat, count.toNat + 1, step.toNat, lstep.toNat, linc.toNat⟩
        ({ t with seq := { t.seq with reps := t.seq.reps.filter (fun q => q.ord != r.ord) ++ [r] } }, [])) t

/-- A NOP entry does nothing (R287). -/
def seqNop (h : SeqHdr) (t : Tile) : Tile × List TOut := hdrEntry { h with lg := false } false (fun _ t => (t, [])) t

end Sys2Proof.Machine
end

