-- ==== Sys2Proof/Machine/TileMesh.lean ====
section
/-! DEFINITION. The mesh router of a tile: its slot table, the flits that reach it, the ejection buffer, credited lines, and
the start of an invocation (R196-R219, R276). -/

namespace Sys2Proof.Machine

/-! ### Port configuration and slot table (R199, R201, R204, R230) -/

/-- The wire of a port p = 0 N, 1 E, 2 S, 3 W, 4 RIM (R230). -/
def wireOf (cfg : Word) (p : Nat) : Nat := (cfg >>> (8 * p)).toNat % 8
/-- Whether arrivals on a port are dropped (R201). -/
def fenceOf (cfg : Word) (p : Nat) : Bool := cfg.getLsbD (8 * p + 3)
/-- A port configuration with FENCEp set or cleared. -/
def setFence (cfg : Word) (p : Nat) (b : Bool) : Word :=
  let m : Word := 1 <<< (8 * p + 3)
  if b then cfg ||| m else cfg &&& ~~~m

/-- The inputs of the router: 0 N, 1 E, 2 S, 3 W, 4 L, 5 RIM; a source field names an input by its number + 1 (R204). -/
def portRim : Nat := 5

/-- The first entry and the number of entries of the active set (R231). -/
def activeSet (m : Mesh) : Nat × Nat :=
  if m.set then ((m.sets >>> 32).toNat % 2 ^ 13, (m.sets >>> 45).toNat % 2 ^ 14)
  else (m.sets.toNat % 2 ^ 13, (m.sets >>> 13).toNat % 2 ^ 14)

/-- Whether an entry is active at a cycle offset: CYC + i × 2^STRIDE for i = 0 to RUN (R204). -/
def slotActive (e : Word) (off : Nat) : Bool :=
  let c := e.toNat % 2 ^ 15
  let r := (e >>> 15).toNat % 1024
  let s := 2 ^ ((e >>> 25).toNat % 4)
  decide (c ≤ off) && (off - c) % s == 0 && decide ((off - c) / s ≤ r)

/-- The source field of an output 0 N, 1 E, 2 S, 3 W, 4 L, 5 RIM (R204). -/
def slotSrc (e : Word) (out : Nat) : Nat := (e >>> (27 + 3 * out)).toNat % 8

/-- The outputs that the active entries drive from an input in cycle `x` (R205, R210): none while the stencil does not
run or beyond its span. -/
def slotOuts (m : Mesh) (x inp : Nat) : List Nat :=
  let off := x - 2048 * m.beatAt
  if m.run && decide (2048 * m.beatAt ≤ x) && decide (off < 2048 * (m.span.toNat + 1)) then
    let s := activeSet m
    (List.range 6).filter (fun out => (List.range s.2).any (fun i =>
      let e := sget 0 m.slots (s.1 + i)
      slotActive e off && slotSrc e out == inp + 1))
  else []

/-! ### Flits at the router (R198, R200, R201, R205, R207) -/

/-- Whether a port receives: its wire is not OFF (R201); L always does. -/
def portOn (t : Tile) (inp : Nat) : Bool :=
  if inp = 4 then true else wireOf t.mesh.portCfg (if inp = 5 then 4 else inp) != 4

/-- Whether the arrivals of a port are dropped (R201). -/
def portFenced (t : Tile) (inp : Nat) : Bool :=
  if inp = 4 then false else fenceOf t.mesh.portCfg (if inp = 5 then 4 else inp)

/-- A flit selected for ejection: an RDREQ goes to the read unit, any other to the ejection buffer (R203). -/
def ejectFlit (x : Nat) (t : Tile) (f : Flit) : Tile :=
  if f.kind = kRdReq then
    { t with seq := { t.seq with reqs := t.seq.reqs ++ [⟨x, f.line, f.tag⟩] } }
  else { t with mesh := { t.mesh with eject := t.mesh.eject ++ [⟨x, f⟩] } }

/-- A flit at an input in slot cycle `x`: dropped at a fenced port, condemned when its sideband CRC fails, driven onto
every output that an active entry names, dropped and counted where none does (R198, R201, R205, R207). -/
def flitArrive (site x inp : Nat) (f : Flit) (t0 : Tile) : Tile × List TOut :=
  let r := tileSync site x t0
  let t := r.1
  if !portOn t inp then (t, r.2)
  else if portFenced t inp then
    ({ t with mesh := { t.mesh with fenceErr := satInc t.mesh.fenceErr } }, r.2)
  else
    let m1 := if f.crcOk then t.mesh else { t.mesh with linkErr := satInc t.mesh.linkErr }
    let f1 := if f.crcOk then f else { f with words := markAll f.words, crcOk := true }
    let t1 := { t with mesh := m1 }
    match slotOuts t1.mesh x inp with
    | [] => (hazAdd { t1 with mesh := { m1 with drop := satInc m1.drop } } 2 x 0, r.2)
    | outs =>
      let t2 := if outs.contains 4 then ejectFlit x t1 f1 else t1
      (t2, r.2 ++ (outs.filter (fun o => o != 4)).map (fun o => .send o x f1))

/-! ### Ejection (R34, R38, R203, R211, R214, R218) -/

/-- A line dropped under R38: counted, LAST_WIN set, and reported. -/
def landDropped (site : Nat) (t : Tile) (w : Nat) : Tile × List TOut :=
  ({ t with pad := { t.pad with landDrop := satInc t.pad.landDrop, lastWin := BitVec.ofNat 5 w } },
    [.rpt 0x0A (BitVec.ofNat 64 site) [BitVec.ofNat 64 w]])

/-- A credited line: the three checks of R38 in order, with the release range of R218 as the second. -/
def credLine (site x : Nat) (t : Tile) (f : Flit) : Tile × List TOut :=
  match winOf t.pad f.line with
  | none => landDropped site t 31
  | some n =>
    let w := winGet t.pad n
    if w.typ ≠ 1 ∨ w.source ≠ f.src then landDropped site t n
    else
      let d := (f.rel - w.nextRel).toNat
      let back : TOut := .credit w.source (BitVec.ofNat 5 n) 1
      if 128 ≤ d then
        (hazAdd { t with mesh := { t.mesh with late := satInc t.mesh.late } } 7 x 0, [back])
      else if 4 ≤ d then
        let r := landDropped site t n
        (r.1, r.2 ++ [back])
      else if w.credits = 0 then landDropped site t n
      else
        let q : BitVec 2 := f.rel.setWidth 2
        let w1 := arrPut { w with credits := w.credits - 1 } q (arrGet w q + 1)
        ({ t with pad := sendWrite (winPut t.pad n w1) ⟨x, .mesh, f.line, f.wen, f.words⟩ }, [])

/-- An RDREP at its requester: written to the destination of its read-return entry; marked when the server could not
serve it, or when its line is not the one requested, which is counted (R203, R214). -/
def rdRep (x : Nat) (t : Tile) (f : Flit) : Tile :=
  let e := sget ⟨0, 0⟩ t.seq.retn f.tag.toNat
  let put := fun (t : Tile) ws => { t with pad := sendWrite t.pad ⟨x, .mesh, e.dest, 0xFFFF, ws⟩ }
  if f.err then put t (markAll f.words)
  else if f.line ≠ e.src then
    put (hazAdd { t with mesh := { t.mesh with miss := satInc t.mesh.miss } } 8 x 0) (markAll f.words)
  else put t f.words

/-- A LANEREC writes 16 consecutive entries of the shadow lane table; lanes above 63 are discarded and a marked word
writes 0 (R211). -/
def laneRec (t : Tile) (f : Flit) : Tile :=
  let put := fun (m : SMap Word) (i : Nat) =>
    if f.lane.toNat + i < 64 then
      let w := lget RWord.zero f.words i
      sset 0 m (f.lane.toNat + i) (if w.poison then 0 else w.bits)
    else m
  let shadow := (List.range 16).foldl put t.seq.laneShadow
  { t with seq := { t.seq with laneShadow := shadow } }

/-- One ejected flit, by its kind (R203). -/
def ejectWrite (site x : Nat) (acc : Tile × List TOut) (f : Flit) : Tile × List TOut :=
  let t := acc.1
  if f.kind = kIdle ∨ f.kind = kRdReq then acc
  else if f.kind = kData then
    ({ t with pad := sendWrite t.pad ⟨x, .mesh, f.line, f.wen, f.words⟩ }, acc.2)
  else if f.kind = kRdRep then (rdRep x t f, acc.2)
  else if f.kind = kCred then
    let r := credLine site x t f
    (r.1, acc.2 ++ r.2)
  else if f.kind = kLaneRec then (laneRec t f, acc.2)
  else ({ t with mesh := { t.mesh with drop := satInc t.mesh.drop } }, acc.2)

/-- The flits ejected in cycles x - 1 and x are written in the odd bank cycle x (R34, R203). -/
def ejection (site x : Nat) (t0 : Tile) : Tile × List TOut :=
  let r := tileSync site x t0
  if x % 2 = 1 then
    let due := r.1.mesh.eject.filter (fun e => decide (e.cyc ≤ x))
    let t := { r.1 with mesh := { r.1.mesh with eject := r.1.mesh.eject.filter (fun e => !decide (e.cyc ≤ x)) } }
    let w := due.foldl (fun acc e => ejectWrite site x acc e.flit) (dropReqs x t, [])
    (w.1, r.2 ++ w.2)
  else r

/-! ### Frames and beats (R208-R211, R276) -/

/-- A tile at the start of frame F: it has reached the frame's first cycle, and the frame's clip events become due. -/
def tileFrame (site fr : Nat) (t : Tile) : Tile × List TOut :=
  let r := tileSync site (2048 * fr) t
  let t1 := dropReqs (2048 * fr) r.1
  ({ t1 with fab := clipFrameOf t1.fab }, r.2)
where
  /-- The frame's clip events become the report that is due (R75). -/
  clipFrameOf (f : Fabric) : Fabric :=
    { f with clipDue := if f.clipN = 0 then none else some (f.clipN, f.clipFirst), clipN := 0 }

/-- A tile at a beat boundary in frame F: the stencil starts at offset 0, the shadow lane table becomes active and is
cleared, a WAITC ends, and an idle control core starts at instruction 0 (R210, R211, R276, R279). -/
def tileBeat (fr : Nat) (held : Bool) (t : Tile) : Tile :=
  { t with
    mesh := { t.mesh with run := true, beatAt := fr, held := held },
    seq := { t.seq with laneAct := t.seq.laneShadow, laneShadow := [], reps := [] },
    cc := if t.cc.st = .idle then { t.cc with st := .running, pc := 0, wait := none, next := 2048 * fr }
      else { t.cc with wait := none } }

end Sys2Proof.Machine
end

