-- ==== Sys2Proof/Machine/Module.lean ====
section
/-! DEFINITION. The shared operations of the module: time, reports, tiles and the flits and credits that leave them,
the mesh wires, module DRAM words and its check bits, and the latch of answers. -/

namespace Sys2Proof.Machine

/-! ### Time (R8, R14, R208, R589) -/

/-- The frame counter (R8). -/
def frameCtr (s : State) : BitVec 48 := BitVec.ofNat 48 s.frames
/-- The tile cycle k of the current frame, counted from cold reset. -/
def cycAt (s : State) (k : Nat) : Nat := 2048 * s.frames + k
/-- The length of a frame at a frequency code, in units of 1/7,927,920 ns: 327,680 ÷ (11 × (16 − k)) ns (R589). -/
def frameUnits (k : BitVec 4) : Nat := 327680 * 720720 / (16 - k.toNat)
/-- Module time in nanoseconds (R8). -/
def moduleNs (s : State) : Word := BitVec.ofNat 64 (s.time / 7927920)

/-! ### Answers, reports and violations (R142, R488, R521, R547) -/

/-- Latch an answer to the requester. -/
def latch (s : State) (r : Reply) : State := { s with reply := some r }
/-- Latch an answer without tags. -/
def answer (s : State) (status : Nat) (ws : List RWord) : State := latch s ⟨status, ws, []⟩
/-- Latch an answer without data. -/
def answerCode (s : State) (status : Nat) : State := answer s status []

/-- Change the fault unit. -/
def onFlt (f : Flt → Flt) (s : State) : State := { s with flt := f s.flt }

/-- A report leaves for the service die (R547). -/
def sendRpt (s : State) (src : Nat) (code : BitVec 6) (unit : Word) (detail : List Word) : State :=
  onFlt (fun f => { f with flight := f.flight ++ [⟨code, frameCtr s, unit, detail, src⟩] }) s

/-- The service die's node (R223). -/
def svcNode : Nat := 8096

/-- A report raised by the service die itself. -/
def svcRpt (s : State) (code : BitVec 6) (unit : Word) (detail : List Word) : State := sendRpt s svcNode code unit detail

/-- The event code POWER (R548). -/
def codePower : BitVec 6 := 0x1A

/-- A failed tenant check: counted, captured when the record is free, and reported (R521, R544). -/
def tenantViol (s : State) (kind : Nat) (claimed owner : BitVec 12) (node : Nat) : State :=
  let c := { s.sec with viol := satInc s.sec.viol }
  let c1 := if c.vValid then c else
    { c with vKind := BitVec.ofNat 4 kind, vClaimed := claimed, vOwner := owner, vNode := BitVec.ofNat 13 node, vValid := true }
  sendRpt { s with sec := c1 } node 0x15 (BitVec.ofNat 64 node)
    [BitVec.ofNat 64 kind, claimed.setWidth 64, owner.setWidth 64]

/-- An address error of R42, recorded in the error log. -/
def addrErr (s : State) (node : Nat) (addr : Word) : State := sendRpt s node 0x16 addr []

/-! ### Rim dies and the grid (R14, R15, R177, R199, R574) -/

/-- X of a site (R14). -/
def siteX (site : Nat) : Nat := site % 96
/-- Y of a site (R14). -/
def siteY (site : Nat) : Nat := site / 96

/-- The first attached coordinate of each link die on its edge (R15). -/
def linkRun : List Nat := [4, 22, 68, 86]
/-- The first attached coordinate of each memory die on the south and north edges (R15). -/
def memRun : List Nat := [14, 32, 60, 78]
/-- The first attached coordinate of each link die on the west and east edges (R15). -/
def linkRunW : List Nat := [6, 26, 52, 72]
/-- The first attached coordinate of each memory die on the west and east edges (R15). -/
def memRunW : List Nat := [16, 36, 44, 64]

/-- The attached tile of port p of the rim die with SOURCE code c; none where the die has no such port (R15, R49). -/
def rimSite (c p : Nat) : Option Nat :=
  let edge := c % 16 / 4
  let i := c % 4
  let at_ (z : Nat) : Nat :=
    if edge = 0 then z else if edge = 1 then 83 * 96 + z else if edge = 2 then 96 * z else 96 * z + 95
  if c = 0x20 then (if p < 8 then some (44 + p) else none)
  else if c < 16 then
    if p < 6 then some (at_ (lget 0 (if edge < 2 then linkRun else linkRunW) i + p)) else none
  else if c < 32 then
    if p < 4 then some (at_ (lget 0 (if edge < 2 then memRun else memRunW) i + p)) else none
  else none

/-- The rim die, by SOURCE code, and its port at a site (R15). -/
def rimOf (site : Nat) : Option (Nat × Nat) :=
  ((List.range 33).flatMap (fun c => (List.range 8).map (fun p : Nat => (c, p)))).find? (fun cp => rimSite cp.1 cp.2 == some site)

/-- The lath node of a rim die with SOURCE code c (R223). -/
def rimNode (c : Nat) : Nat := 8064 + c

/-- The calibration block of a site (R177). -/
def blockOf (site : Nat) : Nat := siteY site / 12 * 8 + siteX site / 12
/-- The VLOG zone of a site (R574). -/
def zoneOf (site : Nat) : Nat := siteY site / 14 * 8 + siteX site / 12
/-- The hub of a block: block-local (6, 6), or the alternate (5, 6) once promoted (R220, R552). -/
def hubOf (s : State) (b : Nat) : Nat :=
  let x := 12 * (b % 8) + if s.lath.promoted.getLsbD b then 5 else 6
  96 * (12 * (b / 8) + 6) + x
/-- The sites of a block. -/
def blockSites (b : Nat) : List Nat :=
  (List.range 144).map (fun i => 96 * (12 * (b / 8) + i / 12) + 12 * (b % 8) + i % 12)

/-- The site that a port (0 N, 1 E, 2 S, 3 W) reaches by a wire, none off the grid or where R199 has no wire. -/
def wireEnd (site port wire : Nat) : Option Nat :=
  let d : Option (Int × Int) :=
    match wire, port with
    | 0, 0 => some (0, 1) | 0, 1 => some (1, 0) | 0, 2 => some (0, -1) | 0, 3 => some (-1, 0)
    | 1, 0 => some (0, 2) | 1, 1 => some (2, 0) | 1, 2 => some (0, -2) | 1, 3 => some (-2, 0)
    | 2, 0 => some (1, 1) | 2, 2 => some (1, -1)
    | 3, 0 => some (-1, 1) | 3, 2 => some (-1, -1)
    | _, _ => none
  match d with
  | none => none
  | some (dx, dy) =>
    let x : Int := siteX site + dx
    let y : Int := siteY site + dy
    if 0 ≤ x ∧ x < 96 ∧ 0 ≤ y ∧ y < 84 then some (96 * y.toNat + x.toNat) else none

/-- The port at the far end of a port: N meets S, E meets W (R199). -/
def farPort (p : Nat) : Nat := (p + 2) % 4

/-! ### Tiles -/

/-- The tile at a site. -/
def tileAt (s : State) (site : Nat) : Tile := sget Tile.reset s.grid.tiles site
/-- Change the grid. -/
def onGrid (f : Grid → Grid) (s : State) : State := { s with grid := f s.grid }
/-- Store a tile. -/
def tilePut (s : State) (site : Nat) (t : Tile) : State :=
  onGrid (fun g => { g with tiles := sset Tile.reset g.tiles site t }) s
/-- Whether a site is fenced (R19, R26). -/
def isFenced (s : State) (site : Nat) : Bool := s.grid.fenced.getLsbD site
/-- Whether the tiles are stopped: by a freeze from its stop frame on, or for want of power (R582, R613, R629). -/
def gridStopped (s : State) : Bool :=
  s.svc.frz == 2 || (s.svc.frz == 1 && decide (s.svc.stopFrame.toNat ≤ s.frames % 2 ^ 48)) || decide (3 ≤ s.pwr.act.toNat) || s.pwr.hot
/-- Whether a tile's router runs (R26, R549). -/
def routerLive (s : State) (site : Nat) : Bool := !isFenced s site && !gridStopped s
/-- Whether a tile's units run. -/
def tileLive (s : State) (site : Nat) : Bool := routerLive s site && !s.grid.gated.contains site

/-- The credit that a source agent holds for window w of a tile (R38, R39). -/
def creditKey (source site w : Nat) : Nat := (source * 8064 + site) * 32 + w
/-- Return credits to a source agent (R39, R218, R224). -/
def creditBack (s : State) (source site w n : Nat) : State :=
  onGrid (fun g => { g with credit := supd 0 g.credit (creditKey source site w) (· + n) }) s

/-- Put a flit on a wire. -/
def launch (s : State) (site port cyc : Nat) (f : Flit) : State :=
  onGrid (fun g => { g with flits := g.flits ++ [⟨site, port, cyc, f⟩] }) s

/-- A route word of R492: the flit has WEN = 0. -/
def gateFlit (s : State) (d : LinkDie) (f : Flit) : LinkDie :=
  if f.wen = 0 then { d with route := (lget RWord.zero f.words 0).bits }
  else { d with gate := d.gate ++ [⟨d.route, f.line, f.words, s.frames⟩] }

/-- A link die. -/
def linkAt (s : State) (n : Nat) : LinkDie := sget LinkDie.reset s.ld n
/-- Store a link die. -/
def linkPut (s : State) (n : Nat) (d : LinkDie) : State := { s with ld := sset LinkDie.reset s.ld n d }

/-- What a rim die does with a flit sent to RIM (R215, R418, R492): a link die keeps a gateway line. -/
def rimAccept (s : State) (site : Nat) (f : Flit) : State :=
  match rimOf site with
  | some (c, _) => if c < 16 then linkPut s c (gateFlit s (linkAt s c) f) else s
  | none => s

/-- A flit leaves a router's output in a tile cycle: over the wire that both ends select, 2 tc later; lost where the far
end does not select it (R199, R200). -/
def sendFlit (s : State) (site port cyc : Nat) (f : Flit) : State :=
  if port = 5 then rimAccept s site f
  else
    let w := wireOf (tileAt s site).mesh.portCfg port
    match wireEnd site port w with
    | none => s
    | some far =>
      let back := wireOf (tileAt s far).mesh.portCfg (farPort port)
      if wireEnd far (farPort port) back = some site then launch s far (farPort port) (cyc + 2) f else s

/-- What a tile sends out in a step. -/
def putOut (site : Nat) (s : State) (o : TOut) : State :=
  match o with
  | .rpt c u d => sendRpt s site c u d
  | .flit p x f => launch s site p x f
  | .send p x f => sendFlit s site p x f
  | .credit src w n => creditBack s src.toNat site w.toNat n.toNat
  | .viol k c o => tenantViol s k c o site

/-- Run a step of a tile and send what it sends. -/
def tileRun (s : State) (site : Nat) (f : Tile → Tile × List TOut) : State :=
  let r := f (tileAt s site)
  r.2.foldl (putOut site) (tilePut s site r.1)

/-- Run a step of a tile whose units run; a fenced, gated, unpowered or frozen tile does nothing (R26, R613). -/
def tileDo (s : State) (site : Nat) (f : Tile → Tile × List TOut) : State :=
  if tileLive s site then tileRun s site f else s

/-- Run a step of a tile's router. -/
def routerDo (s : State) (site : Nat) (f : Tile → Tile × List TOut) : State :=
  if routerLive s site then tileRun s site f else s

/-! ### Module DRAM (R449, R451, R456) -/

/-- The die of a DRAM address (R449). -/
def dramDie (a : Nat) : Nat := a / 2 ^ 23 % 16
/-- The extent of a DRAM address (R449). -/
def dramExt (a : Nat) : Nat := a / 2 ^ 27 % 65536
/-- A memory die. -/
def mdAt (s : State) (n : Nat) : MemDie := sget MemDie.reset s.md n
/-- Store a memory die. -/
def mdPut (s : State) (n : Nat) (d : MemDie) : State := { s with md := sset MemDie.reset s.md n d }

/-- The reset value of extent entry e: SYSTEM in system stripes (R456). -/
def extReset (e : Nat) : BitVec 32 := if e < 592 then 1 else 0
/-- Extent entry e of a die. -/
def extAt (d : MemDie) (e : Nat) : BitVec 32 := sget (extReset e) d.ext e
/-- Write extent entry e. -/
def extPut (d : MemDie) (e : Nat) (v : BitVec 32) : MemDie := { d with ext := sset (extReset e) d.ext e v }
/-- CLASS of an entry: 0 FREE, 1 SYSTEM, 2 LIBRARY, 3 CACHE, 4 HOST, 5 BAD. -/
def extClass (v : BitVec 32) : Nat := v.toNat % 8
/-- TENANT of an entry. -/
def extTenant (v : BitVec 32) : BitVec 12 := (v >>> 4).setWidth 12

/-- Capture a DRAM error when the record is free (R451). -/
def dramCapture (d : MemDie) (a : Nat) (typ : Bool) : MemDie :=
  if d.eccValid then d else { d with eccAddr := BitVec.ofNat 43 a, eccType := typ, eccValid := true }

/-- An uncorrectable word counts toward BAD once, at the first read that finds it; a second one in the extent makes it
BAD (R456). -/
def dramDamage (d : MemDie) (a : Nat) : MemDie :=
  if d.known.contains a then d
  else
    let e := dramExt a
    let n := sget 0 d.bad e + 1
    let d1 := { d with known := d.known ++ [a], bad := sset 0 d.bad e n }
    if 2 ≤ n ∧ extClass (extAt d1 e) ≠ 1 then extPut d1 e ((extAt d1 e &&& 0xFFFFFFF8) ||| 5) else d1

/-- Read the DRAM word at word address w = A ÷ 8: corrected and written back, or poisoned, counted, captured and reported
(R451). -/
def dramRead (s : State) (w : Nat) : RWord × State :=
  let v := sget SWord.zero s.dram w
  let n := dramDie (8 * w)
  match v.ecc with
  | .good => (⟨v.bits, false⟩, s)
  | .single =>
    let d := mdAt s n
    let s1 := mdPut s n (dramCapture { d with ce := satInc d.ce } (8 * w) false)
    (⟨v.bits, false⟩, { s1 with dram := sset SWord.zero s1.dram w ⟨v.bits, .good⟩ })
  | _ =>
    let d := mdAt s n
    let s1 := mdPut s n (dramDamage (dramCapture { d with ue := satInc d.ue } (8 * w) true) (8 * w))
    (⟨v.bits, true⟩, sendRpt s1 (8080 + n) 0x04 (BitVec.ofNat 64 (8 * w)) [])

/-- A whole-word write: fresh check bits, which end any error (R451). -/
def dramWrite (s : State) (w : Nat) (v : Word) : State :=
  let n := dramDie (8 * w)
  let d := mdAt s n
  let s1 := if d.known.contains (8 * w) then mdPut s n { d with known := d.known.filter (· != 8 * w) } else s
  { s1 with dram := sset SWord.zero s1.dram w ⟨v, .good⟩ }

/-- A byte-masked write: read, merge, write; over an uncorrectable word the merge keeps it uncorrectable (R451). -/
def dramMask (s : State) (w : Nat) (m : Byte) (v : Word) : State :=
  if m = 0xFF then dramWrite s w v
  else if m = 0 then s
  else
    let r := dramRead s w
    let bits := (List.range 8).foldl (fun (acc : Word) b =>
      if m.getLsbD b then (acc &&& ~~~((0xFF : Word) <<< (8 * b))) ||| (v &&& ((0xFF : Word) <<< (8 * b))) else acc) r.1.bits
    if r.1.poison then { r.2 with dram := sset SWord.zero r.2.dram w ⟨bits, .double⟩ }
    else dramWrite r.2 w bits

/-- Read n words from a word address on. -/
def dramReads (s : State) (w n : Nat) : List RWord × State :=
  (List.range n).foldl (fun acc i =>
    let r := dramRead acc.2 (w + i)
    (acc.1 ++ [r.1], r.2)) ([], s)

/-- Write words from a word address on, in address order. -/
def dramWrites (s : State) (w : Nat) (vs : List Word) : State :=
  ((List.range vs.length).zip vs).foldl (fun acc iv => dramWrite acc (w + iv.1) iv.2) s

/-- Zero n words from a word address on, which ends their errors (R451). -/
def dramZero (s : State) (w n : Nat) : State :=
  { s with
    dram := skeep s.dram (fun k _ => !(decide (w ≤ k) && decide (k < w + n)))
    md := smap MemDie.reset s.md (fun _ d => { d with known := d.known.filter (fun a => !(decide (8 * w ≤ a) && decide (a < 8 * (w + n)))) }) }

/-- Byte i of the 128-byte line or longer run of words that begins at a word address. -/
def dramBytes (ws : List RWord) : List Byte := (List.range (8 * ws.length)).map (byteOf (bitsOf ws))

end Sys2Proof.Machine
end

