-- ==== Sys2Proof/Machine/Place.lean ====
section
/-! DEFINITION. The geometry of placement: the logical plane of a course, its layout over fenced tiles, the legality of a
rectangle, the search for an origin, and the wires of a placed tile (R327-R333, R199). -/

namespace Sys2Proof.Machine

/-! ### The plane of a course (R327) -/

/-- A region member on the logical plane of its course: its index in the REGION section, its variant, its column and
row on the course, and its logical size. -/
structure Plan where
  reg : Nat
  variant : Nat
  cx : Nat
  cy : Nat
  lw : Nat
  lh : Nat
deriving DecidableEq, Repr

/-- A region of an image by its section index. -/
def regAt (i : Image) (n : Nat) : Option ImgRegion := i.regions[n]?

/-- The variant index that a profile selects for a region (R244). -/
def selOf (i : Image) (prof n : Nat) : Nat :=
  match i.profiles[prof]? with
  | some p => lget 0 p.sel n
  | none => 0

/-- The variant that a profile selects. -/
def varOf (i : Image) (prof n : Nat) : Option ImgVariant :=
  match regAt i n with
  | some r => r.vars[selOf i prof n]?
  | none => none

/-- The section indices of the regions of a pipeline (R327). -/
def pipeRegs (i : Image) (q : Nat) : List Nat :=
  (List.range i.regions.length).filter (fun n => (regAt i n).any (fun r => r.pipe == q))

/-- The CHAIN_POS of a region. -/
def posOf (i : Image) (n : Nat) : Nat := match regAt i n with | some r => r.pos | none => 0

/-- The stacks of a pipeline, in ascending CHAIN_POS, each with its members in section order. -/
def stacksOf (i : Image) (q : Nat) : List (List Nat) :=
  let rs := pipeRegs i q
  ((List.range 256).filter (fun k => rs.any (fun n => posOf i n == k))).map (fun k =>
    rs.filter (fun n => posOf i n == k))

/-- The members of one stack from a course column on. -/
def stackPlan (i : Image) (prof col : Nat) (ms : List Nat) : List Plan :=
  ((List.range ms.length).zip ms).filterMap (fun jm =>
    (varOf i prof jm.2).map (fun v => ⟨jm.2, selOf i prof jm.2, col, jm.1 * v.lh, v.lw, v.lh⟩))

/-- The width of a stack: the logical width of its primary and its scrim column. -/
def stackWidth (i : Image) (prof : Nat) (ms : List Nat) : Nat :=
  match ms with
  | [] => 0
  | n :: _ => match varOf i prof n with | some v => v.lw + 1 | none => 0

/-- The plane of a pipeline's course: its members, its width and its height (R327). -/
def coursePlan (i : Image) (prof q : Nat) : List Plan × Nat × Nat :=
  (stacksOf i q).foldl (fun (acc : List Plan × Nat × Nat) ms =>
    let p := stackPlan i prof acc.2.1 ms
    let h := p.foldl (fun m x => max m (x.cy + x.lh)) acc.2.2
    (acc.1 ++ p, acc.2.1 + stackWidth i prof ms, h)) ([], 0, 0)

/-! ### Layout over fences (R329, R330) -/

/-- Whether placement takes a site as fenced: not exposed, fenced, or fenced compute-only (R329, R549). -/
def fencedFor (s : State) (site : Nat) : Bool := isFenced s site || s.grid.gated.contains site

/-- The fences of one row of a member, as offsets from its first column. -/
def rowFences (fen : Nat → Bool) (x0 y w : Nat) : List Nat :=
  (List.range w).filter (fun d => fen (96 * y + x0 + d))

/-- The shift of one row of a member: none where two fences forbid it, otherwise the first logical tile east of the fence,
or LW where the row is not shifted (R329). -/
def rowShift (fen : Nat → Bool) (x0 y lw : Nat) : Option Nat :=
  match rowFences fen x0 y (lw + 1) with
  | [] => some lw
  | [d] => some d
  | _ => none

/-- A member laid out at an origin: the shift of each row (R329). -/
def memberRows (fen : Nat → Bool) (x0 y0 : Nat) (p : Plan) : Option (List Nat) :=
  (List.range p.lh).mapM (fun r => rowShift fen (x0 + p.cx) (y0 + p.cy + r) p.lw)

/-- The X of logical column lx of a row whose shift is sh. -/
def rowX (base sh lx : Nat) : Nat := base + lx + if sh ≤ lx then 1 else 0

/-- The X positions of the logical tiles of one course row, stack by stack (R330). -/
def courseRow (x0 : Nat) (rows : List (Plan × List Nat)) (r : Nat) : List (List (Nat × Nat)) :=
  (rows.filter (fun pr => decide (pr.1.cy ≤ r) && decide (r < pr.1.cy + pr.1.lh))).map (fun pr =>
    (List.range pr.1.lw).map (fun lx => (pr.1.cx + lx, rowX (x0 + pr.1.cx) (lget 0 pr.2 (r - pr.1.cy)) lx)))

/-- Whether consecutive entries of a row that are logically adjacent lie 1 or 2 sites apart (R330 condition 3). The
scrim column between two stacks has no logical coordinate, so the last column of one and the first of the next are
adjacent. -/
def rowOk (width : Nat → Nat) : List (Nat × Nat) → Bool
  | a :: b :: t =>
    (if width a.1 = b.1 then decide (a.2 < b.2) && decide (b.2 ≤ a.2 + 2) else true) && rowOk width (b :: t)
  | _ => true

/-- The course column that follows a column logically: the next one, skipping a scrim column. -/
def nextCol (plan : List Plan) (c : Nat) : Nat :=
  if plan.any (fun p => p.cx + p.lw == c + 1) then c + 2 else c + 1

/-- Whether vertically adjacent tiles of two rows lie at most one column apart (R330 condition 4). -/
def colsOk (low high : List (Nat × Nat)) : Bool :=
  low.all (fun a => high.all (fun b => a.1 != b.1 || (decide (b.2 ≤ a.2 + 1) && decide (a.2 ≤ b.2 + 1))))

/-- Whether two fences stand one above the other in the rectangle (R330 condition 2). -/
def fencePair (fen : Nat → Bool) (x0 y0 w h : Nat) : Bool :=
  (List.range (h - 1)).any (fun r => (List.range w).any (fun d =>
    fen (96 * (y0 + r) + x0 + d) && fen (96 * (y0 + r + 1) + x0 + d)))

/-- The layout of a course at an origin, none where the rectangle is not legal (R329, R330). -/
def layoutAt (fen : Nat → Bool) (plan : List Plan) (w h x0 y0 : Nat) : Option (List (Plan × List Nat)) :=
  if 96 < x0 + w ∨ 84 < y0 + h ∨ fencePair fen x0 y0 w h then none
  else
    match plan.mapM (fun p => (memberRows fen x0 y0 p).map (fun r => (p, r))) with
    | none => none
    | some rows =>
      let line := fun r => (courseRow x0 rows r).flatten
      if (List.range h).all (fun r => rowOk (nextCol plan) (line r)) &&
          (List.range (h - 1)).all (fun r => colsOk (line r) (line (r + 1)))
      then some rows else none

/-! ### Placed courses -/

/-- Whether a site of a course is a site that a course rectangle covers. -/
def inCourse (c : Course) (site : Nat) : Bool :=
  decide (c.x0 ≤ siteX site) && decide (siteX site < c.x0 + c.w) && decide (c.y0 ≤ siteY site) &&
    decide (siteY site < c.y0 + c.h)

/-- Whether two rectangles share a site. -/
def overlaps (c d : Course) : Bool :=
  decide (c.x0 < d.x0 + d.w) && decide (d.x0 < c.x0 + c.w) && decide (c.y0 < d.y0 + d.h) && decide (d.y0 < c.y0 + c.h)

/-- The placed members of a layout; a shift is marked in service when its fence is an exposed site (R348). -/
def placedRegs (s : State) (x0 y0 : Nat) (rows : List (Plan × List Nat)) : List PlacedReg :=
  rows.map (fun pr =>
    { reg := pr.1.reg, variant := pr.1.variant, x0 := x0 + pr.1.cx, y0 := y0 + pr.1.cy,
      shifts := ((List.range pr.1.lh).filter (fun r => lget 0 pr.2 r < pr.1.lw)).map (fun r =>
        let sh := lget 0 pr.2 r
        ⟨r, sh, s.grid.exposed.getLsbD (96 * (y0 + pr.1.cy + r) + x0 + pr.1.cx + sh)⟩),
      st := 1 })

/-- The shift of row ly of a placed region: LW where the row is not shifted. -/
def shiftOf (p : PlacedReg) (lw ly : Nat) : Nat :=
  match p.shifts.find? (fun h => h.ly == ly) with
  | some h => h.lx
  | none => lw

/-- The logical width and height of a placed region. -/
def placedSize (i : Image) (p : PlacedReg) : Nat × Nat :=
  match (regAt i p.reg).bind (fun r => r.vars[p.variant]?) with
  | some v => (v.lw, v.lh)
  | none => (0, 0)

/-- The site of a logical tile of a placed region (R329). -/
def placedSite (i : Image) (p : PlacedReg) (lx ly : Nat) : Option Nat :=
  let z := placedSize i p
  if lx < z.1 ∧ ly < z.2 then some (96 * (p.y0 + ly) + rowX p.x0 (shiftOf p z.1 ly) lx) else none

/-- The placed region with a section index. -/
def placedOf (cs : List Course) (reg : Nat) : Option PlacedReg :=
  (cs.flatMap (fun (c : Course) => c.regs)).find? (fun p => p.reg == reg)

/-- The section index of a REGION_ID. -/
def regIndex (i : Image) (id : Nat) : Nat := i.regions.findIdx (fun r => r.id == id)

/-- The site of logical tile (lx, ly) of the region with a REGION_ID (R261). -/
def logicalSite (i : Image) (cs : List Course) (id lx ly : Nat) : Option Nat :=
  (placedOf cs (regIndex i id)).bind (fun p => placedSite i p lx ly)

/-- The course, placed region and logical tile at a site, where a placed region has one. -/
def tileOf (i : Image) (cs : List Course) (site : Nat) : Option (Course × PlacedReg × Nat × Nat) :=
  (cs.flatMap (fun (c : Course) => c.regs.map (fun p => (c, p)))).findSome? (fun cp =>
    let z := placedSize i cp.2
    if cp.2.y0 ≤ siteY site ∧ siteY site < cp.2.y0 + z.2 then
      let ly := siteY site - cp.2.y0
      ((List.range z.1).find? (fun lx => placedSite i cp.2 lx ly == some site)).map (fun lx => (cp.1, cp.2, lx, ly))
    else none)

/-- The sites of a placed region in ascending logical index LY x LW + LX. -/
def regSites (i : Image) (p : PlacedReg) : List Nat :=
  let z := placedSize i p
  (List.range (z.1 * z.2)).filterMap (fun n => placedSite i p (n % z.1) (n / z.1))

/-- The image in force with its placement, as an image without regions where none is loaded. -/
def curTile (s : State) (site : Nat) : Option (Course × PlacedReg × Nat × Nat) :=
  match s.load.img with
  | some i => tileOf i s.plc.courses site
  | none => none

/-- The region at a site. -/
def curRegion (s : State) (site : Nat) : Option ImgRegion :=
  match s.load.img, curTile s site with
  | some i, some t => regAt i t.2.1.reg
  | _, _ => none

/-! ### The search (R331, R332, R245) -/

/-- Whether the rim-attached tiles that the RIM entries of an anchored region name lie on logical tiles of that region, and none of
their ports is lost (R259, R331, R549, R553). -/
def anchorsOk (s : State) (i : Image) (c : Course) : Bool :=
  c.regs.all (fun p =>
    match regAt i p.reg with
    | none => true
    | some r =>
      if r.anchor = 0xFF then true
      else (i.rims.filter (fun e => e.rim == r.anchor)).all (fun e =>
        match rimSite e.rim e.port with
        | some site => (regSites i p).contains site && !s.plc.deadPorts.contains (8 * e.rim + e.port) &&
            !(decide (e.rim < 16) && (linkAt s e.rim).silent)
        | none => false))

/-- Whether a course holds an anchored region. -/
def isAnchored (i : Image) (q : Nat) : Bool :=
  (pipeRegs i q).any (fun n => (regAt i n).any (fun r => r.anchor != 0xFF))

/-- A course of a pipeline at an origin, none where it is not legal or meets a course already placed. -/
def courseAt (s : State) (fen : Nat → Bool) (i : Image) (prof q : Nat) (others : List Course) (x0 y0 : Nat) :
    Option Course :=
  let pl := coursePlan i prof q
  match layoutAt fen pl.1 pl.2.1 pl.2.2 x0 y0 with
  | none => none
  | some rows =>
    let c : Course := { pipe := q, x0 := x0, y0 := y0, w := pl.2.1, h := pl.2.2, regs := placedRegs s x0 y0 rows, rotate := false }
    if others.any (overlaps c) || !anchorsOk s i c then none else some c

/-- The first legal origin in ascending Y0, then ascending X0 (R332). -/
def searchCourse (s : State) (fen : Nat → Bool) (i : Image) (prof q : Nat) (others : List Course) : Option Course :=
  (List.range (84 * 96)).findSome? (fun n => courseAt s fen i prof q others (n % 96) (n / 96))

/-- Whether a pipeline holds a region that is placed at load (R245, R332). -/
def atLoadPipe (i : Image) (q : Nat) : Bool :=
  (pipeRegs i q).any (fun n => (regAt i n).any (fun r => r.atLoad))

/-- The pipelines of an image. -/
def pipesOf (i : Image) : List Nat := (List.range 256).filter (fun q => !(pipeRegs i q).isEmpty)

/-- Place a list of pipelines one after another; none where one cannot be placed. -/
def placeAll (s : State) (fen : Nat → Bool) (i : Image) (prof : Nat) (start : List Course) (qs : List Nat) :
    Option (List Course) :=
  qs.foldl (fun acc q => acc.bind (fun cs => (searchCourse s fen i prof q cs).map (fun c => cs ++ [c]))) (some start)

/-- The order in which the courses of a load are placed: those with an anchored region first, each part in ascending
PIPE (R331, R332). -/
def placeOrder (i : Image) : List Nat :=
  let qs := (pipesOf i).filter (atLoadPipe i)
  qs.filter (isAnchored i) ++ qs.filter (fun q => !isAnchored i q)

/-- The number of exposed sites (NEXP). -/
def nexp (s : State) : Nat := (List.range 8064).countP (fun i => s.grid.exposed.getLsbD i)

/-- The profile and placement of a load: the first profile whose FIXED_TILES is at most NEXP and whose at-load regions
the trowel places (R245). -/
def placeImage (s : State) (i : Image) : Option (Nat × List Course) :=
  i.profiles.findSome? (fun p =>
    if p.fixedTiles ≤ nexp s then
      (placeAll s (fencedFor s) i p.prof [] (placeOrder i)).map (fun cs => (p.prof, cs))
    else none)

/-- A recorded placement that still stands: every course still has the layout recorded for it (R333). -/
def placementHolds (s : State) (i : Image) (prof : Nat) (cs : List Course) : Bool :=
  !cs.isEmpty && cs.all (fun c =>
    (courseAt s (fencedFor s) i prof c.pipe [] c.x0 c.y0).any (fun d => d.regs.map (fun r => (r.reg, r.x0, r.y0,
      r.shifts.map (fun h => (h.ly, h.lx)))) == c.regs.map (fun r => (r.reg, r.x0, r.y0,
      r.shifts.map (fun h => (h.ly, h.lx))))))

/-! ### Wires (R199, R230) -/

/-- The wire that joins a site to its logical neighbour by a port 0 N, 1 E, 2 S, 3 W; 4 OFF without one. -/
def wireTo (site port : Nat) (far : Option Nat) : Nat :=
  match far with
  | none => 4
  | some f => ((List.range 4).find? (fun w => wireEnd site port w == some f)).getD 4

/-- The site of the course row r at logical course column c, where a member has a tile there. -/
def courseSite (i : Image) (c : Course) (col row : Nat) : Option Nat :=
  c.regs.findSome? (fun p =>
    if p.x0 ≤ c.x0 + col ∧ p.y0 ≤ c.y0 + row then placedSite i p (c.x0 + col - p.x0) (c.y0 + row - p.y0) else none)

/-- MESH_PORT_CFG of the logical tile at course column `col` and row `row` of a course (R199, R230): the neighbours are
one logical hop away, the scrim column between stacks skipped. -/
def portCfgOf (i : Image) (c : Course) (site col row : Nat) : Word :=
  let east := match courseSite i c (col + 1) row with | some f => some f | none => courseSite i c (col + 2) row
  let west := if col = 0 then none else
    match courseSite i c (col - 1) row with
    | some f => some f
    | none => if col = 1 then none else courseSite i c (col - 2) row
  let n := wireTo site 0 (courseSite i c col (row + 1))
  let e := wireTo site 1 east
  let so := wireTo site 2 (if row = 0 then none else courseSite i c col (row - 1))
  let w := wireTo site 3 west
  let rim := if c.regs.any (fun p => match regAt i p.reg, rimOf site with
    | some r, some d => r.anchor == d.1 && (regSites i p).contains site
    | _, _ => false) then 0 else 4
  BitVec.ofNat 64 (n + 2 ^ 8 * e + 2 ^ 16 * so + 2 ^ 24 * w + 2 ^ 32 * rim)

end Sys2Proof.Machine
end

