-- ==== Sys2Proof/Machine/Reports.lean ====
section
/-! DEFINITION. Error reports, the error log, the history of units, signature records, service-interrupting events, holds
and class X (R162, R545-R547, R562-R567). -/

namespace Sys2Proof.Machine

/-! ### The intake queue and the error log (R547, R564, R565) -/

/-- A report in flight by the fields of a message. -/
def rptOf (a : RptArgs) : Rpt := ⟨a.code, a.frame, a.unit, a.detail, a.src⟩

/-- A report enters the intake queue, dropped and counted while it is full (R564). -/
def intakeRpt (r : Rpt) (f : Flt) : Flt :=
  if 64 ≤ f.intake.length then { f with inOvf := satInc f.inOvf } else { f with intake := f.intake ++ [r] }

/-- ERR_REPORT: a report reaches the service die. A message that the model queued, in flight or in a control core's lath
queue, has then been sent (R284, R547, R564). -/
def execErrReport (a : RptArgs) (s : State) : Host.Outcome State Fault Refusal :=
  let r := rptOf a
  let isMsg := fun (m : CcMsg) => match m with
    | .report _ c ws => c == a.code && ws == a.detail
    | .credit _ _ _ => false
  let s1 := if a.src.val < 8064 ∧ !s.flt.flight.contains r then
      tilePut s a.src (let t := tileAt s a.src; { t with cc := { t.cc with lathQ := t.cc.lathQ.eraseP isMsg } })
    else s
  .next (onFlt (fun f => intakeRpt r { f with flight := f.flight.erase r }) s1)

/-- The log entry at an index. -/
def logAt (f : Flt) (i : Nat) : LogEntry := sget LogEntry.zero f.log (i % 4096)
/-- Store a log entry. -/
def logPut (f : Flt) (i : Nat) (e : LogEntry) : Flt := { f with log := sset LogEntry.zero f.log (i % 4096) e }

/-- Whether a report coalesces with an entry at module time `now` (R565). -/
def coalesces (r : Rpt) (now : Word) (e : LogEntry) : Bool :=
  e.code == r.code && e.src.toNat == r.src && e.unit == r.unit && lget 0 e.detail 0 == lget 0 r.detail 0 &&
    decide ((now - e.first).toNat < 1000000)

/-- A report is drained into the log at module time `now` (R565). -/
def logRpt (now : Word) (r : Rpt) (f : Flt) : Flt :=
  let wr := f.wr.toNat
  let back := (List.range (min 64 wr)).map (fun i => wr - 1 - i)
  match back.find? (fun i => coalesces r now (logAt f i)) with
  | some i =>
    let e := logAt f i
    logPut f i { e with lastDt := (now - e.first).setWidth 32,
                        count := if e.count = 0xFFFF then 0xFFFF else e.count + 1 }
  | none =>
    if (f.wr - f.rd).toNat = 4096 then { f with lost := satInc f.lost }
    else
      let e : LogEntry := ⟨now, 0, 1, r.code, r.detail.length, BitVec.ofNat 16 r.src, r.unit, r.detail⟩
      { logPut f wr e with wr := f.wr + 1 }

/-- ERROR_LOG_ENTRY: the service die drains one report (R564, R565). -/
def execErrorLogEntry (s : State) : Host.Outcome State Fault Refusal :=
  match s.flt.intake with
  | [] => .next s
  | r :: rest => .next (onFlt (fun f => logRpt (moduleNs s) r { f with intake := rest }) s)

/-! ### History and signature records (R562, R563, R566) -/

/-- The events of a unit that lie within 259,200 s before an OPT. -/
def recentEvents (h : Hist) (u : UnitId) (opt : BitVec 40) : Nat :=
  h.events.countP (fun e => e.unit == u && decide (opt.toNat ≤ e.opt.toNat + 259200))

/-- Whether an event repeats one of the same unit and code less than 1 s before (R563; OPT counts whole seconds). -/
def repeats (h : Hist) (e : HistEvent) : Bool := h.events.contains e

/-- A signature record is written, or dropped when it would overwrite an unread slot (R566). -/
def sigWrite (code : BitVec 6) (u : UnitId) (perm : Bool) (n : Nat) (action : BitVec 4) (detail : List Word)
    (s : State) : State :=
  onFlt (fun f =>
    if f.sigWr + 1 = f.sigRd then { f with sigLost := if f.sigLost = 0xFFFF then 0xFFFF else f.sigLost + 1 }
    else
      let r : SigRecord := ⟨Config.stackSn, f.opt, frameCtr s, code, u, perm, n, action, s.load.activeId, detail⟩
      { f with sig := sset none f.sig f.sigWr.toNat (some r), sigWr := f.sigWr + 1 }) s

/-- The history of a module. -/
def onHist (f : Hist → Hist) (s : State) : State := { s with hist := f s.hist }

/-- Charge an event to a unit; the second component says whether the unit becomes permanent by it (R563). -/
def chargeEvent (u : UnitId) (code : BitVec 6) (s : State) : State × Bool :=
  let e : HistEvent := ⟨u, code, s.flt.opt⟩
  if repeats s.hist e then (s, false)
  else
    let s1 := onHist (fun h => { h with events := h.events ++ [e] }) s
    let perm := decide (3 ≤ recentEvents s1.hist u s.flt.opt)
    if perm && !s1.hist.permanent.contains u then
      (onHist (fun h => { h with permanent := h.permanent ++ [u] }) s1, true)
    else (s1, false)

/-- A service-interrupting event; causes within one second count once (R567). -/
def sieEvent (s : State) : State :=
  let again := match s.flt.sieTime with
    | some t => decide ((moduleNs s - t).toNat < 1000000000)
    | none => false
  if again then s
  else onFlt (fun f => { f with sieCnt := f.sieCnt + 1, sieOpt := f.opt.setWidth 32, sieTime := some (moduleNs s) }) s

/-- The module as a unit of the history. -/
def unitModule : UnitId := ⟨8, 0⟩
/-- A tile as a unit of the history. -/
def unitTile (site : Nat) : UnitId := ⟨0, BitVec.ofNat 64 site⟩
/-- A rim die as a unit of the history. -/
def unitRim (code : Nat) : UnitId := ⟨7, BitVec.ofNat 64 (rimNode code)⟩

/-- Class X: admission stops module-wide, ALERT_N is asserted, FATAL sets, and a record is written (R545, R566). -/
def classX (code : BitVec 6) (s : State) : State :=
  let s1 := onFlt (fun f => { f with fatal := true, alertN := true }) s
  sigWrite code unitModule false 0 0 [] { s1 with svc := { s1.svc with admitStop := true } }

/-! ### Holds (R162) -/

/-- The pipelines of a model: those of the regions that serve it. -/
def modelPipes (s : State) (m : Nat) : List Nat :=
  match s.load.img with
  | some i => ((i.regions.filter (fun r => r.model == m)).map ImgRegion.pipe).eraseDups
  | none => []

/-- Whether a DEGRADED model keeps a pipeline's lanes held (R156, R165). -/
def degraded (s : State) (q : Nat) : Bool := s.resid.any (fun e => e.2.st == .degraded && (modelPipes s e.1).contains q)

/-- A hold of a pipeline begins at its next beat boundary. -/
def holdPipe (q : Nat) (s : State) : State :=
  onGrid (fun g => { g with held := if g.held.contains q then g.held else g.held ++ [q], release := sdel g.release q }) s

/-- A hold of a pipeline lasts n beats and then ends at a beat boundary, unless a DEGRADED model keeps it. -/
def holdFor (q n : Nat) (s : State) : State :=
  onGrid (fun g => { g with release := if g.held.contains q ∧ !degraded s q then sset 0 g.release q (max 1 n) else g.release }) s

/-- A hold ends at the pipeline's next beat boundary. -/
def endHold (q : Nat) (s : State) : State := holdFor q 1 s

/-- Hold every pipeline of a list. -/
def holdAll (qs : List Nat) (s : State) : State := qs.foldl (fun acc q => holdPipe q acc) s
/-- End the holds of a list of pipelines. -/
def endAll (qs : List Nat) (s : State) : State := qs.foldl (fun acc q => endHold q acc) s

/-- The pipelines whose course holds a site. -/
def sitePipes (s : State) (site : Nat) : List Nat := (s.plc.courses.filter (fun c => inCourse c site)).map Course.pipe

end Sys2Proof.Machine
end

