-- ==== Sys2Proof/Machine/Commit.lean ====
section
/-! DEFINITION. Commit groups: opening a group, shadow writes, PREPARE, votes, the decision and its delivery (R404-R414). -/

namespace Sys2Proof.Machine

/-- Change the commit state. -/
def onCg (f : Cg → Cg) (s : State) : State := { s with cg := f s.cg }

/-! ### Groups and shadow state (R404, R405) -/

/-- The service die allocates the next CGID, while fewer than 64 groups are open and no deputy has acted (R404, R555). -/
def cgOpen (s : State) : Option (BitVec 16 × State) :=
  if 64 ≤ s.cg.groups.length ∨ s.flt.deputy then none
  else
    let g : CgGroup := ⟨s.cg.next, 0, 0, 0, [], false, false, [], 0, 0, 0, false, false, .none⟩
    some (s.cg.next, onCg (fun c => { c with groups := c.groups ++ [g], next := c.next + 1 }) s)

/-- A group at the service die. -/
def groupAt (c : Cg) (cgid : BitVec 16) : Option CgGroup := c.groups.find? (fun g => g.cgid == cgid)
/-- Change a group. -/
def groupUpd (cgid : BitVec 16) (f : CgGroup → CgGroup) (c : Cg) : Cg :=
  { c with groups := c.groups.map (fun g => if g.cgid = cgid then f g else g) }

/-- A participant's shadow state of a group. -/
def partAt (c : Cg) (node : Nat) (cgid : BitVec 16) : Option CgPart :=
  c.parts.find? (fun p => p.node == node && p.cgid == cgid)
/-- Change a participant's shadow state. -/
def partUpd (node : Nat) (cgid : BitVec 16) (f : CgPart → CgPart) (c : Cg) : Cg :=
  { c with parts := c.parts.map (fun p => if p.node = node ∧ p.cgid = cgid then f p else p) }
/-- Drop a participant's shadow state. -/
def partDel (node : Nat) (cgid : BitVec 16) (c : Cg) : Cg :=
  { c with parts := c.parts.filter (fun p => !(p.node == node && p.cgid == cgid)) }

/-- The item that a shadow write touches (R405): kind and two numbers. -/
def itemKey : CgItem → Nat × Nat × Nat
  | .word n o _ => (0, n, o)
  | .fence n _ => (1, n, 0)
  | .unfence n => (1, n, 0)
  | .image => (2, 0, 0)
  | .admitItem sid => (3, sid, 0)
  | .closing sid => (3, sid, 0)
  | .pageHome sid l _ _ => (4, sid, l)
  | .pageOwn n l _ => (5, n, l)
  | .migrate sid _ => (6, sid, 0)
  | .freq _ => (7, 0, 0)
  | .probeSet => (8, 0, 0)

/-- Whether another open group has written an item at a participant (R405). -/
def itemTaken (c : Cg) (node : Nat) (cgid : BitVec 16) (i : CgItem) : Bool :=
  c.parts.any (fun p => p.node == node && p.cgid != cgid && p.items.any (fun j => itemKey j == itemKey i))

/-- The open groups for which a participant holds shadow state. -/
def shadowCount (c : Cg) (node : Nat) : Nat := c.parts.countP (fun p => p.node == node && !p.items.isEmpty)

/-- The first refusal of a participant stands. -/
def refuse (r : BitVec 8) (p : CgPart) : CgPart := if p.refused = 0 then { p with refused := r } else p

/-- A shadow write at a participant: accepted, or refused as FULL (1), CONFLICT (2) or, after the PREPARE, REFUSED (3)
(R405, R406, R413). -/
def shadowWrite (node : Nat) (cgid : BitVec 16) (i : CgItem) (c : Cg) : Cg :=
  match partAt c node cgid with
  | some p =>
    if p.prepared then partUpd node cgid (refuse 3) c
    else if itemTaken c node cgid i then partUpd node cgid (refuse 2) c
    else if p.items.isEmpty && decide (8 ≤ shadowCount c node) then partUpd node cgid (refuse 1) c
    else partUpd node cgid (fun q => { q with items := q.items ++ [i] }) c
  | none =>
    let p : CgPart := ⟨node, cgid, [], 0, false, 0, .none⟩
    let q := if itemTaken c node cgid i then { p with refused := 2 }
      else if 8 ≤ shadowCount c node then { p with refused := 1 }
      else { p with items := [i] }
    { c with parts := c.parts ++ [q] }

/-- Open a group with shadow writes at its participants; nothing where 64 groups are open. -/
def cgStart (items : List (Nat × CgItem)) (s : State) : Option (BitVec 16 × State) :=
  (cgOpen s).map (fun r =>
    (r.1, onCg (fun c => items.foldl (fun acc ni => shadowWrite ni.1 r.1 ni.2 acc) c) r.2))

/-- Open a group where one may be opened; the state as it stands otherwise. -/
def cgTry (items : List (Nat × CgItem)) (s : State) : State :=
  match cgStart items s with
  | some r => r.2
  | none => s

/-- The requester withdraws a group (R409). -/
def cgWithdraw (cgid : BitVec 16) (s : State) : State := onCg (groupUpd cgid (fun g => { g with withdrawn := true })) s

/-- A group that a command of the model performs whole: its CGID is taken and it counts as applied (R404, R414). -/
def cgWhole (s : State) : State :=
  onCg (fun c => { c with next := c.next + 1, lastCgid := c.next, lastReason := 0, applied := c.applied + 1 }) s

/-! ### Participants (R407) -/

/-- The block whose hub serves a node: a tile's own, or that of a rim die's first attached tile (R220). -/
def nodeBlock (node : Nat) : Option Nat :=
  if node < 8064 then some (blockOf node)
  else if node < 8096 then (rimSite (node - 8064) 0).map blockOf
  else none

/-- Whether a node is dust-sheeted: a fenced tile or a rim die taken out. -/
def dusted (s : State) (node : Nat) : Bool :=
  if node < 8064 then isFenced s node || s.grid.gated.contains node
  else if node < 8080 then (linkAt s (node - 8064)).silent
  else false

/-- Whether a node lies in the scope of a PREPARE (R406). -/
def inScope (a : PrepArgs) (node : Nat) : Bool :=
  if a.scope = 0 then a.listed.any (fun n => n.val == node)
  else if a.scope = 1 then (nodeBlock node).any (fun b => a.blocks.getLsbD b)
  else a.scope = 2

/-- The participants of a PREPARE: the nodes of its scope that are not dust-sheeted when it is sent. -/
def participants (s : State) (a : PrepArgs) : List Nat :=
  (List.range 8097).filter (fun n => inScope a n && !dusted s n)

/-- The service die has sent the PREPARE: the group takes its frame, scope and participants once; a group that the
commands did not open is opened by it. -/
def cgSent (a : PrepArgs) (s : State) : State :=
  let fill := fun (g : CgGroup) =>
    if g.prepared then g
    else { g with frame := a.frame, scope := a.scope, blocks := a.blocks, listed := a.listed.map Fin.val, prepared := true,
                  parts := participants s a }
  match groupAt s.cg a.cgid with
  | some _ => onCg (groupUpd a.cgid fill) s
  | none =>
    if 64 ≤ s.cg.groups.length then s
    else onCg (fun c => { c with groups := c.groups ++
      [fill ⟨a.cgid, 0, 0, 0, [], false, false, [], 0, 0, 0, false, false, .none⟩] }) s

/-- Whether a participant is stopped on a fault (R285, R407). -/
def nodeStopped (s : State) (node : Nat) : Bool := decide (node < 8064) && (tileAt s node).cc.st == .stopped

/-- The vote of a participant: 0 YES, otherwise the reason of its NO (R406, R407). -/
def voteOf (s : State) (node : Nat) (cgid : BitVec 16) : BitVec 8 :=
  match partAt s.cg node cgid with
  | some p => if p.refused ≠ 0 then p.refused else if nodeStopped s node then 4 else 0
  | none => if nodeStopped s node then 4 else 0

/-- CG_PREPARE: a participant receives the PREPARE and answers with its vote (R407). -/
def execCgPrepare (node : Node) (a : PrepArgs) (s : State) : Host.Outcome State Fault Refusal :=
  let s1 := cgSent a s
  let isPart := match groupAt s1.cg a.cgid with
    | some g => g.parts.contains node.val
    | none => false
  if !isPart then .next s1
  else
    let c := match partAt s1.cg node a.cgid with
      | some _ => s1.cg
      | none => { s1.cg with parts := s1.cg.parts ++ [⟨node, a.cgid, [], 0, false, 0, .none⟩] }
    let s2 := { s1 with cg := partUpd node a.cgid (fun p => { p with prepared := true, frame := a.frame }) c }
    .next (answerCode s2 (voteOf s2 node a.cgid).toNat)

/-! ### Votes (R408) -/

/-- Add a vote to a combined vote: the YES counts add, the first NO stays (R408). -/
def addVote (sender : Nat) (yes no noNode : BitVec 16) (v : HubVote) : HubVote :=
  let w := { v with yes := v.yes + yes, voted := v.voted ++ [sender] }
  if v.no = 0 ∧ no ≠ 0 then { w with no := no.setWidth 8, noNode := noNode } else w

/-- A hub's combined vote, empty where none was begun. -/
def hubVote (c : Cg) (hub : Nat) (cgid : BitVec 16) : HubVote :=
  match c.hubs.find? (fun v => v.hub == hub && v.cgid == cgid) with
  | some v => v
  | none => ⟨hub, cgid, 0, 0, 0, [], false⟩

/-- Store a hub's combined vote. -/
def hubPut (v : HubVote) (c : Cg) : Cg :=
  { c with hubs := c.hubs.filter (fun w => !(w.hub == v.hub && w.cgid == v.cgid)) ++ [v] }

/-- The participants of a group in a block. -/
def blockParts (c : Cg) (cgid : BitVec 16) (b : Nat) : List Nat :=
  match groupAt c cgid with
  | some g => g.parts.filter (fun n => nodeBlock n == some b)
  | none => []

/-- A hub sends its combined vote: the answer holds YES, NO and NO_NODE (R408). -/
def sendVote (v : HubVote) (s : State) : State :=
  answer (onCg (hubPut { v with sent := true }) s) 0
    [⟨v.yes.setWidth 64, false⟩, ⟨v.no.setWidth 64, false⟩, ⟨v.noNode.setWidth 64, false⟩]

/-- CG_VOTE: a vote reaches the service die, which adds it to its group, or a hub, which combines it with those of its
block and sends the combined vote once every participant of the block has voted (R408). -/
def execCgVote (at_ sender : Node) (cgid yes : BitVec 16) (no : Byte) (noNode : BitVec 16) (s : State) :
    Host.Outcome State Fault Refusal :=
  if at_.val = svcNode then
    .next (onCg (groupUpd cgid (fun g =>
      let h := { g with yes := g.yes + yes }
      if g.no = 0 ∧ no ≠ 0 then { h with no := no, noNode := noNode } else h)) s)
  else
    match nodeBlock at_ with
    | none => .next s
    | some b =>
      if at_.val ≠ hubOf s b then .next s
      else
        let v := hubVote s.cg at_ cgid
        if v.sent ∨ v.voted.contains sender.val then .next s
        else
          let w := addVote sender yes (no.setWidth 16) noNode v
          let s1 := onCg (hubPut w) s
          .next (if (blockParts s.cg cgid b).all (fun n => w.voted.contains n) then sendVote w s1 else s1)

/-- HUB_VOTE_DEADLINE: at F_A - 5 a hub sends the combined vote as it stands (R408). -/
def execHubVoteDeadline (b : Block) (cgid : BitVec 16) (s : State) : Host.Outcome State Fault Refusal :=
  let v := hubVote s.cg (hubOf s b) cgid
  .next (if v.sent then s else sendVote v s)

/-! ### Decision (R409, R411) -/

/-- The decision of a group: 0 apply, otherwise the REASON of its discard (R409). -/
def decisionOf (g : CgGroup) : BitVec 3 :=
  if g.withdrawn then 3 else if g.lost then 4 else if g.no ≠ 0 then 1
  else if g.yes.toNat = g.parts.length then 0 else 2

/-- Count a discard (R414). -/
def countDiscard (c : Cg) : Cg :=
  if c.discarded = 0xFFFF then { c with ovf := true } else { c with discarded := c.discarded + 1 }

/-- Record a decision (R414). -/
def recordDecision (cgid : BitVec 16) (r : BitVec 3) (no : Byte) (node : BitVec 16) (c : Cg) : Cg :=
  let c1 := { c with lastCgid := cgid, lastReason := r }
  let c2 := if r = 1 then { c1 with lastNo := no.setWidth 3, lastNode := node.setWidth 13 } else c1
  if r = 0 then c2 else countDiscard c2

/-- CG_DECIDE: the service die decides a group. A discarded group is closed; an applied one stays open to its apply
boundary, and the service die's own shadow state holds the decision (R409, R411). -/
def execCgDecide (cgid : BitVec 16) (s : State) : Host.Outcome State Fault Refusal :=
  match groupAt s.cg cgid with
  | none => .next s
  | some g =>
    if g.decision ≠ .none ∨ !g.prepared then .next s
    else
      let r := decisionOf g
      let c := recordDecision cgid r g.no g.noNode s.cg
      if r = 0 then
        .next (onCg (fun _ => partUpd svcNode cgid (fun p => { p with decision := .apply })
          (groupUpd cgid (fun g => { g with decision := .apply }) c)) s)
      else
        .next (onCg (fun _ => partDel svcNode cgid
          { c with groups := c.groups.filter (fun g => g.cgid != cgid), hubs := c.hubs.filter (fun v => v.cgid != cgid) }) s)

/-- The report of a node outside a group's scope that held shadow writes of it (R407). -/
def scopeRpt (node : Nat) (cgid : BitVec 16) (s : State) : State :=
  sendRpt s node 0x0E (BitVec.ofNat 64 node) [cgid.setWidth 64]

/-- CG_APPLY: a participant receives the decision before the apply boundary; a node outside the scope discards its shadow
writes and reports; a decision after F_A is dropped (R407, R411). -/
def execCgApply (node : Node) (cgid : BitVec 16) (frame : BitVec 48) (s : State) : Host.Outcome State Fault Refusal :=
  match partAt s.cg node cgid with
  | none => .next s
  | some p =>
    if p.prepared then
      if frame.toNat < (frameCtr s).toNat + 1 then .next s
      else .next (onCg (partUpd node cgid (fun q => { q with decision := .apply })) s)
    else .next (scopeRpt node cgid (onCg (partDel node cgid) s))

/-- CG_DISCARD: a participant drops its shadow state of the group (R409). -/
def execCgDiscard (node : Node) (cgid : BitVec 16) (reason : Byte) (s : State) : Host.Outcome State Fault Refusal :=
  match partAt s.cg node cgid with
  | none => .next s
  | some p =>
    if p.decision = .apply ∧ reason ≠ 5 then .next s
    else
      let s1 := onCg (partDel node cgid) s
      .next (if p.prepared then s1 else scopeRpt node cgid s1)

/-- Every open group is discarded by a reset before its boundary (R409, R413): after a warm reset the record counts it. -/
def cgReset (s : State) : State :=
  onCg (fun c =>
    let c1 := c.groups.foldl (fun acc g =>
      if g.decision = .none then recordDecision g.cgid 5 0 0 acc else countDiscard { acc with lastReason := 5 }) c
    { c1 with groups := [], parts := [], hubs := [] }) s

end Sys2Proof.Machine
end

