-- ==== Sys2Proof/Machine/Float.lean ====
section
/-! DEFINITION. Exact values of the floating-point formats and the one rounding of a result (R94-R110, R306). -/

namespace Sys2Proof.Machine

/-- The rounding modes of R107. -/
inductive Rm where
  | rne | rz | ru
deriving DecidableEq, Repr

/-- The mode that a 2-bit RM field names; 3 is reserved (R107). -/
def rmOf (b : BitVec 2) : Option Rm :=
  if b = 0 then some .rne else if b = 1 then some .rz else if b = 2 then some .ru else none

/-- A decoded value: NaN (signalling or quiet), infinity, or the finite value (-1)^neg × m × 2^e. -/
inductive FVal where
  | nan (signalling : Bool)
  | inf (neg : Bool)
  | fin (neg : Bool) (m : Nat) (e : Int)
deriving DecidableEq, Repr

/-- A binary format's magnitude grid: its precision and the exponent of its smallest unit. -/
structure FGrid where
  prec : Nat
  qmin : Int
deriving DecidableEq, Repr

/-- FP32 (R104). -/
def gridF32 : FGrid := ⟨24, -149⟩
/-- BF16 (R104). -/
def gridBf16 : FGrid := ⟨8, -133⟩
/-- E4M3 (R100). -/
def gridE4m3 : FGrid := ⟨4, -9⟩
/-- E5M2 (R100). -/
def gridE5m2 : FGrid := ⟨3, -16⟩
/-- SC8 (R103). -/
def gridSc8 : FGrid := ⟨4, -17⟩

/-- The magnitude that a code without its sign stands for: significand and unit exponent. -/
def gridMag (g : FGrid) (c : Nat) : Nat × Int :=
  let h := 2 ^ (g.prec - 1)
  if c < h then (c, g.qmin) else (h + c % h, g.qmin + ((c / h : Nat) : Int) - 1)

/-- The code of a magnitude k × 2^q on the grid. -/
def gridCode (g : FGrid) (k : Nat) (q : Int) : Nat :=
  (q - g.qmin).toNat * 2 ^ (g.prec - 1) + k

/-- Whether num ÷ den is at least 2^l. -/
def geTwo (num den : Nat) (l : Int) : Bool :=
  if 0 ≤ l then den * 2 ^ l.toNat ≤ num else den ≤ num * 2 ^ (-l).toNat

/-- The exponent of the leading bit of num ÷ den, both positive. -/
def ilog2 (num den : Nat) : Int :=
  let l : Int := (num.log2 : Int) - (den.log2 : Int)
  if geTwo num den l then l else l - 1

/-- num ÷ den in units of 2^q, rounded to an integer by the mode; with whether the rounding was inexact. -/
def quantAt (rm : Rm) (neg : Bool) (num den : Nat) (q : Int) : Nat × Bool :=
  let n := if 0 ≤ q then num else num * 2 ^ (-q).toNat
  let d := if 0 ≤ q then den * 2 ^ q.toNat else den
  let k := n / d
  let r := n % d
  let up := match rm with
    | .rne => decide (d < 2 * r) || (decide (2 * r = d) && k % 2 == 1)
    | .rz => false
    | .ru => !neg && decide (0 < r)
  (if up then k + 1 else k, decide (0 < r))

/-- A rounded magnitude k × 2^q with its inexactness, its tininess after rounding and the magnitude that the
rounding with an unbounded exponent range gives (R109). -/
structure Rounded where
  k : Nat
  q : Int
  inexact : Bool
  tiny : Bool
  ku : Nat
  qu : Int
deriving DecidableEq, Repr

/-- Round the positive value num ÷ den to a grid. -/
def roundTo (g : FGrid) (rm : Rm) (neg : Bool) (num den : Nat) : Rounded :=
  let e := ilog2 num den
  let qu := e - ((g.prec : Int) - 1)
  let u := quantAt rm neg num den qu
  let q := max qu g.qmin
  let b := quantAt rm neg num den q
  let emin := g.qmin + ((g.prec : Int) - 1)
  { k := b.1, q := q, inexact := b.2,
    tiny := decide (u.1 ≠ 0) && !geTwo (u.1 * 2 ^ (qu - min qu emin).toNat) 1 (emin - min qu emin),
    ku := u.1, qu := qu }

/-- Whether a × 2^p exceeds b × 2^q. -/
def dyGt (a : Nat) (p : Int) (b : Nat) (q : Int) : Bool :=
  let lo := min p q
  b * 2 ^ (q - lo).toNat < a * 2 ^ (p - lo).toNat

/-- NX when inexact, UF when tiny and inexact (R109). -/
def nxuf (r : Rounded) : FlagBits := flIf r.inexact flNX ||| flIf (r.inexact && r.tiny) flUF

/-- The canonical NaN of FP32 (R95). -/
def nan32 : Lane32 := 0x7FC00000

/-- ±∞ in FP32. -/
def inf32 (neg : Bool) : Lane32 := if neg then 0xFF800000 else 0x7F800000

/-- ±0 in FP32. -/
def zero32 (neg : Bool) : Lane32 := if neg then 0x80000000 else 0

/-- The largest finite value in FP32. -/
def max32 (neg : Bool) : Lane32 := if neg then 0xFF7FFFFF else 0x7F7FFFFF

/-- An FP32 code from its sign and magnitude code. -/
def sign32 (neg : Bool) (c : Nat) : Lane32 := BitVec.ofNat 32 (c + if neg then 2 ^ 31 else 0)

/-- The value of an FP32 code (R104, R95). -/
def dec32 (b : Lane32) : FVal :=
  let neg := b.getLsbD 31
  let c := b.toNat % 2 ^ 31
  if 0x7F800000 < c then .nan (!b.getLsbD 22)
  else if c = 0x7F800000 then .inf neg
  else let m := gridMag gridF32 c; .fin neg m.1 m.2

/-- The value of a BF16 code: the code followed by 16 zero bits, with the quiet bit at bit 6 (R95, R104). -/
def decBf16 (b : BitVec 16) : FVal :=
  let neg := b.getLsbD 15
  let c := b.toNat % 2 ^ 15
  if 0x7F80 < c then .nan (!b.getLsbD 6)
  else if c = 0x7F80 then .inf neg
  else let m := gridMag gridBf16 c; .fin neg m.1 m.2

/-- The value of an E4M3 code: no infinity, and both NaN codes quiet (R95, R100). -/
def decE4m3 (b : Byte) : FVal :=
  let c := b.toNat % 128
  if c = 127 then .nan false else let m := gridMag gridE4m3 c; .fin (b.getLsbD 7) m.1 m.2

/-- The value of an E5M2 code (R95, R100): 0x7D and 0xFD are signalling. -/
def decE5m2 (b : Byte) : FVal :=
  let c := b.toNat % 128
  if c = 0x7C then .inf (b.getLsbD 7)
  else if 0x7C < c then .nan (c = 0x7D)
  else let m := gridMag gridE5m2 c; .fin (b.getLsbD 7) m.1 m.2

/-- The value of an SC8 code; the invalid code reads as a NaN (R95, R103). -/
def decSc8 (b : Byte) : FVal :=
  if b = 0xFF then .nan false else let m := gridMag gridSc8 b.toNat; .fin false m.1 m.2

/-- The finite value v of a signed integer. -/
def decInt (v : Int) : FVal := .fin (decide (v < 0)) v.natAbs 0

/-- A rounded non-zero magnitude as an FP32 result under a mode (R306). -/
def put32 (rm : Rm) (neg : Bool) (num den : Nat) : Lane32 × FlagBits :=
  if num = 0 then (zero32 neg, flNone) else
  let r := roundTo gridF32 rm neg num den
  if dyGt r.ku r.qu (2 ^ 24 - 1) 104 then
    (match rm with
      | .rne => inf32 neg
      | .rz => max32 neg
      | .ru => if neg then max32 true else inf32 false, flOF ||| flNX)
  else (sign32 neg (gridCode gridF32 r.k r.q), nxuf r)

/-- The exact value m × 2^e as a ratio of naturals. -/
def ratio (m : Nat) (e : Int) : Nat × Nat := (m * 2 ^ e.toNat, 2 ^ (-e).toNat)

/-- A finite exact result: the rounded non-zero value, or the zero with the given sign. -/
def putFin (rm : Rm) (v : Int) (e : Int) (zneg : Bool) : Lane32 × FlagBits :=
  if v = 0 then (zero32 zneg, flNone)
  else let r := ratio v.natAbs e; put32 rm (decide (v < 0)) r.1 r.2

/-- NV when any operand is a signalling NaN (R306). -/
def snanNV : List FVal → FlagBits
  | [] => flNone
  | .nan true :: _ => flNV
  | _ :: t => snanNV t

/-- Whether a value is a NaN. -/
def isNan : FVal → Bool
  | .nan _ => true
  | _ => false

/-- The signed significand of a finite value. -/
def sgn (neg : Bool) (m : Nat) : Int := if neg then -(m : Int) else m

/-- The exact sum of two finite values, as significand and exponent. -/
def addExact (n1 : Bool) (m1 : Nat) (e1 : Int) (n2 : Bool) (m2 : Nat) (e2 : Int) : Int × Int :=
  let e := min e1 e2
  (sgn n1 m1 * 2 ^ (e1 - e).toNat + sgn n2 m2 * 2 ^ (e2 - e).toNat, e)

/-- FP32 addition of values (R306). -/
def addV (rm : Rm) (a b : FVal) : Lane32 × FlagBits :=
  match a, b with
  | .nan _, _ => (nan32, snanNV [a, b])
  | _, .nan _ => (nan32, snanNV [a, b])
  | .inf n1, .inf n2 => if n1 = n2 then (inf32 n1, flNone) else (nan32, flNV)
  | .inf n1, _ => (inf32 n1, flNone)
  | _, .inf n2 => (inf32 n2, flNone)
  | .fin n1 m1 e1, .fin n2 m2 e2 =>
    let s := addExact n1 m1 e1 n2 m2 e2
    putFin rm s.1 s.2 (n1 && n2 && m1 = 0 && m2 = 0)

/-- The negated value. -/
def negV : FVal → FVal
  | .nan q => .nan q
  | .inf n => .inf (!n)
  | .fin n m e => .fin (!n) m e

/-- FP32 multiplication of values (R306). -/
def mulV (rm : Rm) (a b : FVal) : Lane32 × FlagBits :=
  match a, b with
  | .nan _, _ => (nan32, snanNV [a, b])
  | _, .nan _ => (nan32, snanNV [a, b])
  | .inf n1, .inf n2 => (inf32 (n1 != n2), flNone)
  | .inf n1, .fin n2 m2 _ => if m2 = 0 then (nan32, flNV) else (inf32 (n1 != n2), flNone)
  | .fin n1 m1 _, .inf n2 => if m1 = 0 then (nan32, flNV) else (inf32 (n1 != n2), flNone)
  | .fin n1 m1 e1, .fin n2 m2 e2 =>
    putFin rm (sgn (n1 != n2) (m1 * m2)) (e1 + e2) (n1 != n2)

/-- Whether a × b is 0 × ∞. -/
def zeroTimesInf : FVal → FVal → Bool
  | .inf _, .fin _ m _ => m == 0
  | .fin _ m _, .inf _ => m == 0
  | _, _ => false

/-- FP32 fused multiply-add of values, rounded once (R306). -/
def fmaV (rm : Rm) (a b c : FVal) : Lane32 × FlagBits :=
  if zeroTimesInf a b then (nan32, flNV)
  else if isNan a || isNan b || isNan c then (nan32, snanNV [a, b, c])
  else
  match a, b, c with
  | .fin n1 m1 e1, .fin n2 m2 e2, .fin n3 m3 e3 =>
    let s := addExact (n1 != n2) (m1 * m2) (e1 + e2) n3 m3 e3
    putFin rm s.1 s.2 ((n1 != n2) && n3 && m1 * m2 = 0 && m3 = 0)
  | .fin _ _ _, .fin _ _ _, .inf n3 => (inf32 n3, flNone)
  | p, q, .inf n3 =>
    let n := (match p with | .inf n => n | .fin n _ _ => n | .nan _ => false) !=
             (match q with | .inf n => n | .fin n _ _ => n | .nan _ => false)
    if n = n3 then (inf32 n3, flNone) else (nan32, flNV)
  | p, q, _ =>
    (inf32 ((match p with | .inf n => n | .fin n _ _ => n | .nan _ => false) !=
            (match q with | .inf n => n | .fin n _ _ => n | .nan _ => false)), flNone)

/-- FP32 addition of codes. -/
def fadd (rm : Rm) (a b : Lane32) : Lane32 × FlagBits := addV rm (dec32 a) (dec32 b)
/-- FP32 subtraction of codes. -/
def fsub (rm : Rm) (a b : Lane32) : Lane32 × FlagBits := addV rm (dec32 a) (negV (dec32 b))
/-- FP32 multiplication of codes. -/
def fmul (rm : Rm) (a b : Lane32) : Lane32 × FlagBits := mulV rm (dec32 a) (dec32 b)
/-- FP32 fused multiply-add of codes. -/
def ffma (rm : Rm) (a b c : Lane32) : Lane32 × FlagBits := fmaV rm (dec32 a) (dec32 b) (dec32 c)

/-- Whether value a is below value b, infinities included and both signs of zero equal; false on NaN. -/
def ltV (a b : FVal) : Bool :=
  match a, b with
  | .nan _, _ => false
  | _, .nan _ => false
  | .inf n1, .inf n2 => n1 && !n2
  | .inf n1, .fin _ _ _ => n1
  | .fin _ _ _, .inf n2 => !n2
  | .fin n1 m1 e1, .fin n2 m2 e2 =>
    (addExact n1 m1 e1 (!n2) m2 e2).1 < 0

/-- Whether two values are equal, both signs of zero equal; false on NaN. -/
def eqV (a b : FVal) : Bool :=
  match a, b with
  | .inf n1, .inf n2 => n1 == n2
  | .fin n1 m1 e1, .fin n2 m2 e2 => (addExact n1 m1 e1 (!n2) m2 e2).1 == 0
  | _, _ => false

/-- The order of FMIN and FMAX: as `ltV`, with -0 below +0 (R306). -/
def ltZ (a b : Lane32) : Bool :=
  ltV (dec32 a) (dec32 b) || (a == 0x80000000 && b == 0)

/-- FMIN (R306): the other operand where one is a NaN; a signalling NaN raises NV. -/
def fmin (a b : Lane32) : Lane32 × FlagBits :=
  let f := snanNV [dec32 a, dec32 b]
  if isNan (dec32 a) then (if isNan (dec32 b) then nan32 else b, f)
  else if isNan (dec32 b) then (a, f)
  else (if ltZ b a then b else a, f)

/-- FMAX (R306). -/
def fmax (a b : Lane32) : Lane32 × FlagBits :=
  let f := snanNV [dec32 a, dec32 b]
  if isNan (dec32 a) then (if isNan (dec32 b) then nan32 else b, f)
  else if isNan (dec32 b) then (a, f)
  else (if ltZ a b then b else a, f)

/-- FABS and FNEG: the sign cleared or inverted; a NaN gives the canonical NaN, with NV if signalling (R307). -/
def fsign (abs : Bool) (a : Lane32) : Lane32 × FlagBits :=
  if isNan (dec32 a) then (nan32, snanNV [dec32 a])
  else (if abs then a &&& 0x7FFFFFFF else a ^^^ 0x80000000, flNone)

/-- The conditions of FCMP (R304): 0 EQ, 1 LT, 2 LE, 3 UN; ordered conditions are false on NaN (R309). -/
def fcmp (cond : BitVec 2) (a b : Lane32) : Bool × FlagBits :=
  let x := dec32 a
  let y := dec32 b
  let r := if cond = 0 then eqV x y else if cond = 1 then ltV x y
    else if cond = 2 then ltV x y || eqV x y else isNan x || isNan y
  (r, snanNV [x, y])

end Sys2Proof.Machine
end

