-- ==== Sys2Proof/Machine/Trans.lean ====
section
/-! DEFINITION. The functions of R307, each the exact mathematical value rounded once. An irrational value is
taken in fixed point with 768 fraction bits and a sticky bit below them, which settles the one rounding to 24 bits
(DEDUCED: an approximation that is this much finer than the result grid rounds as the exact value does). -/

namespace Sys2Proof.Machine

/-- The number of fraction bits of the fixed-point values. -/
def fxBits : Nat := 768
/-- One, in fixed point. -/
def fxOne : Int := 2 ^ fxBits
/-- The fixed-point product. -/
def fxMul (a b : Int) : Int := a * b / fxOne

/-- The bits of the integer square root, from the highest candidate bit down. -/
def isqrtBits : Nat → Nat → Nat → Nat
  | 0, _, r => r
  | i + 1, n, r => if (r + 2 ^ i) * (r + 2 ^ i) ≤ n then isqrtBits i n (r + 2 ^ i) else isqrtBits i n r

/-- The integer square root of a number below 2^(2 × bits). -/
def isqrtUpTo (bits n : Nat) : Nat := isqrtBits bits n 0

/-- The exponential series: the sum of r^n ÷ n!. -/
def expSeries : Nat → Nat → Int → Int → Int → Int
  | 0, _, _, _, acc => acc
  | f + 1, n, term, r, acc =>
    let t := fxMul term r / (n : Int)
    expSeries f (n + 1) t r (acc + t)

/-- Square a fixed-point value n times. -/
def fxSquare : Nat → Int → Int
  | 0, a => a
  | n + 1, a => fxSquare n (fxMul a a)

/-- e^x in fixed point, for |x| up to a few hundred: the series at x ÷ 256, squared eight times. -/
def fxExp (x : Int) : Int := fxSquare 8 (expSeries 200 1 fxOne (x / 256) fxOne)

/-- The series of ln 2: the sum of 1 ÷ (k × 2^k). -/
def ln2Series : Nat → Nat → Int → Int
  | 0, _, acc => acc
  | f + 1, k, acc => ln2Series f (k + 1) (acc + fxOne / ((k : Int) * 2 ^ k))

/-- ln 2 in fixed point. -/
def fxLn2 : Int := ln2Series 780 1 0

/-- The series of arctan(1 ÷ q). -/
def atanSeries : Nat → Nat → Nat → Int → Int → Int
  | 0, _, _, _, acc => acc
  | f + 1, n, q, p, acc =>
    let t := p / ((2 * n + 1 : Nat) : Int)
    atanSeries f (n + 1) q (p / ((q * q : Nat) : Int)) (if n % 2 = 0 then acc + t else acc - t)

/-- π in fixed point, by Machin's formula. -/
def fxPi : Int := 16 * atanSeries 190 0 5 (fxOne / 5) 0 - 4 * atanSeries 60 0 239 (fxOne / 239) 0

/-- √(2π) in fixed point. -/
def fxSqrt2Pi : Int := (isqrtUpTo 780 ((2 * fxPi).toNat * 2 ^ fxBits) : Nat)

/-- The series of the normal distribution function: the sum of z^(2n+1) ÷ (1 × 3 × … × (2n+1)). -/
def phiSeries : Nat → Nat → Int → Int → Int → Int
  | 0, _, _, _, acc => acc
  | f + 1, n, term, z2, acc =>
    let t := fxMul term z2 / ((2 * n + 3 : Nat) : Int)
    phiSeries f (n + 1) t z2 (acc + t)

/-- The fixed-point value of (-1)^neg × m × 2^e, for e of at least -768. -/
def fxOf (neg : Bool) (m : Nat) (e : Int) : Int := sgn neg m * 2 ^ (e + (fxBits : Int)).toNat

/-- Whether m × 2^e exceeds the integer n. -/
def magAbove (m : Nat) (e : Int) (n : Nat) : Bool := dyGt m e n 0

/-- The logistic function in fixed point, strictly between 0 and 1. -/
def fxSig (neg : Bool) (m : Nat) (e : Int) : Int :=
  if magAbove m e 250 then (if neg then 0 else fxOne - 1)
  else fxOne * fxOne / (fxOne + fxExp (-(fxOf neg m e)))

/-- The normal distribution function Φ in fixed point, strictly between 0 and 1. -/
def fxPhi (neg : Bool) (m : Nat) (e : Int) : Int :=
  if magAbove m e 20 then (if neg then 0 else fxOne - 1)
  else
    let z := fxOf false m e
    let z2 := fxMul z z
    let p := fxMul (fxExp (-z2 / 2)) (phiSeries 1600 0 z z2 z) * fxOne / fxSqrt2Pi
    if neg then fxOne / 2 - p else fxOne / 2 + p

/-- The value (2y + 1) ÷ 2^(769) that a fixed-point y with its sticky bit stands for, times m × 2^e, rounded. -/
def putFx (neg : Bool) (y : Int) (m : Nat) (e : Int) : Lane32 × FlagBits :=
  let r := ratio ((2 * y.toNat + 1) * m) e
  put32 .rne neg r.1 (r.2 * 2 ^ (fxBits + 1))

/-- FRCP (R307). -/
def frcp (a : Lane32) : Lane32 × FlagBits :=
  match dec32 a with
  | .nan s => (nan32, flIf s flNV)
  | .inf n => (zero32 n, flNone)
  | .fin n m e =>
    if m = 0 then (inf32 n, flDZ)
    else let r := ratio m e; put32 .rne n r.2 r.1

/-- FRSQ (R307): -0 gives -∞, a negative x gives NaN with NV. -/
def frsq (a : Lane32) : Lane32 × FlagBits :=
  match dec32 a with
  | .nan s => (nan32, flIf s flNV)
  | .inf n => if n then (nan32, flNV) else (zero32 false, flNone)
  | .fin n m e =>
    if m = 0 then (inf32 n, flDZ)
    else if n then (nan32, flNV)
    else
      let k : Nat := 300
      let p := 2 ^ ((2 * k : Int) - e).toNat
      let r := isqrtUpTo 400 (p / m)
      if r * r * m = p then put32 .rne false r (2 ^ k)
      else put32 .rne false (2 * r + 1) (2 ^ (k + 1))

/-- FEXP (R307): inexact for every finite x that is not 0. -/
def fexp (a : Lane32) : Lane32 × FlagBits :=
  match dec32 a with
  | .nan s => (nan32, flIf s flNV)
  | .inf n => if n then (zero32 false, flNone) else (inf32 false, flNone)
  | .fin n m e =>
    if m = 0 then (0x3F800000, flNone)
    else if magAbove m e 250 then
      (if n then put32 .rne false 1 (2 ^ 400) else put32 .rne false (2 ^ 400) 1)
    else putFx false (fxExp (fxOf n m e)) 1 0

/-- FEXP2 (R307): exact at an integer x. -/
def fexp2 (a : Lane32) : Lane32 × FlagBits :=
  match dec32 a with
  | .nan s => (nan32, flIf s flNV)
  | .inf n => if n then (zero32 false, flNone) else (inf32 false, flNone)
  | .fin n m e =>
    if m = 0 then (0x3F800000, flNone)
    else if magAbove m e 300 then
      (if n then put32 .rne false 1 (2 ^ 400) else put32 .rne false (2 ^ 400) 1)
    else
      let x := fxOf n m e
      let i := x / fxOne
      let f := x % fxOne
      if f = 0 then let r := ratio 1 i; put32 .rne false r.1 r.2
      else putFx false (fxExp (fxMul f fxLn2)) 1 i

/-- FSIG (R307). -/
def fsig (a : Lane32) : Lane32 × FlagBits :=
  match dec32 a with
  | .nan s => (nan32, flIf s flNV)
  | .inf n => if n then (zero32 false, flNone) else (0x3F800000, flNone)
  | .fin n m e => if m = 0 then (0x3F000000, flNone) else putFx false (fxSig n m e) 1 0

/-- FTANH (R307). -/
def ftanh (a : Lane32) : Lane32 × FlagBits :=
  match dec32 a with
  | .nan s => (nan32, flIf s flNV)
  | .inf n => (if n then 0xBF800000 else 0x3F800000, flNone)
  | .fin n m e =>
    if m = 0 then (zero32 n, flNone)
    else
      let y := if magAbove m e 100 then fxOne - 1
        else
          let t := fxExp (2 * fxOf false m e)
          (t - fxOne) * fxOne / (t + fxOne)
      putFx n y 1 0

/-- FSILU (R307): x × σ(x). -/
def fsilu (a : Lane32) : Lane32 × FlagBits :=
  match dec32 a with
  | .nan s => (nan32, flIf s flNV)
  | .inf n => (if n then zero32 true else inf32 false, flNone)
  | .fin n m e => if m = 0 then (zero32 n, flNone) else putFx n (fxSig n m e) m e

/-- FGELU (R307): x × Φ(x). -/
def fgelu (a : Lane32) : Lane32 × FlagBits :=
  match dec32 a with
  | .nan s => (nan32, flIf s flNV)
  | .inf n => (if n then zero32 true else inf32 false, flNone)
  | .fin n m e => if m = 0 then (zero32 n, flNone) else putFx n (fxPhi n m e) m e

end Sys2Proof.Machine
end

