-- ==== Sys2Proof/Machine/Format.lean ====
section
/-! DEFINITION. The conversions between formats and the quantisations (R111-R121). -/

namespace Sys2Proof.Machine

/-- Widening of a decoded value to FP32, which every source format's values reach exactly (R112); a signalling
NaN raises NV. -/
def widen (v : FVal) : Lane32 × FlagBits :=
  match v with
  | .nan s => (nan32, flIf s flNV)
  | .inf n => (inf32 n, flNone)
  | .fin n m e => putFin .rne (sgn n m) e n

/-- BF16 to FP32 (R112): a NaN becomes the canonical one. -/
def widenBf16 (b : BitVec 16) : Lane32 × FlagBits :=
  match decBf16 b with
  | .nan s => (nan32, flIf s flNV)
  | _ => (b.setWidth 32 <<< 16, flNone)

/-- SC8 to FP32 (R112): the invalid code raises NV. -/
def widenSc8 (b : Byte) : Lane32 × FlagBits :=
  if b = 0xFF then (nan32, flNV) else widen (decSc8 b)

/-- INT32 to FP32 by RNE (R112). -/
def cvtI32F32 (b : Lane32) : Lane32 × FlagBits := putFin .rne b.toInt 0 false

/-- The rounded magnitude of a positive finite value on the BF16 grid; overflow gives ±∞ (R113). -/
def putBf16 (rm : Rm) (neg : Bool) (num den : Nat) : BitVec 16 × FlagBits :=
  let s : Nat := if neg then 2 ^ 15 else 0
  if num = 0 then (BitVec.ofNat 16 s, flNone) else
  let r := roundTo gridBf16 rm neg num den
  if dyGt r.ku r.qu 255 120 then (BitVec.ofNat 16 (s + 0x7F80), flOF ||| flNX)
  else (BitVec.ofNat 16 (s + gridCode gridBf16 r.k r.q), nxuf r)

/-- FP32 to BF16 (R113). -/
def cvtBf16 (v : FVal) : BitVec 16 × FlagBits :=
  match v with
  | .nan s => (0x7FC0, flIf s flNV)
  | .inf n => (if n then 0xFF80 else 0x7F80, flNone)
  | .fin n m e => let r := ratio m e; putBf16 .rne n r.1 r.2

/-- A byte code from a sign and a magnitude code. -/
def signByte (neg : Bool) (c : Nat) : Byte := BitVec.ofNat 8 (c + if neg then 128 else 0)

/-- A positive finite value to E4M3 by RNE (R114); 448 is 14 × 2^5. -/
def putE4m3 (satb neg : Bool) (num den : Nat) : Byte × FlagBits :=
  if num = 0 then (signByte neg 0, flNone) else
  let r := roundTo gridE4m3 .rne neg num den
  if dyGt r.ku r.qu 14 5 then
    (if satb then (signByte neg 0x7E, flOF ||| flNX ||| flSAT) else (0x7F, flOF ||| flNX))
  else (signByte neg (gridCode gridE4m3 r.k r.q), nxuf r)

/-- FP32 to E4M3 (R114). -/
def cvtE4m3 (satb : Bool) (v : FVal) : Byte × FlagBits :=
  match v with
  | .nan s => (0x7F, flIf s flNV)
  | .inf n => if satb then (signByte n 0x7E, flSAT) else (0x7F, flNV)
  | .fin n m e => let r := ratio m e; putE4m3 satb n r.1 r.2

/-- FP32 to E5M2 (R115); 57,344 is 7 × 2^13. -/
def cvtE5m2 (satb : Bool) (v : FVal) : Byte × FlagBits :=
  match v with
  | .nan s => (0x7E, flIf s flNV)
  | .inf n => if satb then (signByte n 0x7B, flSAT) else (signByte n 0x7C, flNone)
  | .fin n m e =>
    if m = 0 then (signByte n 0, flNone) else
    let p := ratio m e
    let r := roundTo gridE5m2 .rne n p.1 p.2
    if dyGt r.ku r.qu 7 13 then
      (if satb then (signByte n 0x7B, flOF ||| flNX ||| flSAT) else (signByte n 0x7C, flOF ||| flNX))
    else (signByte n (gridCode gridE5m2 r.k r.q), nxuf r)

/-- A positive finite value to SC8 (R116); 114,688 is 14 × 2^13. -/
def putSc8 (rm : Rm) (satb : Bool) (num den : Nat) : Byte × FlagBits :=
  if num = 0 then (0, flNone) else
  let r := roundTo gridSc8 rm false num den
  if dyGt r.ku r.qu 14 13 then
    (if satb then (0xFE, flOF ||| flNX ||| flSAT) else (0xFF, flOF ||| flNX))
  else (BitVec.ofNat 8 (gridCode gridSc8 r.k r.q), nxuf r)

/-- FP32 to SC8 (R116): negative, infinite and NaN inputs give the invalid code with NV. -/
def cvtSc8 (rm : Rm) (satb : Bool) (v : FVal) : Byte × FlagBits :=
  match v with
  | .nan _ => (0xFF, flNV)
  | .inf _ => (0xFF, flNV)
  | .fin n m e =>
    if m = 0 then (0, flNone) else if n then (0xFF, flNV)
    else let r := ratio m e; putSc8 rm satb r.1 r.2

/-- The integer nearest to ±num ÷ den by the mode, clamped to a range (R117). -/
def putInt (rm : Rm) (lo hi : Int) (neg : Bool) (num den : Nat) : Int × FlagBits :=
  let r := quantAt rm neg num den 0
  let v := sgn neg r.1
  if hi < v then (hi, flSAT ||| flNX) else if v < lo then (lo, flSAT ||| flNX)
  else (v, flIf r.2 flNX)

/-- FP32 to an integer format (R117). -/
def cvtInt (rm : Rm) (lo hi : Int) (v : FVal) : Int × FlagBits :=
  match v with
  | .nan _ => (0, flNV)
  | .inf n => (if n then lo else hi, flNV ||| flSAT)
  | .fin n m e => let r := ratio m e; putInt rm lo hi n r.1 r.2

/-- FP32 to INT4, INT8 and INT32 (R99, R117). -/
def cvtI4 (rm : Rm) (v : FVal) : Int × FlagBits := cvtInt rm (-8) 7 v
def cvtI8 (rm : Rm) (v : FVal) : Int × FlagBits := cvtInt rm (-128) 127 v
def cvtI32 (rm : Rm) (v : FVal) : Int × FlagBits := cvtInt rm (-2147483648) 2147483647 v

/-- The block-scaled formats (R105). -/
inductive BlockFmt where
  | a8 | kv8 | kv8i | kv4
deriving DecidableEq, Repr

/-- The divisor K of R119. -/
def blockK : BlockFmt → Nat
  | .a8 => 127
  | .kv8 => 448
  | .kv8i => 127
  | .kv4 => 7

/-- A quantised group: the scale code (16 bits for A8, the low 8 for the KV formats), one code an element, the
flags of the group. -/
structure QGroup where
  scale : BitVec 16
  codes : List Byte
  flags : FlagBits
deriving DecidableEq, Repr

/-- Whether a value is not finite. -/
def notFinite : FVal → Bool
  | .fin _ _ _ => false
  | _ => true

/-- The larger magnitude of two finite values. -/
def maxMag (a : Nat × Int) (v : FVal) : Nat × Int :=
  match v with
  | .fin _ m e => if dyGt m e a.1 a.2 then (m, e) else a
  | _ => a

/-- The scale value of a group. -/
def scaleVal (f : BlockFmt) (sc : BitVec 16) : FVal :=
  match f with
  | .a8 => decBf16 sc
  | _ => decSc8 (sc.setWidth 8)

/-- One element of a quantisation: x ÷ value(scale), exact and rounded once to the element format (R118). -/
def quantElem (f : BlockFmt) (lo hi : Int) (sc x : FVal) : Byte × FlagBits :=
  match sc, x with
  | .fin sn sm se, .fin xn xm xe =>
    let r := ratio xm (xe - se)
    match f with
    | .kv8 => putE4m3 true (xn != sn) r.1 (r.2 * sm)
    | _ => let q := putInt .rne lo hi (xn != sn) r.1 (r.2 * sm); (BitVec.ofInt 8 q.1, q.2)
  | _, _ => (0, flNone)

/-- Quantisation of a group with a scale chosen from its largest magnitude (R118-R120). -/
def quantise (f : BlockFmt) (xs : List Lane32) : QGroup :=
  let vs := xs.map dec32
  if vs.any notFinite then
    { scale := if f = .a8 then 0x7FC0 else 0xFF, codes := xs.map (fun _ => 0), flags := flNV }
  else
    let a := vs.foldl maxMag (0, 0)
    if a.1 = 0 then { scale := 0, codes := xs.map (fun _ => 0), flags := flNone }
    else
      let p := ratio a.1 a.2
      let s : BitVec 16 × FlagBits := match f with
        | .a8 => putBf16 .ru false p.1 (p.2 * blockK f)
        | _ => let t := putSc8 .ru true p.1 (p.2 * blockK f); (t.1.setWidth 16, t.2)
      let lim : Int := if f = .kv4 then 7 else 127
      let q := vs.map (quantElem f (-lim) lim (scaleVal f s.1))
      { scale := s.1, codes := q.map Prod.fst, flags := s.2 ||| flOr (q.map Prod.snd) }

/-- The given-scale form of the A8 quantisation (R119, R120). No command row supplies a scale; the form stands here
as the rule gives it. -/
def quantiseA8Given (sc : BitVec 16) (xs : List Lane32) : QGroup :=
  match decBf16 sc with
  | .fin sn sm se =>
    if sm = 0 then { scale := sc, codes := xs.map (fun _ => 0), flags := flNV }
    else if (xs.map dec32).any notFinite then
      { scale := 0x7FC0, codes := xs.map (fun _ => 0), flags := flNV }
    else
      let q := xs.map (fun x => quantElem .a8 (-128) 127 (.fin sn sm se) (dec32 x))
      { scale := sc, codes := q.map Prod.fst, flags := flOr (q.map Prod.snd) }
  | _ => { scale := sc, codes := xs.map (fun _ => 0), flags := flNV }

/-- The value of an element code of a block-scaled format. -/
def blockElem (f : BlockFmt) (c : Byte) : FVal :=
  match f with
  | .kv8 => decE4m3 c
  | .kv4 => decInt (c.setWidth 4).toInt
  | _ => decInt c.toInt

/-- Dequantisation of one element (R121). A scale of zero gives the zero of the element's sign; the sign of any other
zero product is the product's. -/
def dequant (f : BlockFmt) (sc : BitVec 16) (c : Byte) : Lane32 × FlagBits :=
  match scaleVal f sc, blockElem f c with
  | .nan _, _ => (nan32, flNV)
  | _, .nan _ => (nan32, flNone)
  | .inf _, .fin _ 0 _ => (nan32, flNV)
  | .inf sn, .fin n _ _ => (inf32 (sn != n), flNone)
  | _, .inf n => (inf32 n, flNone)
  | .fin sn sm se, .fin n m e =>
    if sm = 0 then (zero32 n, flNone)
    else putFin .rne (sgn (sn != n) (sm * m)) (se + e) (sn != n)

/-- The element formats that a finish-unit load or store names (R310). -/
inductive EFmt where
  | fp32 | bf16 | int8 | e4m3 | e5m2 | int4 | int32
deriving DecidableEq, Repr

/-- Widening of one loaded element (R310, R112): FP32 and INT32 are loaded as bits. -/
def loadElem (f : EFmt) (raw : Lane32) : Lane32 × FlagBits :=
  match f with
  | .fp32 => (raw, flNone)
  | .int32 => (raw, flNone)
  | .bf16 => widenBf16 (raw.setWidth 16)
  | .int8 => widen (decInt (raw.setWidth 8).toInt)
  | .int4 => widen (decInt (raw.setWidth 4).toInt)
  | .e4m3 => widen (decE4m3 (raw.setWidth 8))
  | .e5m2 => widen (decE5m2 (raw.setWidth 8))

/-- Narrowing of one stored lane (R310, R111): FP32 and INT32 are stored as bits. -/
def storeElem (f : EFmt) (rm : Rm) (satb : Bool) (x : Lane32) : Lane32 × FlagBits :=
  match f with
  | .fp32 => (x, flNone)
  | .int32 => (x, flNone)
  | .bf16 => let r := cvtBf16 (dec32 x); (r.1.setWidth 32, r.2)
  | .int8 => let r := cvtI8 rm (dec32 x); ((BitVec.ofInt 8 r.1).setWidth 32, r.2)
  | .int4 => let r := cvtI4 rm (dec32 x); ((BitVec.ofInt 4 r.1).setWidth 32, r.2)
  | .e4m3 => let r := cvtE4m3 satb (dec32 x); (r.1.setWidth 32, r.2)
  | .e5m2 => let r := cvtE5m2 satb (dec32 x); (r.1.setWidth 32, r.2)

/-- The rounding modes that the conversion of a store allows (R111): RM 3 is never one of them. -/
def storeRmOk (f : EFmt) (rm : Rm) : Bool :=
  match f, rm with
  | .fp32, _ => true
  | .int32, _ => true
  | .bf16, r => r = .rne
  | .e4m3, r => r = .rne
  | .e5m2, r => r = .rne
  | .int8, r => r ≠ .ru
  | .int4, r => r ≠ .ru

/-- The conversion that an FCVT sub-op names, with the modes it allows (R308); none where the pair of sub-op and
mode is not allowed. -/
def fcvt (vc : BitVec 5) (rm : Rm) (satb : Bool) (x : Lane32) : Option (Lane32 × FlagBits) :=
  let v := dec32 x
  match vc.toNat with
  | 0 => if rm = .rne then let r := cvtBf16 v; some ((widenBf16 r.1).1, r.2) else none
  | 1 => if rm ≠ .ru then let r := cvtI32 rm v; some (BitVec.ofInt 32 r.1, r.2) else none
  | 2 => if rm = .rne then some (cvtI32F32 x) else none
  | 3 => if rm = .rne then let r := cvtE4m3 satb v; some ((widen (decE4m3 r.1)).1, r.2) else none
  | 4 => if rm = .rne then let r := cvtE5m2 satb v; some ((widen (decE5m2 r.1)).1, r.2) else none
  | 5 => if rm ≠ .rz then let r := cvtSc8 rm satb v; some ((widenSc8 r.1).1, r.2) else none
  | 6 => if rm ≠ .ru then let r := cvtI8 rm v; some (BitVec.ofInt 32 r.1, r.2) else none
  | 7 => if rm ≠ .ru then let r := cvtI4 rm v; some (BitVec.ofInt 32 r.1, r.2) else none
  | _ => none

end Sys2Proof.Machine
end

