-- ==== Sys2Proof/Machine/TileDa.lean ====
section
/-! DEFINITION. The dense array: its loads, its multiply and its stores (R294-R302, R129-R131). -/

namespace Sys2Proof.Machine

/-! ### Elements and scales (R296, R297) -/

/-- The word of a buffer that holds element (i, j), and the element's code; element codes of INT4 are sign-extended to
8 bits. -/
def sbElem (b : SBuf) (i j : Nat) : RWord × Byte :=
  if b.ef = 3 then
    let n := (j % 2) * 128 + i
    let w := sget RWord.zero b.words (16 * (j / 2) + n / 16)
    (w, ((w.bits >>> (4 * (n % 16))).setWidth 4).signExtend 8)
  else
    let wd := 8 * 2 ^ b.wl.toNat
    let f := if b.ori then i * wd + j else 128 * j + i
    if b.ori && decide (wd ≤ j) then (RWord.zero, 0)
    else
      let w := sget RWord.zero b.words (f / 8)
      (w, (w.bits >>> (8 * (f % 8))).setWidth 8)

/-- The value of an element code in an element format (R295). -/
def elemVal (ef : BitVec 2) (c : Byte) : FVal :=
  if ef = 1 then decE4m3 c else if ef = 2 then decE5m2 c else decInt c.toInt

/-- The word that holds the group scale of element (i, j), and the scale: 1 without scales, by column and row group under
GSR, by row and column group under GSC; column j of 512 or more takes the scale of column j - 512 (R297, R299). -/
def sbScale (b : SBuf) (i j : Nat) : RWord × FVal :=
  if b.gm = 0 then (RWord.zero, .fin false 1 0)
  else
    let jj := j % 512
    let n := if b.gm = 1 then 4 * jj + i / 32 else 16 * i + jj / 32
    let w := sget RWord.zero b.scales (n / 8)
    (w, decSc8 ((w.bits >>> (8 * (n % 8))).setWidth 8))

/-! ### Dot products (R299, R300) -/

/-- A sum of terms in progress: the exact sum in units of 2^-64, the infinities met, and whether a term was invalid. -/
structure DotAcc where
  sum : Int
  pinf : Bool
  ninf : Bool
  bad : Bool
  poison : Bool
deriving DecidableEq, Repr

/-- Add one term a × w × g (R299, R300). -/
def dotTerm (acc : DotAcc) (a w g : FVal) (poison : Bool) : DotAcc :=
  let acc := { acc with poison := acc.poison || poison }
  match a, w, g with
  | .fin n1 m1 e1, .fin n2 m2 e2, .fin _ m3 e3 =>
    { acc with sum := acc.sum + sgn (n1 != n2) (m1 * m2 * m3) * 2 ^ (e1 + e2 + e3 + 64).toNat }
  | .nan _, _, _ => { acc with bad := true }
  | _, .nan _, _ => { acc with bad := true }
  | _, _, .nan _ => { acc with bad := true }
  | _, _, .inf _ => { acc with bad := true }
  | a, w, .fin _ m3 _ =>
    let za := match a with | .fin _ 0 _ => true | _ => false
    let zw := match w with | .fin _ 0 _ => true | _ => false
    let na := match a with | .fin n _ _ => n | .inf n => n | .nan _ => false
    let nw := match w with | .fin n _ _ => n | .inf n => n | .nan _ => false
    if za || zw || m3 == 0 then { acc with bad := true }
    else if na != nw then { acc with ninf := true } else { acc with pinf := true }

/-- The dot product of an activation line with column j of a buffer. -/
def dotCol (b : SBuf) (a : List (FVal × Bool)) (j : Nat) : DotAcc :=
  (List.range 128).foldl (fun acc i =>
    let x := lget (.fin false 0 0, false) a i
    let w := sbElem b i j
    let g := sbScale b i j
    dotTerm acc x.1 (elemVal b.ef w.2) g.2 (x.2 || w.1.poison || g.1.poison)) ⟨0, false, false, false, false⟩

/-- fp32(dot) with its flags (R300): an exact zero gives +0. -/
def dotF32 (d : DotAcc) : Lane32 × FlagBits :=
  if d.bad || (d.pinf && d.ninf) then (nan32, flNV)
  else if d.pinf then (inf32 false, flNone)
  else if d.ninf then (inf32 true, flNone)
  else putFin .rne d.sum (-64) false

/-- Clamp to the INT32 range (R99). -/
def sat32 (v : Int) : Lane32 × FlagBits :=
  if 2147483647 < v then (BitVec.ofInt 32 2147483647, flSAT)
  else if v < -2147483648 then (BitVec.ofInt 32 (-2147483648), flSAT)
  else (BitVec.ofInt 32 v, flNone)

/-- The activation line as 128 values with the marks of their words (R295). -/
def actLine (af : BitVec 2) (ws : List RWord) : List (FVal × Bool) :=
  (List.range 128).map (fun i =>
    let w := lget RWord.zero ws (i / 8)
    (elemVal af (byteOf (bitsOf ws) i), w.poison))

/-- The number of columns that a buffer's format defines. -/
def sbCols (b : SBuf) : Nat := if b.ef = 3 then 1024 else 512

/-- A value of a scale pair (R298). -/
def pairGet (t : Tile) (pair : BitVec 2) (half : Nat) : PLane := sget PLane.zero t.da.pairs (2 * pair.toNat + half)

/-- What one lane of a MUL takes at t + 12 (R299, R300). -/
def mulLane (t : Tile) (b : SBuf) (ok : Bool) (m : MulArgs) (a : List (FVal × Bool)) (j : Nat) : MulLane :=
  let d := dotCol b a j
  if !ok then ⟨j, nan32, 0, d.poison, flNV⟩
  else if m.am = 0 ∨ m.am = 1 then
    let v := dotF32 d
    if m.scr = 0 then ⟨j, v.1, 0, d.poison, v.2⟩
    else
      let c1 := pairGet t m.scr 0
      let c2 := pairGet t m.scr 1
      let x := fmul .rne v.1 c1.bits
      let y := fmul .rne x.1 c2.bits
      ⟨j, y.1, 0, d.poison || c1.poison || c2.poison, v.2 ||| x.2 ||| y.2⟩
  else ⟨j, 0, d.sum / 2 ^ 64, d.poison, flNone⟩

/-- Whether a MUL's fields are legal with its buffer: the INT32 modes require INT8 activations, integer elements, no
scales and no pair (R299). -/
def mulLegal (b : SBuf) (m : MulArgs) : Bool :=
  m.am = 0 || m.am = 1 || (m.af = 0 && (b.ef = 0 || b.ef = 3) && b.gm = 0 && m.scr = 0)

/-- Lane j of accumulator row r. -/
def accGet (a : SMap PLane) (r : BitVec 3) (j : Nat) : PLane := sget PLane.zero a (1024 * r.toNat + j)

/-- Apply one lane of a MUL to its row: set or add, FP32 or INT32; an illegal lane writes NaN (R299, R300). -/
def mulApply (o : MulOp) (acc : SMap PLane × FlagBits) (l : MulLane) : SMap PLane × FlagBits :=
  let old := accGet acc.1 o.row l.lane
  let key := 1024 * o.row.toNat + l.lane
  let put := fun (v : Lane32) (p : Bool) (f : FlagBits) =>
    (sset PLane.zero acc.1 key ⟨v, p⟩, if p then acc.2 else acc.2 ||| f)
  if l.flags.getLsbD 4 && l.term == nan32 then
    put nan32 (l.poison || (o.mode == 1 && old.poison)) l.flags
  else if o.mode = 0 then put l.term l.poison l.flags
  else if o.mode = 1 then
    let s := fadd .rne old.bits l.term
    put s.1 (l.poison || old.poison) (l.flags ||| s.2)
  else if o.mode = 2 then let s := sat32 l.dot; put s.1 l.poison s.2
  else let s := sat32 (old.bits.toInt + l.dot); put s.1 (l.poison || old.poison) s.2

/-- Apply a whole MUL to the accumulator rows. -/
def mulRow (acc : SMap PLane) (o : MulOp) : SMap PLane × FlagBits := o.lanes.foldl (mulApply o) (acc, flNone)

/-- MUL: the activation line is read at t and the row is updated at t + 12; AF 3 is reserved. `bad` says that the
buffer holds factors of an adapter slot that is not READY for the lane: every column is then NaN and the tile reports
ADAPTER_NOT_READY (R137, R299, R302). -/
def daMul (h : SeqHdr) (m : MulArgs) (bad : SBuf → BitVec 8 → Bool) (t : Tile) : Tile × List TOut :=
  hdrEntry h true (daEntry h.site h.idx.toNat (fun e t =>
    if m.af = 3 then seqDrop h.site h.idx.toNat e.cyc t
    else
      let r := seqRead h.site e.cyc e.taint (BitVec.allOnes 16) t (m.aline + e.add)
      let b := sbGet r.1 m.sb
      let ln := laneGet r.1 e.lane
      let nr := ln.getLsbD 22 && bad b ((ln >>> 14).setWidth 8)
      let ok := b.valid && mulLegal b m && !nr
      let a := actLine m.af r.2.1
      let o : MulOp := ⟨e.cyc, m.acc, m.am, (List.range (sbCols b)).map (mulLane r.1 b ok m a)⟩
      ({ r.1 with da := { r.1.da with muls := r.1.da.muls ++ [o] } },
        r.2.2 ++ if nr then [.rpt 0x09 (BitVec.ofNat 64 h.site) [ln]] else []))) t

/-- The oldest MUL in flight updates its row at t + 12 and raises its flags (R302). -/
def daMulDone (site x : Nat) (t : Tile) : Tile × List TOut :=
  let r := tileSync site x t
  match r.1.da.muls with
  | [] => r
  | o :: rest =>
    if o.t + 12 ≤ x then
      let a := mulRow r.1.da.acc o
      let f := flagRaise r.1.da.fda (o.t + 12) a.2
      ({ r.1 with da := { r.1.da with acc := a.1, muls := rest, fda := f } }, r.2)
    else r

/-! ### Loads (R296-R298, R302) -/

/-- Whether an LDW is legal (R296). -/
def ldwLegal (a : LdwArgs) : Bool := !a.ori || (a.ef ≠ 3 && decide (a.wl.toNat ≤ 4))

/-- LDW: the buffer is cleared and invalid, a load in progress is abandoned, and the lines are read from t on
(R296, R302). -/
def daLdw (h : SeqHdr) (a : LdwArgs) (t : Tile) : Tile × List TOut :=
  hdrEntry h true (daEntry h.site h.idx.toNat (fun e t =>
    let ln := a.line + e.add
    let n := a.nl.toNat + 1
    let t1 := sbPut t a.sb ⟨[], ln, n, a.ori, a.wl, a.ef, 0, [], false⟩
    let o : LdwOp := ⟨a.sb, ln, n, e.cyc, 0, ldwLegal a, e.taint, e.lane⟩
    ldwReads 33 h.site e.cyc { t1 with da := { t1.da with load := some o } })) t

/-- A legal LDW completes at t + 2⌈NL ÷ 16⌉ and makes its buffer valid; an illegal one leaves it cleared and invalid
(R296, R302). -/
def daLdwDone (site x : Nat) (t : Tile) : Tile × List TOut :=
  let r := tileSync site x t
  match r.1.da.load with
  | none => r
  | some o =>
    if o.t + 2 * ((o.nl + 15) / 16) ≤ x then
      let b := sbGet r.1 o.sb
      let t1 := sbPut r.1 o.sb { b with valid := o.legal }
      ({ t1 with da := { t1.da with load := none } }, r.2)
    else r

/-- Read a run of lines at one bank cycle as words 16q to 16q + 15 (R302). -/
def readRun (site cyc : Nat) (taint : Bool) (n : Nat) (line : BitVec 16) (t : Tile) : Tile × SMap RWord × List TOut :=
  (List.range n).foldl (fun acc q =>
    let r := seqRead site cyc taint (BitVec.allOnes 16) acc.1 (lineAdd line q)
    (r.1, (List.range 16).foldl (fun m w => sset RWord.zero m (16 * q + w) (lget RWord.zero r.2.1 w)) acc.2.1,
      acc.2.2 ++ r.2.2)) (t, [], [])

/-- LDS: 16 lines of group scales are read at t and are valid from t + 2; a load in progress is abandoned; a valid buffer
is invalid until then. GM 3 is reserved (R297, R302). -/
def daLds (h : SeqHdr) (sb : Bool) (line : BitVec 16) (gm : BitVec 2) (t : Tile) : Tile × List TOut :=
  hdrEntry h true (daEntry h.site h.idx.toNat (fun e t =>
    if gm = 3 then seqDrop h.site h.idx.toNat e.cyc t
    else
      let r := readRun h.site e.cyc e.taint 16 (line + e.add) t
      let t1 := { r.1 with da := { r.1.da with load := none } }
      let b := sbGet t1 sb
      let t2 := sbPut t1 sb { b with valid := false }
      (sendEff t2 (e.cyc + 2) (.ldsDone sb gm r.2.1 b.valid), r.2.2))) t

/-- SETS: c1 or c2 of a pair takes a widened BF16 element at t + 2; pair 0 is reserved (R298, R302). -/
def daSets (h : SeqHdr) (pair : BitVec 2) (half : Bool) (line : BitVec 16) (elem : BitVec 6) (t : Tile) :
    Tile × List TOut :=
  hdrEntry h true (daEntry h.site h.idx.toNat (fun e t =>
    if pair = 0 then seqDrop h.site h.idx.toNat e.cyc t
    else
      let n := elem.toNat
      let r := seqRead h.site e.cyc e.taint (BitVec.ofNat 16 (2 ^ (n / 4))) t (line + e.add)
      let w := lget RWord.zero r.2.1 (n / 4)
      let v := widenBf16 (halfOf (bitsOf r.2.1) n)
      let t1 := sendEff r.1 (e.cyc + 2) (.pair (2 * pair.toNat + if half then 1 else 0) ⟨v.1, w.poison⟩)
      (if w.poison then t1 else sendEff t1 (e.cyc + 2) (.fda v.2), r.2.2))) t

/-- ST: row ACC, with the MULs issued at t - 10 or before, is captured and written in bank cycle t + 4 (R301, R302). -/
def daSt (h : SeqHdr) (acc : BitVec 3) (line : BitVec 16) (nl : Bool) (t : Tile) : Tile × List TOut :=
  hdrEntry h true (daEntry h.site h.idx.toNat (fun e t =>
    let done := t.da.muls.filter (fun o => o.row == acc && decide (o.t + 10 ≤ e.cyc))
    let a := done.foldl (fun m o => (mulRow m o).1) t.da.acc
    let n := if nl then 32 else 16
    let ls := (List.range (32 * n)).map (accGet a acc)
    (List.range n).foldl (fun s q =>
      let r := seqWrite .da (e.cyc + 4) e.taint (BitVec.allOnes 16) s.1 (lineAdd (line + e.add) q)
        (packLanes (ls.drop (32 * q)) 16)
      (r.1, s.2 ++ r.2)) (t, []))) t

end Sys2Proof.Machine
end

