-- ==== Sys2Proof/Machine/TileFab.lean ====
section
/-! DEFINITION. The weight fabric of a tile: the macro table, the stored levels, the conversion chain, the adder tree,
and a macro operation from its start to its write (R51-R78, R293). -/

namespace Sys2Proof.Machine

/-! ### Macro table, pages and addresses (R54, R55, R78, R82-R84) -/

/-- A macro-table entry, by tier × 1,024 + macro. -/
def mtGet (f : Fabric) (m : Nat) : MEntry := sget MEntry.fresh f.mt m
/-- Set a macro-table entry. -/
def mtPut (f : Fabric) (m : Nat) (e : MEntry) : Fabric := { f with mt := sset MEntry.fresh f.mt m e }
/-- The key of a page: data pages 0-127, strip page p at 128 + p. -/
def pageKey (m page : Nat) : Nat := 256 * m + page
/-- A page of a macro. -/
def pageGet (f : Fabric) (m page : Nat) : Page := sget Page.erased f.pages (pageKey m page)
/-- Set a page of a macro. -/
def pagePut (f : Fabric) (m page : Nat) (p : Page) : Fabric :=
  { f with pages := sset Page.erased f.pages (pageKey m page) p }
/-- The level of a physical cell (R53). -/
def cellLevel (f : Fabric) (m row col : Nat) : Nat := ((pageGet f m row).cells >>> (2 * col)).toNat % 4
/-- The fabric address of a cell (R55). -/
def fabAddr (site m row col : Nat) (strip : Bool) : Word :=
  BitVec.ofNat 64 (col + row * 2 ^ 10 + m * 2 ^ 17 + site * 2 ^ 30 + if strip then 2 ^ 43 else 0)
/-- The spare offset r of spare column 512 + k (R84). -/
def spareOff (e : MEntry) (k : Nat) : Nat :=
  if k < 8 then (e.spareLo >>> (5 * k)).toNat % 32 else (e.spareHi >>> (5 * (k - 8))).toNat % 32
/-- The physical column that carries a logical column (R78). -/
def physCol (e : MEntry) (c : Nat) : Nat :=
  if e.spareValid.getLsbD (c / 32) && spareOff e (c / 32) == c % 32 then 512 + c / 32 else c
/-- The SC8 code of the scale of block j and logical column c (R54). -/
def scaleCode (f : Fabric) (m j c : Nat) : Byte :=
  let n := 512 * j + c
  ((pageGet f m (128 + n / 128)).cells >>> (8 * (n % 128))).setWidth 8

/-! ### Conversion (R58-R64, R78, R81) -/

/-- The converter that serves a logical column in a group: the spare, 128, where it stands in (R59, R81). -/
def convOf (e : MEntry) (g c : Nat) : Nat :=
  let b : Byte := (e.conv >>> (8 * g)).setWidth 8
  if b.getLsbD 7 && (b.toNat % 128 == c / 4) then 128 else c / 4
/-- The key of a converter of a macro. -/
def convKey (m g v : Nat) : Nat := (8 * m + g) * 129 + v
/-- A converter's input in sixteenths of a level step: the charge sum and the converter's deviation (R59). -/
def convIn (f : Fabric) (m g v sum : Nat) : Int := 16 * (sum : Int) + sget 0 f.convErr (convKey m g v)
/-- The code of an input: the nearest code 0-63, the higher one midway (R59). -/
def convCode (x : Int) : Nat := min 63 (((x + 8) / 16).toNat)
/-- Whether an input is a clip event (R61). -/
def convClips (x : Int) : Bool := 1016 < x

/-- The offset o of a logical column (R56). -/
def colOffset (fmt : BitVec 2) (c : Nat) : Nat := if fmt = 1 then 2 else if fmt = 2 then 1 else if c % 2 = 0 then 2 else 0
/-- Whether the band of a logical column runs in paired grouping (R60, R87). -/
def bandPaired (f : Fabric) (e : MEntry) (c : Nat) : Bool := e.pair.getLsbD (c / 64) && !f.pairDis
/-- N(g, b): the rows of a group that plane b drives (R63). -/
def driven (x : List Byte) (g b : Nat) : Nat := (List.range 16).countP (fun i => (lget 0 x (16 * g + i)).getLsbD b)
/-- The charge sum of a group's driven cells in a physical column (R58). -/
def chargeSum (f : Fabric) (m : Nat) (x : List Byte) (g b u : Nat) : Nat :=
  (List.range 16).foldl (fun acc i =>
    if (lget 0 x (16 * g + i)).getLsbD b then acc + cellLevel f m (16 * g + i) u else acc) 0

/-- A conversion of an operation: its code, and the clip event it has: group and physical column. -/
structure Conv where
  code : Nat
  clip : Option (Nat × Nat)
deriving DecidableEq, Repr

/-- Convert a charge sum by the converter of group g (R59, R61). -/
def convert (f : Fabric) (m : Nat) (e : MEntry) (g c sum : Nat) : Conv :=
  let x := convIn f m g (convOf e g c) sum
  ⟨convCode x, if convClips x then some (g, physCol e c) else none⟩

/-- A sum with the clip events of its conversions. -/
structure PSum where
  p : Int
  clips : List (Nat × Nat)
deriving DecidableEq, Repr

/-- The events of a conversion. -/
def clipList (c : Conv) : List (Nat × Nat) := match c.clip with | some x => [x] | none => []

/-- P(j, b, c): the plane sum of a block for a logical column (R60, R63, R64). -/
def planeSum (f : Fabric) (m : Nat) (e : MEntry) (x : List Byte) (j b c : Nat) : PSum :=
  let u := physCol e c
  let o : Int := colOffset e.fmt c
  let n0 := driven x (2 * j) b
  let n1 := driven x (2 * j + 1) b
  let s0 := chargeSum f m x (2 * j) b u
  let s1 := chargeSum f m x (2 * j + 1) b u
  if bandPaired f e c then
    if n0 + n1 = 0 then ⟨0, []⟩
    else
      let q := convert f m e (2 * j) c (s0 + s1)
      ⟨(q.code : Int) - o * (n0 + n1 : Nat), clipList q⟩
  else
    let q0 := if n0 = 0 then ⟨0, none⟩ else convert f m e (2 * j) c s0
    let q1 := if n1 = 0 then ⟨0, none⟩ else convert f m e (2 * j + 1) c s1
    ⟨((q0.code : Int) - o * (n0 : Nat)) + ((q1.code : Int) - o * (n1 : Nat)), clipList q0 ++ clipList q1⟩

/-! ### Adder tree (R65-R67) -/

/-- s(j, c) before saturation. -/
def blockRaw (ps : List PSum) : Int :=
  (List.range 7).foldl (fun acc b => acc + 2 ^ b * (lget ⟨0, []⟩ ps b).p) 0 - 128 * (lget ⟨0, []⟩ ps 7).p
/-- Saturate to the 15-bit block sum. -/
def blockSat (s : Int) : Int := max (-16384) (min 16383 s)

/-- One product p(j, m) of the tree: the scale times the exact block sum (R65, R67). -/
def treeProduct (code : Byte) (s : Int) : Lane32 :=
  match decSc8 code with
  | .fin _ m e => (putFin .rne (s * (m : Int)) e (decide (s < 0))).1
  | _ => nan32

/-- y(m) from the four scale codes and block sums (R65, R67): an invalid scale makes it NaN. -/
def treeOut (sa : BitVec 16) (codes : List Byte) (ss : List Int) : Lane32 :=
  if codes.any (fun c => c == 0xFF) then nan32
  else
    let p := fun j => treeProduct (lget 0 codes j) (lget 0 ss j)
    let a := (fadd .rne (p 0) (p 1)).1
    let b := (fadd .rne (p 2) (p 3)).1
    (fmul .rne (widenBf16 sa).1 (fadd .rne a b).1).1

/-- What an operation computes: its outputs, the clip events, the saturation events (block and logical column), and the
outputs made NaN by an invalid scale. -/
structure OpResult where
  outs : List Lane32
  clips : List (Nat × Nat)
  sats : List (Nat × Nat)
  invScale : Nat
deriving DecidableEq, Repr

/-- The number of outputs of a format (R56). -/
def outCount (fmt : BitVec 2) : Nat := if fmt = 3 then 256 else 512

/-- The arithmetic of one operation on a macro (R62-R67). Events are listed in the order of their conversion: by column
phase, plane, and then block and converter. -/
def opCompute (f : Fabric) (m : Nat) (x : List Byte) (sa : BitVec 16) : OpResult :=
  let e := mtGet f m
  let ps := (List.range 4).map (fun j => (List.range 512).map (fun c => (List.range 8).map (fun b =>
    planeSum f m e x j b c)))
  let at_ := fun j c b => lget ⟨0, []⟩ (lget [] (lget [] ps j) c) b
  let raw := fun j c => blockRaw (lget [] (lget [] ps j) c)
  let s := fun j c => blockSat (raw j c)
  let n := outCount e.fmt
  let big := fun j o => if e.fmt = 3 then 4 * s j (2 * o) + s j (2 * o + 1) else s j o
  let code := fun j o => scaleCode f m j (if e.fmt = 3 then 2 * o else o)
  let codes := fun o => (List.range 4).map (fun j => code j o)
  { outs := (List.range n).map (fun o => treeOut sa (codes o) ((List.range 4).map (fun j => big j o))),
    clips := (List.range 4).flatMap (fun ph => (List.range 8).flatMap (fun b => (List.range 4).flatMap (fun j =>
      (List.range 128).flatMap (fun v => (at_ j (4 * v + ph) b).clips)))),
    sats := (List.range 4).flatMap (fun ph => (List.range 4).flatMap (fun j =>
      ((List.range 128).filter (fun v => raw j (4 * v + ph) ≠ s j (4 * v + ph))).map (fun v => (j, 4 * v + ph)))),
    invScale := ((List.range n).filter (fun o => (codes o).any (fun c => c == 0xFF))).length }

/-! ### Clip and saturation events (R67, R74, R75, R90) -/

/-- The image of CIM_CLIP_ADDR without VALID (R90). -/
def clipImage (m unit col : Nat) (kind : Bool) : BitVec 27 :=
  BitVec.ofNat 27 (m / 1024 + 8 * (m % 1024) + 2 ^ 13 * unit + 2 ^ 16 * col + if kind then 2 ^ 26 else 0)

/-- One clip event (KIND 0) or saturation event (KIND 1): counted, captured when armed, and counted toward the clip
report of the frame with the first event's address (R67, R74, R75). -/
def clipEvent (site m : Nat) (kind : Bool) (f : Fabric) (uc : Nat × Nat) : Fabric :=
  let f1 := if kind then { f with sat := satInc f.sat } else { f with clip := satInc f.clip }
  let f2 := if f1.clipValid then f1
    else { f1 with clipAddr := clipImage m uc.1 uc.2 kind, clipValid := true }
  let row := if kind then 32 * uc.1 else 16 * uc.1
  { f2 with clipN := f2.clipN + 1, clipFirst := if f2.clipN = 0 then fabAddr site m row uc.2 false else f2.clipFirst }

/-! ### Limits and refusal (R71, R76) -/

/-- The macros with an operation in progress in cycle `x`: from its ac 0 to its ac 38, or under a reference scan (R71,
R185). -/
def activeMacros (f : Fabric) (x : Nat) : List Nat :=
  ((f.act.filter (fun a => decide (x < a.1 + 78))).map Prod.snd ++
    (f.scans.filter (fun a => decide (x < a.1))).map (fun a => a.2.1)).eraseDups
/-- Whether a macro is under a reference scan in cycle `x`. -/
def underScan (f : Fabric) (m x : Nat) : Bool := f.scans.any (fun a => a.2.1 == m && decide (x < a.1))
/-- The cycle, plus one, since which a macro that starts an operation in cycle `t0` has run without a trim gap: two array
cycles in which no converter of it fires (R70, R180). -/
def gapFree (f : Fabric) (m t0 : Nat) : Nat :=
  if f.act.any (fun z => z.2 == m && decide (t0 < z.1 + 68)) ∧ sget 0 f.busyFrom m ≠ 0 then sget 0 f.busyFrom m else t0 + 1

/-- Whether a start on a macro in cycle `x` keeps the first four limits of R71. -/
def limitsOk (f : Fabric) (m x : Nat) : Bool :=
  let a := m :: (activeMacros f x).filter (fun y => y != m)
  decide (a.length ≤ 64) && decide ((a.filter (fun y => y / 1024 == m / 1024)).length ≤ 16) &&
    !f.act.any (fun z => z.2 == m && decide (x < z.1 + 64)) && !underScan f m x &&
    decide ((f.act.filter (fun z => z.1 == x)).length ≤ 1)

/-- The physical macro of a logical macro, where the map entry is VALID (R248, R293). -/
def macroOf (t : Tile) (tier : BitVec 3) (lm : BitVec 10) : Option Nat :=
  let e := sget 0 t.seq.macroMap (1024 * tier.toNat + lm.toNat)
  if e.getLsbD 15 then some (1024 * tier.toNat + e.toNat % 1024) else none

/-- Whether a macro's entry lets an operation run: assigned, resident and not busy (R71, R76). -/
def entryRuns (e : MEntry) : Bool := e.fmt ≠ 0 && e.res && !e.busyPe

/-- The activation codes and the scale of a MOP: ALINE and SLINE are read in bank cycle t₀; lines of one bank give a
scale of NaN (R293). -/
def mopReads (h : SeqHdr) (e : SeqRun) (aline sline : BitVec 16) (sel : BitVec 6) (t : Tile) :
    Tile × List Byte × BitVec 16 × Bool × List TOut :=
  let a := seqRead h.site e.cyc e.taint (BitVec.allOnes 16) t aline
  let x := (List.range 128).map (byteOf (bitsOf a.2.1))
  if bankOf aline = bankOf sline then (a.1, x, 0x7FC0, anyPoison a.2.1, a.2.2)
  else
    let n := sel.toNat
    let s := seqRead h.site e.cyc false (BitVec.ofNat 16 (2 ^ (n / 4))) a.1 sline
    (s.1, x, halfOf (bitsOf s.2.1) n, anyPoison a.2.1 || (lget RWord.zero s.2.1 (n / 4)).poison, a.2.2 ++ s.2.2)

/-- A refused operation: counted, reported, and its outputs are NaN (R76, R91). -/
def mopRefuse (h : SeqHdr) (e : SeqRun) (state : Bool) (m n : Nat) (dline : BitVec 16) (poison : Bool) (t : Tile) :
    Tile × List TOut :=
  let f := t.fab
  let f1 := if state then { f with notRes := satInc f.notRes } else { f with conc := satInc f.conc }
  let o : MacroOp := ⟨e.cyc, m, dline, List.replicate n ⟨nan32, poison⟩, 0⟩
  (hazAdd { t with fab := { f1 with ops := f.ops ++ [o] } } 4 e.cyc h.idx.toNat,
    [.rpt 0x08 (fabAddr h.site m 0 0 false) [BitVec.ofNat 64 h.idx.toNat]])

/-- MOP: start a macro operation at t₀ = CYC, or refuse it (R76, R77, R293). An idle lane's operation is not started
(R291). -/
def mopStart (h : SeqHdr) (aline sline dline : BitVec 16) (tier : BitVec 3) (lm : BitVec 10) (sel : BitVec 6)
    (t : Tile) : Tile × List TOut :=
  hdrEntry h true (fun e t =>
    if e.idle then (t, [])
    else
      let r := mopReads h e (aline + e.add) sline sel t
      let t1 := r.1
      let pois := r.2.2.2.1
      match macroOf t1 tier lm with
      | none =>
        let q := mopRefuse h e true (1024 * tier.toNat + lm.toNat) 512 dline pois t1
        (q.1, r.2.2.2.2 ++ q.2)
      | some m =>
        let en := mtGet t1.fab m
        if !entryRuns en then
          let q := mopRefuse h e true m (if en.fmt = 0 then 512 else outCount en.fmt) dline pois t1
          (q.1, r.2.2.2.2 ++ q.2)
        else if !limitsOk t1.fab m e.cyc then
          let q := mopRefuse h e false m (outCount en.fmt) dline pois t1
          (q.1, r.2.2.2.2 ++ q.2)
        else
          let c := opCompute t1.fab m r.2.1 r.2.2.1
          let f := t1.fab
          let o : MacroOp := ⟨e.cyc, m, dline, c.outs.map (fun y => ⟨y, pois⟩), c.invScale⟩
          let f1 := { f with
            ops := f.ops ++ [o], act := f.act.filter (fun z => decide (e.cyc < z.1 + 78)) ++ [(e.cyc, m)],
            busyFrom := sset 0 f.busyFrom m (gapFree f m e.cyc),
            opsCnt := f.opsCnt + 1 }
          let f2 := c.clips.foldl (clipEvent h.site m false) f1
          ({ t1 with fab := c.sats.foldl (clipEvent h.site m true) f2 }, r.2.2.2.2)) t

/-- The oldest operation writes all its outputs in bank cycle t₀ + 76 (R69): output m at byte 4m of its destination. -/
def mopDone (site x : Nat) (t : Tile) : Tile × List TOut :=
  let r := tileSync site x t
  match r.1.fab.ops with
  | [] => r
  | o :: rest =>
    if o.t0 + 76 ≤ x then
      let f := r.1.fab
      let t1 := { r.1 with fab := { f with ops := rest, invScale := satAdd f.invScale o.invScale } }
      let w := (List.range (o.outs.length / 32)).foldl (fun acc q =>
        let s := seqWrite .fabric (o.t0 + 76) false (BitVec.allOnes 16) acc.1 (lineAdd o.dline q)
          (packLanes (o.outs.drop (32 * q)) 16)
        (s.1, acc.2 ++ s.2)) (t1, [])
      (w.1, r.2 ++ w.2)
    else r

/-- The clip report of the frame before (R75). -/
def clipReport (t : Tile) : Tile × List TOut :=
  match t.fab.clipDue with
  | none => (t, [])
  | some d =>
    ({ t with fab := { t.fab with clipDue := none } },
      if t.fab.clipRptEn then [.rpt 0x07 d.2 [BitVec.ofNat 64 d.1]] else [])

end Sys2Proof.Machine
end

