-- ==== Sys2Proof/Machine/TileRegs.lean ====
section
/-! DEFINITION. The tile window: TILE_, MESH_, CIM_, FLT_PROBE_TILE and PWR_TILE_SENSE registers, the configuration
stores, the tables of the weight fabric, and the freeze window (R41-R50, R82-R92, R229-R233, R248, R252, R262, R519, R557,
R570, R597, R616). -/

namespace Sys2Proof.Machine

/-! ### Register images -/

/-- Fields placed in a word: (lowest bit, value). Values keep to their fields. -/
def fields (l : List (Nat × Nat)) : Word := l.foldl (fun acc f => acc ||| BitVec.ofNat 64 (f.2 * 2 ^ f.1)) 0
/-- A flag as a number. -/
def b1 (b : Bool) : Nat := if b then 1 else 0
/-- A counter with its overflow flag at given bits. -/
def satF {w : Nat} (c : Sat w) (lo ovf : Nat) : List (Nat × Nat) := [(lo, c.cnt.toNat), (ovf, b1 c.ovf)]
/-- Bits of a written word. -/
def bitsAt (v : Word) (lo n : Nat) : Nat := v.toNat / 2 ^ lo % 2 ^ n

/-! ### The sideband of a flit (R197) -/

/-- One step of the CRC-8 of x^8 + x^2 + x + 1. -/
def crc8Step (c : Byte) (bit : Bool) : Byte :=
  let d := c <<< 1
  if c.getLsbD 7 != bit then d ^^^ 0x07 else d
/-- The CRC-8 of the low n bits of a number, highest bit first. -/
def crc8 (v : Nat) (n : Nat) : Byte := (List.range n).foldl (fun c i => crc8Step c (v.testBit (n - 1 - i))) 0
/-- The sideband of a flit as bits [91:0] of R197. -/
def sideband92 (f : Flit) : Nat :=
  let psn := (List.range 16).foldl (fun a i => a + if (lget RWord.zero f.words i).poison then 2 ^ i else 0) 0
  f.sid.toNat + 2 ^ 14 * f.lane.toNat + 2 ^ 20 * f.kind.toNat + 2 ^ 23 * f.line.toNat + 2 ^ 39 * f.wen.toNat +
    2 ^ 55 * psn + 2 ^ 71 * f.rel.toNat + 2 ^ 79 * f.src.toNat + 2 ^ 87 * f.tag.toNat + 2 ^ 91 * b1 f.err
/-- The sideband with its CRC. -/
def sideband (f : Flit) : BitVec 100 := BitVec.ofNat 100 (sideband92 f + 2 ^ 92 * (crc8 (sideband92 f) 92).toNat)

/-! ### Registers of the tile blocks -/

/-- TILE_ID and TILE_STATUS (R45, R46). -/
def tileIdReg (site : Nat) : Word := fields [(0, site), (16, siteX site), (24, siteY site)]
/-- The code of CC_STATE. -/
def ccCode : CcState → Nat
  | .idle => 0
  | .running => 1
  | .frozen => 2
  | .stopped => 3
/-- Whether a site lies on the edge of the grid. -/
def edgeTile (site : Nat) : Bool := siteX site == 0 || siteX site == 95 || siteY site == 0 || siteY site == 83
/-- TILE_STATUS (R46). -/
def tileStatus (t : Tile) (site : Nat) : Word :=
  let rim := match rimOf site with | some d => d.1 | none => 0x3F
  fields [(0, b1 (edgeTile site)), (1, b1 (rimOf site).isSome), (2, rim), (8, b1 t.imageLoaded), (12, ccCode t.cc.st),
    (32, t.cc.pc.toNat)]

/-- TILE_WIN_CFGn (R49). -/
def winCfg (w : Win) : Word :=
  fields [(0, w.base.toNat), (16, w.lines.toNat), (34, w.typ.toNat), (40, w.source.toNat), (48, w.quota.toNat)]

/-- The TILE_ block (R44-R50). -/
def tileBlock (t : Tile) (site off : Nat) : Option Word :=
  let p := t.pad
  if off = 0 then some (tileIdReg site)
  else if off = 8 then some (tileStatus t site)
  else if off = 0x18 then some (fields (satF p.ce 0 16 ++ [(32, b1 p.ue)]))
  else if off = 0x20 then some (fields [(0, p.eccWord.toNat), (20, b1 p.eccType), (21, b1 p.eccValid)])
  else if off = 0x28 then some (fields (satF p.confl 0 16))
  else if off = 0x30 then some (fields (satF p.landDrop 0 24 ++ [(16, p.lastWin.toNat)]))
  else if 0x100 ≤ off ∧ off < 0x200 then some (winCfg (winGet p ((off - 0x100) / 8)))
  else if 0x200 ≤ off ∧ off < 0x300 then some (fields [(0, (winGet p ((off - 0x200) / 8)).credits.toNat)])
  else none

/-- MESH_STATUS at the start of the current frame (R231). -/
def meshStatus (m : Mesh) (frames : Nat) : Word :=
  fields [(0, b1 m.run), (1, b1 m.set), (2, m.span.toNat), (6, m.beat.toNat),
    (10, if m.run then 2048 * (frames - m.beatAt) % 2 ^ 15 else 0)]

/-- The lath node of a number. -/
def lathNode (s : State) (n : Nat) : LNode := sget LNode.reset s.lath.nodes n
/-- Change a lath node. -/
def lathUpd (n : Nat) (f : LNode → LNode) (s : State) : State :=
  { s with lath := { s.lath with nodes := supd LNode.reset s.lath.nodes n f } }
/-- Whether a site is its block's hub. -/
def isHub (s : State) (site : Nat) : Bool := hubOf s (blockOf site) == site

/-- The MESH_ block (R229-R233). -/
def meshBlock (s : State) (site off : Nat) : Option Word :=
  let m := (tileAt s site).mesh
  let n := lathNode s site
  if off = 0 then some m.portCfg
  else if off = 8 then some m.sets
  else if off = 0x10 then some (meshStatus m s.frames)
  else if off = 0x18 then some (fields (satF m.drop 0 16))
  else if off = 0x20 then some (fields (satF m.linkErr 0 16 ++ satF m.fenceErr 32 48))
  else if off = 0x28 then some (fields (satF m.late 0 16 ++ satF m.miss 32 48))
  else if off = 0x30 then
    some (fields ([(0, n.epoch.toNat)] ++ satF n.crc 16 48 ++ satF n.stale 32 49 ++ [(50, b1 (isHub s site))]))
  else none

/-- The number of set bits of a number. -/
def popNat (n bits : Nat) : Nat := (List.range bits).countP (fun i => n.testBit i)

/-- The CIM_ block (R86-R92). -/
def cimBlock (f : Fabric) (x off : Nat) : Option Word :=
  if off = 0 then some (fields [(0, b1 f.clipRptEn), (1, b1 f.pairDis)])
  else if off = 8 then some (fields [(0, (activeMacros f x).length), (8, b1 f.mtLoaded)])
  else if off = 0x10 then some (f.opsCnt.setWidth 64)
  else if off = 0x18 then some (fields (satF f.clip 0 16 ++ satF f.sat 32 48))
  else if off = 0x20 then some (fields [(0, f.clipAddr.toNat), (27, b1 f.clipValid)])
  else if off = 0x28 then some (fields (satF f.invScale 0 48 ++ satF f.notRes 16 49 ++ satF f.conc 32 50))
  else if off = 0x30 then
    let cols := (f.mt.map (fun e => popNat e.2.spareValid.toNat 16)).sum
    let convs := (f.mt.map (fun e => (List.range 8).countP (fun g => e.2.conv.getLsbD (8 * g + 7)))).sum
    some (fields [(0, cols), (32, convs)])
  else none

/-- FLT_PROBE_TILE (R570). -/
def probeReg (p : Probe) : Word :=
  fields [(0, p.skip.cnt.toNat), (16, p.soft.cnt.toNat), (32, p.conf.cnt.toNat), (48, b1 p.skip.ovf), (49, b1 p.soft.ovf),
    (50, b1 p.conf.ovf)]
/-- PWR_TILE_SENSE (R597). -/
def senseReg (z : Sense) : Word :=
  fields [(0, z.value.toNat), (11, b1 z.valid), (12, z.mux.toNat), (14, z.filt.toNat), (17, b1 z.bond)]

/-! ### Stores and tables -/

/-- Four 16-bit entries of a table as one word. -/
def word16 (m : SMap (BitVec 16)) (n : Nat) : Word := fields ((List.range 4).map (fun i => (16 * i, (sget 0 m (4 * n + i)).toNat)))
/-- Write four 16-bit entries of a table. -/
def put16 (m : SMap (BitVec 16)) (n : Nat) (v : Word) : SMap (BitVec 16) :=
  (List.range 4).foldl (fun m i => sset 0 m (4 * n + i) ((v >>> (16 * i)).setWidth 16)) m
/-- Two 32-bit entries of a table as one word. -/
def word32 (m : SMap (BitVec 32)) (n : Nat) : Word := (sget 0 m (2 * n + 1)) ++ (sget 0 m (2 * n))
/-- Write two 32-bit entries of a table. -/
def putW32 (m : SMap (BitVec 32)) (n : Nat) (v : Word) : SMap (BitVec 32) :=
  sset 0 (sset 0 m (2 * n) (v.setWidth 32)) (2 * n + 1) ((v >>> (32 : Nat)).setWidth 32)

/-- Word w of a macro-table entry (R83, R84). -/
def mtWord (e : MEntry) (w : Nat) : Word :=
  if w = 0 then
    fields [(0, e.fmt.toNat), (2, b1 e.res), (3, b1 e.busyPe), (4, b1 e.worn), (5, b1 e.store), (8, e.pair.toNat),
      (16, e.spareValid.toNat)]
  else if w = 1 then e.spareLo.setWidth 64 else if w = 2 then e.spareHi.setWidth 64 else e.conv
/-- Write word w of a macro-table entry. -/
def mtSetWord (e : MEntry) (w : Nat) (v : Word) : MEntry :=
  if w = 0 then { e with fmt := v.setWidth 2, res := v.getLsbD 2, busyPe := v.getLsbD 3, worn := v.getLsbD 4,
                         store := v.getLsbD 5, pair := (v >>> (8 : Nat)).setWidth 8, spareValid := (v >>> (16 : Nat)).setWidth 16 }
  else if w = 1 then { e with spareLo := v.setWidth 40 } else if w = 2 then { e with spareHi := v.setWidth 40 }
  else { e with conv := v }

/-- The stores and tables of a tile at tile-window offset off (R248, R252, R262, R519, R204, R211, R82, R557, R560). -/
def storeRead (t : Tile) (off : Nat) : Option Word :=
  let q := t.seq
  if 0x900000 ≤ off ∧ off < 0x910000 then some (word32 t.cc.iram ((off - 0x900000) / 8))
  else if 0x920000 ≤ off ∧ off < 0x928000 then some (sget 0 q.prog0 ((off - 0x920000) / 8))
  else if 0x930000 ≤ off ∧ off < 0x938000 then some (sget 0 q.prog1 ((off - 0x930000) / 8))
  else if 0x940000 ≤ off ∧ off < 0x940200 then some (sget 0 q.names ((off - 0x940000) / 8))
  else if off = 0x940200 then some (word16 q.selTags 0)
  else if 0x950000 ≤ off ∧ off < 0x952000 then some (word16 q.pageOwn ((off - 0x950000) / 8))
  else if 0xA00000 ≤ off ∧ off < 0xA10000 then some (sget 0 t.mesh.slots ((off - 0xA00000) / 8))
  else if 0xA10000 ≤ off ∧ off < 0xA10200 then some (sget 0 q.laneAct ((off - 0xA10000) / 8))
  else if 0xC00000 ≤ off ∧ off < 0xC40000 then some (mtWord (mtGet t.fab ((off - 0xC00000) / 32)) (off / 8 % 4))
  else if 0xC40000 ≤ off ∧ off < 0xC44000 then some (word16 q.macroMap ((off - 0xC40000) / 8))
  else if 0xC60000 ≤ off ∧ off < 0xC80000 then some (word32 t.probe.refs ((off - 0xC60000) / 8))
  else if 0xC80000 ≤ off ∧ off < 0xC80800 then some (sget 0 t.probe.capture ((off - 0xC80000) / 8))
  else none

/-- The declaration of a window from its word (R49). -/
def winDecode (v : Word) (w : Win) : Win :=
  { w with
    base := v.setWidth 16, lines := (v >>> (16 : Nat)).setWidth 17, typ := (v >>> (34 : Nat)).setWidth 2
    source := (v >>> (40 : Nat)).setWidth 8, quota := (v >>> (48 : Nat)).setWidth 16 }

/-- Write the live copy of a store, table, window or mesh configuration word: what a commit makes live (R248, R268). -/
def storeWrite (off : Nat) (v : Word) (t : Tile) : Tile :=
  let q := t.seq
  if 0x900000 ≤ off ∧ off < 0x910000 then { t with cc := { t.cc with iram := putW32 t.cc.iram ((off - 0x900000) / 8) v } }
  else if 0x920000 ≤ off ∧ off < 0x928000 then { t with seq := { q with prog0 := sset 0 q.prog0 ((off - 0x920000) / 8) v } }
  else if 0x930000 ≤ off ∧ off < 0x938000 then { t with seq := { q with prog1 := sset 0 q.prog1 ((off - 0x930000) / 8) v } }
  else if 0x940000 ≤ off ∧ off < 0x940200 then { t with seq := { q with names := sset 0 q.names ((off - 0x940000) / 8) v } }
  else if off = 0x940200 then { t with seq := { q with selTags := put16 q.selTags 0 v } }
  else if 0x950000 ≤ off ∧ off < 0x952000 then
    { t with seq := { q with pageOwn := put16 q.pageOwn ((off - 0x950000) / 8) v } }
  else if 0xA00000 ≤ off ∧ off < 0xA10000 then
    { t with mesh := { t.mesh with slots := sset 0 t.mesh.slots ((off - 0xA00000) / 8) v } }
  else if 0xC00000 ≤ off ∧ off < 0xC40000 then
    let i := (off - 0xC00000) / 32
    { t with fab := mtPut t.fab i (mtSetWord (mtGet t.fab i) (off / 8 % 4) v) }
  else if 0xC40000 ≤ off ∧ off < 0xC44000 then
    { t with seq := { q with macroMap := put16 q.macroMap ((off - 0xC40000) / 8) v } }
  else if 0xC60000 ≤ off ∧ off < 0xC80000 then
    { t with probe := { t.probe with refs := putW32 t.probe.refs ((off - 0xC60000) / 8) v } }
  else if off = 0x804000 then { t with mesh := { t.mesh with portCfg := v } }
  else if off = 0x804008 then { t with mesh := { t.mesh with sets := v } }
  else if 0x800100 ≤ off ∧ off < 0x800200 then
    let n := (off - 0x800100) / 8
    let w := winGet t.pad n
    { t with pad := winPut t.pad n (winDecode v w) }
  else t

/-- Whether an offset lies in a store of R248, which only a shadow write may change (R262). -/
def isStore (off : Nat) : Bool :=
  (decide (0x900000 ≤ off) && decide (off < 0x940200)) || (decide (0xA00000 ≤ off) && decide (off < 0xA10000)) ||
    off == 0x804000 || off == 0x804008 || (decide (0x800100 ≤ off) && decide (off < 0x800200))

/-- A write of a tile's registers and select tags by software or by a CFG_WR without SHADOW: W1C and RW fields act, RO
fields ignore it (R11). -/
def tileRegWrite (off : Nat) (v : Word) (t : Tile) : Tile :=
  let p := t.pad
  let m := t.mesh
  let f := t.fab
  if off = 0x800018 then { t with pad := { p with ce := satW1C p.ce (v.getLsbD 16), ue := p.ue && !v.getLsbD 32 } }
  else if off = 0x800020 then { t with pad := { p with eccValid := p.eccValid && !v.getLsbD 21 } }
  else if off = 0x800028 then { t with pad := { p with confl := satW1C p.confl (v.getLsbD 16) } }
  else if off = 0x800030 then { t with pad := { p with landDrop := satW1C p.landDrop (v.getLsbD 24) } }
  else if off = 0x804018 then { t with mesh := { m with drop := satW1C m.drop (v.getLsbD 16) } }
  else if off = 0x804020 then
    { t with mesh := { m with linkErr := satW1C m.linkErr (v.getLsbD 16), fenceErr := satW1C m.fenceErr (v.getLsbD 48) } }
  else if off = 0x804028 then
    { t with mesh := { m with late := satW1C m.late (v.getLsbD 16), miss := satW1C m.miss (v.getLsbD 48) } }
  else if off = 0x808000 then { t with fab := { f with clipRptEn := v.getLsbD 0, pairDis := v.getLsbD 1 } }
  else if off = 0x808018 then
    { t with fab := { f with clip := satW1C f.clip (v.getLsbD 16), sat := satW1C f.sat (v.getLsbD 48) } }
  else if off = 0x808020 then { t with fab := { f with clipValid := f.clipValid && !v.getLsbD 27 } }
  else if off = 0x808028 then
    { t with fab := { f with invScale := satW1C f.invScale (v.getLsbD 48), notRes := satW1C f.notRes (v.getLsbD 49),
                             conc := satW1C f.conc (v.getLsbD 50) } }
  else if off = 0x80C000 then
    let b := t.probe
    { t with probe := { b with skip := satW1C b.skip (v.getLsbD 48), soft := satW1C b.soft (v.getLsbD 49),
                               conf := satW1C b.conf (v.getLsbD 50) } }
  else if off = 0x80D000 then
    let z := t.sense
    let mx : BitVec 2 := (v >>> (12 : Nat)).setWidth 2
    let fl : BitVec 3 := (v >>> (14 : Nat)).setWidth 3
    { t with sense := { z with mux := mx, filt := fl, sinceMux := if mx = z.mux then z.sinceMux else 0,
                               sinceFilt := if fl = z.filt then z.sinceFilt else 0,
                               valid := z.valid && mx == z.mux && fl == z.filt } }
  else if off = 0x940200 then storeWrite off v t
  else t

/-- The lath-statistics flags of a tile's node (R233). -/
def lathStatWrite (site : Nat) (v : Word) (s : State) : State :=
  lathUpd site (fun n => { n with crc := satW1C n.crc (v.getLsbD 48), stale := satW1C n.stale (v.getLsbD 49) }) s

/-! ### The freeze window (R616) -/

/-- 16 lanes' or fewer poison bits as a word. -/
def poisonBits (l : List PLane) : Word := fields (((List.range l.length).zip l).map (fun il => (il.1, b1 il.2.poison)))

/-- A flit as 18 words: its payload, then its sideband. -/
def flitWord (f : Flit) (w : Nat) : RWord :=
  if w < 16 then lget RWord.zero f.words w
  else if w = 16 then ⟨(sideband f).setWidth 64, false⟩ else ⟨((sideband f) >>> (64 : Nat)).setWidth 64, false⟩

/-- A stationary buffer's elements, eight to a word, column by column (R616; the order is the model's choice, log entry
10). -/
def sbWord (b : SBuf) (w : Nat) : RWord :=
  let es := (List.range 8).map (fun i =>
    let n := 8 * w + i
    if b.ef = 3 then
      let lo := sbElem b (2 * (n % 64)) (n / 64)
      let hi := sbElem b (2 * (n % 64) + 1) (n / 64)
      (lo.1.poison || hi.1.poison, lo.2.toNat % 16 + 16 * (hi.2.toNat % 16))
    else let e := sbElem b (n % 128) (n / 128); (e.1.poison, e.2.toNat))
  ⟨fields (((List.range 8).zip es).map (fun ie => (8 * ie.1, ie.2.2))), es.any (fun e => e.1)⟩

/-- The freeze window of a tile at an offset of it: the word with its poison mark (R616). `inFlight` lists the flits on the
wires that reach the tile, by input. -/
def freezeWord (t : Tile) (inFlight : Nat → List Flit) (off : Nat) : Option RWord :=
  let n := off / 8
  let ok (w : Word) : Option RWord := some ⟨w, false⟩
  if off < 0x100 then some (sget RWord.zero t.cc.g n)
  else if off = 0x100 then
    ok (fields ((List.range 8).map (fun i => (i, b1 (pGet t.cc (BitVec.ofNat 3 i)))) ++ [(16, t.cc.pc.toNat)]))
  else if off = 0x108 then ok (fields ((List.range 32).map (fun i => (i, b1 (sget RWord.zero t.cc.g i).poison))))
  else if 0x110 ≤ off ∧ off < 0x150 then some (baseGet t ((off - 0x110) / 8))
  else if off = 0x150 then ok (t.seq.m1.setWidth 64)
  else if 0x1000 ≤ off ∧ off < 0x3000 then
    let k := (off - 0x1000) / 4
    some (lget RWord.zero (packLanes [vget t (k / 64) (k % 64), vget t (k / 64) (k % 64 + 1)] 1) 0)
  else if 0x3000 ≤ off ∧ off < 0x3100 then ok (poisonBits (vlanes t ((off - 0x3000) / 8)))
  else if 0x3100 ≤ off ∧ off < 0x3120 then ok (kget t ((off - 0x3100) / 8))
  else if 0x3200 ≤ off ∧ off < 0x3280 then
    let bs := (List.range 8).map (fun i => sget (0, false) t.fu.sbuf (off - 0x3200 + i))
    some ⟨fields (((List.range 8).zip bs).map (fun ib => (8 * ib.1, ib.2.1.toNat))), bs.any (fun b => b.2)⟩
  else if 0x4000 ≤ off ∧ off < 0xC000 then
    let k := (off - 0x4000) / 4
    some (lget RWord.zero (packLanes [sget PLane.zero t.da.acc k, sget PLane.zero t.da.acc (k + 1)] 1) 0)
  else if 0xC000 ≤ off ∧ off < 0xC400 then
    ok (poisonBits ((List.range 64).map (fun i => sget PLane.zero t.da.acc (8 * (off - 0xC000) + i))))
  else if 0x10000 ≤ off ∧ off < 0x20000 then some (sbWord t.da.sb0 ((off - 0x10000) / 8))
  else if 0x20000 ≤ off ∧ off < 0x30000 then some (sbWord t.da.sb1 ((off - 0x20000) / 8))
  else if 0x30000 ≤ off ∧ off < 0x30800 then some (sget RWord.zero t.da.sb0.scales ((off - 0x30000) / 8))
  else if 0x30800 ≤ off ∧ off < 0x31000 then some (sget RWord.zero t.da.sb1.scales ((off - 0x30800) / 8))
  else if off = 0x31000 then
    let z := fun (b : SBuf) => b.ef.toNat + 4 * b.gm.toNat + 16 * b1 b.valid
    ok (fields [(0, z t.da.sb0), (8, z t.da.sb1)])
  else if 0x40000 ≤ off ∧ off < 0x40200 then
    let d := lget (0, 0, 0) t.cc.descQ ((off - 0x40000) / 16)
    ok (if off / 8 % 2 = 0 then d.2.1 else d.2.2)
  else if 0x40200 ≤ off ∧ off < 0x40280 then
    let e := lget (0, 0, 0) t.pad.storeQ ((off - 0x40200) / 16)
    ok (if off / 8 % 2 = 0 then BitVec.ofNat 64 (8 * e.2.1) else e.2.2)
  else if 0x41000 ≤ off ∧ off < 0x41000 + 144 * 26 then
    let k := (off - 0x41000) / 144
    let w := (off - 0x41000) % 144 / 8
    let f := if k < 2 then (t.mesh.eject[k]?).map Eject.flit else (inFlight ((k - 2) / 4))[(k - 2) % 4]?
    match f with
    | some g => some (flitWord g w)
    | none => ok 0
  else if 0x42000 ≤ off ∧ off < 0x42200 then ok (sget 0 t.seq.laneShadow ((off - 0x42000) / 8))
  else if 0x42200 ≤ off ∧ off < 0x42280 then
    let r := sget ⟨0, 0⟩ t.seq.retn ((off - 0x42200) / 8)
    ok (fields [(0, r.dest.toNat), (16, r.src.toNat)])
  else none

/-! ### The window as a whole (R41, R42) -/

/-- A word of the register half of a tile window; none where nothing is mapped. -/
def tileRegRead (s : State) (site off : Nat) : Option RWord :=
  let t := tileAt s site
  let ok (o : Option Word) : Option RWord := o.map (fun w => ⟨w, false⟩)
  if off < 0x804000 then ok (tileBlock t site (off - 0x800000))
  else if off < 0x808000 then ok (meshBlock s site (off - 0x804000))
  else if off < 0x80C000 then ok (cimBlock t.fab (cycAt s 0) (off - 0x808000))
  else if off = 0x80C000 then ok (some (probeReg t.probe))
  else if off = 0x80D000 then ok (some (senseReg t.sense))
  else if off < 0xF00000 then ok (storeRead t off)
  else if s.svc.frz = 2 then
    freezeWord t (fun p => (s.grid.flits.filter (fun f => f.site == site && f.port == p)).map Flying.flit) (off - 0xF00000)
  else none

end Sys2Proof.Machine
end

