-- ==== Sys2Proof/Machine/Lath.lean ====
section
/-! DEFINITION. The lath: messages and their CRC, routing, acknowledgement, heartbeats, epochs and fences (R220-R228, R549,
R552). -/

namespace Sys2Proof.Machine

/-- Change the lath. -/
def onLath (f : Lath → Lath) (s : State) : State := { s with lath := f s.lath }

/-! ### Messages (R223, R224) -/

/-- One step of CRC-16 with polynomial 0x1021 over a byte. -/
def crc16Byte (c : BitVec 16) (b : Byte) : BitVec 16 :=
  (List.range 8).foldl (fun c _ => if c.getLsbD 15 then (c <<< 1) ^^^ 0x1021 else c <<< 1) (c ^^^ (b.setWidth 16 <<< 8))
/-- CRC-16 with initial value 0xFFFF (R223). -/
def crc16 (bs : List Byte) : BitVec 16 := bs.foldl crc16Byte 0xFFFF

/-- Little-endian bytes of a number. -/
def leBytes (n v : Nat) : List Byte := (List.range n).map (fun i => BitVec.ofNat 8 (v / 2 ^ (8 * i)))
/-- The number of little-endian bytes. -/
def leNat (bs : List Byte) : Nat := bs.foldr (fun b acc => b.toNat + 256 * acc) 0

/-- A message: destination, mode, source, priority, type, epoch and payload (R223). -/
def lathMsg (dst dmode src pri typ : Nat) (epoch : BitVec 16) (payload : List Byte) : List Byte :=
  let h := dst + 2 ^ 13 * dmode + 2 ^ 16 * src + 2 ^ 32 * pri + 2 ^ 34 * typ + 2 ^ 40 * payload.length + 2 ^ 48 * epoch.toNat
  let body := leBytes 8 h ++ payload
  body ++ leBytes 2 (crc16 body).toNat

/-- The header of a message as a number. -/
def msgHead (bs : List Byte) : Nat := leNat (bs.take 8)
/-- DST. -/
def msgDst (bs : List Byte) : Nat := msgHead bs % 2 ^ 13
/-- DMODE. -/
def msgMode (bs : List Byte) : Nat := msgHead bs / 2 ^ 13 % 4
/-- SRC. -/
def msgSrc (bs : List Byte) : Nat := msgHead bs / 2 ^ 16 % 2 ^ 13
/-- TYPE. -/
def msgType (bs : List Byte) : Nat := msgHead bs / 2 ^ 34 % 64
/-- LEN. -/
def msgLen (bs : List Byte) : Nat := msgHead bs / 2 ^ 40 % 64
/-- EPOCH. -/
def msgEpoch (bs : List Byte) : BitVec 16 := BitVec.ofNat 16 (msgHead bs / 2 ^ 48)

/-- Whether a received message has its layout and its CRC (R222, R223). -/
def msgOk (bs : List Byte) : Bool :=
  decide (10 ≤ bs.length) && decide (bs.length = msgLen bs + 10) && decide (msgLen bs ≤ 54) &&
    (crc16 (bs.take (bs.length - 2))).toNat == leNat (bs.drop (bs.length - 2))

/-- The types of R224. -/
def lathTypes : List Nat := [1, 2, 3, 8, 9, 10, 11, 0x10, 0x11, 0x18, 0x20, 0x21, 0x22, 0x28]

/-! ### Routing (R220, R221) -/

/-- The hub that serves a node. -/
def hubFor (s : State) (node : Nat) : Option Nat := (nodeBlock node).map (hubOf s)

/-- One step of a number toward another. -/
def toward (a b : Nat) : Nat := if a < b then a + 1 else if b < a then a - 1 else a
/-- The distance of two numbers. -/
def apart (a b : Nat) : Nat := (a - b) + (b - a)
/-- The distance of two sites on the grid. -/
def siteDist (a b : Nat) : Nat := apart (siteX a) (siteX b) + apart (siteY a) (siteY b)
/-- The site at coordinates. -/
def siteAt (x y : Nat) : Nat := 96 * y + x

/-- The block of 3 and 4 whose hub lies nearer a block in X (R225). -/
def svcBlock (b : Nat) : Nat := if b % 8 ≤ 3 then 3 else 4

/-- The next node of a unicast at `node`, received from `sender` (the node itself at its origin): up to the hub along X
then Y, over the hub mesh along X then Y, and down along Y then X (R221). -/
def lathHop (s : State) (node sender dst : Nat) : Option Nat :=
  if node = svcNode then
    (nodeBlock dst).map (fun b => hubOf s (svcBlock b))
  else if 8064 ≤ node then hubFor s node
  else
    let b := blockOf node
    let h := hubOf s b
    if node = h then
      match (if dst = svcNode then some (svcBlock b) else nodeBlock dst) with
      | none => none
      | some d =>
        if d = b then
          if 8064 ≤ dst then some dst
          else if siteY dst ≠ siteY node then some (siteAt (siteX node) (toward (siteY node) (siteY dst)))
          else some (siteAt (toward (siteX node) (siteX dst)) (siteY node))
        else if d % 8 ≠ b % 8 then some (hubOf s (8 * (b / 8) + toward (b % 8) (d % 8)))
        else some (hubOf s (8 * toward (b / 8) (d / 8) + b % 8))
    else
      let up := sender = node ∨ (sender < 8064 ∧ siteDist node h < siteDist sender h)
      if up then
        if siteX node ≠ siteX h then some (siteAt (toward (siteX node) (siteX h)) (siteY node))
        else some (siteAt (siteX node) (toward (siteY node) (siteY h)))
      else if siteY dst ≠ siteY node then some (siteAt (siteX node) (toward (siteY node) (siteY dst)))
      else if siteX dst ≠ siteX node then some (siteAt (toward (siteX node) (siteX dst)) (siteY node))
      else none

/-- The links on which a node copies a broadcast: from a hub over its block along Y then X, and over the hub mesh for a
module broadcast, along X from the hubs of blocks 3 and 4 and then along Y (R221). -/
def castHops (s : State) (node : Nat) (module : Bool) : List Nat :=
  if node = svcNode then (if module then [hubOf s 3, hubOf s 4] else [])
  else if 8064 ≤ node then []
  else
    let b := blockOf node
    let h := hubOf s b
    let inB := fun (n : Int × Int) => decide (0 ≤ n.1) && decide (n.1 < 96) && decide (0 ≤ n.2) && decide (n.2 < 84) &&
      blockOf (siteAt n.1.toNat n.2.toNat) == b
    let x : Int := siteX node
    let y : Int := siteY node
    let hx : Int := siteX h
    let hy : Int := siteY h
    let vert := if x = hx then (if hy ≤ y then [(x, y + 1)] else []) ++ (if y ≤ hy then [(x, y - 1)] else []) else []
    let horz := (if hx ≤ x then [(x + 1, y)] else []) ++ (if x ≤ hx then [(x - 1, y)] else [])
    let down := ((vert ++ horz).filter inB).map (fun n => siteAt n.1.toNat n.2.toNat)
    if node = h then
      let rims := (List.range 32).filter (fun c => (nodeBlock (8064 + c)) == some b)
      let hubs := if module then
          (if b < 8 then (if 0 < b % 8 ∧ b % 8 ≤ 3 then [b - 1] else []) ++ (if 4 ≤ b % 8 ∧ b % 8 < 7 then [b + 1] else [])
            else []) ++ (if b + 8 < 56 then [b + 8] else [])
        else []
      down ++ rims.map (fun c => 8064 + c) ++ hubs.map (hubOf s)
    else down

/-- Put a message on a link, where its acknowledgement is then awaited. -/
def linkSend (sender receiver : Nat) (bs : List Byte) (s : State) : State :=
  onLath (fun l => { l with sent := l.sent ++ [⟨sender, receiver, bs, 0⟩] }) s

/-- A node originates a message. -/
def lathSend (node : Nat) (bs : List Byte) (s : State) : State :=
  if msgMode bs = 1 ∨ msgMode bs = 2 then
    if node = svcNode ∧ msgMode bs = 1 then linkSend node (hubOf s (svcBlock (msgDst bs))) bs s
    else (castHops s node (msgMode bs == 2)).foldl (fun acc n => linkSend node n bs acc) s
  else
    match lathHop s node node (msgDst bs) with
    | some n => linkSend node n bs s
    | none => s

/-- A message reaches its destination node. -/
def deliver (node : Nat) (bs : List Byte) (s : State) : State :=
  onLath (fun l => { l with inbox := l.inbox ++ [(node, bs)] }) s

/-- A node sends a received message on, and keeps it where it is addressed to it (R221): a broadcast is kept and copied,
a combining message is kept by the first hub, a unicast by its destination. -/
def forward (node sender : Nat) (bs : List Byte) (s : State) : State :=
  match msgMode bs with
  | 0 =>
    if msgDst bs = node then deliver node bs s
    else match lathHop s node sender (msgDst bs) with
      | some n => linkSend node n bs s
      | none => s
  | 3 =>
    if node = svcNode ∨ isHub s node then deliver node bs s
    else match lathHop s node sender svcNode with
      | some n => linkSend node n bs s
      | none => s
  | m =>
    let away := m = 1 ∧ node < 8064 ∧ isHub s node ∧ blockOf node ≠ msgDst bs
    if away then
      match lathHop s node sender (hubOf s (msgDst bs)) with
      | some n => linkSend node n bs s
      | none => s
    else (castHops s node (m == 2)).foldl (fun acc n => linkSend node n bs acc) (deliver node bs s)

/-- The hub's copy of a node's epoch (R228). -/
def epochCopy (s : State) (node : Nat) : BitVec 16 := sget 0 s.lath.copies node
/-- Set the hub's copy. -/
def copySet (node : Nat) (e : BitVec 16) (s : State) : State := onLath (fun l => { l with copies := sset 0 l.copies node e }) s

/-- Whether a hub hears a message: one whose SRC lies in its block must carry the hub's copy of the epoch (R228). -/
def heardBy (s : State) (hub : Nat) (bs : List Byte) : Bool :=
  if hub < 8064 ∧ isHub s hub ∧ hubFor s (msgSrc bs) = some hub then msgEpoch bs == epochCopy s (msgSrc bs) else true

/-- A hub drops a stale message: it is counted and the speaker is reported (R228, R550). -/
def dropStale (hub src : Nat) (s : State) : State :=
  sendRpt (lathUpd hub (fun n => { n with stale := satInc n.stale }) s) hub 0x18 (BitVec.ofNat 64 src) []

/-- LATH_MESSAGE_RECEIVE: a node receives a whole message over a link. A failing CRC drops it without acknowledgement; a
reserved type drops it; a stale epoch drops it at the hub; any other is sent on (R221, R222, R224, R228). -/
def execLathMessageReceive (sender receiver : Node) (bytes : List Byte) (s : State) :
    Host.Outcome State Fault Refusal :=
  let crc := lathUpd receiver (fun n => { n with crc := satInc n.crc })
  if !msgOk bytes then .next (crc s)
  else
    let mine := fun (m : LSent) => m.sender == sender.val && m.receiver == receiver.val && m.bytes == bytes
    let s1 := onLath (fun l => { l with sent := l.sent.eraseP mine }) s
    if !lathTypes.contains (msgType bytes) then .next (crc s1)
    else if !heardBy s1 receiver bytes then .next (dropStale receiver (msgSrc bytes) s1)
    else .next (forward receiver sender bytes s1)

/-- The group whose shadow write a CFG_WR message carries (R262). -/
def msgGroup (bs : List Byte) : Option (BitVec 16) :=
  if msgType bs = 0x20 ∧ (lget 0 bs 11).getLsbD 0 then some (BitVec.ofNat 16 (leNat ((bs.drop 12).take 2))) else none

/-- LATH_ACK_TIMEOUT: the oldest unacknowledged message of a link is sent again, three times at most; then the link is
reported down and the message dropped, which loses a shadow write of its group (R222, R409). -/
def execLathAckTimeout (sender receiver : Node) (s : State) : Host.Outcome State Fault Refusal :=
  let mine := fun (m : LSent) => m.sender == sender.val && m.receiver == receiver.val
  match s.lath.sent.find? mine with
  | none => .next s
  | some m =>
    if m.fails < 3 then
      .next (onLath (fun l => { l with sent := l.sent.map (fun n => if n = m then { n with fails := n.fails + 1 } else n) }) s)
    else
      let s1 := onLath (fun l => { l with sent := l.sent.eraseP mine }) s
      let s2 := match msgGroup m.bytes with
        | some c => onCg (groupUpd c (fun g => { g with lost := true })) s1
        | none => s1
      .next (sendRpt s2 sender 0x0C (BitVec.ofNat 64 sender) [BitVec.ofNat 64 receiver])

/-! ### Heartbeats (R227, R552) -/

/-- A message that a command has acted on leaves the links and the inboxes. -/
def lathDone (src typ : Nat) (s : State) : State :=
  let hit := fun (bs : List Byte) => msgSrc bs == src && msgType bs == typ
  onLath (fun l => { l with sent := l.sent.eraseP (fun m => hit m.bytes), inbox := l.inbox.eraseP (fun m => hit m.2) }) s

/-- The nodes that a hub listens to: the tiles of its block that are not fenced, itself apart, and its rim dies. -/
def hubMembers (s : State) (b : Nat) : List Nat :=
  (blockSites b).filter (fun n => !isFenced s n && n != hubOf s b) ++
    ((List.range 32).map (fun c => 8064 + c)).filter (fun n => nodeBlock n == some b && !dusted s n)

/-- One interval of a listener ends. -/
def endInterval (h : Heard) : Heard := if h.now then ⟨false, 0⟩ else ⟨false, h.missed + 1⟩

/-- A hub's interval ends: every member is heard or missed, and one that was missed three times is reported (R552). -/
def hubInterval (b : Nat) (s : State) : State :=
  (hubMembers s b).foldl (fun acc n =>
    let h := endInterval (sget Heard.fresh acc.lath.heard n)
    let acc1 := onLath (fun l => { l with heard := sset Heard.fresh l.heard n h }) acc
    if h.missed = 3 then sendRpt acc1 (hubOf acc b) 0x0D (BitVec.ofNat 64 n) [] else acc1) s

/-- The bits of a block summary: the members heard in the interval (R552). -/
def summaryBits (s : State) (b : Nat) : Nat :=
  (List.range 144).foldl (fun acc i =>
    let n := 96 * (12 * (b / 8) + i / 12) + 12 * (b % 8) + i % 12
    acc + if n = hubOf s b ∨ (sget Heard.fresh s.lath.heard n).now then 2 ^ i else 0) 0

/-- The frame counter as six bytes. -/
def frameBytes (s : State) : List Byte := leBytes 6 (frameCtr s).toNat

/-- HEARTBEAT_SEND: a node's interval passes (R227, R552). A tile or rim die sends its heartbeat; a hub also ends its
listening interval and sends its block summary; the service die ends its own and broadcasts. -/
def execHeartbeatSend (node : Node) (s : State) : Host.Outcome State Fault Refusal :=
  let ep := (lathNode s node).epoch
  if node.val = svcNode then
    let l := { s.lath with blocks := (List.range 56).foldl (fun m b =>
      sset Heard.fresh m b (endInterval (sget Heard.fresh m b))) s.lath.blocks }
    .next (lathSend node (lathMsg 0 2 node 2 0x11 ep (frameBytes s ++ [if s.svc.warming then 1 else 0])) { s with lath := l })
  else
    let t := tileAt s node
    let st := if node.val < 8064 then ccCode t.cc.st + 4 * b1 t.imageLoaded else 0
    match nodeBlock node with
    | none => .next s
    | some b =>
      if node.val = hubOf s b then
        let m := lathMsg svcNode 0 node 2 0x11 ep (leBytes 18 (summaryBits s b) ++ frameBytes s)
        .next (lathSend node m (hubInterval b s))
      else
        .next (lathSend node (lathMsg (hubOf s b) 0 node 2 0x11 ep ([BitVec.ofNat 8 st, 0] ++ frameBytes s)) s)

/-- A tile under reset is heard: its reset ends, and the holds of its pipelines end at their next beats (R552). -/
def resetHeard (site : Nat) (s : State) : State :=
  if s.lath.resets.contains site then
    (sitePipes s site).foldl (fun acc q => endHold q acc) (onLath (fun l => { l with resets := l.resets.filter (· != site), lifts := l.lifts ++ [site] }) s)
  else s

/-- HEARTBEAT: a heartbeat reaches its listener (R552): a hub hears a member, unless its epoch is stale; the service die
hears a block summary; every deputy hears the service die. -/
def execHeartbeat (sender : Node) (summary : Option (BitVec 144)) (epoch : BitVec 16) (s0 : State) :
    Host.Outcome State Fault Refusal :=
  let s := lathDone sender 0x11 s0
  if sender.val = svcNode then
    .next { s with md := stab MemDie.reset 16 (fun n => { mdAt s n with svcHeard := s.frames }) }
  else
    match nodeBlock sender with
    | none => .next s
    | some b =>
      match summary with
      | some _ => .next (onLath (fun l => { l with blocks := sset Heard.fresh l.blocks b ⟨true, 0⟩ }) s)
      | none =>
        if epoch ≠ epochCopy s sender then .next (dropStale (hubOf s b) sender s)
        else
          let h := sget Heard.fresh s.lath.heard sender
          let s1 := onLath (fun l => { l with heard := sset Heard.fresh l.heard sender { h with now := true } }) s
          .next (resetHeard sender s1)

/-! ### Fences and epochs (R201, R228, R549) -/

/-- The ports, as (site, port), whose wire reaches a site (R201). -/
def portsReaching (s : State) (site : Nat) : List (Nat × Nat) :=
  let near := (List.range 25).filterMap (fun i =>
    let x : Int := siteX site + (i % 5 : Nat) - 2
    let y : Int := siteY site + (i / 5 : Nat) - 2
    if 0 ≤ x ∧ x < 96 ∧ 0 ≤ y ∧ y < 84 ∧ i ≠ 12 then some (siteAt x.toNat y.toNat) else none)
  near.flatMap (fun n => ((List.range 4).filter (fun p =>
    wireEnd n p (wireOf (tileAt s n).mesh.portCfg p) == some site)).map (fun p => (n, p)))

/-- The MESH_PORT_CFG of each neighbour with FENCE set or cleared on every port that reaches a site. -/
def neighbourCfgs (s : State) (site : Nat) (fence : Bool) : List (Nat × CgItem) :=
  let ps := portsReaching s site
  ((ps.map Prod.fst).eraseDups).map (fun n =>
    (n, CgItem.word n 0x804000 ((ps.filter (fun q => q.1 == n)).foldl (fun c q => setFence c q.2 fence)
      (tileAt s n).mesh.portCfg)))

/-- The shadow writes that dust-sheet a tile: the neighbours' FENCE bits and the tile's power gates; a rim-attached tile
is always fenced compute-only (R549). -/
def fenceItems (s : State) (site : Nat) (full : Bool) : List (Nat × CgItem) :=
  let f := full && (rimOf site).isNone
  (if f then neighbourCfgs s site true else []) ++ [(svcNode, CgItem.fence site f)]

/-- FENCE: the hub takes the node's new epoch at once, and a group that fences the tile is opened
unless one is open (R228, R549). -/
def execFence (node : Node) (computeOnly : Bool) (epoch : BitVec 16) (s0 : State) :
    Host.Outcome State Fault Refusal :=
  let s := lathDone svcNode 0x02 s0
  let s1 := copySet node epoch s
  let open_ := s.cg.parts.any (fun p => p.items.any (fun i => match i with | .fence z _ => z == node.val | _ => false))
  .next (if node.val < 8064 ∧ !isFenced s node ∧ !open_ then cgTry (fenceItems s node (!computeOnly)) s1 else s1)

/-- REJOIN: the node takes the hub's epoch and is heard again (R228, R549). -/
def execRejoin (node : Node) (epoch : BitVec 16) (s0 : State) : Host.Outcome State Fault Refusal :=
  let s := lathDone svcNode 0x03 s0
  .next (lathUpd node (fun n => { n with epoch := epoch }) s)

end Sys2Proof.Machine
end

