-- ==== Sys2Proof/Machine/Bytes.lean ====
section
/-! DEFINITION. Byte strings held in module DRAM, the CRC-32C, bits of a line, and the programming of a page image: the
byte-level helpers of packages, images and pages (R140, R157, R237). -/

namespace Sys2Proof.Machine

/-- n bytes of a stored byte string from an offset on. -/
def bytesAt (m : SMap Byte) (off n : Nat) : List Byte := (List.range n).map (fun i => sget 0 m (off + i))
/-- A little-endian number of n bytes at an offset. -/
def leAt (m : SMap Byte) (off n : Nat) : Nat := leNat (bytesAt m off n)
/-- Store bytes from an offset on. -/
def bytesPut (m : SMap Byte) (off : Nat) (bs : List Byte) : SMap Byte :=
  ((List.range bs.length).zip bs).foldl (fun acc ib => sset 0 acc (off + ib.1) ib.2) m
/-- The line of 16 words at a byte offset. -/
def lineAt (m : SMap Byte) (off : Nat) : List Word := packBytes (bytesAt m off 128) 16

/-- One step of the CRC-32C over a byte (reflected polynomial 0x82F6_3B78). -/
def crc32cByte (c : BitVec 32) (b : Byte) : BitVec 32 :=
  (List.range 8).foldl (fun c _ => if c.getLsbD 0 then (c >>> (1 : Nat)) ^^^ 0x82F63B78 else c >>> (1 : Nat)) (c ^^^ b.setWidth 32)
/-- CRC-32C of bytes. -/
def crc32c (bs : List Byte) : BitVec 32 := ~~~(bs.foldl crc32cByte 0xFFFFFFFF)

/-- The bytes of words, in little-endian order. -/
def wordBytes (ws : List Word) : List Byte := (List.range (8 * ws.length)).map (byteOf ws)

/-- Divide and round to nearest, ties to even. -/
def rneDiv (n : Int) (d : Nat) : Int :=
  let q := n.fdiv d
  let r := n - q * d
  if 2 * r < d then q else if (d : Int) < 2 * r then q + 1 else if q % 2 = 0 then q else q + 1

/-- The bits of a line as one number. -/
def lineBits (ws : List Word) : Nat := ws.foldr (fun w acc => w.toNat + 2 ^ 64 * acc) 0
/-- A line of a number. -/
def bitsLine (n : Nat) : List Word := (List.range 16).map (fun i => BitVec.ofNat 64 (n / 2 ^ (64 * i)))

/-- Two-bit levels packed from the low bits up. -/
def packLevels (l : List Nat) : Nat := l.foldr (fun v acc => v + 4 * acc) 0
/-- Level i of packed levels. -/
def levelAt (n i : Nat) : Nat := n / 4 ^ i % 4

/-- The cells that a page image gives a data page: the spare columns carry the columns they replace, a replaced column
stays at level 0 (R140). -/
def dataCells (e : MEntry) (image : Nat) : BitVec 1056 :=
  BitVec.ofNat 1056 (packLevels ((List.range 528).map (fun u =>
    if u < 512 then (if physCol e u = u then levelAt image u else 0)
    else if e.spareValid.getLsbD (u - 512) then levelAt image (32 * (u - 512) + spareOff e (u - 512)) else 0)))
/-- The cells of a page: those of a data page, or the strip cells as the image packs them (R140). -/
def pageCells (e : MEntry) (page image : Nat) : BitVec 1056 :=
  if page < 128 then dataCells e image else BitVec.ofNat 1056 (image % 2 ^ 1024)
/-- The image of a page as sensed: the levels by logical column, or the strip cells (R140, R141). -/
def pageImage (e : MEntry) (page : Nat) (p : Page) : Nat :=
  if page < 128 then packLevels ((List.range 512).map (fun c => levelAt p.cells.toNat (physCol e c)))
  else p.cells.toNat % 2 ^ 1024

/-- The state code of a page from its markers (R149). -/
def pageState (p : Page) : Nat := (if 2 ≤ p.begin_.toNat then 1 else 0) + if 2 ≤ p.done.toNat then (if 2 ≤ p.begin_.toNat then 1 else 3) else 0

/-- Whether every page of a macro reads VALID, with no erase pending (R83, R149, R151). -/
def macroValid (f : Fabric) (m : Nat) : Bool :=
  !(mtGet f m).erasePending && (List.range 144).all (fun p => pageState (pageGet f m p) == 2)

/-- Erase a macro's pages: every cell and marker at level 0 (R144). -/
def pagesErase (f : Fabric) (m : Nat) : Fabric :=
  { f with pages := skeep f.pages (fun k _ => k / 256 != m) }

end Sys2Proof.Machine
end

