-- ==== Sys2Proof/Machine/Pages.lean ====
section
/-! DEFINITION. Programming and erasing pages through the fabric programming window, verify failures and spare columns
(R55, R78-R80, R139-R153). -/

namespace Sys2Proof.Machine

/-! ### The window (R55, R141, R142) -/

/-- A fabric address, unpacked (R55): macro is tier × 1,024 + macro. -/
structure FabLoc where
  col : Nat
  row : Nat
  mac : Nat
  site : Nat
  strip : Bool
deriving DecidableEq, Repr

/-- Unpack a fabric address. -/
def fabLoc (a : BitVec 44) : FabLoc :=
  let n := a.toNat
  { col := n % 2 ^ 10, row := n / 2 ^ 10 % 2 ^ 7, mac := 1024 * (n / 2 ^ 27 % 8) + n / 2 ^ 17 % 1024, site := n / 2 ^ 30 % 2 ^ 13,
    strip := n / 2 ^ 43 % 2 = 1 }
/-- The page of a window address: data pages 0-127, strip page p at 128 + p. -/
def locPage (l : FabLoc) : Nat := if l.strip then 128 + l.row else l.row
/-- Whether an address names a page: row 0-127, or strip page 0-15. -/
def locIsPage (l : FabLoc) : Bool := !l.strip || decide (l.row < 16)

/-- Whether the security state lets an agent of the window in: a host in FACTORY and OPEN, and for a write at debug level 3
(R536, R538). -/
def windowOpen (s : State) (host write : Bool) : Bool :=
  !host || s.sec.lc == 0 || s.sec.lc == 1 || (write && s.sec.level == 3)

/-- What the window does with an access before its operation: the refusals that leave everything unchanged but the answer
and the log (R42, R141, R142). -/
inductive Window where
  | denied | noSite | fenced | badForm | open_
deriving DecidableEq, Repr

/-- The gate of a window access whose form is right or wrong. -/
def windowGate (s : State) (host write form : Bool) (l : FabLoc) : Window :=
  if !windowOpen s host write then .denied
  else if 8064 ≤ l.site then .noSite
  else if isFenced s l.site then .fenced
  else if form then .open_ else .badForm

/-- A window write: discarded and logged where the window refuses it, and its operation otherwise (R141, R142). -/
def windowWrite (s : State) (host form : Bool) (addr : BitVec 44) (body : FabLoc → State) : State :=
  let l := fabLoc addr
  match windowGate s host true form l with
  | .denied => answerCode s 2
  | .fenced => answerCode (addrErr s svcNode (addr.setWidth 64)) 4
  | .open_ => body l
  | _ => addrErr s svcNode (addr.setWidth 64)

/-- A window read: zeros with status 1 and a log entry where the window refuses it (R141). -/
def windowRead (s : State) (host form : Bool) (addr : BitVec 44) (body : FabLoc → State) : State :=
  let l := fabLoc addr
  let zeros := List.replicate 16 RWord.zero
  match windowGate s host false form l with
  | .denied => answer s 2 zeros
  | .open_ => body l
  | _ => answer (addrErr s svcNode (addr.setWidth 64)) 1 zeros

/-- Change the weight fabric of a tile. -/
def onFab (s : State) (site : Nat) (f : Fabric → Fabric) : State :=
  let t := tileAt s site
  tilePut s site { t with fab := f t.fab }
/-- The weight fabric of a tile. -/
def fabAt (s : State) (site : Nat) : Fabric := (tileAt s site).fab

/-! ### Programming and erasing (R143-R145) -/

/-- The refusals of the second and third bullets of R145: an operation or a scan in progress on the macro, or 64 in the
tile. -/
def peFull (f : Fabric) (m x : Nat) : Bool :=
  f.peOps.any (fun o => o.macroIx == m) || underScan f m x || decide (64 ≤ f.peOps.length)
/-- Whether an erase or a page program is refused (R145). -/
def peRefused (f : Fabric) (m x : Nat) : Bool := (mtGet f m).fmt ≠ 0 || (mtGet f m).worn || peFull f m x

/-- Start a program or erase: BUSY_PE is set, and a page's BEGIN marker is programmed first (R144). -/
def peStart (m : Nat) (page : Option Nat) (image : List Word) (f : Fabric) : Fabric :=
  let f1 := mtPut { f with peOps := f.peOps ++ [⟨m, page, image⟩] } m { mtGet f m with busyPe := true }
  match page with
  | some p => pagePut f1 m p { pageGet f1 m p with begin_ := 3 }
  | none => f1
/-- A program or erase of a macro ends. -/
def peEnd (m : Nat) (f : Fabric) : Fabric :=
  mtPut { f with peOps := f.peOps.filter (fun o => o.macroIx != m) } m { mtGet f m with busyPe := false }
/-- The program or erase in progress on a macro. -/
def peOf (f : Fabric) (m : Nat) : Option PeOp := f.peOps.find? (fun o => o.macroIx == m)

/-- PAGE_PROGRAM: a window write of a page begins, or is refused with status 3 (R141, R144, R145). -/
def execPageProgram (host : Bool) (addr : BitVec 44) (line : List Word) (s : State) : Host.Outcome State Fault Refusal :=
  let l := fabLoc addr
  .next (windowWrite s host (l.col == 0 && locIsPage l) addr (fun l =>
    let f := fabAt s l.site
    if peRefused f l.mac (cycAt s 0) || pageState (pageGet f l.mac (locPage l)) != 0 then answerCode s 3
    else onFab s l.site (peStart l.mac (some (locPage l)) line)))

/-- The columns of a failed program, at most four of them, as detail words of its report. -/
def failCols (failing : BitVec 528) : List Word :=
  (((List.range 528).filter (fun c => failing.getLsbD c)).take 4).map (fun c => BitVec.ofNat 64 c)

/-- PAGE_PROGRAM_COMPLETE: a page program ends: its cells and DONE are programmed and the write completes with OK, or the
physical columns that failed are reported and it completes with VERIFY_FAIL (R142, R144). -/
def execPageProgramComplete (site : Site) (mac : MacroIx) (failing : BitVec 528) (s : State) :
    Host.Outcome State Fault Refusal :=
  let m := mac.toNat
  match peOf (fabAt s site) m with
  | none => .next s
  | some o =>
    match o.page with
    | none => .next s
    | some p =>
      let e := mtGet (fabAt s site) m
      let cells := pageCells e p (lineBits o.image)
      if failing = 0 then
        .next (answerCode (onFab s site (fun f => pagePut (peEnd m f) m p ⟨cells, 3, 3⟩)) 0)
      else
        let s1 := onFab s site (fun f => pagePut (peEnd m f) m p ⟨cells, 3, 0⟩)
        .next (answerCode (sendRpt s1 site 0x10 (fabAddr site m (if p < 128 then p else p - 128) 0 (128 ≤ p))
          (failCols failing)) 1)

/-- The service die enters a macro in the history band before it issues its erase, and the erase starts (R151). -/
def eraseStart (m : Nat) (pend : Bool) (f : Fabric) : Fabric :=
  let f1 := if pend then mtPut f m { mtGet f m with erasePending := true } else f
  peStart m none [] f1

/-- MACRO_ERASE: a window write that erases a macro begins, or is refused with status 3 (R141, R144, R145). -/
def execMacroErase (host : Bool) (addr : BitVec 44) (line : List Word) (s : State) : Host.Outcome State Fault Refusal :=
  let l := fabLoc addr
  .next (windowWrite s host (l.col == 0x3FF && !l.strip && l.row == 0 && line.all (fun w => w == 0)) addr (fun l =>
    if peRefused (fabAt s l.site) l.mac (cycAt s 0) then answerCode s 3
    else onFab s l.site (eraseStart l.mac (!host))))

/-- An erase that verified: the pages are ERASED and the count of completed erases rises; a macro that reaches 100,000
becomes WORN (R144, R151, R153). -/
def eraseOk (m : Nat) (f : Fabric) : Fabric :=
  let f1 := pagesErase (peEnd m f) m
  let e := mtGet f1 m
  mtPut f1 m { e with erases := e.erases + 1, erasePending := false, worn := e.worn || decide (100000 ≤ e.erases + 1) }

/-- Mark a macro WORN (R80, R144). -/
def wornPut (m : Nat) (f : Fabric) : Fabric := mtPut f m { mtGet f m with worn := true }

/-- ERASE_COMPLETE: an erase ends with OK, or with ERASE_FAIL, which makes the macro WORN (R142, R144). -/
def execEraseComplete (site : Site) (mac : MacroIx) (ok : Bool) (s : State) : Host.Outcome State Fault Refusal :=
  let m := mac.toNat
  match peOf (fabAt s site) m with
  | none => .next s
  | some o =>
    if o.page.isSome then .next s
    else if ok then .next (answerCode (onFab s site (eraseOk m)) 0)
    else .next (answerCode (onFab s site (fun f => wornPut m (peEnd m f))) 2)

/-! ### Reading the window (R141, R149) -/

/-- PAGE_READ: the levels of a page as sensed; each byte of an INTERRUPTED or INCONSISTENT page is unspecified (R141,
R149). -/
def execPageRead (host : Bool) (addr : BitVec 44) (s : State) : Host.Outcome State Fault Refusal :=
  let l := fabLoc addr
  .next (windowRead s host (l.col == 0 && locIsPage l) addr (fun l =>
    let f := fabAt s l.site
    let p := pageGet f l.mac (locPage l)
    let ok := fun (ws : List Word) => ws.map (fun w => (⟨w, false⟩ : RWord))
    if pageState p = 1 ∨ pageState p = 3 then
      answer { s with draws := s.draws + 1 } 0 (ok (packBytes ((List.range 128).map (Config.badPage s.draws)) 16))
    else answer s 0 (ok (bitsLine (pageImage (mtGet f l.mac) (locPage l) p)))))

/-- A line whose byte 0 is given, other bytes 0. -/
def byteLine (n : Nat) : List RWord := ⟨BitVec.ofNat 64 n, false⟩ :: List.replicate 15 RWord.zero

/-- PAGE_STATE_READ: the state code of a page (R141, R149). -/
def execPageStateRead (host : Bool) (addr : BitVec 44) (s : State) : Host.Outcome State Fault Refusal :=
  let l := fabLoc addr
  .next (windowRead s host (l.col == 0x3FC && locIsPage l) addr (fun l =>
    answer s 0 (byteLine (pageState (pageGet (fabAt s l.site) l.mac (locPage l))))))

/-- ERASE_STATUS_READ: whether an erase of a macro is in progress (R141). -/
def execEraseStatusRead (host : Bool) (addr : BitVec 44) (s : State) : Host.Outcome State Fault Refusal :=
  let l := fabLoc addr
  .next (windowRead s host (l.col == 0x3FF && !l.strip && l.row == 0) addr (fun l =>
    answer s 0 (byteLine (b1 ((peOf (fabAt s l.site) l.mac).any (fun o => o.page.isNone))))))

/-! ### Repair (R79, R80, R146, R153) -/

/-- The model and slice that hold a macro. -/
def sliceOf (s : State) (site m : Nat) : Option (Nat × Nat) :=
  let tier := m / 1024
  s.resid.findSome? (fun e => (e.2.slices.find? (fun sl =>
    (sl.macros ++ sl.stores).any (fun z => z.site == site && z.tier == tier && 1024 * tier + z.phys == m))).map (fun sl => (e.1, sl.id)))

/-- Whether some slice holds a macro. -/
def macroClaimed (s : State) (site m : Nat) : Bool := (sliceOf s site m).isSome

/-- Whether a macro may be taken for programming: unassigned, not WORN, no store, nothing in progress, no slice's (R153). -/
def macroFree (s : State) (site m : Nat) : Bool :=
  let e := mtGet (fabAt s site) m
  e.fmt == 0 && !e.worn && !e.store && !e.busyPe && !macroClaimed s site m

/-- Of a list of macros of a tile, the free one with the lowest erase count, then the lowest index (R153). -/
def pickMacro (s : State) (site : Nat) (ms taken : List Nat) : Option Nat :=
  let ok := ms.filter (fun m => macroFree s site m && !taken.contains m)
  (sortBy (fun m => (mtGet (fabAt s site) m).erases) ok).head?

/-- The macros of a tier. -/
def tierMacros (tier : Nat) : List Nat := (List.range 1024).map (fun i => 1024 * tier + i)

/-- The residency entry of a model. -/
def residAt (s : State) (m : Nat) : Resid := sget Resid.free s.resid m
/-- Change a residency entry. -/
def residUpd (m : Nat) (f : Resid → Resid) (s : State) : State := { s with resid := supd Resid.free s.resid m f }
/-- Change the slice with a number. -/
def sliceUpd (id : Nat) (f : Slice → Slice) (r : Resid) : Resid :=
  { r with slices := r.slices.map (fun sl => if sl.id = id then f sl else sl) }

/-- The image of a macro moves to another macro of its tile and tier (R146, R248); without one the load of the model fails
as UNREPAIRABLE (R170). -/
def moveMacro (site m : Nat) (s : State) : State :=
  match sliceOf s site m with
  | none => s
  | some mi =>
    match pickMacro s site (tierMacros (m / 1024)) [m] with
    | some n =>
      let sub := fun (z : SliceMacro) => if z.site = site ∧ 1024 * z.tier + z.phys = m then { z with phys := n % 1024 } else z
      residUpd mi.1 (sliceUpd mi.2 (fun sl => { sl with macros := sl.macros.map sub, stores := sl.stores.map sub })) s
    | none =>
      residUpd mi.1 (fun r => if r.st = .loading then { r with st := .library, lastErr := 8, slices := [] } else { r with lastErr := 8 }) s

/-- Record that spare 512 + k carries column 32k + r (R84). -/
def spareMap (e : MEntry) (k r : Nat) : MEntry :=
  let e1 := { e with spareValid := e.spareValid ||| BitVec.ofNat 16 (2 ^ k) }
  if k < 8 then { e1 with spareLo := (e1.spareLo &&& ~~~(BitVec.ofNat 40 (31 * 2 ^ (5 * k)))) ||| BitVec.ofNat 40 (r * 2 ^ (5 * k)) }
  else { e1 with spareHi := (e1.spareHi &&& ~~~(BitVec.ofNat 40 (31 * 2 ^ (5 * (k - 8))))) ||| BitVec.ofNat 40 (r * 2 ^ (5 * (k - 8))) }

/-- The repair of failing physical columns: each data column takes the free spare of its span; none where one cannot
(R146). -/
def repairCols (e : MEntry) (failing : BitVec 528) : Option MEntry :=
  ((List.range 528).filter (fun c => failing.getLsbD c)).foldl (fun acc c => acc.bind (fun e =>
    if c < 512 ∧ !e.spareValid.getLsbD (c / 32) ∧ !failing.getLsbD (512 + c / 32) then some (spareMap e (c / 32) (c % 32)) else none))
    (some e)

/-- VERIFY_FAIL_REPAIR: the service die records the replacements and erases the macro, whose pages are then programmed
again; a macro that cannot be repaired becomes WORN and its image goes to another (R146). An erase waits while the tile
has 64 operations in progress. -/
def execVerifyFailRepair (site : Site) (mac : MacroIx) (failing : BitVec 528) (s : State) :
    Host.Outcome State Fault Refusal :=
  let m := mac.toNat
  let f := fabAt s site
  match repairCols (mtGet f m) failing with
  | some e =>
    if peFull f m (cycAt s 0) then .next s
    else .next (onFab s site (fun f => eraseStart m true (mtPut f m e)))
  | none => .next (moveMacro site m (onFab s site (wornPut m)))

/-- A spare program: in every programmed page the spare takes the level of the replaced column (R79). -/
def spareProgram (m k r : Nat) (f : Fabric) : Fabric :=
  (List.range 128).foldl (fun f p =>
    let pg := pageGet f m p
    if pageState pg = 0 then f
    else
      let lvl := levelAt pg.cells.toNat (32 * k + r)
      pagePut f m p { pg with cells := (pg.cells &&& ~~~(BitVec.ofNat 1056 (3 * 4 ^ (512 + k)))) ||| BitVec.ofNat 1056 (lvl * 4 ^ (512 + k)) }) f

/-- Whether a column may be replaced now: nothing in progress on the macro, and a live macro's model has a library copy
(R79, R145). -/
def spareReady (s : State) (site m : Nat) : Bool :=
  !peFull (fabAt s site) m (cycAt s 0) &&
    match sliceOf s site m with
    | some mi => (mtGet (fabAt s site) m).fmt == 0 || !(residAt s mi.1).lib.isEmpty
    | none => true

/-- Replace a data column by its span's spare under a hold, or mark the macro WORN and move its contents as a weight swap
when the spare is in use (R79, R80). A live slice's swap falls due as a refresh. -/
def replaceColumn (site m col : Nat) (s : State) : State :=
  let e := mtGet (fabAt s site) m
  let k := col / 32
  if e.spareValid.getLsbD k then
    let s1 := onFab s site (wornPut m)
    if e.fmt = 0 then moveMacro site m s1
    else
      match sliceOf s site m with
      | some mi => residUpd mi.1 (sliceUpd mi.2 (fun sl => { sl with due := true })) s1
      | none => s1
  else if !spareReady s site m then s
  else
    let pipes := match sliceOf s site m with
      | some mi => if e.fmt = 0 then [] else modelPipes s mi.1
      | none => []
    let s1 := pipes.foldl (fun acc q => holdPipe q acc) s
    let s2 := onFab s1 site (fun f => let g := spareProgram m k (col % 32) f; mtPut g m (spareMap (mtGet g m) k (col % 32)))
    pipes.foldl (fun acc q => endHold q acc) (cgWhole s2)

/-- SPARE_COLUMN_REPLACEMENT: the service die replaces a faulty data column (R79). -/
def execSpareColumnReplacement (site : Site) (mac : MacroIx) (col : BitVec 9) (s : State) :
    Host.Outcome State Fault Refusal :=
  .next (replaceColumn site mac.toNat col.toNat s)

end Sys2Proof.Machine
end

