-- ==== Sys2Proof/Machine/DramMap.lean ====
section
/-! DEFINITION. What module DRAM holds: byte access, the system areas, the extents of each class, the granules of CACHE
extents, and the sending of KLP packets (R449, R454-R457, R480-R484, R519). -/

namespace Sys2Proof.Machine

/-! ### Bytes of module DRAM (R449, R451) -/

/-- The DRAM address of an offset in an extent of a die (R449). -/
def dramAddr (die ext off : Nat) : Nat := 0x8000000 * ext + 0x800000 * die + off
/-- A byte as it stands, without the effects of a read. -/
def dramByte (s : State) (a : Nat) : Byte := ((sget SWord.zero s.dram (a / 8)).bits >>> (8 * (a % 8))).setWidth 8
/-- Whether the word that holds a byte is uncorrectable. -/
def dramBad (s : State) (a : Nat) : Bool :=
  match (sget SWord.zero s.dram (a / 8)).ecc with
  | .good => false
  | .single => false
  | _ => true
/-- n bytes as they stand. -/
def dramPeek (s : State) (a n : Nat) : List Byte := (List.range n).map (fun i => dramByte s (a + i))
/-- Store bytes at an address: whole words where all eight bytes of one are given, masked writes elsewhere. -/
def dramStore (s : State) (a : Nat) (bs : List Byte) : State :=
  if bs = [] then s
  else
    (List.range ((a + bs.length - 1) / 8 + 1 - a / 8)).foldl (fun acc k =>
      let w := a / 8 + k
      let at_ := fun (b : Nat) => if a ≤ 8 * w + b then bs[8 * w + b - a]? else none
      let mask : Byte := (List.range 8).foldl (fun m b => if (at_ b).isSome then m ||| BitVec.ofNat 8 (2 ^ b) else m) 0
      let v : Word := (List.range 8).foldl (fun v b => v ||| (((at_ b).getD 0).setWidth 64 <<< (8 * b))) 0
      dramMask acc w mask v) s

/-! ### System areas (R454, R455) -/

/-- The page table of a stream. -/
def pageTab (sid : Nat) : Nat := 0x2000 * sid
/-- Record r of engine n's task store. -/
def taskAddr (n r : Nat) : Nat := 0x8000000 * (1 + r / 131072) + 0x800000 * n + 64 * (r % 131072)
/-- The stream record of a stream. -/
def streamRec (sid : Nat) : Nat := 0x8000000 * (8 + sid / 128 % 8) + 0x800000 * (sid / 1024) + 0x10000 * (sid % 128)
/-- The token history of a stream. -/
def histAddr (sid : Nat) : Nat := 0x8000000 * (16 + sid / 2 % 512) + 0x800000 * (sid / 1024) + 0x400000 * (sid % 2)
/-- The image staging copy. -/
def stagingAddr : Nat := 0x1080000000
/-- The active image copy. -/
def activeAddr : Nat := 0x1180000000

/-! ### Extents (R456, R457) -/

/-- The extents of a class on a die; the system stripes hold class SYSTEM unless their entry says otherwise. -/
def classCount (d : MemDie) (c : Nat) : Nat := d.ext.countP (fun e => extClass e.2 == c)
/-- The lowest FREE extent of a die. -/
def freeExt (d : MemDie) : Option Nat := ((List.range 64944).map (· + 592)).find? (fun e => extClass (extAt d e) == 0)
/-- An extent entry of a class with its tenant and model. -/
def extEntry (cls : Nat) (tenant : BitVec 12) (m : Nat) : BitVec 32 := BitVec.ofNat 32 (cls + 2 ^ 4 * tenant.toNat + 2 ^ 16 * m)

/-- Take one LIBRARY extent on a die for model m, within its limit. -/
def libTake (die m : Nat) (s : State) : Option (Nat × State) :=
  let d := mdAt s die
  if d.libMax.toNat ≤ classCount d 2 then none
  else (freeExt d).map (fun e => (65536 * die + e, mdPut s die (extPut d e (extEntry 2 0 m))))

/-- Take n LIBRARY extents: in round robin over the dies from `die` on, a die without room passed over; on `die` alone for
an anchored copy. -/
def libTakes (only : Bool) (m : Nat) : Nat → Nat → List Nat → State → Option (List Nat × State)
  | 0, _, acc, s => some (acc, s)
  | n + 1, die, acc, s =>
    let ds := if only then [die] else (List.range 16).map (fun i => (die + i) % 16)
    match ds.findSome? (fun d => (libTake d m s).map (fun r => (d, r))) with
    | some r => libTakes only m n (if only then die else (r.1 + 1) % 16) (acc ++ [r.2.1]) r.2.2
    | none => none

/-- Free extents by their die and number. -/
def extFree (es : List Nat) (s : State) : State :=
  es.foldl (fun acc x => mdPut acc (x / 65536) (extPut (mdAt acc (x / 65536)) (x % 65536) 0)) s

/-- The DRAM address of byte o of a copy that lies in a list of extents. -/
def copyAddr (es : List Nat) (o : Nat) : Nat :=
  let x := lget 0 es (o / 0x800000)
  dramAddr (x / 65536) (x % 65536) (o % 0x800000)

/-! ### Granules (R457, R519) -/

/-- Whether a run of granules of an extent meets no granted one. -/
def granFree (d : MemDie) (e first n : Nat) : Bool :=
  !d.grants.any (fun g => g.ext == e && decide (g.first < first + n) && decide (first < g.first + g.n))
/-- The first fit of n granules in the CACHE extents of a die, from the lowest address. -/
def granFit (d : MemDie) (n : Nat) : Option (Nat × Nat) :=
  ((d.ext.filter (fun e => extClass e.2 == 3)).map Prod.fst).findSome? (fun e =>
    ((List.range (129 - n)).find? (fun f => granFree d e f n)).map (fun f => (e, f)))

/-- Give a tenant n contiguous granules of a die, claiming a CACHE extent when no extent has room: the granules are zeroed
and their DRAM address answered (R457, R519). -/
def cacheTake (die n : Nat) (tenant : BitVec 12) (s : State) : Option (Nat × State) :=
  let d := mdAt s die
  let fit : Option (Nat × Nat × MemDie) :=
    if n = 0 ∨ 128 < n then none
    else match granFit d n with
      | some ef => some (ef.1, ef.2, d)
      | none =>
        if d.cacheMax.toNat ≤ classCount d 3 then none
        else (freeExt d).map (fun e => (e, 0, extPut d e (extEntry 3 0 0)))
  fit.map (fun x =>
    let a := dramAddr die x.1 (0x10000 * x.2.1)
    (a, dramZero (mdPut s die { x.2.2 with grants := x.2.2.grants ++ [⟨x.1, x.2.1, n, tenant⟩] }) (a / 8) (8192 * n)))

/-- Release the granules that begin at a DRAM address; an extent returns to FREE with its last grant. -/
def cacheDrop (a : Nat) (s : State) : State :=
  let die := dramDie a
  let e := dramExt a
  let d := mdAt s die
  let gs := d.grants.filter (fun g => !(g.ext == e && g.first == a % 0x800000 / 0x10000))
  let d1 := { d with grants := gs }
  mdPut s die (if gs.any (fun g => g.ext == e) then d1 else extPut d1 e 0)

/-- The owner of the granule at a DRAM address. -/
def granOwner (s : State) (a : Nat) : Option (BitVec 12) :=
  ((mdAt s (dramDie a)).grants.find? (fun g => g.ext == dramExt a && decide (g.first ≤ a % 0x800000 / 0x10000) &&
    decide (a % 0x800000 / 0x10000 < g.first + g.n))).map Grant.tenant

/-- Whether n bytes at an address lie in HOST extents of a tenant (R488, R518). -/
def hostOwned (s : State) (tenant : BitVec 12) (a n : Nat) : Bool :=
  decide (a + n ≤ 2 ^ 43) && (n == 0 || (List.range ((a + n - 1) / 0x800000 + 1 - a / 0x800000)).all (fun i =>
    let b := (a / 0x800000 + i) * 0x800000
    let v := extAt (mdAt s (dramDie b)) (dramExt b)
    extClass v == 4 && extTenant v == tenant))

/-! ### Sessions and the packets that the module sends (R480, R482, R484, R487) -/

/-- The session with an ID. -/
def sessAt (s : State) (id : Nat) : Option Session := sget none (linkAt s (id / 256)).sess (id % 256)
/-- Store or close a session. -/
def sessPut (s : State) (id : Nat) (x : Option Session) : State :=
  let d := linkAt s (id / 256)
  linkPut s (id / 256) { d with sess := sset none d.sess (id % 256) x }
/-- Change an open session. -/
def sessUpd (id : Nat) (f : Session → Session) (s : State) : State :=
  match sessAt s id with
  | some x => sessPut s id (some (f x))
  | none => s

/-- A packet joins a channel with its next PSN. -/
def chanSend (op : Byte) (arg : Word) (payload : List Byte) (c : KChan) : KChan :=
  { c with nextPsn := c.nextPsn + 1, unacked := c.unacked ++ [⟨c.nextPsn, op, arg, payload, c.echoCe⟩], echoCe := false }

/-- The module sends a packet on the control or data channel of a session. -/
def klpSend (id : Nat) (ctrl : Bool) (op : Byte) (arg : Word) (payload : List Byte) (s : State) : State :=
  sessUpd id (fun x => if ctrl then { x with ctrl := chanSend op arg payload x.ctrl }
    else { x with data := chanSend op arg payload x.data }) s

/-- The refusal of an operator's verb, if any: no such session or another kind is DENIED, recovery answers BUSY; a
management-port access is an operator's (R487, R488, R496, R536). -/
def opGate (s : State) (sess : Option SessId) : Option Nat :=
  let kind := match sess with
    | none => some 1
    | some i => (sessAt s i.toNat).map (fun x => x.kind.toNat)
  if kind ≠ some 1 then some 2 else if s.svc.warming then some 3 else none

/-- The refusal of an image, shard or residency verb: an operator's, STATE in RETIRED (R536). -/
def resGate (s : State) (sess : Option SessId) : Option Nat :=
  match opGate s sess with
  | some r => some r
  | none => if s.sec.lc = 3 then some 5 else none

/-- Answer a verb with its refusal, or perform it. -/
def gated (g : Option Nat) (s : State) (body : State) : State :=
  match g with
  | some r => answerCode s r
  | none => body

end Sys2Proof.Machine
end

