-- ==== Sys2Proof/Machine/Slices.lean ====
section
/-! DEFINITION. Weight packages and layer slices: the layout of shards, the macros and resident lines of a slice, building,
switching and restoring slices, and the changes of a model's residency (R137-R138, R156-R172, R249, R327-R328). -/

namespace Sys2Proof.Machine

/-! ### Shards (R157-R159) -/

/-- A byte string by its offsets. -/
abbrev Rd := Nat → Byte
/-- n bytes of a byte string. -/
def rdBytes (r : Rd) (off n : Nat) : List Byte := (List.range n).map (fun i => r (off + i))
/-- A little-endian number of n bytes. -/
def rdLe (r : Rd) (off n : Nat) : Nat := leNat (rdBytes r off n)
/-- The line at line offset l. -/
def rdLine (r : Rd) (l : Nat) : List Word := packBytes (rdBytes r (128 * l) 128) 16

/-- The library copy of a model: its first one. -/
def libRd (s : State) (r : Resid) : Rd := fun o => dramByte s (copyAddr (lget [] r.lib 0) o)

/-- A slice-table entry (R158). -/
structure SliceTab where
  id : Nat
  layer : Nat
  region : Nat
  fmt : Nat
  first : Nat
  n : Nat
  skimOff : Nat
  skimLines : Nat
deriving DecidableEq, Repr

/-- The slice table of a shard. -/
def shardSlices (r : Rd) : List SliceTab :=
  (List.range (rdLe r 6 2)).map (fun i =>
    let b := 128 * rdLe r 0x18 8 + 32 * i
    ⟨rdLe r b 2, rdLe r (b + 2) 2, rdLe r (b + 4) 2, rdLe r (b + 6) 1, rdLe r (b + 8) 4, rdLe r (b + 12) 4, rdLe r (b + 16) 8,
      rdLe r (b + 24) 4⟩)
/-- The line offset of macro record i. -/
def mrecLine (r : Rd) (i : Nat) : Nat := rdLe r 0x20 8 + 152 * i
/-- Page image p of macro record i: data pages 0-127, then strip pages. -/
def mrecPage (r : Rd) (i p : Nat) : List Word := rdLine r (mrecLine r i + 1 + p)
/-- Whether the tag of page image p of macro record i holds (R158, R453). -/
def mrecTag (r : Rd) (i p : Nat) : Bool :=
  (crc32c (rdBytes r (128 * (mrecLine r i + 1 + p)) 128)).toNat == rdLe r (128 * (mrecLine r i + 145) + 4 * p) 4
/-- The record of a slice with a LOGICAL_MACRO. -/
def mrecOf (r : Rd) (t : SliceTab) (logical : Nat) : Option Nat :=
  ((List.range t.n).map (fun i => t.first + i)).find? (fun i => rdLe r (128 * mrecLine r i) 4 == logical)

/-- A resident-data record (R159): its content begins at line `at_`. -/
structure ResRec where
  region : Nat
  lx : Nat
  ly : Nat
  base : Nat
  n : Nat
  crc : Nat
  slice : Nat
  at_ : Nat
deriving DecidableEq, Repr

/-- The records from line l on. -/
def resRecsFrom (r : Rd) : Nat → Nat → List ResRec
  | 0, _ => []
  | k + 1, l =>
    let b := 128 * l
    let x : ResRec := ⟨rdLe r b 2, rdLe r (b + 2) 1, rdLe r (b + 3) 1, rdLe r (b + 4) 2, rdLe r (b + 6) 2, rdLe r (b + 8) 4,
      rdLe r (b + 12) 2, l + 1⟩
    x :: resRecsFrom r k (l + 1 + x.n)
/-- The resident-data records of a shard. -/
def resRecs (r : Rd) : List ResRec := resRecsFrom r (rdLe r 0x30 4) (rdLe r 0x28 8)

/-! ### Skim factors of a slice (R125-R128, R256) -/

/-- The rank r of a RANK code (R125). -/
def rankOf (code : Nat) : Nat := if code = 0 then 0 else if code ≤ 5 then 4 * 2 ^ code else 0
/-- Lines of a vector of n BF16 scales. -/
def scaleLines (n : Nat) : Nat := (n + 63) / 64
/-- The lines that a projection takes in a shard: A panels, B panels, A scales, B scales (R127). -/
def skimCount (k : ImgSkim) : Nat :=
  let r := rankOf k.rank
  if r = 0 then 0 else r * k.k + r * k.npanel + scaleLines k.k + scaleLines k.npanel
/-- Take projections until their lines reach n. -/
def takeSkims : List ImgSkim → Nat → List ImgSkim × List ImgSkim
  | [], _ => ([], [])
  | k :: t, n => if n = 0 then ([], k :: t) else
    let x := takeSkims t (n - skimCount k)
    (k :: x.1, x.2)

/-- A logical line of the resident windows: region, LX, LY, line, content. -/
structure LogLine where
  region : Nat
  lx : Nat
  ly : Nat
  line : Nat
  words : List Word
deriving DecidableEq, Repr

/-- Pack 16-bit elements into a line. -/
def packHalves (l : List (BitVec 16)) : List Word :=
  (List.range 16).map (fun w => fields ((List.range 4).map (fun i => (16 * i, (lget 0 l (4 * w + i)).toNat))))

/-- The resident lines of a projection whose lines begin at line `base` of a source. -/
def projLines (src : Nat → List Word) (base : Nat) (k : ImgSkim) : List LogLine :=
  let r := rankOf k.rank
  let bAt := base + r * k.k
  let gaAt := bAt + r * k.npanel
  let gbAt := gaAt + scaleLines k.k
  let lead := fun (line at_ : Nat) => (⟨k.region, k.leadX, k.leadY, line, src at_⟩ : LogLine)
  (List.range (r * k.k)).map (fun j => lead (k.aBase + j) (base + j)) ++
    (List.range (scaleLines k.k)).map (fun j => lead (k.gaBase + j) (gaAt + j)) ++
    (Config.stage2Tiles k.proj).flatMap (fun z =>
      let ps := z.2.2
      ((List.range ps.length).zip ps).flatMap (fun qp => (List.range r).map (fun t =>
        (⟨k.region, z.1, z.2.1, k.bBase + r * qp.1 + t, src (bAt + r * qp.2 + t)⟩ : LogLine))) ++
      (List.range (scaleLines ps.length)).map (fun j =>
        (⟨k.region, z.1, z.2.1, k.gbBase + j, packHalves (((ps.drop (64 * j)).take 64).map (fun p =>
          halfOf (src (gbAt + p / 64)) (p % 64)))⟩ : LogLine)))

/-- The resident lines of several projections, one after another. -/
def projsLines (src : Nat → List Word) : Nat → List ImgSkim → List LogLine
  | _, [] => []
  | base, k :: t => projLines src base k ++ projsLines src (base + skimCount k) t

/-- The projections of each slice of a region: its slices take the region's SKIM records in order. -/
def skimsOf (i : Image) (tabs : List SliceTab) (id : Nat) : List ImgSkim :=
  match tabs.find? (fun t => t.id == id) with
  | none => []
  | some t =>
    let all := i.skims.filter (fun k => k.region == t.region && k.rank != 0)
    let before := (tabs.filter (fun u => u.region == t.region && decide (u.id < id))).foldl
      (fun l u => (takeSkims l u.skimLines).2) all
    (takeSkims before t.skimLines).1

/-- The resident-window lines of a slice: its skim factors and its resident-data records (R127, R159). -/
def sliceLines (i : Image) (r : Rd) (id : Nat) : List LogLine :=
  let tabs := shardSlices r
  let off := match tabs.find? (fun t => t.id == id) with | some t => t.skimOff | none => 0
  projsLines (fun l => rdLine r l) off (skimsOf i tabs id) ++
    ((resRecs r).filter (fun x => x.slice == id)).flatMap (fun x =>
      (List.range x.n).map (fun j => (⟨x.region, x.lx, x.ly, x.base + j, rdLine r (x.at_ + j)⟩ : LogLine)))

/-! ### Stacks and sites (R249, R327) -/

/-- The members of the stack that holds a region, by section index. -/
def stackOf (i : Image) (n : Nat) : List Nat :=
  (List.range i.regions.length).filter (fun k => match regAt i k, regAt i n with
    | some a, some b => a.pipe == b.pipe && a.pos == b.pos
    | _, _ => false)
/-- The primary of a region's stack. -/
def primaryOf (i : Image) (n : Nat) : Nat := lget n (stackOf i n) 0
/-- The live member of a stack, by the index of its primary. -/
def liveMember (s : State) (prim : Nat) : Nat := sget 0 s.load.members prim
/-- The site of a logical tile of the member `sel` of the stack that a region belongs to. -/
def memberSite (i : Image) (cs : List Course) (sel : Nat → Nat) (reg lx ly : Nat) : Option Nat :=
  let prim := primaryOf i reg
  let n := lget prim (stackOf i prim) (sel prim)
  (placedOf cs n).bind (fun p => placedSite i p lx ly)
/-- The MACRO entries of a slice. -/
def sliceEntries (i : Image) (m id : Nat) : List ImgMacro := i.macros.filter (fun e => e.m == m && e.slice == id)

/-! ### Planning a slice (R153, R161) -/

/-- Take a macro of a tile from a list of candidates, noting it as taken. -/
def takeMacro (s : State) (site tier : Nat) (ms : List Nat) (lmac logical : Nat) (acc : Option (List SliceMacro × List (Nat × Nat))) :
    Option (List SliceMacro × List (Nat × Nat)) :=
  acc.bind (fun a =>
    let used := (a.2.filter (fun z => z.1 == site)).map Prod.snd
    if fencedFor s site then none
    else (pickMacro s site ms used).map (fun n =>
      (a.1 ++ [⟨site, if tier < 8 then tier else n / 1024, n % 1024, lmac, logical⟩], a.2 ++ [(site, n)])))

/-- The macros of a slice: one of each entry's tile and tier. -/
def planMacros (s : State) (i : Image) (cs : List Course) (sel : Nat → Nat) (m id : Nat) (taken : List (Nat × Nat)) :
    Option (List SliceMacro × List (Nat × Nat)) :=
  (sliceEntries i m id).foldl (fun acc e =>
    match memberSite i cs sel (regIndex i e.region) e.lx e.ly with
    | none => none
    | some site => takeMacro s site e.tier (tierMacros e.tier) e.lmac e.logical acc) (some ([], taken))

/-- Where the resident lines of a slice go: (site, line) pairs. -/
def lineSites (i : Image) (cs : List Course) (sel : Nat → Nat) (lines : List LogLine) : List (Nat × Nat) :=
  lines.filterMap (fun l => (memberSite i cs sel (regIndex i l.region) l.lx l.ly).map (fun z => (z, l.line)))

/-- The store macros of a slice: ⌈n ÷ 128⌉ on each tile for its n resident lines, of any tier. -/
def planStores (s : State) (at_ : List (Nat × Nat)) (taken : List (Nat × Nat)) : Option (List SliceMacro × List (Nat × Nat)) :=
  ((at_.map Prod.fst).eraseDups).foldl (fun acc z =>
    let n := (at_.countP (fun p => p.1 == z) + 127) / 128
    (List.range n).foldl (fun acc _ => takeMacro s z 8 (List.range 8192) 0 0 acc) acc) (some ([], taken))

/-- The plan of a slice; none where the tiles or macros do not suffice. -/
def planSlice (s : State) (i : Image) (cs : List Course) (sel : Nat → Nat) (m id : Nat) (lines : List LogLine)
    (taken : List (Nat × Nat)) : Option (Slice × List (Nat × Nat)) :=
  let at_ := lineSites i cs sel lines
  (planMacros s i cs sel m id taken).bind (fun a =>
    (planStores s at_ a.2).map (fun b => (⟨id, a.1, b.1, at_, 0, false, false⟩, b.2)))

/-- The slices of a model on this module. -/
def modelSlices (i : Image) (m : Nat) : List Nat :=
  match i.models.find? (fun x => x.m == m) with
  | some x => List.range x.nslice
  | none => []

/-- The plan of a list of slices. -/
def planSlices (s : State) (i : Image) (cs : List Course) (sel : Nat → Nat) (m : Nat) (r : Rd) (ids : List Nat) :
    Option (List Slice) :=
  (ids.foldl (fun (acc : Option (List Slice × List (Nat × Nat))) id => acc.bind (fun a =>
    (planSlice s i cs sel m id (sliceLines i r id) a.2).map (fun x => (a.1 ++ [x.1], x.2)))) (some ([], []))).map Prod.fst

/-! ### Programming and switching a slice (R139, R144, R161, R163) -/

/-- The index of a slice's macro in its tile. -/
def macIx (z : SliceMacro) : Nat := 1024 * z.tier + z.phys

/-- Erase a macro that is not erased: one erase more. -/
def eraseFor (m : Nat) (f : Fabric) : Fabric :=
  if f.pages.any (fun e => e.1 / 256 == m) then eraseOk m f else f
/-- Program a page and verify it. -/
def progPage (m p image : Nat) (f : Fabric) : Fabric := pagePut f m p ⟨pageCells (mtGet f m) p image, 3, 3⟩

/-- Program the macros of a slice with its records. -/
def progMacros (r : Rd) (t : SliceTab) (sl : Slice) (s : State) : State :=
  sl.macros.foldl (fun acc z =>
    match mrecOf r t z.logical with
    | none => acc
    | some i => onFab acc z.site (fun f =>
      (List.range 144).foldl (fun f p => progPage (macIx z) p (lineBits (mrecPage r i p)) f) (eraseFor (macIx z) f))) s

/-- The store macros of a slice on a tile. -/
def tileStores (sl : Slice) (site : Nat) : List SliceMacro := sl.stores.filter (fun z => z.site == site)
/-- The lines that a slice's stores hold for a tile, in order. -/
def tileLines (sl : Slice) (site : Nat) : List Nat := (sl.lines.filter (fun p => p.1 == site)).map Prod.snd

/-- Program the store macros of a slice: line j of a tile is data page j mod 128 of its store j ÷ 128; the other pages stay
erased (R161). -/
def progStores (lines : List LogLine) (sl : Slice) (s : State) : State :=
  let content := ((List.range sl.lines.length).zip (sl.lines.zip lines))
  let s1 := sl.stores.foldl (fun acc z => onFab acc z.site (eraseFor (macIx z))) s
  content.foldl (fun acc x =>
    let site := x.2.1.1
    let j := (sl.lines.take x.1).countP (fun p => p.1 == site)
    match (tileStores sl site)[j / 128]? with
    | some z => onFab acc site (progPage (macIx z) (j % 128) (lineBits x.2.2.words))
    | none => acc) s1

/-- Build a slice from its library copy: its macros and its stores. -/
def buildSlice (i : Image) (r : Rd) (sl : Slice) (s : State) : State :=
  let s1 := match (shardSlices r).find? (fun t => t.id == sl.id) with
    | some t => progMacros r t sl s
    | none => s
  progStores (sliceLines i r sl.id) sl s1

/-- Store the words of a line in a scratchpad. -/
def padLine (t : Tile) (line : Nat) (ws : List RWord) : Tile :=
  { t with pad := putLine t.pad (BitVec.ofNat 16 line) (BitVec.allOnes 16) ws }
/-- Words without marks. -/
def clean (ws : List Word) : List RWord := ws.map (fun w => ⟨w, false⟩)

/-- Write the resident-window lines of a slice on a tile from its stores, as sensed (R161). -/
def restoreTile (sl : Slice) (site : Nat) (s : State) : State :=
  ((List.range (tileLines sl site).length).zip (tileLines sl site)).foldl (fun acc jl =>
    match (tileStores sl site)[jl.1 / 128]? with
    | some z =>
      let f := fabAt acc site
      let img := bitsLine (pageImage (mtGet f (macIx z)) (jl.1 % 128) (pageGet f (macIx z) (jl.1 % 128)))
      tilePut acc site (padLine (tileAt acc site) jl.2 (clean img))
    | none => acc) s

/-- Write the resident-window lines of a slice on all its tiles. -/
def restoreSlice (sl : Slice) (s : State) : State :=
  ((sl.lines.map Prod.fst).eraseDups).foldl (fun acc site => restoreTile sl site acc) s

/-- The reference digests of a macro for the installed probe set: the CRC-32C of the exact outputs for each probe line (R557). -/
def probeRefs (s : State) (f : Fabric) (m : Nat) : List (BitVec 32) :=
  (List.range 4).map (fun j =>
    let line := (List.range 16).map (fun w => sget 0 s.hist.probeLines (16 * j + w))
    let sa := halfOf [sget 0 s.hist.probeLines 64] j
    let o := opCompute { f with convErr := [] } m ((List.range 128).map (byteOf line)) sa
    crc32c (o.outs.flatMap (fun y => leBytes 4 y.toNat)))
/-- Write the digests of a macro into the tile's reference table, while a set is installed. -/
def refsPut (s : State) (site m : Nat) : State :=
  if s.hist.setId = 0 then s
  else
    let t := tileAt s site
    let rs := probeRefs s t.fab m
    tilePut s site { t with probe := { t.probe with
      refs := (List.range 4).foldl (fun mp j => sset 0 mp (4 * m + j) (lget 0 rs j)) t.probe.refs } }

/-- The MACRO entry of a slice's macro. -/
def entryOf (i : Image) (z : SliceMacro) : Option ImgMacro := i.macros[z.logical]?

/-- Make a slice's macros live: FMT, PAIR and RES in the macro table, the macro map, and the STORE marks (R161, R163, R165,
R248). -/
def liveSlice (i : Image) (sl : Slice) (s : State) : State :=
  let s1 := sl.macros.foldl (fun acc z =>
    match entryOf i z with
    | none => acc
    | some e =>
      let t := tileAt acc z.site
      let f := mtPut t.fab (macIx z) { mtGet t.fab (macIx z) with fmt := e.fmt, pair := e.pair, res := true }
      refsPut (tilePut acc z.site { t with fab := f, seq := { t.seq with
        macroMap := sset 0 t.seq.macroMap (1024 * z.tier + z.lmac) (BitVec.ofNat 16 (32768 + z.phys)) } }) z.site (macIx z)) s
  sl.stores.foldl (fun acc z => onFab acc z.site (fun f => mtPut f (macIx z) { mtGet f (macIx z) with store := true })) s1

/-- Unassign a slice's macros: FMT = 0 and RES = 0, and no map entry names them (R163, R165). -/
def deadSlice (sl : Slice) (s : State) : State :=
  sl.macros.foldl (fun acc z =>
    let t := tileAt acc z.site
    let e := mtGet t.fab (macIx z)
    let key := 1024 * z.tier + z.lmac
    let mp := if sget 0 t.seq.macroMap key = BitVec.ofNat 16 (32768 + z.phys) then sset 0 t.seq.macroMap key 0 else t.seq.macroMap
    tilePut acc z.site { t with fab := mtPut t.fab (macIx z) { e with fmt := 0, pair := 0, res := false },
                                seq := { t.seq with macroMap := mp } }) s
/-- Release a slice's stores: they are erased and no longer marked (R161). -/
def dropStores (sl : Slice) (s : State) : State :=
  sl.stores.foldl (fun acc z => onFab acc z.site (fun f =>
    let g := eraseFor (macIx z) f
    mtPut g (macIx z) { mtGet g (macIx z) with store := false })) s

/-! ### A model's residency (R154-R156, R169-R172) -/

/-- A failed request sets LAST_ERR. -/
def resFail (m err : Nat) (s : State) : State := residUpd m (fun r => { r with lastErr := BitVec.ofNat 4 err }) s

/-- The admitted streams of a model. -/
def modelStreams (s : State) (m : Nat) : Nat :=
  (s.eng.map (fun e => e.2.ctx.countP (fun c => c.2.m.toNat == m && c.2.st != .free))).sum

/-- RES_CPL goes to the session whose request has ended (R487). -/
def resCpl (m op sess : Nat) (s : State) : State :=
  let err := (residAt s m).lastErr
  klpSend sess true 0x33 (fields [(0, m), (8, op), (12, err.toNat), (16, (frameCtr s).toNat)]) [] s
/-- The request in progress on a model ends. -/
def resEnd (m : Nat) (s : State) : State :=
  match (residAt s m).req with
  | some q => residUpd m (fun r => { r with req := none }) (resCpl m q.2 q.1 s)
  | none => s

/-- A refresh of a slice falls due: without a library copy it is blocked and the event is reported (R154, R156). -/
def refreshDue (m id : Nat) (s : State) : State :=
  let s1 := residUpd m (sliceUpd id (fun sl => { sl with due := true })) s
  if (residAt s1 m).lib.isEmpty ∧ !(residAt s1 m).blocked then
    svcRpt (residUpd m (fun r => { r with blocked := true }) s1) 0x1B (BitVec.ofNat 64 svcNode) [BitVec.ofNat 64 m, BitVec.ofNat 64 id]
  else s1

/-- A live slice is lost: it is unassigned by commit, the model becomes DEGRADED and its lanes are held (R150, R156). -/
def degradeSlice (m id : Nat) (s : State) : State :=
  match (residAt s m).slices.find? (fun sl => sl.id == id) with
  | none => s
  | some sl =>
    let s1 := cgWhole (deadSlice sl s)
    let s2 := residUpd m (fun r => sliceUpd id (fun sl => { sl with resident := false }) { r with st := .degraded }) s1
    (modelPipes s2 m).foldl (fun acc q => holdPipe q acc) s2

/-- The image and the record of a model in it, where the residency entry agrees with them. -/
def imgModel (s : State) (m : Nat) : Option (Image × ImgModel) :=
  match s.load.img with
  | none => none
  | some i => (i.models.find? (fun x => x.m == m)).map (fun x => (i, x))

/-- The exposed sites that no course occupies. -/
def freeSites (s : State) : Nat :=
  (List.range 8064).countP (fun z => s.grid.exposed.getLsbD z && !s.plc.courses.any (fun c => inCourse c z))

/-- The pipelines of a model whose course leaves the wafer with it: no region of theirs is placed at load (R332). -/
def ownPipes (i : Image) (s : State) (m : Nat) : List Nat := (modelPipes s m).filter (fun q => !atLoadPipe i q)

/-- Evict a model from the fabric: FMT = 0 on its macros, its stores released, its own courses freed; it keeps its library
copy or becomes FREE (R161, R170, R171, R332). -/
def evictModel (m : Nat) (s : State) : State :=
  let r := residAt s m
  let s1 := r.slices.foldl (fun acc sl => dropStores sl (deadSlice sl acc)) s
  let s2 := { s1 with resid := sset Resid.free s1.resid m (if r.lib.isEmpty then { Resid.free with lastErr := r.lastErr }
    else { r with st := .library, slices := [], blocked := false }) }
  let qs := match s.load.img with | some i => ownPipes i s m | none => []
  cgWhole { s2 with plc := { s2.plc with courses := s2.plc.courses.filter (fun c => !qs.contains c.pipe),
                                         gen := if qs.isEmpty then s2.plc.gen else s2.plc.gen + 1 } }

/-- The model to evict next: RESIDENT, no streams, not pinned, the smallest LAST_USE, then the lowest M (R171). -/
def nextEvict (s : State) (st : ResState) (keep : List Nat) : Option Nat :=
  let ok := s.resid.filter (fun e => e.2.st == st && !e.2.pin && modelStreams s e.1 == 0 && !keep.contains e.1)
  ((sortBy (fun e => e.2.lastUse.toNat) ok).head?).map Prod.fst

/-- Evict resident models one at a time until a test holds; at most n of them. -/
def evictUntil (ok : State → Bool) : Nat → State → State
  | 0, s => s
  | n + 1, s =>
    if ok s then s
    else match nextEvict s .resident [] with
      | some m => evictUntil ok n (evictModel m s)
      | none => s

/-- Drop a model's library copies and the entry with them (R170, R172). -/
def dropLibrary (m : Nat) (s : State) : State :=
  let s1 := (residAt s m).lib.foldl (fun acc es => extFree es acc) s
  { s1 with resid := sset Resid.free s1.resid m Resid.free }

/-- The MiB of a model's library copies. -/
def libMib (r : Resid) : Nat := 8 * (r.lib.map List.length).sum

end Sys2Proof.Machine
end

