-- ==== Sys2Proof/Machine/Stores.lean ====
section
/-! DEFINITION. The configuration stores of a tile as an image gives them: blobs, windows, names, wires and main stencils, the
rim calendars, and the writing of stores, windows and credits (R246-R252, R259-R261, R268, R37-R39). -/

namespace Sys2Proof.Machine

/-- The bytes of an image that lies in module DRAM from an address on. -/
def imageRd (s : State) (base : Nat) : Rd := fun o => dramByte s (base + o)

/-- The index field of a TILE record that names none (R246). -/
def noBlob : Nat := 0xFFFFFFFF

/-- A blob by its index. -/
def blobAt (i : Image) (b : Nat) : Option ImgBlob := if b = noBlob then none else i.blobs[b]?
/-- 64-bit word w of a blob, 0 beyond its end. -/
def blobWord (r : Rd) (i : Image) (b w : Nat) : Word :=
  match blobAt i b with
  | some x => if 8 * w < x.len then BitVec.ofNat 64 (rdLe r (x.off + 8 * w) (min 8 (x.len - 8 * w))) else 0
  | none => 0
/-- The 64-bit words of a blob. -/
def blobWords (i : Image) (b : Nat) : Nat := match blobAt i b with | some x => (x.len + 7) / 8 | none => 0
/-- A store of 64-bit words written from a blob, zeros elsewhere (R246). -/
def blobStore (r : Rd) (i : Image) (b limit : Nat) : SMap Word := stab 0 (min limit (blobWords i b)) (blobWord r i b)

/-- The TILE record of logical tile (lx, ly) of a placed region (R246). -/
def tileRec (i : Image) (p : PlacedReg) (lx ly : Nat) : Option (Nat × ImgTile) :=
  ((regAt i p.reg).bind (fun g => g.vars[p.variant]?)).bind (fun v =>
    let n := v.tileFirst + ly * v.lw + lx
    (i.tiles[n]?).map (fun t => (n, t)))

/-- Whether member k of the stack whose primary has a REGION_ID is live. -/
def memberLive (i : Image) (sel : Nat → Nat) (id k : Nat) : Bool := sel (regIndex i id) == k
/-- The sequencer program and slot table of the main stencil in force on a tile (R249). -/
def mainStencil (i : Image) (sel : Nat → Nat) (t : ImgTile) : Nat × Nat :=
  let es := (List.range t.nalt).filterMap (fun k => i.alts[t.altFirst + k]?)
  match es.find? (fun a => memberLive i sel a.stackA a.memberA && (a.stackB == 0xFFFF || memberLive i sel a.stackB a.memberB)) with
  | some a => (a.seq, a.slot)
  | none => (t.seq0, t.slot0)

/-- A window list entry: the window number and the register value (R250). -/
def winEntries (r : Rd) (i : Image) (b : Nat) : List (Nat × Word) :=
  match blobAt i b with
  | some x => (List.range (x.len / 16)).map (fun k =>
      (rdLe r (x.off + 16 * k) 1 % 32, BitVec.ofNat 64 (rdLe r (x.off + 16 * k + 8) 8)))
  | none => []

/-- A live name-table entry: the lath node in [12:0] and VALID in bit 63 (R252). A name of a region that is not placed is
not VALID. -/
def nameEntry (i : Image) (cs : List Course) (v : Nat) : Word :=
  let node := if v / 2 ^ 32 % 256 = 1 then (if v / 2 ^ 16 % 256 ≤ 32 then some (rimNode (v / 2 ^ 16 % 256)) else none)
    else if v / 2 ^ 32 % 256 = 0 then logicalSite i cs (v % 2 ^ 16) (v / 2 ^ 16 % 256) (v / 2 ^ 24 % 256) else none
  match node with
  | some n => fields [(0, n), (63, 1)]
  | none => 0

/-- The course position of a site's logical tile: column and row. -/
def coursePos (c : Course) (p : PlacedReg) (lx ly : Nat) : Nat × Nat := (p.x0 - c.x0 + lx, p.y0 - c.y0 + ly)

/-- The slots of both sets and MESH_SETS (R248). -/
def slotStore (r : Rd) (i : Image) (slot0 slot1 : Nat) : SMap Word × Word :=
  let n0 := blobWords i slot0
  let n1 := blobWords i slot1
  (stab 0 (min 8192 (n0 + n1)) (fun k => if k < n0 then blobWord r i slot0 k else blobWord r i slot1 (k - n0)),
    fields [(13, n0), (32, n0), (45, n1)])

/-- The stencil's span and beat fields of MESH_STATUS (R231). -/
def spanOf (i : Image) (p : PlacedReg) : Nat × Nat :=
  match regAt i p.reg with
  | some g => (match g.vars[p.variant]? with | some v => (v.s - 1, g.b - 1) | none => (0, 0))
  | none => (0, 0)

/-- Replace the windows of a tile: declared ones take the image's values, others TYPE 0; release states stay. -/
def setWindows (ws : List (Nat × Word)) (p : Pad) : Pad :=
  (List.range 32).foldl (fun p n =>
    match (ws.filter (fun e => e.1 == n)).getLast? with
    | some e => winPut p n (winDecode e.2 (winGet p n))
    | none => winPut p n { winGet p n with typ := 0 }) p

/-- Write every configuration store of a tile that a placed region's logical tile stands on (R248, R261). -/
def storeTile (r : Rd) (i : Image) (cs : List Course) (sel : Nat → Nat) (c : Course) (p : PlacedReg) (site lx ly : Nat) (t : Tile) :
    Tile :=
  match tileRec i p lx ly with
  | none => t
  | some nr =>
    let x := nr.2
    let m := mainStencil i sel x
    let sl := slotStore r i m.2 x.slot1
    let sb := spanOf i p
    let pos := coursePos c p lx ly
    let pool := match regAt i p.reg with | some g => g.role == 2 | none => false
    { t with
      imageLoaded := true
      pool := pool
      pad := { setWindows (winEntries r i x.win) t.pad with storeQ := [] }
      cc := { t.cc with iram := stab 0 16384 (fun k =>
        if k % 2 = 0 then (blobWord r i x.code (k / 2)).setWidth 32 else ((blobWord r i x.code (k / 2)) >>> (32 : Nat)).setWidth 32) }
      seq := { t.seq with
        prog0 := blobStore r i m.1 4096, prog1 := blobStore r i x.seq1 4096
        names := stab 0 (min 64 (blobWords i x.names)) (fun k => nameEntry i cs (blobWord r i x.names k).toNat) }
      mesh := { t.mesh with portCfg := portCfgOf i c site pos.1 pos.2, slots := sl.1, sets := sl.2
                            span := BitVec.ofNat 4 sb.1, beat := BitVec.ofNat 4 sb.2, set := false } }

/-- A tile of a course without a stencil, or of none: its stores are zeros and its wires OFF (R246, R328). -/
def blankTile (loaded : Bool) (t : Tile) : Tile :=
  { t with
    imageLoaded := loaded
    pool := false
    pad := { setWindows [] t.pad with storeQ := [] }
    cc := { t.cc with iram := [] }
    seq := { t.seq with prog0 := [], prog1 := [], names := [] }
    mesh := { t.mesh with portCfg := 0x0404040404, slots := [], sets := 0, span := 0, beat := 0, set := false, run := false } }

/-- Whether a tile is placed: a course holds it. -/
def sitePlaced (cs : List Course) (site : Nat) : Bool := cs.any (fun c => inCourse c site)

/-- Write the stores of a site from an image and a placement. -/
def storeSite (r : Rd) (i : Image) (cs : List Course) (sel : Nat → Nat) (site : Nat) (t : Tile) : Tile :=
  match tileOf i cs site with
  | some x => storeTile r i cs sel x.1 x.2.1 site x.2.2.1 x.2.2.2 t
  | none => blankTile (sitePlaced cs site) t

/-- Every landing window takes CREDITS = QUOTA (R39, R268). -/
def fullCredits (p : Pad) : Pad :=
  (List.range 32).foldl (fun p n => let w := winGet p n; if w.typ = 1 then winPut p n { w with credits := w.quota } else p) p
/-- The source agents of a tile's landing windows hold a credit for each line of QUOTA. -/
def sourceCredits (site : Nat) (s : State) : State :=
  (List.range 32).foldl (fun acc n =>
    let w := winGet (tileAt acc site).pad n
    if w.typ = 1 ∧ w.source.toNat ≤ 32 then
      onGrid (fun g => { g with credit := sset 0 g.credit (creditKey w.source.toNat site n) w.quota.toNat }) acc
    else acc) s
/-- Both sides of a tile's credits are set (R39). -/
def creditTile (site : Nat) (s : State) : State :=
  let t := tileAt s site
  sourceCredits site (tilePut s site { t with pad := fullCredits t.pad })

/-- The sites of a course. -/
def courseSites (c : Course) : List Nat :=
  (List.range (c.w * c.h)).map (fun n => 96 * (c.y0 + n / c.w) + c.x0 + n % c.w)

/-- The member selection in force, by the index of a stack's primary. -/
def selNow (s : State) : Nat → Nat := fun p => liveMember s p

/-- Write the stores of every exposed tile of a list of sites from the active copy, with their credits. -/
def storeSites (i : Image) (sites : List Nat) (s : State) : State :=
  sites.foldl (fun acc z =>
    creditTile z (tilePut acc z (storeSite (imageRd acc activeAddr) i acc.plc.courses (selNow acc) z (tileAt acc z)))) s

/-- The rim calendars of an image, with destinations relocated (R259). -/
def calendars (i : Image) (cs : List Course) : SMap (List CalEnt) :=
  stab [] 33 (fun code => (i.rims.filter (fun e => e.rim == code)).filterMap (fun e =>
    (logicalSite i cs e.region e.lx e.ly).map (fun site => (⟨e.port, e.cyc, site⟩ : CalEnt))))
/-- Send each rim die its calendar. -/
def sendCalendars (i : Image) (s : State) : State := onGrid (fun g => { g with cal := calendars i s.plc.courses }) s

end Sys2Proof.Machine
end

