-- ==== Sys2Proof/Machine/Keys.lean ====
section
/-! DEFINITION. Signatures and keys: which key a life-cycle state accepts for an object, and the decryption of shards and
adapter packages (R523-R533). -/

namespace Sys2Proof.Machine

/-- The objects of R525. -/
inductive Signed where
  | image | weight | adapter | session (operator : Bool) | keywrap | debug | probe | lifecycle
deriving DecidableEq, Repr

/-- The USE bit that covers an object (R524). -/
def useBit : Signed → Nat
  | .image => 0
  | .weight => 1
  | .adapter => 2
  | .session _ => 3
  | .keywrap => 4
  | .debug => 5
  | .probe => 6
  | .lifecycle => 7

/-- Whether a fixed key, 0x0000 or 0x0001, is accepted for an object in a state: 0 FACTORY, 1 OPEN, 2 PRODUCTION, 3 RETIRED
(R525). -/
def fixedAccepted (lc : BitVec 2) (o : Signed) (k : Nat) : Bool :=
  match o with
  | .image => if lc = 0 then true else lc == 1 && k == 1
  | .weight => (lc == 0 || lc == 1) && k == 1
  | .adapter => false
  | .session op => (lc == 0 || lc == 3) && k == 0 && op
  | .keywrap => false
  | .debug => lc == 3 && k == 0
  | .probe => lc != 3
  | .lifecycle => lc == 0 && k == 0

/-- Whether owner keys serve an object in a state: they do in OPEN and PRODUCTION (R525). -/
def ownerAccepted (lc : BitVec 2) : Bool := lc == 1 || lc == 2

/-- An owner key slot. -/
def ownerKey (c : Sec) (n : Nat) : OwnerKey := sget OwnerKey.none c.owners n
/-- Whether an owner key verifies objects of a kind now: written, unrevoked, its USE covers them, and DEV = 1 only in OPEN
(R524, R525). -/
def ownerUsable (c : Sec) (o : Signed) (n : Nat) : Bool :=
  let k := ownerKey c n
  ownerAccepted c.lc && k.written && !k.revoked && k.use.getLsbD (useBit o) && (!k.dev || c.lc == 1)

/-- Whether a key is accepted for an object (R525). -/
def keyAccepted (c : Sec) (o : Signed) (keyId : Nat) : Bool :=
  if keyId < 2 then fixedAccepted c.lc o keyId
  else decide (0x100 ≤ keyId) && decide (keyId < 0x108) && ownerUsable c o (keyId - 0x100)

/-- Whether a signature verifies under a key (R525). -/
def sigHolds (c : Sec) (o : Signed) (keyId : Nat) (msg sig : List Byte) : Bool :=
  keyAccepted c o keyId &&
    (if keyId < 2 then Config.fixedKeyVerifies keyId (Config.sha384 msg) sig
     else Config.verifies (ownerKey c (keyId - 0x100)).key (Config.sha384 msg) sig)

/-- Whether a signature verifies under some accepted key: an object that names none (R160, R525, R557). -/
def sigAny (c : Sec) (o : Signed) (msg sig : List Byte) : Bool :=
  ((List.range 2) ++ (List.range 8).map (· + 0x100)).any (fun k => sigHolds c o k msg sig)

/-- The bytes of a key, from its low byte on. -/
def keyBytes (k : BitVec 256) : List Byte := leBytes 32 k.toNat

/-- Decrypt 16-byte block by block with AES-256-CTR: `ctr` gives the counter block of each (R532, R533). -/
def ctrCrypt (key : BitVec 256) (ctr : Nat → List Byte) (bs : List Byte) : List Byte :=
  (List.range bs.length).map (fun i => lget 0 bs i ^^^ lget 0 (Config.aes256 key (ctr (i / 16))) (i % 16))

/-- The counter block of AES block k of shard line j (R532). -/
def shardCtr (idx j k : Nat) : List Byte := leBytes 2 idx ++ List.replicate 6 0 ++ leBytes 8 (8 * j + k)
/-- A shard's byte in plain text: line 0 as stored, every other line decrypted (R532). -/
def shardPlain (key : BitVec 256) (idx : Nat) (r : Rd) : Rd := fun o =>
  if o < 128 then r o
  else r o ^^^ lget 0 (Config.aes256 key (shardCtr idx (o / 128) (o % 128 / 16))) (o % 16)

/-- A weight key (R523). -/
def weightKey (c : Sec) (id : Nat) : Option (BitVec 256) := sget none c.weights id
/-- A tenant's seal key (R523). -/
def sealKey (c : Sec) (tenant : Nat) : Option (BitVec 256) := sget none c.seals tenant

/-- A SHA-384 digest as bytes in order, most significant first. -/
def digestBytes (d : BitVec 384) : List Byte := (leBytes 48 d.toNat).reverse

end Sys2Proof.Machine
end

