-- ==== Sys2Proof/Machine/Residency.lean ====
section
/-! DEFINITION. Residency: deliveries and their checks, the library, loads, swaps, refreshes, evictions and retention
(R154-R173, R487). -/

namespace Sys2Proof.Machine

/-! ### Deliveries (R157-R160, R487, R532) -/

/-- SHARD_BEGIN: opens a library delivery; BUSY while one is open, BAD for a span number that names none (R487). -/
def execShardBegin (sess : SessId) (manLen : BitVec 32) (shardLen : Word) (pin dist : Bool) (span : Byte) (s : State) :
    Host.Outcome State Fault Refusal :=
  .next (gated (resGate s (some sess)) s (
    if s.delivery.isSome then answerCode s 3
    else if dist ∧ (sget none s.pod.spans span.toNat).isNone then answerCode s 1
    else answerCode { s with delivery := some ⟨sess.toNat, pin, if dist then some span.toNat else none, manLen.toNat, shardLen.toNat,
      [], [], 0⟩ } 0))

/-- Bytes of a delivery at an offset: manifest bytes first, then the shard. -/
def deliver1 (d : Delivery) (off : Nat) (bs : List Byte) : Delivery :=
  let a := bs.take (d.manLen - off)
  let b := bs.drop (d.manLen - off)
  { d with manifest := bytesPut d.manifest off a, shard := bytesPut d.shard (off - d.manLen) b, got := d.got + bs.length }

/-- SHARD_DATA: bytes of the delivery in progress (R487). -/
def execShardData (sess : SessId) (off : Word) (bytes : List Byte) (s : State) : Host.Outcome State Fault Refusal :=
  .next (gated (resGate s (some sess)) s (
    match s.delivery with
    | none => answerCode s 5
    | some d =>
      if d.sess ≠ sess.toNat then answerCode s 5
      else if d.manLen + d.shardLen < off.toNat + bytes.length then answerCode s 1
      else answerCode { s with delivery := some (deliver1 d off.toNat bytes) } 0))

/-- The manifest's length for its NSHARD (R157). -/
def manifestLen (nshard : Nat) : Nat := 0x20 + 64 * nshard + 96
/-- Whether the layout of a manifest holds (R157). -/
def manifestOk (r : Rd) (len : Nat) : Bool :=
  let n := rdLe r 6 2
  rdLe r 0 4 == 0x4B57504D && rdLe r 4 2 == 1 && decide (1 ≤ n) && decide (n ≤ 64) && decide (len = manifestLen n)
/-- Whether the signature of a manifest holds (R157, R525). -/
def manifestSigned (s : State) (r : Rd) (len : Nat) : Bool :=
  sigAny s.sec .weight (rdBytes r 0 (len - 96)) (rdBytes r (len - 96) 96)

/-- The TILE record of a logical tile in the selected profile's variant of a region. -/
def profTile (i : Image) (prof id lx ly : Nat) : Option ImgTile :=
  let n := regIndex i id
  (varOf i prof n).bind (fun v => if lx < v.lw ∧ ly < v.lh then i.tiles[v.tileFirst + ly * v.lw + lx]? else none)
/-- Whether every line of a run lies in a resident window that a logical tile declares (R159, R250). -/
def inResident (ir : Rd) (i : Image) (prof id lx ly base n : Nat) : Bool :=
  match profTile i prof id lx ly with
  | none => false
  | some t =>
    let ws := (winEntries ir i t.win).map (fun e => winDecode e.2 Win.none)
    (List.range n).all (fun j => ws.any (fun w => w.typ == 2 && winHas w (BitVec.ofNat 16 (base + j))))

/-- Whether a shard agrees with its manifest and the image: identifiers, versions, counts and resident lines (R159, R160). -/
def shardAgrees (s : State) (i : Image) (x : ImgModel) (mr r : Rd) : Bool :=
  let tabs := shardSlices r
  let nm := i.macros.countP (fun e => e.m == x.m)
  rdLe mr 8 8 == x.id.toNat && rdLe mr 0x10 4 == x.ver.toNat && rdLe mr 6 2 == i.hdr.spanSize &&
    rdLe r 0 4 == 0x4B575348 && rdLe r 4 2 == i.hdr.spanPos && rdLe r 8 8 == x.id.toNat && rdLe r 0x10 4 == x.ver.toNat &&
    tabs.length == x.nslice && rdLe r 0x14 4 == nm &&
    tabs.all (fun t => t.n == (sliceEntries i x.m t.id).length) &&
    (resRecs r).all (fun y => decide (1 ≤ y.n) &&
      inResident (imageRd s activeAddr) i s.load.activeProf.toNat y.region y.lx y.ly y.base y.n)

/-- Whether every page tag and every resident-data CRC of a shard holds (R158-R160). -/
def shardTags (r : Rd) : Bool :=
  (List.range (rdLe r 0x14 4)).all (fun k => (List.range 144).all (fun p => mrecTag r k p)) &&
    (resRecs r).all (fun y => (crc32c (rdBytes r (128 * y.at_) (128 * y.n))).toNat == y.crc)

/-- The level sum of a block of a column over the data pages of a macro record (R147). -/
def blockLevels (r : Rd) (k j c : Nat) : Nat :=
  ((List.range 32).map (fun i => levelAt (lineBits (mrecPage r k (32 * j + i))) c)).sum
/-- Whether the paired bands of a macro record keep the bound 63 (R73, R147). -/
def pairsOk (r : Rd) (k : Nat) : Bool :=
  let pair := rdLe r (128 * mrecLine r k + 7) 1
  (List.range 512).all (fun c => !pair.testBit (c / 64) || (List.range 4).all (fun j => decide (blockLevels r k j c ≤ 63)))
/-- Whether every macro record of a shard keeps it. -/
def shardPairs (r : Rd) : Bool := (List.range (rdLe r 0x14 4)).all (pairsOk r)

/-- What the checks of R160 find in a delivery: the reason code, 0 for none, with the model and the plain shard. -/
def shardVerdict (s : State) (d : Delivery) : Nat × Option ImgModel × Rd :=
  let mr : Rd := fun o => sget 0 d.manifest o
  let raw : Rd := fun o => sget 0 d.shard o
  let model := s.load.img.bind (fun i => i.models.find? (fun x => x.id.toNat == rdLe mr 8 8))
  let pos := match s.load.img with | some i => i.hdr.spanPos | none => 0
  let ent := 0x20 + 64 * pos
  let enc := decide (rdLe mr 0x14 4 % 2 = 1)
  let key := weightKey s.sec (rdLe mr (ent + 58) 2)
  let r : Rd := match enc, key with
    | true, some k => shardPlain k (rdLe mr (ent + 56) 2) raw
    | _, _ => raw
  if !manifestOk mr d.manLen ∨ !manifestSigned s mr d.manLen ∨ (enc ∧ key.isNone) then (1, model, r)
  else if rdLe mr ent 8 ≠ d.shardLen ∨ rdBytes mr (ent + 8) 48 ≠ digestBytes (Config.sha384 (rdBytes raw 0 d.shardLen)) then (2, model, r)
  else match s.load.img, model with
    | some i, some x =>
      if !shardAgrees s i x mr r then (3, model, r)
      else if !shardTags r then (4, model, r)
      else if !shardPairs r then (5, model, r)
      else (0, model, r)
    | _, _ => (3, model, r)

/-! ### The library (R172, R457) -/

/-- The memory dies that anchor BULK regions of a model in the active image, each once (R457). -/
def bulkDies (s : State) (m : Nat) : List Nat :=
  match s.load.img with
  | some i => ((i.regions.filter (fun g => g.role == 4 && g.model == m && decide (16 ≤ g.anchor) && decide (g.anchor < 32))).map
      (fun g => g.anchor - 16)).eraseDups
  | none => []
/-- Allocate the copies of a shard: one on each anchor die of its BULK regions, otherwise one over all dies from die M mod 16
on. -/
def allocCopies (m len : Nat) (s : State) : Option (List (List Nat) × State) :=
  let n := (len + 0x7FFFFF) / 0x800000
  match bulkDies s m with
  | [] => (libTakes false m n (m % 16) [] s).map (fun r => ([r.1], r.2))
  | ds => ds.foldl (fun acc d => acc.bind (fun a => (libTakes true m n d [] a.2).map (fun r => (a.1 ++ [r.1], r.2)))) (some ([], s))

/-- Evict library copies one at a time until a test holds (R172). -/
def evictLibrary (ok : State → Bool) (keep : List Nat) : Nat → State → State
  | 0, s => s
  | n + 1, s =>
    if ok s then s
    else match nextEvict s .library keep with
      | some m => evictLibrary ok keep n (cgWhole (dropLibrary m s))
      | none => s

/-- Write a copy of n bytes into its extents. -/
def copyWrite (r : Rd) (n : Nat) (es : List Nat) (s : State) : State :=
  (List.range ((n + 7) / 8)).foldl (fun acc w =>
    dramWrite acc (copyAddr es (8 * w) / 8) (BitVec.ofNat 64 (leNat ((List.range 8).map (fun b => if 8 * w + b < n then r (8 * w + b) else 0))))) s

/-- Accept a shard into the library: extents are taken, evicting other library copies while space is short, and the copies
written; LIBRARY_FULL where it stays short (R160, R170, R172, R457). -/
def acceptShard (m : Nat) (x : ImgModel) (d : Delivery) (r : Rd) (s : State) : State :=
  let old := residAt s m
  let s0 := old.lib.foldl (fun acc es => extFree es acc) s
  let fits := fun (s : State) => (allocCopies m d.shardLen s).isSome
  let s1 := evictLibrary fits [m] 256 s0
  match allocCopies m d.shardLen s1 with
  | none => resFail m 7 (evictLibrary fits [m] 256 s)
  | some a =>
    let s2 := a.1.foldl (fun acc es => copyWrite r d.shardLen es acc) a.2
    residUpd m (fun e => { e with
      id := x.id, ver := x.ver, st := if e.st = .free then .library else e.st, pin := e.pin || d.pin, blocked := false
      lastErr := 0, manifest := bytesAt d.manifest 0 d.manLen, shardLen := d.shardLen, lib := a.1 }) s2

/-- SHARD_CHECK: a completed delivery is checked and accepted into the library, or rejected (R160). RES_CPL tells the sender;
with no model of the image to name, its M is 0. A delivery for a span is distributed instead (R510). -/
def execShardCheck (s : State) : Host.Outcome State Fault Refusal :=
  match s.delivery with
  | none => .next s
  | some d =>
    if d.got < d.manLen + d.shardLen ∨ d.span.isSome then .next s
    else
      let v := shardVerdict s d
      let s1 := { s with delivery := none }
      match v.2.1 with
      | none => .next (klpSend d.sess true 0x33 (fields [(12, v.1), (16, (frameCtr s).toNat)]) [] s1)
      | some x =>
        let s2 := if v.1 = 0 then cgWhole (acceptShard x.m x d v.2.2 s1) else resFail x.m v.1 s1
        .next (resCpl x.m 0 d.sess s2)

/-- The MiB of LIBRARY extents that the dies can still take. -/
def libSpace (s : State) : Nat :=
  8 * ((List.range 16).map (fun n =>
    let d := mdAt s n
    min (d.libMax.toNat - classCount d 2) (64944 - d.ext.countP (fun e => decide (592 ≤ e.1) && extClass e.2 != 0)))).sum

/-- LIBRARY_EVICTION: library copies are evicted until the named space, in MiB, is free (R172). -/
def execLibraryEviction (need : BitVec 32) (s : State) : Host.Outcome State Fault Refusal :=
  .next (evictLibrary (fun s => decide (need.toNat ≤ libSpace s)) [] 256 s)

/-- MODEL_EVICTION: resident models are evicted until the named number of tiles is free (R171). -/
def execModelEviction (need : BitVec 13) (s : State) : Host.Outcome State Fault Refusal :=
  .next (evictUntil (fun s => decide (need.toNat ≤ freeSites s)) 256 s)

/-- LIBRARY_COPY_MIGRATION: after an image load, a model's library copy is copied to the anchor dies of its BULK regions, or
over all dies when it has none (R457). -/
def execLibraryCopyMigration (m : Byte) (s : State) : Host.Outcome State Fault Refusal :=
  let r := residAt s m.toNat
  if r.lib.isEmpty then .next s
  else
    match allocCopies m.toNat r.shardLen s with
    | none => .next (resFail m.toNat 7 s)
    | some a =>
      let rd := libRd s r
      let s1 := a.1.foldl (fun acc es => copyWrite rd r.shardLen es acc) a.2
      let s2 := r.lib.foldl (fun acc es => extFree es acc) s1
      .next (residUpd m.toNat (fun e => { e with lib := a.1 }) s2)

/-! ### Loads (R153, R166, R170, R332, R342) -/

/-- A tag mismatch on a read of a library copy: counted at its die, reported, and LAST_ERR = 4 (R453). -/
def tagFail (m die : Nat) (s : State) : State :=
  let d := mdAt s die
  let s1 := mdPut s die { d with tag := satInc d.tag, tagM := BitVec.ofNat 8 m }
  resFail m 4 (sendRpt s1 (8080 + die) 0x11 (BitVec.ofNat 64 (8080 + die)) [BitVec.ofNat 64 m])
/-- The die that holds the first page of a model's library copy whose tag fails, among the records of its slices. -/
def badTag (s : State) (m : Nat) : Option Nat :=
  let r := residAt s m
  let rd := libRd s r
  ((List.range (rdLe rd 0x14 4)).flatMap (fun k => (List.range 144).map (fun p => (k, p)))).findSome? (fun kp =>
    let o := 128 * (mrecLine rd kp.1 + 1 + kp.2)
    let a := copyAddr (lget [] r.lib 0) o
    if !mrecTag rd kp.1 kp.2 ∨ (List.range 16).any (fun w => dramBad s (a + 8 * w)) then some (dramDie a) else none)

/-- The trowel's latest operation and its result (R345). -/
def plcOp (op res : Nat) (s : State) : State :=
  { s with plc := { s.plc with lastOp := BitVec.ofNat 3 op, lastRes := BitVec.ofNat 4 res } }

/-- Whether a course holds a slice of a resident model. -/
def courseLive (s : State) (i : Image) (q : Nat) : Bool :=
  s.resid.any (fun e => !e.2.slices.isEmpty && (ownPipes i s e.1).contains q)

/-- Place a pipeline's course that leaves the wafer with its model; resident models are evicted while it does not fit. A
course marked for rotation that is not in use is placed again, off its present tiles (R332, R342, R343). -/
def placePipe (i : Image) (prof q : Nat) (acc : Option State) : Option State :=
  acc.bind (fun s =>
    match s.plc.courses.find? (fun c => c.pipe == q) with
    | some c =>
      if c.rotate ∧ !courseLive s i q then
        match searchCourse s (fencedFor s) i prof q s.plc.courses with
        | some d => some (plcOp 5 0 (storeSites i (courseSites c ++ courseSites d)
            { s with plc := { s.plc with courses := s.plc.courses.filter (fun e => e.pipe != q) ++ [d], gen := s.plc.gen + 1 } }))
        | none => some s
      else some s
    | none =>
      let find := fun (s : State) => searchCourse s (fencedFor s) i prof q s.plc.courses
      let s1 := evictUntil (fun s => (find s).isSome) 256 s
      match find s1 with
      | some c => some (plcOp 2 0 (sendCalendars i (storeSites i (courseSites c)
          { s1 with plc := { s1.plc with courses := s1.plc.courses ++ [c], gen := s1.plc.gen + 1 } })))
      | none => none)

/-- Start the load of a library model: its tags and pairs are checked, its courses placed, its macros chosen; then it is
LOADING. A failure sets LAST_ERR (R147, R153, R170, R171). -/
def loadModel (m : Nat) (s : State) : State :=
  match imgModel s m with
  | none => resFail m 3 s
  | some ix =>
    let r := residAt s m
    let rd := libRd s r
    if r.id ≠ ix.2.id ∨ r.ver ≠ ix.2.ver then resFail m 3 s
    else match badTag s m with
      | some d => tagFail m d s
      | none =>
        if !shardPairs rd then resFail m 5 s
        else
          match (ownPipes ix.1 s m).foldl (fun acc q => placePipe ix.1 s.load.activeProf.toNat q acc) (some s) with
          | none => plcOp 2 1 (resFail m 6 (evictUntil (fun _ => false) 256 s))
          | some s1 =>
            match planSlices s1 ix.1 s1.plc.courses (selNow s1) m rd (modelSlices ix.1 m) with
            | none => resFail m 6 s1
            | some sls => residUpd m (fun r => { r with st := .loading, slices := sls, lastErr := 0 }) s1

/-- A residency request of an operator for a model in one of the states that it applies to; otherwise STATE. -/
def resReq (sess : SessId) (m op : Nat) (ok : Resid → Bool) (s : State) (body : State → State) : State :=
  gated (resGate s (some sess)) s (
    if ok (residAt s m) then body (answerCode (residUpd m (fun r => { r with req := some (sess.toNat, op), lastErr := 0 }) s) 0)
    else answerCode s 5)

/-- The request ends now unless work on it goes on. -/
def endUnless (m : Nat) (st : ResState) (s : State) : State := if (residAt s m).st = st then s else resEnd m s

/-- RES_LOAD: a library model is to become resident (R170). -/
def execResLoad (sess : SessId) (m : Byte) (s : State) : Host.Outcome State Fault Refusal :=
  .next (resReq sess m.toNat 1 (fun r => r.st == .library) s (fun s => endUnless m.toNat .loading (loadModel m.toNat s)))

/-- RES_EVICT: a model without streams that is not pinned leaves the fabric, or the library (R170). -/
def execResEvict (sess : SessId) (m : Byte) (s : State) : Host.Outcome State Fault Refusal :=
  let ok := fun (r : Resid) => (r.st == .resident || r.st == .library) && !r.pin && modelStreams s m.toNat == 0
  .next (resReq sess m.toNat 3 ok s (fun s =>
    let s1 := residUpd m.toNat (fun r => { r with req := none }) s
    let s2 := if (residAt s1 m.toNat).st = .resident then evictModel m.toNat s1 else cgWhole (dropLibrary m.toNat s1)
    resCpl m.toNat 3 sess.toNat s2))

/-- RES_PIN: PIN is set (R487). -/
def execResPin (sess : SessId) (m : Byte) (s : State) : Host.Outcome State Fault Refusal :=
  .next (resReq sess m.toNat 5 (fun r => r.st != .free) s (fun s => resEnd m.toNat (residUpd m.toNat (fun r => { r with pin := true }) s)))
/-- RES_UNPIN: PIN is cleared (R487). -/
def execResUnpin (sess : SessId) (m : Byte) (s : State) : Host.Outcome State Fault Refusal :=
  .next (resReq sess m.toNat 6 (fun r => r.st != .free) s (fun s => resEnd m.toNat (residUpd m.toNat (fun r => { r with pin := false }) s)))

/-! ### Swaps (R162-R168, R249) -/

/-- The primaries of the stacks whose regions carry a layer group. -/
def groupPrims (i : Image) (m : Nat) (g : ImgGroup) : List Nat :=
  (((List.range i.regions.length).filter (fun n => (regAt i n).any (fun r =>
    r.role == 1 && r.model == m && decide (g.first ≤ r.firstSlice) && decide (r.firstSlice < g.first + g.n)))).map (primaryOf i)).eraseDups
/-- A placed member of a stack that is not live. -/
def spareMember (s : State) (i : Image) (prim : Nat) : Option Nat :=
  (List.range (stackOf i prim).length).find? (fun k => k != liveMember s prim &&
    (placedOf s.plc.courses (lget prim (stackOf i prim) k)).isSome)
/-- The member selection after a staged swap of groups; none where a stack has no free alternate (R166, R328). -/
def stagedSel (s : State) (i : Image) (m : Nat) (gs : List ImgGroup) : Option (List (Nat × Nat)) :=
  ((gs.flatMap (groupPrims i m)).eraseDups).mapM (fun p => (spareMember s i p).map (fun k => (p, k)))
/-- A selection as a function. -/
def selWith (s : State) (l : List (Nat × Nat)) : Nat → Nat := fun p =>
  match l.find? (fun x => x.1 == p) with
  | some x => x.2
  | none => liveMember s p

/-- The slices of groups. -/
def groupSlices (gs : List ImgGroup) : List Nat := gs.flatMap (fun g => (List.range g.n).map (fun k => g.first + k))

/-- Rewrite the main stencil of every tile of a course that a new selection changes (R249). -/
def switchStencils (i : Image) (old new : Nat → Nat) (c : Course) (s : State) : State :=
  (courseSites c).foldl (fun acc z =>
    match tileOf i acc.plc.courses z with
    | none => acc
    | some x =>
      match tileRec i x.2.1 x.2.2.1 x.2.2.2 with
      | none => acc
      | some nr =>
        let a := mainStencil i old nr.2
        let b := mainStencil i new nr.2
        if a = b then acc
        else
          let r := imageRd acc activeAddr
          let sl := slotStore r i b.2 nr.2.slot1
          let t := tileAt acc z
          tilePut acc z { t with seq := { t.seq with prog0 := blobStore r i b.1 4096 },
                                 mesh := { t.mesh with slots := sl.1, sets := sl.2 } }) s

/-- Whether a course of a model has a failed tile in a region: it waits to be placed again (R337). -/
def courseBroken (s : State) (m : Nat) : Bool :=
  match s.load.img with
  | none => false
  | some i => s.plc.courses.any (fun c => (modelPipes s m).contains c.pipe && c.regs.any (fun p => (regSites i p).any (fencedFor s)))
/-- A model's state after a swap or repair of slices: DEGRADED while one is not resident, SWAPPING while a request has more
to do, otherwise RESIDENT, which ends the request (R170). -/
def settleModel (m : Nat) (s : State) : State :=
  let r := residAt s m
  let st : ResState := if r.slices.any (fun sl => !sl.resident) || courseBroken s m then .degraded
    else if r.req.isSome && r.slices.any (fun sl => sl.due) then .swapping else .resident
  let s1 := residUpd m (fun r => { r with st := st }) s
  if st = .resident then resEnd m s1 else s1

/-- Enter new slices in place of the old ones of the same numbers: live, resident, age 0, no refresh due. -/
def enterSlices (news : List Slice) (r : Resid) : Resid :=
  let enter : Slice → Slice := fun o =>
    match news.find? (fun n => n.id == o.id) with
    | some n => { n with resident := true, due := false, age := 0 }
    | none => o
  { r with
    slices := r.slices.map enter
    blocked := r.blocked && (r.slices.any (fun o => o.due && !news.any (fun n => n.id == o.id))) }

/-- A staged swap of groups: the copy is built on the alternates, prepared and switched, the held lanes are handed over for
the largest HANDOVER_BEATS, and the history entry is committed (R163, R167). -/
def stagedSwap (i : Image) (m : Nat) (gs : List ImgGroup) (s : State) : State :=
  let r := residAt s m
  let rd := libRd s r
  match stagedSel s i m gs with
  | none => resFail m 6 s
  | some sl =>
    let new := selWith s sl
    match planSlices s i s.plc.courses new m rd (groupSlices gs) with
    | none => resFail m 6 s
    | some news =>
      let olds := r.slices.filter (fun o => news.any (fun n => n.id == o.id))
      let s1 := news.foldl (fun acc n => buildSlice i rd n acc) s
      let s2 := s.plc.courses.foldl (fun acc c => switchStencils i (selNow s) new c acc) s1
      let s3 := { s2 with load := { s2.load with members := sl.foldl (fun mp x => sset 0 mp x.1 x.2) s2.load.members } }
      let s4 := olds.foldl (fun acc o => dropStores o (deadSlice o acc)) s3
      let s5 := news.foldl (fun acc n => restoreSlice n (liveSlice i n acc)) s4
      let first := (groupSlices gs).headD 0
      let s6 := onHist (fun h => { h with swaps := h.swaps.filter (fun e => !(e.m == m && e.first == first)) ++ [⟨m, first, true⟩] }) s5
      let s7 := cgWhole (residUpd m (enterSlices news) s6)
      let beats := (gs.map ImgGroup.beats).foldl max 1
      let s8 := (modelPipes s7 m).foldl (fun acc q =>
        holdFor q beats (onGrid (fun g => { g with handover := if g.handover.contains q then g.handover else g.handover ++ [q] }) (holdPipe q acc))) s7
      settleModel m s8

/-- Replace the WORN macros of a slice by others of their tile and tier; none where one has no other (R80, R153). -/
def replaceWorn (s : State) (sl : Slice) : Option (List SliceMacro) :=
  (sl.macros.foldl (fun acc z =>
    if (mtGet (fabAt s z.site) (macIx z)).worn then takeMacro s z.site z.tier (tierMacros z.tier) z.lmac z.logical acc
    else acc.map (fun a => (a.1 ++ [z], a.2))) (some ([], []))).map Prod.fst

/-- An in-place swap of a slice: unassigned under a hold, erased and programmed again, and assigned by commit (R165). -/
def inPlaceSwap (i : Image) (m id : Nat) (s : State) : State :=
  let r := residAt s m
  match r.slices.find? (fun o => o.id == id) with
  | none => s
  | some o =>
    let rd := libRd s r
    let s1 := cgWhole (dropStores o (deadSlice o (holdAll (modelPipes s m) s)))
    let at_ := lineSites i s1.plc.courses (selNow s1) (sliceLines i rd id)
    match replaceWorn s1 o, planStores s1 at_ [] with
    | some ms, some st =>
      let n : Slice := ⟨id, ms, st.1, at_, 0, true, false⟩
      let s2 := restoreSlice n (liveSlice i n (buildSlice i rd n s1))
      endAll (modelPipes s m) (settleModel m (cgWhole (residUpd m (enterSlices [n]) s2)))
    | _, _ =>
      let s2 := residUpd m (sliceUpd id (fun o => { o with resident := false })) (resFail m 8 s1)
      settleModel m s2

/-- The group of a model that holds a slice. -/
def groupOf (x : ImgModel) (id : Nat) : Option ImgGroup :=
  x.groups.find? (fun g => decide (g.first ≤ id) && decide (id < g.first + g.n))

/-- Whether a model may be swapped now: resident in some form, with a library copy. -/
def canSwap (r : Resid) : Bool := (r.st == .resident || r.st == .swapping || r.st == .degraded) && !r.lib.isEmpty

/-- STAGED_SWAP: a layer group is swapped through its alternates (R163). -/
def execStagedSwap (m : Byte) (group : Byte) (s : State) : Host.Outcome State Fault Refusal :=
  match imgModel s m.toNat with
  | none => .next s
  | some ix =>
    match ix.2.groups[group.toNat]? with
    | none => .next s
    | some g => if canSwap (residAt s m.toNat) then .next (stagedSwap ix.1 m.toNat [g] s) else .next s

/-- IN_PLACE_SWAP: a slice is swapped in place (R165). -/
def execInPlaceSwap (m : Byte) (slice : BitVec 16) (s : State) : Host.Outcome State Fault Refusal :=
  match imgModel s m.toNat with
  | none => .next s
  | some ix => if canSwap (residAt s m.toNat) then .next (inPlaceSwap ix.1 m.toNat slice.toNat s) else .next s

/-- REFRESH: a due refresh reprograms its slice, by staged swap where the group has a free alternate and in place otherwise;
it is blocked without a library copy (R156, R166). -/
def execRefresh (m : Byte) (slice : BitVec 16) (s : State) : Host.Outcome State Fault Refusal :=
  let r := residAt s m.toNat
  match imgModel s m.toNat, r.slices.find? (fun o => o.id == slice.toNat) with
  | some ix, some o =>
    if !o.due then .next s
    else if r.lib.isEmpty then .next (refreshDue m.toNat slice.toNat s)
    else
      match groupOf ix.2 slice.toNat with
      | some g =>
        if (stagedSel s ix.1 m.toNat [g]).isSome then .next (stagedSwap ix.1 m.toNat [g] s)
        else .next (inPlaceSwap ix.1 m.toNat slice.toNat s)
      | none => .next (inPlaceSwap ix.1 m.toNat slice.toNat s)
  | _, _ => .next s

/-- RES_SWAP: a resident model is to be reprogrammed from the library copy of a version. With ATOMIC, every group is built
before one switch; without it the groups follow one another. A request that may not use the in-place form needs an alternate
for every group (R166, R167, R487). -/
def execResSwap (sess : SessId) (m : Byte) (atomic noInPlace : Bool) (ver : BitVec 32) (s : State) :
    Host.Outcome State Fault Refusal :=
  .next (resReq sess m.toNat 2 (fun r => r.st == .resident) s (fun s =>
    match imgModel s m.toNat with
    | none => resEnd m.toNat (resFail m.toNat 3 s)
    | some ix =>
      let r := residAt s m.toNat
      if r.lib.isEmpty ∨ r.ver ≠ ver then resEnd m.toNat (resFail m.toNat 3 s)
      else if atomic then
        let s1 := stagedSwap ix.1 m.toNat ix.2.groups s
        if (residAt s1 m.toNat).lastErr = 0 then s1 else resEnd m.toNat s1
      else if noInPlace ∧ (stagedSel s ix.1 m.toNat ix.2.groups).isNone then resEnd m.toNat (resFail m.toNat 6 s)
      else residUpd m.toNat (fun r => { r with st := .swapping, slices := r.slices.map (fun o => { o with due := true }) }) s))

/-- RES_REFRESH: a refresh of every slice of a resident model falls due; without a library copy it is blocked (R155, R156). -/
def execResRefresh (sess : SessId) (m : Byte) (s : State) : Host.Outcome State Fault Refusal :=
  .next (resReq sess m.toNat 4 (fun r => r.st == .resident || r.st == .degraded) s (fun s =>
    let r := residAt s m.toNat
    let s1 := r.slices.foldl (fun acc o => refreshDue m.toNat o.id acc) s
    if r.lib.isEmpty then resEnd m.toNat s1
    else residUpd m.toNat (fun r => { r with st := if r.st = .resident then .swapping else r.st }) s1))

/-! ### Retention and wear (R154-R156, R343) -/

/-- The greatest number whose n-th power is at most x, among numbers of k + 1 bits. -/
def rootOf (n x : Nat) : Nat → Nat → Nat
  | 0, acc => if (acc + 1) ^ n ≤ x then acc + 1 else acc
  | k + 1, acc => if (acc + 2 ^ (k + 1)) ^ n ≤ x then rootOf n x k (acc + 2 ^ (k + 1)) else rootOf n x k acc
/-- 2^20 × 2^((T − 85) ÷ 10), rounded down, for a temperature in sixteenths of a degree (R154). -/
def ageStep (t16 : Nat) : Nat := rootOf 160 (2 ^ (3200 + t16 - 1360)) 26 0
/-- The highest tier temperature among the blocks of a slice, in sixteenths of a degree, at least 35 degrees. -/
def sliceTemp (s : State) (sl : Slice) : Nat :=
  (sl.macros ++ sl.stores).foldl (fun m z => max m (sget 0 s.cal.temps (blockOf z.site)).toNat) 560
/-- A number of days as a retention age. -/
def ageDays (n : Nat) : Nat := n * 86400 * 2 ^ 20

/-- One slice ages by a second: a refresh falls due at 30 days, and at 45 it is lost (R154, R156). -/
def ageSlice (m id : Nat) (s : State) : State :=
  match (residAt s m).slices.find? (fun o => o.id == id) with
  | none => s
  | some o =>
    if !o.resident then s
    else
      let a := o.age + ageStep (sliceTemp s o)
      let s1 := residUpd m (sliceUpd id (fun o => { o with age := a })) s
      let s2 := if ageDays 30 ≤ a ∧ !o.due then refreshDue m id s1 else s1
      if ageDays 45 ≤ a then degradeSlice m id s2 else s2

/-- The wear of a tile: the mean erase count of its assigned macros, as a sum and a count (R343). -/
def tileWear (s : State) (site : Nat) : Nat × Nat :=
  let es := (fabAt s site).mt.filter (fun e => e.2.fmt != 0)
  ((es.map (fun e => e.2.erases)).sum, es.length)
/-- The mean wear over all exposed tiles. -/
def meanWear (s : State) : Rat :=
  let ts := s.grid.tiles.filter (fun t => s.grid.exposed.getLsbD t.1)
  if nexp s = 0 then 0
  else (ts.map (fun t => let w := tileWear s t.1; if w.2 = 0 then (0 : Rat) else (w.1 : Rat) / (w.2 : Rat))).sum / (nexp s : Rat)
/-- Whether a course holds a tile that marks it for rotation (R343). -/
def wornCourse (s : State) (mean : Rat) (c : Course) : Bool :=
  (courseSites c).any (fun z =>
    let w := tileWear s z
    w.2 != 0 && decide (mean + (s.plc.rotThresh.toNat : Rat) ≤ (w.1 : Rat) / (w.2 : Rat)))
/-- Mark the courses that are to be rotated. -/
def markWear (s : State) : State :=
  if s.plc.wearRotEn then
    let mean := meanWear s
    { s with plc := { s.plc with courses := s.plc.courses.map (fun c => { c with rotate := c.rotate || wornCourse s mean c }) } }
  else s

/-- RETENTION_TICK: a second passes for every resident slice, and worn courses are marked (R154, R343). -/
def execRetentionTick (s : State) : Host.Outcome State Fault Refusal :=
  .next (markWear (s.resid.foldl (fun acc e => e.2.slices.foldl (fun acc o => ageSlice e.1 o.id acc) acc) s))

end Sys2Proof.Machine
end

