-- ==== Sys2Proof/Machine/Calibration.lean ====
section
/-! DEFINITION. Calibration of the fabric: trims and their periods, and the runs that measure them (R175-R189). -/

namespace Sys2Proof.Machine

/-- Change the calibration state. -/
def onCal (f : Cal → Cal) (s : State) : State := { s with cal := f s.cal }

/-- The fields of CAL_CMD that the run in progress was started with (R191). -/
def runField (c : Cal) (lo n : Nat) : Nat := (c.run.getD 0).toNat / 2 ^ lo % 2 ^ n
/-- WHAT of the run: bit 0 converters, bit 1 references. -/
def runWhat (c : Cal) : BitVec 2 := BitVec.ofNat 2 (runField c 1 2)
/-- SET of the run. -/
def runSet (c : Cal) : BitVec 3 := BitVec.ofNat 3 (runField c 3 3)
/-- SCOPE of the run. -/
def runScope (c : Cal) : BitVec 2 := BitVec.ofNat 2 (runField c 6 2)
/-- MODEL of the run. -/
def runModel (c : Cal) : Byte := BitVec.ofNat 8 (runField c 8 8)
/-- SITE of the run. -/
def runSite (c : Cal) : BitVec 13 := BitVec.ofNat 13 (runField c 16 13)
/-- MACRO of the run. -/
def runMac (c : Cal) : BitVec 13 := BitVec.ofNat 13 (runField c 29 13)
/-- HOLD of the run. -/
def runHold (c : Cal) : Bool := runField c 42 1 == 1

/-! ### Trims (R175, R176) -/

/-- A macro of the module: site × 8,192 + tier × 1,024 + macro. -/
def macKey (site m : Nat) : Nat := site * 8192 + m
/-- The key of trim ix of a macro: OFS of converter v of group g at g × 129 + v, GAIN 1,032 further, REFn of band b at
2,064 + 3b + n − 1. -/
def trimKey (site m ix : Nat) : Nat := macKey site m * 4096 + ix
/-- OFS of a converter. -/
def ixOfs (g v : Nat) : Nat := g * 129 + v
/-- GAIN of a converter. -/
def ixGain (g v : Nat) : Nat := 1032 + g * 129 + v
/-- REFn of a band, by 3b + n − 1. -/
def ixRef (j : Nat) : Nat := 2064 + j
/-- A trim at manufacture: OFS and GAIN 0, REF1 to REF3 evenly spaced (the model's choice). -/
def trimFresh (key : Nat) : TrimVal :=
  let ix := key % 4096
  let v : Int := if ix < 2064 then 0 else 32 + 64 * ((ix - 2064) % 3 : Nat)
  ⟨List.replicate 5 v, v, v⟩
/-- A trim. -/
def trimAt (c : Cal) (key : Nat) : TrimVal := sget (trimFresh key) c.trims key
/-- Store a trim. -/
def trimPut (c : Cal) (key : Nat) (t : TrimVal) : Cal := { c with trims := sset (trimFresh key) c.trims key t }
/-- The calibration block of a trim or macro key. -/
def keyBlock (mk : Nat) : Nat := blockOf (mk / 8192)

/-! ### Trim periods (R178-R180) -/

/-- Clamp a temperature in 1/16 °C to 35.0-95.0 °C (R178). -/
def clampT (t : Int) : Int := max 560 (min 1520 t)
/-- The target of a trim at a temperature (R178). -/
def trimTarget (t : TrimVal) (temp : Int) : Int :=
  let x := clampT temp
  let i := min ((x - 560) / 240).toNat 3
  let a := lget 0 t.sets i
  rneDiv (240 * a + (lget 0 t.sets (i + 1) - a) * (x - 560 - 240 * i)) 240
/-- The cycle at which the latest operation of a macro leaves its converters quiet, and whether a trim gap has passed since
a cycle (R180): the macro stands idle, or began its back-to-back run later. -/
def gapSince (f : Fabric) (m from_ now : Nat) : Bool :=
  !f.act.any (fun a => a.2 == m && decide (now < a.1 + 68)) || decide (from_ < sget 0 f.busyFrom m)
/-- Whether no operation is in progress on a macro. -/
def macroIdle (f : Fabric) (m now : Nat) : Bool := !f.act.any (fun a => a.2 == m && decide (now < a.1 + 78))

/-- An applied value moves one LSB toward its target. -/
def stepTrim (t : TrimVal) : TrimVal :=
  { t with applied := if t.applied < t.target then t.applied + 1 else if t.target < t.applied then t.applied - 1 else t.applied }

/-- Settle the steps that waited for a gap in the period that ends: taken, or carried over and counted
(hazard 6 of R325). -/
def settleTrims (s : State) : State :=
  let from_ := cycAt s 0 - 64 * 2048
  s.cal.pend.foldl (fun acc k =>
    let mk := k / 4096
    if gapSince (fabAt acc (mk / 8192)) (mk % 8192) from_ (cycAt s 0) then
      onCal (fun c => { trimPut c k (stepTrim (trimAt c k)) with pend := c.pend.filter (· != k) }) acc
    else
      let site := mk / 8192
      let t := tileAt acc site
      onCal (fun c => { c with defer := satInc c.defer }) (tilePut acc site (hazAdd t 6 (cycAt s 0) 0))) s

/-- Set the targets of the trims from the sampled temperatures; each that differs steps at once on an idle macro, and
otherwise in the next gap. -/
def retarget (s : State) : State :=
  (s.cal.trims.map Prod.fst).foldl (fun acc k =>
    let mk := k / 4096
    let t0 := trimAt acc.cal k
    let t := { t0 with target := trimTarget t0 (sget 0 acc.cal.temps (keyBlock mk)) }
    if t.applied = t.target ∨ acc.cal.pend.contains k then onCal (fun c => trimPut c k t) acc
    else if macroIdle (fabAt acc (mk / 8192)) (mk % 8192) (cycAt s 0) then onCal (fun c => trimPut c k (stepTrim t)) acc
    else onCal (fun c => { trimPut c k t with pend := c.pend ++ [k] }) acc) s

/-- Whether a temperature lies within ±3.0 °C of the set of a run (R182). -/
def inBand (c : Cal) (t : Int) : Bool :=
  let z : Int := 560 + 240 * (runSet c).toNat
  decide (z - 48 ≤ t) && decide (t ≤ z + 48)
/-- Whether a block takes part in the run now: within the band at START and now (R182). -/
def blockIn (c : Cal) (b : Nat) : Bool := inBand c (sget 0 c.startTemps b) && inBand c (sget 0 c.temps b)

/-- A kind, 0 converters and 1 references, of a macro has been measured or skipped. -/
def kindDone (c : Cal) (kind mk : Nat) : Bool := if kind = 0 then c.convDone.contains mk else c.refDone.contains mk
/-- Whether a run still asks for a kind of a macro. -/
def kindOpen (c : Cal) (kind mk : Nat) : Bool := (runWhat c).getLsbD kind && !kindDone c kind mk
/-- Note a kind as done. -/
def kindMark (kind mk : Nat) (c : Cal) : Cal :=
  if kind = 0 then { c with convDone := c.convDone ++ [mk] } else { c with refDone := c.refDone ++ [mk] }
/-- Saturating addition to a 16-bit count. -/
def sat16Add (a : BitVec 16) (n : Nat) : BitVec 16 := if 0xFFFF < a.toNat + n then 0xFFFF else a + BitVec.ofNat 16 n
/-- A macro whose kinds are all done counts as passed when some trim was measured on it and none failed (R193). -/
def passMacro (mk : Nat) (c : Cal) : Cal :=
  if kindOpen c 0 mk || kindOpen c 1 mk || c.bad.contains mk then c
  else if (List.range 2).any (fun k => (runWhat c).getLsbD k && !c.skips.contains (2 * mk + k)) then { c with pass := c.pass + 1 } else c
/-- Skip the kinds of a macro that the run still asks for, as one skip (R182, R183, R185). -/
def skipKinds (kinds : List Nat) (mk : Nat) (c : Cal) : Cal :=
  match kinds.filter (fun k => kindOpen c k mk) with
  | [] => c
  | ks =>
    let c1 := ks.foldl (fun acc k => { kindMark k mk acc with skips := acc.skips ++ [2 * mk + k] }) c
    passMacro mk { c1 with skip := sat16Add c1.skip 1, vals := c1.vals.filter (fun v => v.1 / 4096 != mk),
                           conv := c1.conv.filter (fun x => x / 8 != mk) }
/-- A temperature that leaves the band discards the results not yet stored (R182). -/
def discardOut (s : State) : State :=
  if s.cal.run.isNone then s
  else onCal (fun c =>
    (((c.vals.map (fun (v : Nat × Int) => v.1 / 4096)) ++ c.conv.map (· / 8)).eraseDups).foldl (fun c mk =>
      if blockIn c (keyBlock mk) then c else skipKinds [0] mk c) c) s

/-- The pairs of adjacent calibration blocks (R177). -/
def blockPairs : List (Nat × Nat) :=
  (List.range 56).flatMap (fun b => (if b % 8 = 7 then [] else [(b, b + 1)]) ++ if b < 48 then [(b, b + 8)] else [])
/-- POWER is reported for each pair of adjacent blocks that lie more than 12 °C apart (R593). -/
def tempPairs (s : State) : State :=
  blockPairs.foldl (fun acc p =>
    let d := sget 0 acc.cal.temps p.1 - sget 0 acc.cal.temps p.2
    if 192 < d ∨ d < -192 then svcRpt acc codePower (BitVec.ofNat 64 p.1) [BitVec.ofNat 64 p.2] else acc) s

/-- TRIM_PERIOD: at every boundary whose frame counter is a multiple of 64 the device samples the temperatures, sets the
targets and steps the applied values, and reports adjacent blocks too far apart (R178-R180, R593). `temps` gives the 56 readings in 1/16 °C. -/
def execTrimPeriod (temps : List (BitVec 12)) (s : State) : Host.Outcome State Fault Refusal :=
  if s.frames % 64 ≠ 0 ∨ gridStopped s then .next s
  else
    let s1 := onCal (fun c => { c with temps := stab 0 56 (fun b => (lget 0 temps b).toInt), tempValid := true }) (settleTrims s)
    .next (tempPairs (retarget (discardOut s1)))

/-- A reset sets every applied value to its target (R179). -/
def trimsToTarget (c : Cal) : Cal :=
  { c with pend := [], trims := (c.trims.map Prod.fst).foldl (fun m k =>
      sset (trimFresh k) m k (let t := sget (trimFresh k) m k; { t with applied := t.target })) c.trims }
/-- A reset ends a run (R188, R192). -/
def endRunReset (c : Cal) : Cal :=
  let c1 := { trimsToTarget c with tempValid := false, conv := [], vals := [], run := none }
  if c.busy then { c1 with busy := false, last := 4 } else c1

/-! ### Starting a run (R181-R183, R190, R191) -/

/-- CAL_START: a write of CAL_CMD. START starts a run, or is refused with LAST 3 (R181, R191). -/
def execCalStart (v : Word) (s : State) : Host.Outcome State Fault Refusal :=
  let c := { s.cal with what := v.extractLsb' 1 2, set := v.extractLsb' 3 3, scope := v.extractLsb' 6 2,
                        model := v.extractLsb' 8 8, site := v.extractLsb' 16 13, macroIx := v.extractLsb' 29 13,
                        hold := v.getLsbD 42 }
  if !v.getLsbD 0 then .next { s with cal := c }
  else if s.cal.busy ∨ c.what = 0 ∨ 4 < c.set.toNat then .next { s with cal := { c with last := 3 } }
  else
    .next { s with cal := { c with
      busy := true, run := some v, since := s.frames, pass := 0, fail := 0, skip := 0, failAddr := 0, failGroup := 0
      failReason := 0, failValid := false, marAddr := 0, marMin := 0, marValid := false, conv := [], vals := [], bad := []
      convDone := [], refDone := [], skips := [], startTemps := c.temps } }

/-- Whether a macro lies in the scope of the run (R191). -/
def inRun (s : State) (site m : Nat) : Bool :=
  let c := s.cal
  match (runScope c).toNat with
  | 0 => true
  | 1 => (sliceOf s site m).any (fun z => z.1 == (runModel c).toNat)
  | 2 => site == (runSite c).toNat
  | _ => site == (runSite c).toNat && m == (runMac c).toNat
/-- Whether a run skips a macro when its measurement begins (R182, R183). -/
def runSkips (s : State) (site m : Nat) : Bool :=
  let e := mtGet (fabAt s site) m
  isFenced s site || e.worn || e.busyPe || !blockIn s.cal (blockOf site)

/-! ### Plausibility and storage (R187, R188) -/

/-- A value that failed a check: counted, recorded when the record is free, and reported (R187, R194). -/
def calFail (site m group col reason : Nat) (s : State) : State :=
  let a := fabAddr site m 0 col false
  let s1 := onCal (fun c =>
    let c1 := { c with fail := sat16Add c.fail 1, bad := if c.bad.contains (macKey site m) then c.bad else c.bad ++ [macKey site m] }
    if c1.failValid then c1
    else { c1 with failAddr := a.setWidth 44, failGroup := BitVec.ofNat 3 group, failReason := BitVec.ofNat 4 reason, failValid := true }) s
  sendRpt s1 site 0x0F a [BitVec.ofNat 64 reason]

/-- The stored value of the run's set. -/
def storedOf (c : Cal) (key : Nat) : Int := lget 0 (trimAt c key).sets (runSet c).toNat
/-- Store a new value in the run's set. -/
def storeTrim (c : Cal) (kv : Nat × Int) : Cal :=
  let t := trimAt c kv.1
  trimPut c kv.1 { t with sets := lset t.sets (runSet c).toNat kv.2 }

/-! ### Converters (R184) -/

/-- The least-squares sums of 32 reference conversions, the charges 0, 16, 32 and 48 eight times each: Σy and Σ(x ÷ 16)y. -/
def fitSums (codes : List (BitVec 6)) : Int × Int :=
  ((List.range 32).zip codes).foldl (fun a iy => (a.1 + iy.2.toNat, a.2 + (iy.1 / 8 : Nat) * iy.2.toNat)) (0, 0)
/-- The fitted offset in 1/16 level step and gain error in 1/512 of full scale, as a numerator over 80 and one over 20, and
whether the largest residual is at most 0.75 level step. With X = x ÷ 16 and n = 32: slope b = (ΣXy − 1.5 Σy) ÷ 40, and
a = (7 Σy − 3 ΣXy) ÷ 80, per X. -/
def fitOf (codes : List (BitVec 6)) : Int × Int × Bool :=
  let z := fitSums codes
  let a80 := 7 * z.1 - 3 * z.2          -- 80a, in level steps
  let b80 := 2 * z.2 - 3 * z.1          -- 80 × slope per X of 16 level steps
  let ok := ((List.range 32).zip codes).all (fun iy =>
    let r := 80 * (iy.2.toNat : Int) - a80 - b80 * (iy.1 / 8 : Nat)
    decide (r.natAbs ≤ 60))
  (16 * a80, 32 * b80 - 512 * 80, ok)

/-- The new OFS and GAIN of a converter: its applied trims corrected by the fit, each rounded to its LSB. -/
def newConv (c : Cal) (site m g v : Nat) (codes : List (BitVec 6)) : Int × Int × Bool :=
  let f := fitOf codes
  ((trimAt c (trimKey site m (ixOfs g v))).applied - rneDiv f.1 80,
    (trimAt c (trimKey site m (ixGain g v))).applied - rneDiv f.2.1 80, f.2.2)

/-- The check that a new OFS or GAIN fails, 0 for none (R187). -/
def convReason (c : Cal) (key : Nat) (v : Int) (limit : Nat) (fit : Bool) : Nat :=
  if !fit then 1 else if v < -48 ∨ 47 < v then 2 else if limit < (v - storedOf c key).natAbs then 3 else 0

/-- Keep or reject a measured converter trim. -/
def judgeConv (site m g v key limit : Nat) (x : Int) (fit : Bool) (s : State) : State :=
  match convReason s.cal key x limit fit with
  | 0 => onCal (fun c => { c with vals := c.vals ++ [(key, x)] }) s
  | r => calFail site m g (min 511 (4 * v)) r s

/-- The converters of a macro are all measured: its record is written (R188). -/
def convEnd (mk : Nat) (c : Cal) : Cal :=
  if (List.range 8).all (fun g => c.conv.count (8 * mk + g) == 129) then
    let mine := c.vals.filter (fun v => v.1 / 4096 == mk && decide (v.1 % 4096 < 2064))
    let c1 := mine.foldl storeTrim c
    passMacro mk (kindMark 0 mk { c1 with vals := c1.vals.filter (fun v => !mine.contains v), conv := c1.conv.filter (fun x => x / 8 != mk) })
  else c

/-- Whether the spare converter of a group is in permanent use (R81). -/
def spareUsed (e : MEntry) (g : Nat) : Bool := e.conv.getLsbD (8 * g + 7)

/-- CONVERTER_MEASURE: the next converter of a group, 0 to 127 and then the spare 128, converts the reference charges 0,
16, 32 and 48, eight times each, and its fit is judged. A group whose spare is in permanent use waits for an idle macro
(R182-R187). -/
def execConverterMeasure (site : Site) (mac : MacroIx) (group : BitVec 3) (conv : BitVec 8) (codes : List (BitVec 6)) (s : State) :
    Host.Outcome State Fault Refusal :=
  let m := mac.toNat
  let g := group.toNat
  let v := conv.toNat
  let mk := macKey site m
  let f := fabAt s site
  if !s.cal.busy || !inRun s site m || !kindOpen s.cal 0 mk || gridStopped s then .next s
  else if runSkips s site m then .next (onCal (skipKinds [0, 1] mk) s)
  else if v ≠ s.cal.conv.count (8 * mk + g) ∨ (spareUsed (mtGet f m) g ∧ !macroIdle f m (cycAt s 0)) then .next s
  else
    let n := newConv s.cal site m g v codes
    let s1 := judgeConv site m g v (trimKey site m (ixOfs g v)) 8 n.1 n.2.2 s
    let s2 := judgeConv site m g v (trimKey site m (ixGain g v)) 12 n.2.1 n.2.2 s1
    .next (onCal (fun c => convEnd mk { c with conv := c.conv ++ [8 * mk + g] }) s2)

/-! ### References (R185, R186) -/

/-- The longest run of steps d + 32 around 32 whose bit says that no level differs: (dlo, dhi). -/
def scanRun (mask : BitVec 64) : Int × Int :=
  let down := ((List.range 33).takeWhile (fun i => i == 0 || mask.getLsbD (32 - i))).length - 1
  let up := ((List.range 32).takeWhile (fun i => i == 0 || mask.getLsbD (32 + i))).length - 1
  (-(down : Int), (up : Int))

/-- The new REF of index j = 3b + n − 1 of a macro under scan. -/
def newRef (c : Cal) (site m : Nat) (same : List (BitVec 64)) (j : Nat) : Int :=
  let r := scanRun (lget 0 same j)
  (trimAt c (trimKey site m (ixRef j))).applied + (r.1 + r.2) / 2
/-- The margin of a reference. -/
def refMargin (same : List (BitVec 64)) (j : Nat) : Nat := (let r := scanRun (lget 0 same j); (r.2 - r.1) / 2).toNat
/-- The margin of a band: the smallest of its references (R186). -/
def bandMargin (same : List (BitVec 64)) (b : Nat) : Nat :=
  min (refMargin same (3 * b)) (min (refMargin same (3 * b + 1)) (refMargin same (3 * b + 2)))

/-- The check before spacing that a new reference fails, 0 for none. -/
def refReason (c : Cal) (site m : Nat) (same : List (BitVec 64)) (j : Nat) : Nat :=
  let v := newRef c site m same j
  let r := scanRun (lget 0 same j)
  if v < 0 ∨ 255 < v then 2
  else if 16 < (v - storedOf c (trimKey site m (ixRef j))).natAbs then 3
  else if -2 < r.1 ∨ r.2 < 2 then 4
  else 0
/-- The value that a reference would have after the update. -/
def refAfter (c : Cal) (site m : Nat) (same : List (BitVec 64)) (j : Nat) : Int :=
  if refReason c site m same j = 0 then newRef c site m same j else storedOf c (trimKey site m (ixRef j))
/-- The check that a new reference fails, spacing included (R187). -/
def refCheck (c : Cal) (site m : Nat) (same : List (BitVec 64)) (j : Nat) : Nat :=
  match refReason c site m same j with
  | 0 =>
    let v := refAfter c site m same
    if (j % 3 ≠ 0 ∧ v j - v (j - 1) < 32) ∨ (j % 3 ≠ 2 ∧ v (j + 1) - v j < 32) then 5 else 0
  | r => r

/-- The margin of a band is noted, and a band below a limit is reported and has its consequences (R154, R156, R186). -/
def bandEnd (site m b margin : Nat) (s : State) : State :=
  let a := fabAddr site m 0 (64 * b) false
  let s1 := onCal (fun c =>
    if !c.marValid || decide (margin < c.marMin.toNat) then { c with marAddr := a.setWidth 44, marMin := BitVec.ofNat 6 margin, marValid := true }
    else c) s
  if 8 ≤ margin then s1
  else
    let s2 := sendRpt s1 site 0x0F a [BitVec.ofNat 64 margin]
    match sliceOf s2 site m with
    | none => s2
    | some z => if margin < 3 then degradeSlice z.1 z.2 s2 else refreshDue z.1 z.2 s2

/-- The pipelines of the model that holds a macro. -/
def macroPipes (s : State) (site m : Nat) : List Nat :=
  match sliceOf s site m with
  | some z => modelPipes s z.1
  | none => []

/-- A scan ends: its bands are judged, its values stored as one record, and a hold of its model for the scan ends when no
other scan of it runs. -/
def scanEnd (site m : Nat) (same : List (BitVec 64)) (s : State) : State :=
  let mk := macKey site m
  let s0 := if (runHold s.cal) ∧ s.cal.busy then endAll (macroPipes s site m) s else s
  if !s0.cal.busy ∨ !kindOpen s0.cal 1 mk then s0
  else if !blockIn s0.cal (blockOf site) then onCal (skipKinds [1] mk) s0
  else
    let c := s0.cal
    let s1 := (List.range 24).foldl (fun acc j =>
      match refCheck c site m same j with
      | 0 => onCal (fun d => storeTrim d (trimKey site m (ixRef j), newRef c site m same j)) acc
      | r => calFail site m 0 (64 * (j / 3)) r acc) s0
    let s2 := (List.range 8).foldl (fun acc b => bandEnd site m b (bandMargin same b) acc) s1
    onCal (fun c => passMacro mk (kindMark 1 mk c)) s2

/-- The scans of a tile that are due at a cycle end (R185). -/
def scansDue (site now : Nat) (s : State) : State :=
  let due := (fabAt s site).scans.filter (fun a => decide (a.1 ≤ now))
  due.foldl (fun acc a => scanEnd site a.2.1 a.2.2 acc) (onFab s site (fun f => { f with scans := f.scans.filter (fun a => !decide (a.1 ≤ now)) }))

/-- REFERENCE_SCAN: a scan of a macro begins: 27,648 ac on a macro without an operation, within the limits of R71. Under HOLD
its model is held; otherwise a macro that finds no quiet frame within 65,536 frames is skipped. `same` gives, for each of
the 24 references, the steps d = −32..31 at which no cell differs (R183, R185). -/
def execReferenceScan (site : Site) (mac : MacroIx) (same : List (BitVec 64)) (s : State) : Host.Outcome State Fault Refusal :=
  let m := mac.toNat
  let mk := macKey site m
  let f := fabAt s site
  let now := cycAt s 0
  if !s.cal.busy || !inRun s site m || !kindOpen s.cal 1 mk || underScan f m now || gridStopped s then .next s
  else if runSkips s site m then .next (onCal (skipKinds [0, 1] mk) s)
  else if (mtGet f m).fmt = 0 then .next (onCal (skipKinds [1] mk) s)
  else
    let s1 := if (runHold s.cal) then holdAll (macroPipes s site m) s else s
    if macroIdle f m now && limitsOk f m now then
      .next (onFab s1 site (fun f => { f with scans := f.scans ++ [(now + 55296, m, same)] }))
    else if !(runHold s.cal) ∧ 65536 < s.frames - s.cal.since then .next (onCal (skipKinds [1] mk) s1)
    else .next s1

/-! ### The end of a run (R192, R193) -/

/-- The macros that the scope of the run names. -/
def runSize (s : State) : Nat :=
  match (runScope s.cal).toNat with
  | 0 => 8064 * 8192
  | 1 => ((residAt s (runModel s.cal).toNat).slices.map (fun sl => sl.macros.length + sl.stores.length)).sum
  | 2 => 8192
  | _ => 1

/-- CAL_RUN_COMPLETE: the run ends; the macros of its scope that it has not measured count as skipped (R192, R193). -/
def execCalRunComplete (s : State) : Host.Outcome State Fault Refusal :=
  if !s.cal.busy then .next s
  else .next (onCal (fun c =>
    let all := (c.convDone ++ c.refDone).eraseDups
    let done := (all.filter (fun mk => !kindOpen c 0 mk && !kindOpen c 1 mk)).length
    let c1 := { c with skip := sat16Add c.skip (runSize s - done) }
    { c1 with busy := false, run := none, conv := [], vals := [], last := if c1.fail = 0 ∧ c1.skip = 0 then 1 else 2 }) s)

end Sys2Proof.Machine
end

