-- ==== Sys2Proof/Machine/Image.lean ====
section
/-! DEFINITION. The Flehoine image as bytes: its records, and the checks of an image load in the order of their reason codes
(R235-R260, R270). -/

namespace Sys2Proof.Machine

/-! ### Parsing (R236-R260) -/

/-- n bytes that are all 0. -/
def zeroAt (r : Rd) (off n : Nat) : Bool := (rdBytes r off n).all (fun b => b == 0)
/-- The header (R236). -/
def imgHeader (r : Rd) : ImgHeader :=
  { magic := rdLe r 0 4, major := rdLe r 4 2, id := BitVec.ofNat 64 (rdLe r 8 8), ver := BitVec.ofNat 32 (rdLe r 0x10 4)
    secVer := rdLe r 0x14 4, devId := rdLe r 0x1C 2, minStep := rdLe r 0x1E 2, totalLen := rdLe r 0x20 8, nsect := rdLe r 0x28 2
    keyId := rdLe r 0x2A 2, flags := rdLe r 0x2C 4, spanId := BitVec.ofNat 64 (rdLe r 0x30 8), spanSize := rdLe r 0x38 1
    spanPos := rdLe r 0x39 1 }
/-- Directory entry k (R237). -/
def imgSect (r : Rd) (k : Nat) : ImgSect :=
  let b := 0x80 + 32 * k
  ⟨rdLe r b 2, rdLe r (b + 2) 2, rdLe r (b + 4) 4, rdLe r (b + 8) 8, rdLe r (b + 16) 8, rdLe r (b + 24) 4, rdLe r (b + 28) 4⟩
/-- The section of a type, empty where there is none. -/
def sectOf (ss : List ImgSect) (t : Nat) : ImgSect :=
  match ss.find? (fun x => x.typ == t) with
  | some x => x
  | none => ⟨t, 0, 0, 0, 0, 0, 0⟩
/-- The offsets of n records of variable length, and the end of the last. -/
def recOffs (len : Nat → Nat) : Nat → Nat → List Nat × Nat
  | 0, off => ([], off)
  | n + 1, off => let x := recOffs len n (off + len off); (off :: x.1, x.2)
/-- The length of the MODEL record at an offset. -/
def modelLen (r : Rd) (o : Nat) : Nat := 40 + 8 * rdLe r (o + 1) 1
/-- The length of the REGION record at an offset. -/
def regionLen (r : Rd) (o : Nat) : Nat := 16 + 16 * rdLe r (o + 9) 1
/-- The length of the power plan at an offset. -/
def planLen (r : Rd) (o : Nat) : Nat := 16 + 100 * rdLe r (o + 2) 2

/-- The MODEL record at an offset (R240). -/
def imgModelAt (r : Rd) (o : Nat) : ImgModel :=
  { m := rdLe r o 1, nslice := rdLe r (o + 2) 2, ver := BitVec.ofNat 32 (rdLe r (o + 4) 4), id := BitVec.ofNat 64 (rdLe r (o + 8) 8)
    assignHash := BitVec.ofNat 64 (rdLe r (o + 16) 8)
    groups := (List.range (rdLe r (o + 1) 1)).map (fun k =>
      let b := o + 40 + 8 * k
      ⟨rdLe r b 2, rdLe r (b + 2) 2, rdLe r (b + 4) 1⟩) }
/-- The REGION record at an offset (R241, R242). -/
def imgRegionAt (r : Rd) (o : Nat) : ImgRegion :=
  let f := fun i => rdLe r (o + i) 1
  { id := rdLe r o 2, role := f 2, model := f 3, pipe := f 4, pos := f 5, b := f 6, p := f 7, anchor := f 8
    aslots := rdLe r (o + 10) 2, firstSlice := rdLe r (o + 12) 2, atLoad := f 14 % 2 == 1
    vars := (List.range (f 9)).map (fun k =>
      let b := o + 16 + 16 * k
      ⟨rdLe r b 1, rdLe r (b + 1) 1, rdLe r (b + 2) 1, rdLe r (b + 3) 1, rdLe r (b + 4) 1, rdLe r (b + 5) 1, rdLe r (b + 8) 4⟩) }
/-- PROFILE record k of n regions (R244). -/
def imgProfileAt (r : Rd) (n o : Nat) : ImgProfile :=
  ⟨rdLe r o 1, rdLe r (o + 2) 2, rdLe r (o + 4) 4, rdLe r (o + 8) 4, (List.range n).map (fun k => rdLe r (o + 16 + k) 1)⟩
/-- The TILE record at an offset (R246). -/
def imgTileAt (r : Rd) (o : Nat) : ImgTile :=
  let w := fun i => rdLe r (o + i) 4
  ⟨rdLe r o 2, rdLe r (o + 2) 1, rdLe r (o + 4) 1, rdLe r (o + 5) 1, w 8, w 12, w 16, w 20, w 24, w 28, w 32, w 36, rdLe r (o + 40) 2⟩
/-- The MACRO entry at an offset (R253). -/
def imgMacroAt (r : Rd) (o : Nat) : ImgMacro :=
  { logical := rdLe r o 4, region := rdLe r (o + 4) 2, lx := rdLe r (o + 6) 1, ly := rdLe r (o + 7) 1
    tier := rdLe r (o + 8) 2 / 8192, lmac := rdLe r (o + 8) 2 % 1024, m := rdLe r (o + 10) 1, fmt := BitVec.ofNat 2 (rdLe r (o + 11) 1)
    pair := BitVec.ofNat 8 (rdLe r (o + 12) 1), slice := rdLe r (o + 14) 2, maxsum := BitVec.ofNat 64 (rdLe r (o + 16) 8) }
/-- The SKIM record at an offset (R256). -/
def imgSkimAt (r : Rd) (o : Nat) : ImgSkim :=
  let h := fun i => rdLe r (o + i) 2
  { proj := h 0, region := h 2, leadX := rdLe r (o + 4) 1, leadY := rdLe r (o + 5) 1, rank := rdLe r (o + 6) 1
    adapterCap := rdLe r (o + 7) 1 % 2 == 1, aBase := h 8, gaBase := h 10, bBase := h 12, gbBase := h 14, k := h 16
    npanel := h 18, adpA := h 20, adpB := h 22 }
/-- The power plan at an offset (R257). -/
def imgPlanAt (r : Rd) (o : Nat) : PowerPlan :=
  ⟨rdLe r (o + 4) 2, rdLe r (o + 6) 2, (List.range (rdLe r (o + 2) 2)).map (fun f =>
    let b := o + 16 + 100 * f
    ⟨rdLe r b 2, (List.range 48).map (fun z => rdLe r (b + 2 + 2 * z) 2)⟩)⟩
/-- The RIM entry at an offset (R259). -/
def imgRimAt (r : Rd) (o : Nat) : ImgRim := ⟨rdLe r o 1, rdLe r (o + 1) 1, rdLe r (o + 2) 2, rdLe r (o + 4) 2, rdLe r (o + 6) 1, rdLe r (o + 7) 1⟩
/-- The ALT entry at an offset (R249). -/
def imgAltAt (r : Rd) (o : Nat) : ImgAlt :=
  ⟨rdLe r o 4, rdLe r (o + 4) 2, rdLe r (o + 6) 2, rdLe r (o + 8) 1, rdLe r (o + 9) 1, rdLe r (o + 16) 4, rdLe r (o + 20) 4⟩
/-- The offsets of records of one length. -/
def fixOffs (x : ImgSect) (len : Nat) : List Nat := (List.range x.count).map (fun k => x.off + len * k)

/-- The image that bytes spell. -/
def parseImage (r : Rd) : Image :=
  let h := imgHeader r
  let ss := (List.range h.nsect).map (imgSect r)
  let at_ := sectOf ss
  let blob := at_ 5
  { hdr := h, sects := ss
    models := ((recOffs (modelLen r) (at_ 1).count (at_ 1).off).1).map (imgModelAt r)
    regions := ((recOffs (regionLen r) (at_ 2).count (at_ 2).off).1).map (imgRegionAt r)
    profiles := (fixOffs (at_ 3) (16 + (at_ 2).count)).map (imgProfileAt r (at_ 2).count)
    tiles := (fixOffs (at_ 4) 48).map (imgTileAt r)
    blobs := (fixOffs blob 16).map (fun o => ⟨rdLe r o 1, rdLe r (o + 4) 4, blob.off + rdLe r (o + 8) 8⟩)
    macros := (fixOffs (at_ 6) 24).map (imgMacroAt r)
    skims := (fixOffs (at_ 7) 32).map (imgSkimAt r)
    plans := ((recOffs (planLen r) (at_ 8).count (at_ 8).off).1).map (imgPlanAt r)
    rims := (fixOffs (at_ 9) 8).map (imgRimAt r)
    span := if (at_ 10).count = 0 then none else some (rdLe r (at_ 10).off 1, rdLe r ((at_ 10).off + 1) 1)
    alts := (fixOffs (at_ 11) 24).map (imgAltAt r) }

/-! ### Container checks, codes 1 to 7 (R235-R239, R270) -/

/-- A check of R270: its code, the section type that a failure names (0 none), and the index of the first failing record. -/
structure ImgCheck where
  code : Nat
  sect : Nat
  bad : Option Nat
deriving DecidableEq, Repr

/-- A check without a record. -/
def chk (code sect : Nat) (ok : Bool) : ImgCheck := ⟨code, sect, if ok then none else some 0⟩
/-- A check of every record of a list: the first that fails. -/
def chkAll {α : Type} (code sect : Nat) (l : List α) (ok : Nat → α → Bool) : ImgCheck :=
  ⟨code, sect, (((List.range l.length).zip l).find? (fun x => !ok x.1 x.2)).map Prod.fst⟩

/-- Whether the COUNT and LENGTH of a section agree (R238, R270). -/
def sectLenOk (r : Rd) (ss : List ImgSect) (x : ImgSect) : Bool :=
  let nreg := (sectOf ss 2).count
  match x.typ with
  | 1 => (recOffs (modelLen r) x.count x.off).2 == x.off + x.len
  | 2 => (recOffs (regionLen r) x.count x.off).2 == x.off + x.len
  | 3 => x.len == x.count * (16 + nreg)
  | 4 => x.len == 48 * x.count
  | 5 => decide (16 * x.count ≤ x.len)
  | 6 => x.len == 24 * x.count
  | 7 => x.len == 32 * x.count
  | 8 => (recOffs (planLen r) x.count x.off).2 == x.off + x.len
  | 9 => x.len == 8 * x.count
  | 10 => x.len == 16 && x.count == 1
  | 11 => x.len == 24 * x.count
  | _ => true
/-- Whether a directory entry keeps the rules (R235, R237, R238). -/
def sectOk (r : Rd) (total : Nat) (ss : List ImgSect) (k : Nat) (x : ImgSect) : Bool :=
  let known := decide (1 ≤ x.typ) && decide (x.typ ≤ 11)
  x.off % 128 == 0 && decide (0x80 + 32 * ss.length ≤ x.off) && decide (x.off + x.len ≤ total - 96) && decide (x.flags < 2) &&
    x.rest == 0 && (known || x.flags == 1) && (!known || (ss.countP (fun y => y.typ == x.typ) == 1 && sectLenOk r ss x)) &&
    !((List.range ss.length).zip ss).any (fun y => y.1 != k && decide (y.2.off < x.off + x.len) && decide (x.off < y.2.off + y.2.len))

/-- The checks of VERIFY: header, device, layout, CRCs, signature, roll-back and life cycle. `total` is the length received
and `key` whether the signature holds. -/
def verifyChecks (s : State) (r : Rd) (total : Nat) : List ImgCheck :=
  let h := imgHeader r
  let ss := (List.range h.nsect).map (imgSect r)
  let has := fun (t : Nat) => ss.any (fun x => x.typ == t)
  let regs := ((recOffs (regionLen r) (sectOf ss 2).count (sectOf ss 2).off).1).map (imgRegionAt r)
  [chk 1 0 (h.magic == 0x464C4831 && h.major == 1 && h.totalLen == total && total % 128 == 0 && decide (total ≤ 2 ^ 32) && decide (224 ≤ total)),
   chk 2 0 (h.devId == 0x0096 && decide (h.minStep ≤ s.svc.step.toNat)),
   chk 3 0 (decide (1 ≤ h.nsect) && decide (h.nsect ≤ 64) && decide (h.flags < 2) && decide (1 ≤ h.spanSize) && decide (h.spanSize ≤ 64) &&
     decide (h.spanPos < h.spanSize) && zeroAt r 0x3A 70),
   ⟨3, 100, (((List.range ss.length).zip ss).find? (fun x => !sectOk r total ss x.1 x.2)).map Prod.fst⟩,
   chk 3 0 ([1, 2, 3, 4, 5, 8, 9].all has && (has 6 || !regs.any (fun g => g.role == 1)) &&
     (has 11 || !regs.any (fun g => (regs.countP (fun k => k.pipe == g.pipe && k.pos == g.pos)) != 1))),
   ⟨4, 100, (((List.range ss.length).zip ss).find? (fun x =>
     (crc32c (rdBytes r x.2.off x.2.len)).toNat != x.2.crc)).map Prod.fst⟩,
   chk 5 0 (sigHolds s.sec .image h.keyId (rdBytes r 0 (total - 96)) (rdBytes r (total - 96) 96)),
   chk 6 0 (decide (s.sec.rbMin.toNat ≤ h.secVer)),
   chk 7 0 (!(h.flags % 2 == 1 && s.sec.lc == 2) && s.sec.lc != 3)]

/-! ### Structure, codes 8 to 10 (R240-R244) -/

/-- The bytes that ASSIGN_HASH of a model covers. -/
def assignBytes (r : Rd) (i : Image) (m : Nat) : List Byte :=
  ((fixOffs (sectOf i.sects 6) 24).filter (fun o => rdLe r (o + 10) 1 == m)).flatMap (fun o => rdBytes r o 24) ++
    ((fixOffs (sectOf i.sects 7) 32).filter (fun o =>
      i.regions.any (fun g => g.id == rdLe r (o + 2) 2 && g.model == m))).flatMap (fun o => rdBytes r o 32)

/-- R240 of a model. -/
def modelOk (r : Rd) (i : Image) (k : Nat) (x : ImgModel) : Bool :=
  let o := lget 0 ((recOffs (modelLen r) i.models.length (sectOf i.sects 1).off).1) k
  decide (1 ≤ x.groups.length) && (i.models.countP (fun y => y.m == x.m)) == 1 && zeroAt r (o + 24) 16 &&
    x.groups.all (fun g => decide (1 ≤ g.beats) && decide (g.beats ≤ 4)) &&
    (List.range x.groups.length).all (fun j => zeroAt r (o + 40 + 8 * j + 5) 3) &&
    x.groups.all (fun g => decide (g.first + g.n ≤ x.nslice)) &&
    (List.range x.nslice).all (fun sl => x.groups.countP (fun g => decide (g.first ≤ sl) && decide (sl < g.first + g.n)) == 1) &&
    leNat ((digestBytes (Config.sha384 (assignBytes r i x.m))).take 8) == x.assignHash.toNat

/-- The primaries of LAYER regions of a model. -/
def layerPrimaries (i : Image) (m : Nat) : List ImgRegion :=
  ((List.range i.regions.length).filter (fun n => primaryOf i n == n)).filterMap (fun n =>
    (regAt i n).bind (fun g => if g.role = 1 ∧ g.model = m then some g else none))

/-- Whether an ANCHOR names a rim die or none. -/
def anchorOk (a : Nat) : Bool := decide (a ≤ 0x20) || a == 0xFF
/-- R241 to R243 of a region. -/
def regionOk (r : Rd) (i : Image) (k : Nat) (g : ImgRegion) : Bool :=
  let o := lget 0 ((recOffs (regionLen r) i.regions.length (sectOf i.sects 2).off).1) k
  let pipe := i.regions.filter (fun x => x.pipe == g.pipe)
  let first := layerPrimaries i g.model
  (i.regions.countP (fun x => x.id == g.id)) == 1 && decide (g.role ≤ 5) && (g.model == 0xFF || i.models.any (fun x => x.m == g.model)) &&
    decide (1 ≤ g.b) && decide (g.b ≤ 16) && decide (g.p < g.b) && anchorOk g.anchor && decide (1 ≤ g.vars.length) &&
    decide (g.vars.length ≤ 8) && decide (g.aslots ≤ 256) && decide (rdLe r (o + 14) 1 < 2) && zeroAt r (o + 15) 1 &&
    g.vars.all (fun v => decide (1 ≤ v.lw) && decide (v.lw ≤ 95) && decide (1 ≤ v.lh) && decide (v.lh ≤ 84) && decide (1 ≤ v.lanes) &&
      decide (v.lanes ≤ 64) && decide (1 ≤ v.s) && decide (v.s ≤ 16) &&
      (if g.role = 2 then decide (1 ≤ v.split) && decide (v.split ≤ 64) else v.split == 0)) &&
    (List.range g.vars.length).all (fun j => zeroAt r (o + 16 + 16 * j + 6) 2) &&
    pipe.all (fun x => x.b == g.b && x.p == g.p) && (i.regions.filter (fun x => x.model == g.model)).all (fun x => x.aslots == g.aslots) &&
    i.profiles.all (fun p => decide ((lget 0 (g.vars.map ImgVariant.s) (lget 0 p.sel k)) ≤ g.b)) &&
    (g.role != 1 || (g.vars.length == 1 && g.model != 0xFF)) &&
    (List.range (pipe.length)).all (fun n => decide (pipe.all (fun x => x.pos < n)) || pipe.any (fun x => x.pos == n)) &&
    pipe.all (fun x => decide (x.pos < pipe.length)) &&
    (g.role != 1 || (first.any (fun x => x.firstSlice == 0) && first.all (fun x =>
      (first.countP (fun y => y.firstSlice == x.firstSlice)) == 1 &&
        decide (x.firstSlice < (match i.models.find? (fun y => y.m == g.model) with | some y => y.nslice | none => 0)))))

/-- The tiles of the selected variants of some regions (R244). -/
def profTiles (i : Image) (p : ImgProfile) (ok : ImgRegion → Bool) : Nat :=
  (((List.range i.regions.length).zip i.regions).map (fun nr =>
    match nr.2.vars[lget 0 p.sel nr.1]? with
    | some v => if ok nr.2 then (v.lw + 1) * v.lh else 0
    | none => 0)).sum
/-- R244 of a profile. -/
def profileOk (r : Rd) (i : Image) (k : Nat) (p : ImgProfile) : Bool :=
  let o := (sectOf i.sects 3).off + (16 + i.regions.length) * k
  p.prof == k && decide (k < 16) && zeroAt r (o + 1) 1 && p.nreg == i.regions.length && zeroAt r (o + 12) 4 &&
    ((List.range i.regions.length).zip i.regions).all (fun nr => decide (lget 0 p.sel nr.1 < nr.2.vars.length)) &&
    p.fixedTiles == profTiles i p (fun g => g.atLoad) && p.allTiles == profTiles i p (fun _ => true)

/-! ### Tiles and slot tables, codes 11 and 12 (R206, R246-R249) -/

/-- Whether a blob keeps the limits of its kind (R247). -/
def blobOk (r : Rd) (i : Image) (k : Nat) (b : ImgBlob) : Bool :=
  let x := sectOf i.sects 5
  let o := x.off + 16 * k
  zeroAt r (o + 1) 3 && decide (b.off + b.len ≤ x.off + x.len) &&
    match b.kind with
    | 1 => b.len % 4 == 0 && decide (b.len ≤ 65536)
    | 2 => b.len % 8 == 0 && decide (b.len ≤ 32768)
    | 3 => b.len % 8 == 0
    | 4 => b.len % 16 == 0 && decide (b.len ≤ 512)
    | 5 => b.len % 8 == 0 && decide (b.len ≤ 512)
    | _ => false
/-- Whether an index field names a blob of a kind, or none. -/
def blobIs (i : Image) (kind b : Nat) : Bool := b == noBlob || (match i.blobs[b]? with | some x => x.kind == kind | none => false)
/-- The ALT entries of a TILE record. -/
def altsOf (i : Image) (t : ImgTile) : List ImgAlt := (List.range t.nalt).filterMap (fun k => i.alts[t.altFirst + k]?)
/-- Whether a REGION_ID names the primary of a stack that has a member. -/
def stackHas (i : Image) (id member : Nat) : Bool :=
  let n := regIndex i id
  decide (n < i.regions.length) && primaryOf i n == n && decide (member < (stackOf i n).length)
/-- R246 to R249 of a TILE record. -/
def tileOk (r : Rd) (i : Image) (k : Nat) (t : ImgTile) : Bool :=
  let o := (sectOf i.sects 4).off + 48 * k
  let owner := match i.regions.find? (fun g => g.id == t.region) with
    | some g => (match g.vars[t.variant]? with
      | some v => decide (t.lx < v.lw) && decide (t.ly < v.lh) && k == v.tileFirst + t.ly * v.lw + t.lx
      | none => false)
    | none => false
  let as := altsOf i t
  owner && zeroAt r (o + 3) 1 && zeroAt r (o + 6) 2 && zeroAt r (o + 42) 6 && blobIs i 1 t.code && blobIs i 2 t.seq0 && blobIs i 2 t.seq1 &&
    blobIs i 3 t.slot0 && blobIs i 3 t.slot1 && blobIs i 4 t.win && blobIs i 5 t.names && as.length == t.nalt &&
    decide (blobWords i t.slot0 + blobWords i t.slot1 ≤ 8192) &&
    as.all (fun a => a.tileRec == k && blobIs i 2 a.seq && blobIs i 3 a.slot && decide (blobWords i a.slot + blobWords i t.slot1 ≤ 8192) &&
      stackHas i a.stackA a.memberA && (if a.stackB = 0xFFFF then a.memberB == 0 else stackHas i a.stackB a.memberB))
/-- Whether every variant has its TILE records. -/
def tilesCover (i : Image) : Bool :=
  i.regions.all (fun g => ((List.range g.vars.length).zip g.vars).all (fun nv =>
    (List.range (nv.2.lw * nv.2.lh)).all (fun n => match i.tiles[nv.2.tileFirst + n]? with
      | some t => t.region == g.id && t.variant == nv.1 && t.ly * nv.2.lw + t.lx == n
      | none => false)))

/-- The slot-table entries of a blob. -/
def slotEntries (r : Rd) (i : Image) (b : Nat) : List Word := (List.range (blobWords i b)).map (blobWord r i b)
/-- CYC of a slot entry. -/
def slotCyc (e : Word) : Nat := e.toNat % 2 ^ 15
/-- The active cycles of a slot entry (R204). -/
def slotCycles (e : Word) : List Nat :=
  (List.range (e.toNat / 2 ^ 15 % 1024 + 1)).map (fun k => slotCyc e + k * 2 ^ (e.toNat / 2 ^ 25 % 4))
/-- The source that a slot entry names for an output (N, E, S, W, L, RIM). -/
def entrySrc (e : Word) (out : Nat) : Nat := e.toNat / 2 ^ (27 + 3 * out) % 8
/-- The sides (N, E, S, W) on which a logical tile of a variant has a logical neighbour on its course. -/
def sideOpen (i : Image) (prof : Nat) (t : ImgTile) (side : Nat) : Bool :=
  match i.regions.find? (fun g => g.id == t.region) with
  | none => false
  | some g =>
    let plan := (coursePlan i prof g.pipe).1
    match plan.find? (fun p => p.reg == regIndex i t.region) with
    | none => true
    | some p =>
      let has := fun (x y : Int) => plan.any (fun q => decide ((q.cx : Int) ≤ x) && decide (x < q.cx + q.lw) && decide ((q.cy : Int) ≤ y) &&
        decide (y < q.cy + q.lh))
      let x : Int := p.cx + t.lx
      let y : Int := p.cy + t.ly
      match side with
      | 0 => has x (y + 1)
      | 1 => has (x + 1) y || has (x + 2) y
      | 2 => has x (y - 1)
      | _ => has (x - 1) y || has (x - 2) y
/-- R206 of one slot table of a tile. -/
def slotsOk (i : Image) (prof span : Nat) (rim : Bool) (t : ImgTile) (es : List Word) : Bool :=
  let idx := List.range es.length
  let cycs := es.map slotCycles
  es.all (fun e => (slotCycles e).all (fun c => decide (c < span)) && entrySrc e 4 != 5 && e.toNat / 2 ^ 45 == 0 &&
    (List.range 6).all (fun o => entrySrc e o != 7 && (rim || (entrySrc e o != 6 && (o != 5 || entrySrc e o == 0))) &&
      (!(decide (1 ≤ entrySrc e o) && decide (entrySrc e o ≤ 4)) || sideOpen i prof t (entrySrc e o - 1)))) &&
    idx.all (fun a => idx.all (fun b => decide (b ≤ a) || (List.range 6).all (fun o =>
      entrySrc (lget 0 es a) o == 0 || entrySrc (lget 0 es b) o == 0 || (lget [] cycs a).all (fun c => !(lget [] cycs b).contains c)))) &&
    (cycs.flatten).all (fun c => decide (cycs.countP (fun l => l.contains c) ≤ 6))
/-- The set-0 slot tables that a tile may run: its record's and those of its ALT entries. -/
def slotBlobs (i : Image) (t : ImgTile) : List Nat := t.slot0 :: t.slot1 :: (altsOf i t).map ImgAlt.slot
/-- The stencil span of a TILE record's variant, in tile cycles. -/
def tileSpan (i : Image) (t : ImgTile) : Nat :=
  match (i.regions.find? (fun g => g.id == t.region)).bind (fun g => g.vars[t.variant]?) with
  | some v => 2048 * v.s
  | none => 0
/-- Whether a TILE record's region is anchored. -/
def tileAnchored (i : Image) (t : ImgTile) : Bool := i.regions.any (fun g => g.id == t.region && g.anchor != 0xFF)

/-! ### Rim limits, code 13 (R216, R259) -/

/-- R259 of a RIM entry. -/
def rimOk (i : Image) (k : Nat) (e : ImgRim) : Bool :=
  let key := fun (x : ImgRim) => (x.rim * 8 + x.port) * 65536 + x.cyc
  (match i.rims[k + 1]? with | some x => decide (key e ≤ key x) | none => true) && (rimSite e.rim e.port).isSome &&
    i.regions.any (fun g => g.anchor == e.rim && g.vars.any (fun v => decide (e.cyc < 2048 * v.s))) &&
    i.regions.any (fun g => g.id == e.region && g.vars.any (fun v => decide (e.lx < v.lw) && decide (e.ly < v.lh)))

/-- The main slot table of a site under a placement. -/
def siteSlots (r : Rd) (i : Image) (cs : List Course) (site : Nat) : List Word :=
  match (tileOf i cs site).bind (fun x => tileRec i x.2.1 x.2.2.1 x.2.2.2) with
  | some t => slotEntries r i (mainStencil i (fun _ => 0) t.2).2
  | none => []
/-- The site that the logical link of an output reaches under a placement. -/
def siteNext (i : Image) (cs : List Course) (site out : Nat) : Option Nat :=
  match tileOf i cs site with
  | none => none
  | some x =>
    let pos := coursePos x.1 x.2.1 x.2.2.1 x.2.2.2
    wireEnd site out (wireOf (portCfgOf i x.1 site pos.1 pos.2) out)
/-- The outputs (site, output, cycle) that a flit entering input `inp` of a site in a cycle takes, itself and its copies. -/
def rimTrace (r : Rd) (i : Image) (cs : List Course) : Nat → Nat × Nat × Nat → List (Nat × Nat × Nat)
  | 0, _ => []
  | n + 1, (site, inp, cyc) =>
    let outs := (List.range 6).filter (fun o => (siteSlots r i cs site).any (fun e => entrySrc e o == inp && (slotCycles e).contains cyc))
    outs.flatMap (fun o => (site, o, cyc) ::
      (if o < 4 then (match siteNext i cs site o with
        | some far => rimTrace r i cs n (far, farPort o + 1, cyc + 2)
        | none => []) else []))
/-- The most rim-entered flits that an output of a rim-attached router may carry in 64 tile cycles (R216). -/
def rimLimit (i : Image) (cs : List Course) (site out : Nat) : Nat :=
  if out = 4 then 32
  else match (if out < 4 then siteNext i cs site out else none) with
    | some far => if (rimOf far).isSome then 32 else 48
    | none => 48
/-- Whether the slot tables keep R216 under a placement. -/
def rimLimitsOk (r : Rd) (i : Image) (cs : List Course) : Bool :=
  let uses := (i.rims.flatMap (fun e => match rimSite e.rim e.port with
    | some site => rimTrace r i cs 16384 (site, 6, e.cyc)
    | none => [])).filter (fun u => (rimOf u.1).isSome)
  uses.all (fun u => decide ((uses.countP (fun v => v.1 == u.1 && v.2.1 == u.2.1 && decide (u.2.2 ≤ v.2.2) && decide (v.2.2 < u.2.2 + 64))) ≤
    rimLimit i cs u.1 u.2.1))

/-! ### Windows, macros, skims, power and spans, codes 14 to 20 (R40, R250-R260) -/

/-- The declared windows of a TILE record, with their numbers. -/
def tileWins (r : Rd) (i : Image) (t : ImgTile) : List (Nat × Win) :=
  (winEntries r i t.win).map (fun e => (e.1, winDecode e.2 Win.none))
/-- R40 and R250 of a TILE record's windows. -/
def winsOk (r : Rd) (i : Image) (t : ImgTile) : Bool :=
  let ws := (tileWins r i t).filter (fun w => w.2.typ != 0)
  (match blobAt i t.win with
    | some x => (List.range (x.len / 16)).all (fun k => decide (rdLe r (x.off + 16 * k) 1 < 32) && zeroAt r (x.off + 16 * k + 1) 7)
    | none => true) &&
    ws.all (fun w => decide (w.2.base.toNat + w.2.lines.toNat ≤ 65536) && w.2.typ != 3 &&
      (if w.2.typ = 1 then decide (1 ≤ w.2.quota.toNat) && decide (w.2.quota.toNat ≤ min w.2.lines.toNat 65535) && decide (w.2.source.toNat ≤ 0x20)
       else w.2.source == 0 && w.2.quota == 0)) &&
    (List.range ws.length).all (fun a => (List.range ws.length).all (fun b => decide (b ≤ a) ||
      (let x := (lget (0, Win.none) ws a).2; let y := (lget (0, Win.none) ws b).2
       decide (x.base.toNat + x.lines.toNat ≤ y.base.toNat) || decide (y.base.toNat + y.lines.toNat ≤ x.base.toNat))))
/-- The credit capacity of a source agent (R251). -/
def sourceCap (c : Nat) : Nat := if c < 16 then 65536 else if c < 32 then 131072 else 32768
/-- The TILE records that a profile selects. -/
def profRecs (i : Image) (prof : Nat) : List ImgTile :=
  i.tiles.filter (fun t => selOf i prof (regIndex i t.region) == t.variant)
/-- R251: the quotas of a source over the tiles of a profile. -/
def creditOk (r : Rd) (i : Image) (prof c : Nat) : Bool :=
  decide (((profRecs i prof).map (fun t => (((tileWins r i t).filter (fun w => w.2.typ == 1 && w.2.source.toNat == c)).map (fun w => w.2.quota.toNat)).sum)).sum ≤
    sourceCap c)
/-- R253 and R254 of a MACRO entry. -/
def macroOk (r : Rd) (i : Image) (k : Nat) (e : ImgMacro) : Bool :=
  let o := (sectOf i.sects 6).off + 24 * k
  e.logical == k && rdLe r (o + 8) 2 / 1024 % 8 == 0 && decide (1 ≤ rdLe r (o + 11) 1) && decide (rdLe r (o + 11) 1 ≤ 3) && zeroAt r (o + 13) 1 &&
    i.regions.any (fun g => g.id == e.region && g.role == 1 && g.model == e.m && g.vars.any (fun v => decide (e.lx < v.lw) && decide (e.ly < v.lh))) &&
    i.models.any (fun x => x.m == e.m && decide (e.slice < x.nslice)) &&
    (i.macros.countP (fun f => f.region == e.region && f.lx == e.lx && f.ly == e.ly && f.tier == e.tier && f.lmac == e.lmac)) == 1
/-- Whether a tile's tiers have enough macros that are not WORN (R254). -/
def macrosFit (s : State) (i : Image) (cs : List Course) (e : ImgMacro) : Bool :=
  match logicalSite i cs e.region e.lx e.ly with
  | none => true
  | some site => decide ((i.macros.countP (fun f => f.region == e.region && f.lx == e.lx && f.ly == e.ly && f.tier == e.tier)) ≤
      ((tierMacros e.tier).countP (fun m => !(mtGet (fabAt s site) m).worn)))
/-- R255 of a MACRO entry. -/
def pairOk (e : ImgMacro) : Bool :=
  (List.range 8).all (fun n =>
    let b := e.maxsum.toNat / 256 ^ n % 256
    if e.pair.getLsbD n then decide (b ≤ 63) else b == 0xFF)
/-- R125, R132 and R256 of a SKIM record. -/
def skimOk (r : Rd) (i : Image) (prof k : Nat) (x : ImgSkim) : Bool :=
  let o := (sectOf i.sects 7).off + 32 * k
  let rk := rankOf x.rank
  let slots := match i.regions.find? (fun g => g.id == x.region) with | some g => g.aslots | none => 0
  let res := inResident r i prof x.region
  decide (x.rank ≤ 5) && decide (rdLe r (o + 7) 1 < 2) && zeroAt r (o + 24) 8 && i.regions.any (fun g => g.id == x.region && g.role == 1) &&
    (rk == 0 || (res x.leadX x.leadY x.aBase (rk * x.k) && res x.leadX x.leadY x.gaBase (scaleLines x.k) &&
      (Config.stage2Tiles x.proj).all (fun z => res z.1 z.2.1 x.bBase (rk * z.2.2.length) && res z.1 z.2.1 x.gbBase (scaleLines z.2.2.length)))) &&
    (!x.adapterCap || (res x.leadX x.leadY x.adpA ((64 * x.k + scaleLines x.k) * slots) &&
      (Config.stage2Tiles x.proj).all (fun z => res z.1 z.2.1 x.adpB ((64 * z.2.2.length + scaleLines z.2.2.length) * slots))))
/-- R257 and R258 of a power plan. -/
def planOk (r : Rd) (i : Image) (k : Nat) (p : PowerPlan) : Bool :=
  let o := lget 0 ((recOffs (planLen r) i.plans.length (sectOf i.sects 8).off).1) k
  rdLe r o 1 == k && zeroAt r (o + 1) 1 && zeroAt r (o + 8) 8 && decide (1 ≤ p.rows.length) && decide (p.rows.length ≤ 1024) &&
    i.plans.length == i.profiles.length && decide (p.limitW ≤ 30000) && i.regions.all (fun g => g.b != 0 && p.rows.length % g.b == 0) &&
    ((List.range p.rows.length).zip p.rows).all (fun f => zeroAt r (o + 16 + 100 * f.1 + 98) 2 && decide (f.2.frameW + p.resW ≤ p.limitW) &&
      decide (f.2.zones.sum ≤ 10 * f.2.frameW) && f.2.zones.all (fun z => decide (z ≤ 4500)))
/-- R260: the SPAN section and its agreement with the span that the hawk has configured. -/
def spanOk (s : State) (r : Rd) (i : Image) : Bool :=
  match i.span with
  | none => i.hdr.spanSize == 1
  | some d => decide (8 ≤ d.1) && decide (d.1 ≤ d.2) && zeroAt r ((sectOf i.sects 10).off + 2) 14 &&
      s.pod.spans.any (fun e => e.2.any (fun x => x.id == i.hdr.spanId && x.size == i.hdr.spanSize && x.pos == i.hdr.spanPos))

/-- The checks of CHECK in order, codes 8 to 20; `place` is the profile and placement that PLACE will find. -/
def structChecks (s : State) (r : Rd) (i : Image) (place : Option (Nat × List Course)) : List ImgCheck :=
  let prof := match place with | some p => p.1 | none => 0
  let cs := match place with | some p => p.2 | none => []
  [chkAll 8 1 i.models (modelOk r i), chkAll 9 2 i.regions (regionOk r i), chk 10 3 (decide (1 ≤ i.profiles.length)),
   chkAll 10 3 i.profiles (profileOk r i), chkAll 11 5 i.blobs (blobOk r i), chkAll 11 4 i.tiles (tileOk r i), chk 11 4 (tilesCover i),
   chkAll 11 11 i.alts (fun k a => (match i.tiles[a.tileRec]? with | some t => decide (t.altFirst ≤ k) && decide (k < t.altFirst + t.nalt) | none => false) &&
     zeroAt r ((sectOf i.sects 11).off + 24 * k + 10) 6),
   chkAll 12 4 i.tiles (fun _ t => (slotBlobs i t).all (fun b => slotsOk i prof (tileSpan i t) (tileAnchored i t) t (slotEntries r i b))),
   chkAll 13 9 i.rims (rimOk i), chk 13 9 (rimLimitsOk r i cs), chkAll 14 4 i.tiles (fun _ t => winsOk r i t),
   chkAll 15 4 (List.range 33) (fun _ c => creditOk r i prof c), chkAll 16 6 i.macros (macroOk r i),
   chkAll 16 6 i.macros (fun _ e => macrosFit s i cs e), chkAll 17 6 i.macros (fun _ e => pairOk e), chkAll 18 7 i.skims (skimOk r i prof),
   chkAll 19 8 i.plans (planOk r i), chk 19 8 (i.plans.length == i.profiles.length), chk 20 10 (spanOk s r i)]

/-- The first check that fails: its code, the directory index of its section (0xFF none) and its record. -/
def firstFail (i : Image) (cs : List ImgCheck) : Option (Nat × Nat × Nat) :=
  cs.findSome? (fun c => c.bad.map (fun d =>
    if c.sect = 100 then (c.code, d, 0)
    else (c.code, (match i.sects.findIdx? (fun x => x.typ == c.sect) with | some n => n | none => 0xFF), d)))

end Sys2Proof.Machine
end

