-- ==== Sys2Proof/Machine/ImageLoad.lean ====
section
/-! DEFINITION. The image load up to its commit: receive, verify, check, place, stage and quiesce (R245, R265-R271, R333). -/

namespace Sys2Proof.Machine

/-- Change the image load. -/
def onLoad (f : Load → Load) (s : State) : State := { s with load := f s.load }

/-- The stream contexts that are not FREE (R357). -/
def openStreams (s : State) : Nat := (s.eng.map (fun e => e.2.ctx.countP (fun c => c.2.st != .free))).sum
/-- Whether the commit of a load waits: a swap, a refresh or a calibration run is in progress (R271). -/
def loadWaits (s : State) : Bool := s.cal.busy || s.resid.any (fun e => e.2.st == .swapping)
/-- Whether admission is stopped: by the service die, or by a load that has begun to quiesce (R267, R545). -/
def admitStopped (s : State) : Bool := s.svc.admitStop || decide (6 ≤ s.load.st.toNat)

/-- IMG_CPL goes to the session that sent the image (R487). -/
def imgCpl (s : State) : State :=
  match s.load.sess with
  | some id => klpSend id true 0x2A (fields [(0, s.load.lastResult.toNat), (8, s.load.lastSect.toNat), (16, s.load.lastDetail.toNat)]) [] s
  | none => s

/-- A load ends with a result; its staged image is dropped and its group withdrawn (R266, R273). -/
def loadEnd (code sect detail : Nat) (s : State) : State :=
  let s1 := match s.load.cgid with
    | some c => if code = 0 then s else cgWithdraw c s
    | none => s
  let s2 := imgCpl (onLoad (fun l => { l with lastResult := BitVec.ofNat 8 code, lastSect := BitVec.ofNat 8 sect, lastDetail := BitVec.ofNat 32 detail }) s1)
  onLoad (fun l => { l with st := 0, stagedImg := none, stagedPlace := [], cgid := none, sess := none, parts := [] }) s2

/-- Begin a load at RECEIVE. -/
def loadBegin (sess : Option Nat) (total : Nat) (abort : Bool) (flash drain : Nat) (s : State) : State :=
  onLoad (fun l => { l with st := 1, total := total, parts := [], abort := abort, flash := flash, drainLimit := drain, sess := sess, cgid := none }) s

/-- IMG_BEGIN: starts a load at RECEIVE, or answers BUSY with code 22 while a load runs (R270, R487). -/
def execImgBegin (sess : Option SessId) (len : Word) (abort : Bool) (flash : BitVec 2) (drain : BitVec 16) (s : State) :
    Host.Outcome State Fault Refusal :=
  .next (gated (resGate s sess) s (
    if s.load.st ≠ 0 then answer s 3 [⟨22, false⟩]
    else if flash = 3 then answerCode s 1
    else answerCode (loadBegin (sess.map BitVec.toNat) len.toNat abort flash.toNat drain.toNat s) 0))

/-- IMG_DATA: image bytes are written to the staging copy; STATE outside RECEIVE, BAD beyond TOTAL_LEN (R265, R487). -/
def execImgData (sess : Option SessId) (off : BitVec 32) (bytes : List Byte) (s : State) : Host.Outcome State Fault Refusal :=
  .next (gated (resGate s sess) s (
    if s.load.st ≠ 1 ∨ s.load.sess ≠ sess.map BitVec.toNat then answerCode s 5
    else if s.load.total < off.toNat + bytes.length ∨ 2 ^ 32 < off.toNat + bytes.length then answerCode s 1
    else answerCode (onLoad (fun l => { l with parts := l.parts ++ [(off.toNat, off.toNat + bytes.length)] })
      (dramStore s (stagingAddr + off.toNat) bytes)) 0))

/-- The bytes received without a gap from the start. -/
def received (l : Load) : Nat := (sortBy Prod.fst l.parts).foldl (fun r x => if x.1 ≤ r then max r x.2 else r) 0

/-- The profile and placement of a load: the recorded placement at the first load after a cold reset, where it still
stands, otherwise those of the search (R245, R333). -/
def loadPlace (s : State) (i : Image) : Option (Nat × List Course) :=
  let found := placeImage s i
  if s.load.img.isNone && s.hist.imageId == i.hdr.id && !s.hist.place.isEmpty then
    match i.profiles.find? (fun p => decide (p.fixedTiles ≤ nexp s) && placementHolds s i p.prof s.hist.place) with
    | some p => some (p.prof, s.hist.place)
    | none => found
  else found

/-- A load that has quiesced goes to COMMIT (R266, R271). -/
def loadReady (s : State) : State :=
  if s.load.st = 6 ∧ !loadWaits s ∧ (s.load.abort ∨ openStreams s = 0) then onLoad (fun l => { l with st := 7 }) s else s

/-- IMAGE_VERIFY: once all bytes have arrived the load verifies, checks, places and stages the image and quiesces; the first
failure ends it with its code (R266, R267, R270). The commit group is the service die's; the shadow stores of the tiles are
the staged image and placement. -/
def execImageVerify (s : State) : Host.Outcome State Fault Refusal :=
  if s.load.st ≠ 1 ∨ received s.load < s.load.total then .next s
  else
    let r := imageRd s stagingAddr
    let i := parseImage r
    let place := loadPlace s i
    match firstFail i (verifyChecks s r s.load.total) with
    | some f => .next (loadEnd f.1 f.2.1 f.2.2 s)
    | none =>
      match firstFail i (structChecks s r i place), place with
      | some f, _ => .next (loadEnd f.1 f.2.1 f.2.2 s)
      | none, none => .next (loadEnd 21 ((i.sects.findIdx? (fun x => x.typ == 3)).getD 0xFF) 0 (plcOp 1 1 s))
      | none, some p =>
        match cgStart [(svcNode, .image)] (plcOp 1 0 s) with
        | none => .next (loadEnd 24 0xFF 0 s)
        | some c => .next (loadReady (onLoad (fun l => { l with st := 6, stagedImg := some i, stagedProf := p.1, stagedPlace := p.2, cgid := some c.1 }) c.2))

/-- DRAIN_COMPLETE: no stream context is open, so the load proceeds to COMMIT, once no swap, refresh or run is in progress
(R267, R271). -/
def execDrainComplete (s : State) : Host.Outcome State Fault Refusal := .next (loadReady s)

/-- DRAIN_TIMEOUT: DRAIN_LIMIT has passed with streams open: the load ends, its shadows are discarded and admission resumes
(R267, R270). -/
def execDrainTimeout (s : State) : Host.Outcome State Fault Refusal :=
  if s.load.st = 6 ∧ !s.load.abort ∧ 0 < openStreams s then .next (loadEnd 23 0xFF 0 s) else .next s

end Sys2Proof.Machine
end

