-- ==== Sys2Proof/Machine/Tasks.lean ====
section
/-! DEFINITION. Engines, stream contexts, ring records and task records, and how tasks and streams end (R349-R359, R368-R371,
R418-R433). -/

namespace Sys2Proof.Machine

/-! ### Engines and contexts (R355-R360) -/

/-- A request engine. -/
def engAt (s : State) (n : Nat) : Engine := sget Engine.reset s.eng n
/-- Store an engine. -/
def engPut (s : State) (n : Nat) (e : Engine) : State := { s with eng := sset Engine.reset s.eng n e }
/-- Change an engine. -/
def engUpd (n : Nat) (f : Engine → Engine) (s : State) : State := engPut s n (f (engAt s n))
/-- The engine that serves a stream (R360). -/
def sidEng (sid : Nat) : Nat := sid / 1024
/-- The node of a request engine: that of its memory die. -/
def engNode (n : Nat) : Nat := 8080 + n
/-- A stream context. -/
def ctxAt (s : State) (sid : Nat) : Ctx := sget Ctx.free (engAt s (sidEng sid)).ctx (sid % 1024)
/-- Store a context. -/
def ctxPut (s : State) (sid : Nat) (c : Ctx) : State :=
  engUpd (sidEng sid) (fun e => { e with ctx := sset Ctx.free e.ctx (sid % 1024) c }) s
/-- Change a context. -/
def ctxUpd (sid : Nat) (f : Ctx → Ctx) (s : State) : State := ctxPut s sid (f (ctxAt s sid))
/-- Whether a stream is open: admitted and not closing. -/
def ctxOpen (c : Ctx) : Bool := c.st == .openSt || c.st == .prefill || c.st == .decode || c.st == .waitSt
/-- The open streams of the module. -/
def openSids (s : State) : List Nat :=
  s.eng.flatMap (fun e => (e.2.ctx.filter (fun c => ctxOpen c.2)).map (fun c => 1024 * e.1 + c.1))
/-- Every context that is not FREE. -/
def busySids (s : State) : List Nat :=
  s.eng.flatMap (fun e => (e.2.ctx.filter (fun c => c.2.st != .free)).map (fun c => 1024 * e.1 + c.1))

/-! ### Pipelines (R327, R360, R367, R458) -/

/-- The regions of a pipeline in the active image with a ROLE, by section index. -/
def roleRegs (s : State) (q role : Nat) : List (Nat × ImgRegion) :=
  match s.load.img with
  | none => []
  | some i => (pipeRegs i q).filterMap (fun n => (regAt i n).bind (fun r => if r.role = role then some (n, r) else none))
/-- The selected variant of a region of the active image. -/
def varNow (s : State) (n : Nat) : Option ImgVariant := s.load.img.bind (fun i => varOf i s.load.activeProf.toNat n)
/-- The ENTRY region of a pipeline. -/
def entryReg (s : State) (q : Nat) : Option (Nat × ImgRegion) := (roleRegs s q 0).find? (fun r => r.2.pos == 0)
/-- The SAMPLE region of a pipeline. -/
def sampleReg (s : State) (q : Nat) : Option (Nat × ImgRegion) := (roleRegs s q 3).head?
/-- The BULK region of a pipeline. -/
def bulkReg (s : State) (q : Nat) : Option (Nat × ImgRegion) := (roleRegs s q 4).head?
/-- The POOL regions of a pipeline by ascending REGION_ID. -/
def poolRegs (s : State) (q : Nat) : List (Nat × ImgRegion) := sortBy (fun r => r.2.id) (roleRegs s q 2)
/-- The home engine of a pipeline: that of the memory die which anchors its ENTRY region (R360). -/
def homeEng (s : State) (q : Nat) : Option Nat :=
  (entryReg s q).bind (fun r => if 16 ≤ r.2.anchor ∧ r.2.anchor < 32 then some (r.2.anchor - 16) else none)
/-- A pipeline's block in an engine. -/
def pipeAt (e : Engine) (q : Nat) : Pipe := sget Pipe.reset e.pipes q
/-- A pipeline's block in its home engine. -/
def homePipe (s : State) (q : Nat) : Pipe :=
  match homeEng s q with
  | some h => pipeAt (engAt s h) q
  | none => Pipe.reset
/-- Change a pipeline's block in its home engine. -/
def pipeUpd (q : Nat) (f : Pipe → Pipe) (s : State) : State :=
  match homeEng s q with
  | some h => engUpd h (fun e => { e with pipes := sset Pipe.reset e.pipes q (f (pipeAt e q)) }) s
  | none => s

/-- CHUNK of a pipeline's ENTRY region, 1 when CHUNK is 0 (R367). -/
def chunkOf (s : State) (q : Nat) : Nat :=
  match (entryReg s q).bind (fun r => varNow s r.1) with
  | some v => max 1 v.chunk
  | none => 1
/-- The number of lanes of a pipeline. -/
def lanesOf (s : State) (q : Nat) : Nat :=
  match (entryReg s q).bind (fun r => varNow s r.1) with
  | some v => v.lanes
  | none => 0
/-- B and P of a pipeline: frames per beat and phase. -/
def beatOf (s : State) (q : Nat) : Nat × Nat :=
  match entryReg s q with
  | some r => (max 1 r.2.b, r.2.p)
  | none => (1, 0)
/-- NCH of a bulk pipeline, as its anchor die computed it (R461). -/
def nchOf (s : State) (q : Nat) : Option Nat :=
  (bulkReg s q).map (fun r =>
    let d := mdAt s (r.2.anchor - 16)
    if d.bulkValid ∧ d.bulkPipe.toNat = q then d.nch.toNat else 0)
/-- C: the stack positions of a pipeline's chain, a BULK region counting as NCH of them (R363, R463). -/
def chainLen (s : State) (q : Nat) : Nat :=
  let n := match s.load.img with | some i => (stacksOf i q).length - (((poolRegs s q).map (fun r => r.2.pos)).eraseDups).length | none => 0
  match nchOf s q with
  | some k => k + n - 1
  | none => n

/-! ### Ring records (R425-R431) -/

/-- The places of R429 that a stream's pending records take; a pending batch counts as one. -/
def pendPlaces (c : Ctx) : Nat := c.recs.length + if c.batch.isEmpty then 0 else 1
/-- Enqueue a record of a TYPE. -/
def recPut (typ n : Nat) (body : List Byte) (c : Ctx) : Ctx :=
  { c with recs := c.recs ++ [⟨BitVec.ofNat 8 typ, c.seq, BitVec.ofNat 8 n, c.len.setWidth 32, body⟩], seq := c.seq + 1 }
/-- The body of a TOKEN record (R427). -/
def tokenBody (c : Ctx) (tok : BitVec 18) (logp : BitVec 32) (frame : Nat) : List Byte :=
  leBytes 4 tok.toNat ++ leBytes 4 (if c.flags.getLsbD 2 then logp.toNat else 0) ++ leBytes 6 frame
/-- A pending batch is enqueued: one token as a TOKEN record, more as a TOKENS record (R430). -/
def batchFlush (c : Ctx) : Ctx :=
  match c.batch with
  | [] => c
  | [x] => recPut 1 1 (tokenBody c x.1 x.2 c.batchAt) { c with batch := [] }
  | l => recPut 2 l.length (l.flatMap (fun x => leBytes 4 x.1.toNat)) { c with batch := [] }
/-- Enqueue a record of another TYPE: a pending batch goes first (R430). -/
def recEnq (typ : Nat) (body : List Byte) (c : Ctx) : Ctx := recPut typ 0 body (batchFlush c)
/-- GENERATED and FRAME as the bodies of final records hold them (R427). -/
def genFrame (s : State) (c : Ctx) : List Byte := leBytes 4 c.gend.toNat ++ leBytes 6 (frameCtr s).toNat
/-- An END record (R427). -/
def endRec (s : State) (reason : Nat) (c : Ctx) : Ctx := recEnq 3 (leBytes 4 reason ++ genFrame s c) c
/-- A USAGE record (R427). -/
def usageRec (s : State) (c : Ctx) : Ctx :=
  recEnq 6 (leBytes 4 c.prompt ++ leBytes 4 c.gend.toNat ++ leBytes 8 c.laneBeats ++ leBytes 6 c.admitFrame ++
    leBytes 6 (frameCtr s).toNat) c

/-- The token-history word of a position (R455). -/
def histWord (s : State) (sid pos : Nat) : Nat := leNat (dramPeek s (histAddr sid + 4 * pos) 4)
/-- Whether a token-history word is uncorrectable. -/
def histBad (s : State) (sid pos : Nat) : Bool := dramBad s (histAddr sid + 4 * pos)
/-- REPLAYABLE: the token history holds every position below the committed length (R427). -/
def replayable (s : State) (sid : Nat) : Bool := (List.range (ctxAt s sid).len.toNat).all (fun p => !histBad s sid p)

/-! ### Task records (R349-R353, R356) -/

/-- STATE of a record as a number. -/
def taskCode : TaskSt → Nat
  | .pending => 0 | .ready => 1 | .active => 2 | .done => 3 | .cancelled => 4 | .failed => 5
/-- Whether a task has ended. -/
def taskOver (t : Task) : Bool := t.st == .done || t.st == .cancelled || t.st == .failed
/-- The 64 bytes of a task record (R350). -/
def taskBytes (t : Task) : List Byte :=
  [BitVec.ofNat 8 t.kind, BitVec.ofNat 8 (taskCode t.st), t.result, t.flags, BitVec.ofNat 8 t.idx, BitVec.ofNat 8 t.succ.length] ++
    leBytes 2 t.sid ++ (t.succ ++ List.replicate (4 - t.succ.length) 255).map (BitVec.ofNat 8) ++ leBytes 2 t.dep ++ leBytes 2 t.wait ++ t.par
/-- A parameter of n bytes at a record offset. -/
def taskPar (t : Task) (off n : Nat) : Nat := leNat ((t.par.drop (off - 16)).take n)
/-- Stream-ordered kinds (R351). -/
def ordered (k : Nat) : Bool := decide (3 ≤ k) && decide (k ≤ 8)
/-- Lane kinds: PREFILL, DECODE, REPLAY. -/
def laneKind (k : Nat) : Bool := k == 3 || k == 4 || k == 8
/-- The task in a slot of an engine's store. -/
def taskOf (e : Engine) (slot : Nat) : Option Task := e.tasks.find? (fun t => t.slot == slot)
/-- Store a task in its slot. -/
def taskSet (t : Task) (e : Engine) : Engine := { e with tasks := e.tasks.map (fun u => if u.slot = t.slot then t else u) }
/-- Whether two tasks belong to one stream: by its SID, or as records of one request that name the stream it admits. -/
def sameStream (t u : Task) : Bool :=
  (t.stream.isSome && t.stream == u.stream) || (t.stream.isNone && u.stream.isNone && t.req == u.req && t.sid == 0xFFFF && u.sid == 0xFFFF)
/-- The stream-ordered task of a stream that follows a task. -/
def nextOrdered (e : Engine) (t : Task) : Option Task :=
  ((e.tasks.dropWhile (fun u => u.slot != t.slot)).drop 1).find? (fun u => ordered u.kind && sameStream t u && !taskOver u)
/-- Whether an earlier stream-ordered task of its stream has not ended. -/
def hasEarlier (e : Engine) (t : Task) : Bool :=
  (e.tasks.takeWhile (fun u => u.slot != t.slot)).any (fun u => ordered u.kind && sameStream t u && !taskOver u)

/-- Change the tasks of an engine, and write the records that change through to module DRAM (R353, R356). -/
def engEdit (n : Nat) (f : Engine → Engine) (s : State) : State :=
  let e := engAt s n
  let e1 := f e
  (e1.tasks.filter (fun t => taskOf e t.slot != some t)).foldl (fun acc t => dramStore acc (taskAddr n t.slot) (taskBytes t)) (engPut s n e1)

/-- A dependence of a task ends: at 0 a PENDING task becomes READY (R352). -/
def depDone (t : Task) : Task :=
  let d := t.dep - 1
  { t with dep := d, st := if d = 0 ∧ t.st = .pending then .ready else t.st }
/-- The tasks that a task's end reaches: the records it lists as successors, and the next stream-ordered task. -/
def followers (e : Engine) (t : Task) : List Nat :=
  (e.tasks.filter (fun u => u.req == t.req && t.succ.contains u.idx && u.slot != t.slot)).map Task.slot ++
    if ordered t.kind then (match nextOrdered e t with | some u => [u.slot] | none => []) else []
/-- A task becomes DONE: the dependences on it end (R352). -/
def engDone (t : Task) (e : Engine) : Engine :=
  (followers e t).foldl (fun acc k => match taskOf acc k with | some u => taskSet (depDone u) acc | none => acc)
    (taskSet { t with st := .done } e)
/-- The PENDING tasks of a work list are cancelled as dependants, and those that depend on them with them (R353). -/
def engCascade : Nat → List Nat → Engine → Engine
  | 0, _, e => e
  | _, [], e => e
  | n + 1, k :: ks, e =>
    match taskOf e k with
    | none => engCascade n ks e
    | some u =>
      if u.st = .pending then engCascade n (ks ++ followers e u) (taskSet { u with st := .cancelled, result := 11 } e)
      else engCascade n ks e
/-- The records of requests of which every task has ended leave the store. -/
def engSweep (e : Engine) : Engine :=
  { e with tasks := e.tasks.filter (fun t => e.tasks.any (fun u => u.req == t.req && !taskOver u)) }

/-- A failed task is counted and captured (R374). -/
def countFail (code : Nat) (sid : Nat) (e : Engine) : Engine :=
  let e1 := { e with failed := satInc e.failed }
  if e1.errValid then e1 else { e1 with errCode := BitVec.ofNat 8 code, errSid := BitVec.ofNat 14 sid, errValid := true }

/-- A notice reaches the home engine of a stream's pipeline over the engine ring (R360). -/
def notify (sid slot : Nat) (pf cancel : Bool) (s : State) : State :=
  let q := (ctxAt s sid).pipe.toNat
  match homeEng s q with
  | some h => engUpd h (fun e => { e with notices := e.notices ++ [⟨q, sid, slot, pf, cancel⟩] }) s
  | none => s

/-- The group that holds an item, at some participant. -/
def groupWith (s : State) (p : CgItem → Bool) : Option (BitVec 16) := (s.cg.parts.find? (fun x => x.items.any p)).map CgPart.cgid
/-- Withdraw the group that holds an item (R409). -/
def withdrawWith (p : CgItem → Bool) (s : State) : State :=
  match groupWith s p with
  | some c => cgWithdraw c s
  | none => s
/-- Whether an item is the admission of a stream. -/
def isAdmit (sid : Nat) : CgItem → Bool
  | .admitItem x => x == sid
  | _ => false
/-- Whether an item is the closing of a stream. -/
def isClosing (sid : Nat) : CgItem → Bool
  | .closing x => x == sid
  | _ => false
/-- Whether an item is the migration of a stream. -/
def isMigrate (sid : Nat) : CgItem → Bool
  | .migrate x _ => x == sid
  | _ => false

/-- CPL goes to the session that submitted an ADMIT (R487). -/
def admitCpl (t : Task) (code : Nat) (s : State) : State :=
  if t.session = 0 then s
  else
    let sid := t.stream.getD 0x3FFF
    let gen := if t.stream.isSome ∧ code = 0 then (ctxAt s sid).gen.toNat else 0
    klpSend (t.session - 1) true 0x19 (fields [(0, sid % 2 ^ 14), (14, gen), (30, code), (38, t.entry)]) [] s

/-! ### The end of a stream (R354, R368-R370, R422, R423) -/

/-- Whether a cancellation or a fault ends a task: an ADAPTER_LOAD that has started runs on (R370). -/
def cutTask (t : Task) : Bool := !taskOver t && !(t.kind == 2 && t.st == .active)
/-- The unfinished tasks of a stream. -/
def streamTasks (s : State) (sid : Nat) : List Task := (engAt s (sidEng sid)).tasks.filter (fun t => t.stream == some sid && cutTask t)
/-- Cancel the tasks of a stream, with a cancel notice for each that its home engine knows (R354, R370). -/
def cutTasks (sid : Nat) (s : State) : State :=
  let ts := streamTasks s sid
  let s1 := (ts.filter (fun t => t.noticed)).foldl (fun acc t => notify sid t.slot (t.kind != 4) true acc) s
  let s2 := withdrawWith (isMigrate sid) s1
  let cut := fun (e : Engine) => engSweep (ts.foldl (fun acc t => engCascade 64 (followers acc t) (taskSet { t with st := .cancelled } acc)) e)
  engEdit (sidEng sid) cut s2

/-- A stream that has not ended ends with a final record and goes to CLOSING; its tasks are cancelled (R354, R370, R423). -/
def streamClose (sid : Nat) (fin : Nat) (final : Ctx → Ctx) (s : State) : State :=
  let c := ctxAt s sid
  if !ctxOpen c then s
  else
    let c1 := if c.final then batchFlush c else { final c with fin := BitVec.ofNat 4 fin, final := true }
    cutTasks sid (ctxPut s sid { c1 with st := .closing, cancelAt := none, lostAt := none })

/-- A stream ends with FAULT: RESULT, CAUSE and REPLAYABLE; for a cause other than IMAGE_LOAD and RING_LOST the service is
interrupted (R354, R427, R567). -/
def streamFault (sid result cause : Nat) (s0 : State) : State :=
  let r := b1 (replayable s0 sid)
  let c := ctxAt s0 sid
  let s := if ctxOpen c && !c.final && cause != 6 && cause != 8 then sieEvent s0 else s0
  streamClose sid 6 (fun c => recEnq 5 ([BitVec.ofNat 8 result, BitVec.ofNat 8 cause, BitVec.ofNat 8 r, 0] ++ genFrame s c) c) s

/-- The ring of a stream is lost: FAULT with CAUSE RING_LOST, and every record not yet written is discarded (R431). -/
def streamLost (sid : Nat) (s : State) : State :=
  ctxUpd sid (fun c => { c with recs := [], batch := [] }) (streamFault sid 12 8 s)

/-- A stream ends with END at its committed length and stays OPEN until it is closed (R361, R368, R386). -/
def streamEnd (sid reason : Nat) (s : State) : State :=
  ctxUpd sid (fun c => if c.final then c else { endRec s reason c with fin := BitVec.ofNat 4 reason, final := true }) s

/-- A cancellation takes effect: COMMITTED_LEN is frozen and CANCELLED is recorded (R369). -/
def streamCancel (sid : Nat) (s : State) : State :=
  let n := sidEng sid
  let s1 := engUpd n (fun e => { e with cancels := satInc e.cancels }) s
  streamClose sid 5 (fun c => recEnq 4 (leBytes 4 0 ++ genFrame s c) c) s1

/-! ### The end of a task (R352-R354, R359) -/

/-- A task ends DONE. -/
def taskDone (n : Nat) (t : Task) (s : State) : State := engEdit n (fun e => engSweep (engDone { t with result := 0 } e)) s

/-- A task ends FAILED with a result code: it is counted, its dependants are cancelled, and a live stream ends with FAULT and
CAUSE TASK or the cause given (R353, R354, R422). An ADMIT reports to its session. -/
def taskFail (n : Nat) (t : Task) (code cause : Nat) (s : State) : State :=
  let sid := t.stream.getD 0x3FFF
  let t1 := { t with st := .failed, result := BitVec.ofNat 8 code }
  let s1 := engEdit n (fun e =>
    let e1 := countFail code (sid % 2 ^ 14) (taskSet t1 e)
    let ended := match t.stream with | some x => (ctxAt s x).final | none => false
    if ended then
      let e2 := (followers e1 t).foldl (fun acc k => match taskOf acc k with
        | some u => if u.req = t.req ∧ t.succ.contains u.idx then acc else taskSet (depDone u) acc
        | none => acc) e1
      engCascade 64 ((followers e2 t).filter (fun k => (taskOf e2 k).any (fun u => u.req == t.req && t.succ.contains u.idx))) e2
    else engCascade 64 (followers e1 t) e1) s
  let s2 := if t.kind = 1 then
      admitCpl t1 code (match t.stream with
        | some x => ctxUpd x (fun c => if c.st = .admitting then { c with st := .free } else c) s1
        | none => s1)
    else match t.stream with
      | some x => if (ctxAt s1 x).final then s1 else streamFault x code cause s1
      | none => s1
  engEdit n engSweep s2

/-- A task ends CANCELLED. -/
def taskCancel (n : Nat) (t : Task) (s : State) : State :=
  let s1 := engEdit n (fun e => engSweep (engCascade 64 (followers e t) (taskSet { t with st := .cancelled } e))) s
  if t.kind = 1 then
    match t.stream with
    | some x => ctxUpd x (fun c => if c.st = .admitting then { c with st := .free } else c) (withdrawWith (isAdmit x) s1)
    | none => s1
  else s1

/-- Read a task's record from the store: its words are checked, and an uncorrectable one makes the task FAIL with FAULT
(R546). -/
def taskRead (n slot : Nat) (s : State) : Option Task × State :=
  match taskOf (engAt s n) slot with
  | none => (none, s)
  | some t =>
    let r := dramReads s (taskAddr n slot / 8) 8
    if anyPoison r.1 then (none, taskFail n t 12 7 r.2) else (some t, r.2)

/-! ### Cancellation (R369, R370) -/

/-- A CANCEL reaches the engine that serves its target: NOT_FOUND, with a failed check for another tenant's stream, or it takes
effect at the next frame boundary (R369, R371). A context in ADMITTING has the GEN that its admission will give it. -/
def cancelTake (tenant : BitVec 12) (sid : Nat) (gen : BitVec 16) (s : State) : Nat × State :=
  let c := ctxAt s sid
  let open_ := (ctxOpen c && c.fin == 0 && c.gen == gen) || (c.st == .admitting && c.gen + 1 == gen)
  let owner := if c.st = .admitting then
      match (engAt s (sidEng sid)).tasks.find? (fun t => t.kind == 1 && t.stream == some sid && !taskOver t) with
      | some t => BitVec.ofNat 12 (taskPar t 16 2)
      | none => c.tenant
    else c.tenant
  if !open_ ∨ c.cancelAt.isSome then (10, s)
  else if owner ≠ tenant then (10, tenantViol s 8 tenant owner (engNode (sidEng sid)))
  else (0, ctxUpd sid (fun c => { c with cancelAt := some (s.frames + 1) }) s)

/-- CANCEL: a cancellation of a stream acts, with its result code as the answer (R369). -/
def execCancel (engine : Die) (tenant : BitVec 12) (sid : Sid) (gen : BitVec 16) (s : State) : Host.Outcome State Fault Refusal :=
  if (engAt s engine).stopped then .next s
  else
    let r := cancelTake tenant sid.toNat gen s
    .next (answerCode r.2 r.1)

/-- A cancellation that is due takes effect at this boundary (R369-R371). -/
def cancelDue (sid : Nat) (s : State) : State :=
  let c := ctxAt s sid
  match c.cancelAt with
  | none => s
  | some f =>
    if s.frames < f then s
    else if c.st = .admitting then
      match (engAt s (sidEng sid)).tasks.find? (fun t => t.kind == 1 && t.stream == some sid && !taskOver t) with
      | some t => taskCancel (sidEng sid) t (ctxUpd sid (fun c => { c with cancelAt := none }) s)
      | none => s
    else streamCancel sid s
/-- A lost ring that is due ends its stream (R431). -/
def lostDue (sid : Nat) (s : State) : State :=
  match (ctxAt s sid).lostAt with
  | some f => if f ≤ s.frames then streamLost sid s else s
  | none => s

/-- Every open stream whose ring uses a session ends at the next frame boundary (R431). -/
def ringsLost (sess : Nat) (s : State) : State :=
  (openSids s).foldl (fun acc sid =>
    if (ctxAt acc sid).session.toNat = sess then ctxUpd sid (fun c => { c with lostAt := some (s.frames + 1) }) acc else acc) s

end Sys2Proof.Machine
end

