-- ==== Sys2Proof/Machine/Homes.lean ====
section
/-! DEFINITION. Key/value pages: sizes and layout, the page tables, the homes that the trowel gives, and migration (R339-R341,
R378-R385, R402, R519). -/

namespace Sys2Proof.Machine

/-! ### Page sizes and layout (R380-R383) -/

/-- The page geometry entry of a pipeline (R381). -/
def geomAt (s : State) (q : Nat) : Word := sget geomReset s.geom q
/-- PSZ(n) of a geometry entry for a tier: codes above 8 are taken as 8, STEP 0 as 1 (R380, R381). -/
def pszOf (g : Word) (dram : Bool) (n : Nat) : Nat :=
  min (min 8 (bitsAt g 0 4) + n / max 1 (bitsAt g 12 8)) (min 8 (if dram then bitsAt g 8 4 else bitsAt g 4 4))
/-- The positions of a page of a size code. -/
def pageSize (psz : Nat) : Nat := 16 * 2 ^ psz
/-- start(n) (R380). -/
def pageStart (g : Word) (dram : Bool) (n : Nat) : Nat := ((List.range n).map (fun k => pageSize (pszOf g dram k))).sum
/-- The pages n with start(n) below a length, at most 1,024 (R384, R386). -/
def pagesBelow (g : Word) (dram : Bool) (len : Nat) : Nat := (List.range 1024).countP (fun n => decide (pageStart g dram n < len))
/-- The page that holds a position. -/
def pageOf (g : Word) (dram : Bool) (pos : Nat) : Nat := pagesBelow g dram (pos + 1) - 1
/-- NPL of a geometry entry. -/
def geomNpl (g : Word) : Nat := bitsAt g 22 8
/-- Whether FMT is KV4. -/
def geomKv4 (g : Word) : Bool := bitsAt g 20 2 == 2
/-- The lines of the K part, and of the V part, of a plane section of P positions (R383). -/
def kLines (kv4 : Bool) (p : Nat) : Nat := if kv4 then p / 2 else p
/-- The lines of a plane section of P positions (R383). -/
def planeLines (kv4 : Bool) (p : Nat) : Nat := 2 * kLines kv4 p + (p + 31) / 32 + (p + 7) / 8
/-- The lines of a page in one pool. -/
def pageLines (g : Word) (psz : Nat) : Nat := geomNpl g * planeLines (geomKv4 g) (pageSize psz)
/-- The pages that a stream of a committed length keeps homed: that of the next position and ⌈c ÷ page size⌉ + 1 more (R341). -/
def pagesNeeded (g : Word) (dram : Bool) (len c : Nat) : Nat :=
  let n := pageOf g dram len
  let z := pageSize (pszOf g dram n)
  min 1024 (n + 1 + (c + z - 1) / z + 1)

/-! ### Page tables (R384, R385) -/

/-- Page-table entry n of a stream as it stands. -/
def pteAt (s : State) (sid n : Nat) : Word := (sget SWord.zero s.dram ((pageTab sid + 8 * n) / 8)).bits
/-- Whether a page-table entry is uncorrectable. -/
def pteBad (s : State) (sid n : Nat) : Bool := dramBad s (pageTab sid + 8 * n)
/-- Whether an entry names a page. -/
def pteUsed (e : Word) : Bool := bitsAt e 0 4 != 15
/-- Whether an entry names a DRAM page. -/
def pteDram (e : Word) : Bool := e.getLsbD 4
/-- The pages of a stream that are homed. -/
def pagesHomed (s : State) (sid : Nat) : Nat := ((List.range 1024).takeWhile (fun n => pteUsed (pteAt s sid n))).length
/-- An entry for a WAFER home (R385). -/
def waferPte (psz tile slot : Nat) (tenant : BitVec 12) : Word := fields [(0, psz), (8, tile), (14, slot), (48, tenant.toNat)]
/-- An entry for a DRAM home at a DRAM address (R385). -/
def dramPte (psz a : Nat) (tenant : BitVec 12) : Word := fields [(0, psz), (4, 1), (8, a / 128), (48, tenant.toNat)]
/-- The DRAM address of a DRAM page. -/
def pteAddr (e : Word) : Nat := 128 * bitsAt e 8 38

/-! ### Pools and homes (R339-R341, R378, R519) -/

/-- The sites of each POOL region of a pipeline by logical index, pools by ascending REGION_ID. -/
def poolSites (s : State) (q : Nat) : List (List Nat) :=
  match s.load.img with
  | none => []
  | some i => (poolRegs s q).filterMap (fun r => (placedOf s.plc.courses r.1).map (fun p => regSites i p))
/-- The granules of a tile that pending groups are to own. -/
def ownPending (s : State) (site : Nat) : List Nat :=
  s.cg.parts.flatMap (fun p => p.items.filterMap (fun x => match x with
    | .pageOwn z g e => if z = site ∧ e.getLsbD 15 then some g else none
    | _ => none))
/-- Whether granule g of a tile's arena is free (R382, R519). -/
def granuleFree (s : State) (site g : Nat) (taken : List (Nat × Nat)) : Bool :=
  let t := tileAt s site
  decide (arenaBase t.pad ≤ 16 * g) && decide (g < 4096) && !(sget 0 t.seq.pageOwn g).getLsbD 15 &&
    !(ownPending s site).contains g && !taken.contains (site, g)
/-- The free granules of a tile's arena. -/
def arenaFree (s : State) (site : Nat) : Nat := (List.range 4096).countP (fun g => granuleFree s site g [])
/-- The first fit of n granules in a tile's arena. -/
def arenaFit (s : State) (site n : Nat) (taken : List (Nat × Nat)) : Option Nat :=
  (List.range 4096).find? (fun g => (List.range n).all (fun k => granuleFree s site (g + k) taken))
/-- The pool tile with the most free arena, the lowest logical index among equals (R339). -/
def startTile (s : State) (sites : List Nat) : Nat :=
  let free := sites.map (arenaFree s)
  (free.findIdx? (fun n => n == free.foldl max 0)).getD 0

/-- The start tile of a stream's homes in a pipeline: that of its first pool (R339). -/
def homeStart (s : State) (q : Nat) : Nat :=
  match poolSites s q with
  | p :: _ => startTile s p
  | [] => 0

/-- A planned home: page number, entry, the granules that it owns on pool tiles, and whether it was spilled. -/
structure Home where
  page : Nat
  entry : Word
  own : List (Nat × Nat)
  spilled : Bool
deriving DecidableEq, Repr

/-- The memory dies that the RIM entries of a pool name, in order of code (R340). -/
def poolDies (s : State) (q : Nat) : List Nat :=
  match s.load.img, (poolRegs s q).head? with
  | some i, some r => (List.range 16).filter (fun d => i.rims.any (fun e => e.region == r.2.id && e.rim == 16 + d))
  | _, _ => []

/-- A DRAM home: contiguous granules on the page's die in round robin, or on the next die with room (R340, R457). The page of
every pool lies in it, one pool after another. -/
def dramHome (q n psz : Nat) (tenant : BitVec 12) (s : State) : Option (Home × State) :=
  let ds := poolDies s q
  let lines := pageLines (geomAt s q) psz * (poolRegs s q).length
  let order := (List.range ds.length).map (fun k => lget 0 ds ((n + k) % ds.length))
  order.findSome? (fun d => (cacheTake d ((lines + 511) / 512) tenant s).map (fun r => (⟨n, dramPte psz r.1 tenant, [], false⟩, r.2)))

/-- A WAFER home: the same tile and slot in every pool, the tile n after the start tile or the next with space (R339, R378). -/
def waferHome (s : State) (q n psz start : Nat) (tenant : BitVec 12) (taken : List (Nat × Nat)) : Option Home :=
  match poolSites s q with
  | [] => none
  | first :: rest =>
    let g := (pageLines (geomAt s q) psz + 15) / 16
    ((List.range first.length).map (fun k => (start + n + k) % first.length)).findSome? (fun z =>
      (arenaFit s (lget 0 first z) g taken).map (fun f =>
        ⟨n, waferPte psz z (16 * f) tenant, (first :: rest).flatMap (fun p => (List.range g).map (fun k => (lget 0 p z, f + k))), false⟩))

/-- The home of a page: on the wafer for a WAFER stream, spilled to DRAM where no tile has space (R339, R340). -/
def pageHome1 (q n start : Nat) (dram : Bool) (tenant : BitVec 12) (taken : List (Nat × Nat)) (s : State) : Option (Home × State) :=
  let psz := pszOf (geomAt s q) dram n
  if dram then dramHome q n psz tenant s
  else match waferHome s q n psz start tenant taken with
    | some h => some (h, s)
    | none => (dramHome q n psz tenant s).map (fun r => ({ r.1 with spilled := true }, r.2))
/-- Homes for a list of pages; none where some page has no home in either tier or the pipeline has NPL 0 (R340, R381). -/
def planHomes (q start : Nat) (dram : Bool) (tenant : BitVec 12) (pages : List Nat) (s : State) : Option (List Home × State) :=
  if geomNpl (geomAt s q) = 0 then none
  else pages.foldl (fun acc n => acc.bind (fun a =>
    (pageHome1 q n start dram tenant (a.1.flatMap Home.own) a.2).map (fun r => (a.1 ++ [r.1], r.2)))) (some ([], s))

/-- Zero the granules of new homes, with valid check bits, and count the spills (R340, R519). -/
def zeroHomes (hs : List Home) (s : State) : State :=
  let s1 := (hs.flatMap Home.own).foldl (fun acc sg =>
    let t := tileAt acc sg.1
    let cut := fun (k : Nat) => decide (256 * sg.2 ≤ k) && decide (k < 256 * (sg.2 + 1))
    tilePut acc sg.1 { t with pad := { t.pad with words := skeep t.pad.words (fun k _ => !cut k) } }) s
  { s1 with plc := { s1.plc with spill := satAdd s1.plc.spill (hs.countP Home.spilled) } }
/-- The shadow writes of homes: ownership entries at the pool tiles (R519). -/
def ownItems (tenant : BitVec 12) (hs : List Home) : List (Nat × CgItem) :=
  (hs.flatMap Home.own).map (fun sg => (sg.1, .pageOwn sg.1 sg.2 (0x8000 ||| tenant.setWidth 16)))
/-- The shadow writes of homes in a stream's page table. -/
def homeItems (s : State) (sid : Nat) (hs : List Home) : List (Nat × CgItem) :=
  hs.map (fun h => (engNode (sidEng sid), .pageHome sid h.page h.entry (pteAt s sid h.page)))

/-- The granules that a page-table entry's page owns, in every pool. -/
def pteGranules (s : State) (q : Nat) (e : Word) : List (Nat × Nat) :=
  if !pteUsed e ∨ pteDram e then []
  else
    let n := (pageLines (geomAt s q) (bitsAt e 0 4) + 15) / 16
    (poolSites s q).flatMap (fun p => (List.range n).map (fun k => (lget 0 p (bitsAt e 8 6), bitsAt e 14 16 / 16 + k)))
/-- Release the home of a page-table entry: its ownership entries or its CACHE granules (R402, R423, R519). -/
def freeHome (q : Nat) (e : Word) (s : State) : State :=
  if !pteUsed e then s
  else if pteDram e then cacheDrop (pteAddr e) s
  else (pteGranules s q e).foldl (fun acc sg =>
    let t := tileAt acc sg.1
    tilePut acc sg.1 { t with seq := { t.seq with pageOwn := sset 0 t.seq.pageOwn sg.2 0 } }) s
/-- Write a page-table entry. -/
def ptePut (sid n : Nat) (e : Word) (s : State) : State := dramWrite s ((pageTab sid + 8 * n) / 8) e

/-- A commit group's item homes pages of the stream (R339). -/
def isPageHome (x : Nat) : CgItem → Bool
  | .pageHome y _ _ _ => y == x
  | _ => false

/-- PAGE_HOME: the trowel homes a stream's pages ahead of its committed length through a commit group; without a home in
either tier the stream ends with FAULT (R339-R341). -/
def execPageHome (sid : Sid) (s : State) : Host.Outcome State Fault Refusal :=
  let x := sid.toNat
  let c := ctxAt s x
  let q := c.pipe.toNat
  let pending := (groupWith s (isPageHome x)).isSome
  if !ctxOpen c ∨ pending then .next s
  else
    let have_ := pagesHomed s x
    let need := pagesNeeded (geomAt s q) c.tier c.len.toNat (chunkOf s q)
    if need ≤ have_ then .next s
    else
      match planHomes q c.start c.tier c.tenant ((List.range need).drop have_) s with
      | none => .next (streamFault x 8 Config.noHomeCause s)
      | some r =>
        match cgStart (homeItems s x r.1 ++ ownItems c.tenant r.1) r.2 with
        | some g => .next (zeroHomes r.1 g.2)
        | none => .next s

/-! ### Copying pages (R383, R402) -/

/-- Where the page of one pool lies: line 0 of a tile's run, or a DRAM address. -/
inductive KvAt where
  | tile (site line : Nat)
  | dram (a : Nat)
deriving DecidableEq, Repr

/-- The place of a page in pool p of a pipeline. -/
def kvAt (s : State) (q : Nat) (e : Word) (p : Nat) : KvAt :=
  if pteDram e then .dram (pteAddr e + 128 * p * pageLines (geomAt s q) (bitsAt e 0 4))
  else .tile (lget 0 (lget [] (poolSites s q) p) (bitsAt e 8 6)) (bitsAt e 14 16)
/-- Read word w of line l of a page. -/
def kvGet (s : State) (a : KvAt) (l w : Nat) : RWord × State :=
  match a with
  | .dram a => dramRead s (a / 8 + 16 * l + w)
  | .tile site line =>
    let r := bankRead site (tileAt s site).pad (16 * (line + l) + w)
    (r.2.1, r.2.2.foldl (putOut site) (tilePut s site { tileAt s site with pad := r.1 }))
/-- Write word w of line l of a page. -/
def kvPut (a : KvAt) (l w : Nat) (v : RWord) (s : State) : State :=
  match a with
  | .dram a => if v.poison then { s with dram := sset SWord.zero s.dram (a / 8 + 16 * l + w) ⟨v.bits, .double⟩ } else dramWrite s (a / 8 + 16 * l + w) v.bits
  | .tile site line => tilePut s site { tileAt s site with pad := padPut (tileAt s site).pad (16 * (line + l) + w) v }
/-- Copy n words. -/
def kvMove (a b : KvAt) (la wa lb wb n : Nat) (s : State) : State :=
  (List.range n).foldl (fun acc k => let r := kvGet acc a la (wa + k); kvPut b lb (wb + k) r.1 r.2) s
/-- Copy a 4-byte key scale, merging it into its word. -/
def kvScale (a b : KvAt) (la oa lb ob : Nat) (s : State) : State :=
  let x := kvGet s a la (oa / 8)
  let y := kvGet x.2 b lb (ob / 8)
  let v := (x.1.bits >>> (8 * (oa % 8))) &&& 0xFFFFFFFF
  let keep := y.1.bits &&& ~~~((0xFFFFFFFF : Word) <<< (8 * (ob % 8)))
  kvPut b lb (ob / 8) ⟨keep ||| (v <<< (8 * (ob % 8))), x.1.poison || y.1.poison⟩ y.2
/-- Copy one position of one plane from page offset i of P positions to offset j of Q positions: K, KS, V and VS (R383). -/
def kvPos (kv4 : Bool) (pl : Nat) (a : KvAt) (p i : Nat) (b : KvAt) (q j : Nat) (s : State) : State :=
  let w := if kv4 then 8 else 16
  let ln := fun (x : Nat) => if kv4 then x / 2 else x
  let wd := fun (x : Nat) => if kv4 then 8 * (x % 2) else 0
  let ba := pl * planeLines kv4 p
  let bb := pl * planeLines kv4 q
  let ksA := ba + kLines kv4 p
  let ksB := bb + kLines kv4 q
  let vA := ksA + (p + 31) / 32
  let vB := ksB + (q + 31) / 32
  let vsA := vA + kLines kv4 p
  let vsB := vB + kLines kv4 q
  let s1 := kvMove a b (ba + ln i) (wd i) (bb + ln j) (wd j) w s
  let s2 := kvScale a b (ksA + i / 32) (4 * i % 128) (ksB + j / 32) (4 * j % 128) s1
  let s3 := kvMove a b (vA + ln i) (wd i) (vB + ln j) (wd j) w s2
  kvMove a b (vsA + i / 8) (2 * (i % 8)) (vsB + j / 8) (2 * (j % 8)) 2 s3

/-- Copy the committed positions of a stream's pages into new homes of a tier, pages of the new tier's sizes (R402). -/
def copyPages (sid : Nat) (dram : Bool) (hs : List Home) (s : State) : State :=
  let c := ctxAt s sid
  let q := c.pipe.toNat
  let g := geomAt s q
  (List.range (poolRegs s q).length).foldl (fun acc p =>
    (List.range c.len.toNat).foldl (fun acc x =>
      let n := pageOf g c.tier x
      let m := pageOf g dram x
      let e := pteAt acc sid n
      match hs.find? (fun h => h.page == m) with
      | none => acc
      | some h =>
        (List.range (geomNpl g)).foldl (fun acc pl =>
          kvPos (geomKv4 g) pl (kvAt acc q e p) (pageSize (bitsAt e 0 4)) (x - pageStart g c.tier n)
            (kvAt acc q h.entry p) (pageSize (bitsAt h.entry 0 4)) (x - pageStart g dram m) acc) acc) acc) s

/-- MIGRATE: with no lane task in flight, the stream's pages are copied into homes of the target tier, and a group is opened
that switches them; a migration to DRAM without a home fails with NO_PAGES (R402). -/
def execMigrate (engine : Die) (slot : BitVec 18) (s : State) : Host.Outcome State Fault Refusal :=
  let n := engine.val
  match taskRead n slot.toNat s with
  | (none, s1) => .next s1
  | (some t, s1) =>
    match t.stream with
    | none => .next s1
    | some sid =>
      let c := ctxAt s1 sid
      if t.kind ≠ 7 ∨ t.st ≠ .ready ∨ !ctxOpen c then .next s1
      else
        let q := c.pipe.toNat
        let dram := taskPar t 16 1 == 1
        let need := pagesNeeded (geomAt s1 q) dram c.len.toNat (chunkOf s1 q)
        let start := homeStart s1 q
        match planHomes q start dram c.tenant (List.range need) s1 with
        | none => .next (taskFail n t 8 7 s1)
        | some r =>
          let items := (engNode n, CgItem.migrate sid (r.1.map (fun h => (h.page, h.entry)))) :: ownItems c.tenant r.1
          match cgStart items r.2 with
          | none => .next s1
          | some g =>
            let s2 := copyPages sid dram r.1 (zeroHomes r.1 g.2)
            .next (engEdit n (taskSet { t with st := .active, done := start }) s2)

/-- A migration applies: every new entry, the context's TIER, the release of the old homes; the MIGRATE is DONE (R402). -/
def migrateApply (sid : Nat) (pages : List (Nat × Word)) (s : State) : State :=
  let c := ctxAt s sid
  let q := c.pipe.toNat
  let s1 := (List.range 1024).foldl (fun acc n => ptePut sid n 0xF acc) s
  let olds := (List.range 1024).map (pteAt s sid)
  let s2 := olds.foldl (fun acc e => freeHome q e acc) s1
  let s3 := pages.foldl (fun acc p => ptePut sid p.1 p.2 acc) s2
  let t := (engAt s (sidEng sid)).tasks.find? (fun t => t.kind == 7 && t.stream == some sid && t.st == .active)
  match t with
  | some t => taskDone (sidEng sid) t (ctxUpd sid (fun c => { c with tier := taskPar t 16 1 == 1, start := t.done }) s3)
  | none => s3

end Sys2Proof.Machine
end

