-- ==== Sys2Proof/Machine/Request.lean ====
section
/-! DEFINITION. Submission queues, intake, parameter blocks, admission, adapters and the tasks that engines perform themselves
(R132-R137, R349-R358, R424, R434-R437, R487, R489, R518, R533). -/

namespace Sys2Proof.Machine

/-! ### Submission queues (R355, R356, R375, R489, R518) -/

/-- A submission queue. -/
def sqAt (e : Engine) (q : Nat) : Sq := sget Sq.reset e.sq q
/-- Store a submission queue. -/
def sqPut (q : Nat) (x : Sq) (e : Engine) : Engine := { e with sq := sset Sq.reset e.sq q x }
/-- The entries of a queue. -/
def sqSize (x : Sq) : Nat := 2 ^ (x.log2size.toNat + 6)
/-- The entries between HEAD and TAIL. -/
def sqUsed (x : Sq) : Nat := (x.tail.toNat + sqSize x - x.head.toNat) % sqSize x
/-- The DRAM address of an entry. -/
def sqEntry (x : Sq) (i : Nat) : Nat := x.base.toNat + 64 * (i % sqSize x)
/-- A field of n bytes at an offset of a record. -/
def recLe (bs : List Byte) (off n : Nat) : Nat := leNat ((bs.drop off).take n)
/-- The entries n after HEAD, as bytes. -/
def sqRecord (s : State) (x : Sq) (n : Nat) : List Byte := dramPeek s (sqEntry x (x.head.toNat + n)) 64

/-- The CANCEL records among n records from entry i on act at once (R356, R369). -/
def cancelScan (x : Sq) (i n : Nat) (s : State) : State :=
  (List.range n).foldl (fun acc k =>
    let bs := dramPeek acc (sqEntry x (i + k)) 64
    if recLe bs 0 1 = 9 then
      let sid := recLe bs 16 2
      if sid < 16384 ∧ !(engAt acc (sidEng sid)).stopped then (cancelTake x.tenant sid (BitVec.ofNat 16 (recLe bs 18 2)) acc).2 else acc
    else acc) s
/-- TAIL advances, and CANCEL records that it passes act at once in an enabled queue; a value that would pass HEAD by the
queue size is ignored (R356, R375). -/
def tailPut (n q v : Nat) (s : State) : State :=
  let x := sqAt (engAt s n) q
  if sqSize x ≤ v then s
  else
    let add := (v + sqSize x - x.tail.toNat) % sqSize x
    let s1 := engUpd n (sqPut q { x with tail := BitVec.ofNat 16 v }) s
    if x.en then cancelScan x x.tail.toNat add s1 else s1

/-- The refusal of a host's verb, if any: no such session, another kind, or recovery (R487, R488, R496, R536). -/
def hostGate (s : State) (sess : Nat) : Option Nat :=
  if (sessAt s sess).map (fun x => x.kind) ≠ some 0 then some 2 else if s.svc.warming then some 3 else none

/-- Whether records make up whole requests: 1 to 32 records of 8 words, a FIRST at the start, a LASTR at the end (R487). -/
def wholeRequests (rs : List (List Word)) : Bool :=
  !rs.isEmpty && decide (rs.length ≤ 32) && rs.all (fun r => r.length == 8) &&
    (byteOf (rs.headD []) 3).getLsbD 0 && (byteOf (rs.getLastD []) 3).getLsbD 1

/-- SUBMIT: records are written at TAIL, which advances past them in one step; DENIED for another tenant's queue, FULL where
they would pass HEAD (R489). -/
def execSubmit (sess : SessId) (engine : Die) (queue : BitVec 6) (records : List (List Word)) (s : State) :
    Host.Outcome State Fault Refusal :=
  .next (gated (hostGate s sess.toNat) s (
    let x := sqAt (engAt s engine) queue.toNat
    let tenant := match sessAt s sess.toNat with | some y => y.tenant | none => 0
    if tenant ≠ x.tenant then answerCode (tenantViol s 4 tenant x.tenant (engNode engine)) 2
    else if !wholeRequests records then answerCode s 1
    else if sqSize x ≤ sqUsed x + records.length then answerCode s 4
    else
      let at_ := fun (k : Nat) => (x.tail.toNat + k) % sqSize x
      let s1 := ((List.range records.length).zip records).foldl (fun acc kr => dramStore acc (sqEntry x (at_ kr.1)) (wordBytes kr.2)) s
      let ss := (List.range records.length).foldl (fun m k => sset 0 m (at_ k) (sess.toNat + 1)) x.sess
      let s2 := engUpd engine (sqPut queue.toNat { x with sess := ss }) s1
      answerCode (tailPut engine queue.toNat (at_ records.length) s2) 0))

/-- SQ_ENABLE: a write of REQ_SQq_CFG. With EN set the queue must lie in HOST extents of its tenant, otherwise EN stays 0; while EN
is 1, LOG2SIZE and TENANT are not written (R375, R518). -/
def sqCfgPut (n q : Nat) (v : Word) (s : State) : State :=
  let x := sqAt (engAt s n) q
  let y := if x.en then x else { x with log2size := BitVec.ofNat 4 (bitsAt v 1 4), tenant := BitVec.ofNat 12 (bitsAt v 16 12) }
  if v.getLsbD 0 = false then engUpd n (sqPut q { y with en := false }) s
  else if x.en then s
  else if 10 < y.log2size.toNat then engUpd n (sqPut q y) s
  else if hostOwned s y.tenant y.base.toNat (64 * sqSize y) then
    cancelScan y y.head.toNat (sqUsed y) (engUpd n (sqPut q { y with en := true }) s)
  else tenantViol (engUpd n (sqPut q y) s) 3 y.tenant 0 (engNode n)
/-- SQ_ENABLE. -/
def execSqEnable (engine : Die) (queue : BitVec 6) (v : Word) (s : State) : Host.Outcome State Fault Refusal :=
  .next (sqCfgPut engine queue.toNat v s)

/-! ### Intake (R349-R352, R355, R356) -/

/-- The length of the request at a queue's HEAD: none until its LASTR record lies before TAIL. A run of 32 records without
LASTR is taken as a malformed request. -/
def requestLen (s : State) (x : Sq) : Option Nat :=
  match (List.range (min 32 (sqUsed x))).find? (fun n => (lget 0 (sqRecord s x n) 3).getLsbD 1) with
  | some n => some (n + 1)
  | none => if 32 ≤ sqUsed x then some 32 else none
/-- The successors that a record lists: NSUCC of them, four at most. -/
def recSucc (bs : List Byte) : List Nat := ((bs.drop 8).take (min 4 (recLe bs 5 1))).map BitVec.toNat
/-- Whether listed edges form no cycle: every record is reached by removing those without a predecessor in turn. -/
def acyclic (succs : List (List Nat)) : Bool :=
  let n := succs.length
  let cut := fun (alive : List Nat) => alive.filter (fun i => alive.any (fun j => (lget [] succs j).contains i))
  ((List.range n).foldl (fun alive _ => cut alive) (List.range n)).isEmpty
/-- Whether the structure of a request holds (R349, R350, R352). -/
def requestOk (rs : List (List Byte)) : Bool :=
  let n := rs.length
  let ok := fun (i : Nat) (bs : List Byte) =>
    (lget 0 bs 3).getLsbD 0 == (i == 0) && (lget 0 bs 3).getLsbD 1 == (i + 1 == n) && recLe bs 4 1 == i &&
      decide (recLe bs 5 1 ≤ 4) && decide (1 ≤ recLe bs 0 1) && decide (recLe bs 0 1 ≤ 9) && (recSucc bs).all (fun k => decide (k < n))
  ((List.range n).zip rs).all (fun x => ok x.1 x.2) && acyclic (rs.map recSucc)
/-- Whether the parameters of a record of a kind are well formed (R351). ADMIT checks its own (R358). -/
def paramOk (bs : List Byte) : Bool :=
  match recLe bs 0 1 with
  | 3 => decide (1 ≤ recLe bs 20 4)
  | 6 => decide (recLe bs 16 1 ≤ 1)
  | 7 => decide (recLe bs 16 1 ≤ 1)
  | _ => true

/-- The stream of a record at intake, or the code it fails with: the stream that its request admits, or an open stream of the
engine and tenant (R350, R355). -/
def recStream (s : State) (n : Nat) (tenant : BitVec 12) (rs : List (List Byte)) (bs : List Byte) : Nat ⊕ Option Nat :=
  let sid := recLe bs 6 2
  let admits := rs.filter (fun r => recLe r 0 1 == 1)
  if recLe bs 0 1 = 1 then
    if recLe bs 16 2 % 4096 ≠ tenant.toNat then .inl 2 else .inr none
  else if sid = 0xFFFF then (if admits.isEmpty then .inl 1 else .inr none)
  else if admits.any (fun r => recLe r 6 2 == sid) then .inr (some sid)
  else if 16384 ≤ sid ∨ sidEng sid ≠ n ∨ !ctxOpen (ctxAt s sid) then .inl 10
  else if (ctxAt s sid).tenant ≠ tenant then .inl 2
  else .inr (some sid)

/-- The lowest free slots of a task store. -/
def freeSlots (e : Engine) (n : Nat) : List Nat :=
  ((List.range (e.tasks.length + n)).filter (fun k => !e.tasks.any (fun t => t.slot == k))).take n

/-- The waits that an admission started for a stream's first task (R358). -/
def ctxWaits (c : Ctx) : Nat := b1 c.waitA + b1 c.waitM

/-- The task of record i of a request as it enters the store, with DEPCNT (R352). -/
def newTask (s : State) (n : Nat) (e : Engine) (x : Sq) (q slot req i : Nat) (rs : List (List Byte)) : Task :=
  let bs := lget [] rs i
  let stream := match recStream s n x.tenant rs bs with | .inr z => z | .inl _ => none
  let t : Task :=
    { slot := slot, req := req, queue := q, entry := (x.head.toNat + i) % sqSize x
      session := sget 0 x.sess ((x.head.toNat + i) % sqSize x), tenant := x.tenant, kind := recLe bs 0 1, st := .pending
      result := 0, flags := lget 0 bs 3, idx := i, succ := recSucc bs, sid := recLe bs 6 2, dep := 0, wait := 0
      par := (bs.drop 16).take 48, stream := stream, noticed := false, sent := 0, done := 0 }
  let before := e.tasks.any (fun u => ordered u.kind && sameStream t u && !taskOver u)
  let inReq := rs.countP (fun r => recLe r 0 1 != 9 && (recSucc r).contains i)
  let waits := match stream with | some z => if before then 0 else ctxWaits (ctxAt s z) | none => 0
  let dep := inReq + if ordered t.kind then b1 before + waits else 0
  { t with dep := dep, st := if dep = 0 then .ready else .pending }

/-- A request enters the store: its records but CANCELs become tasks, and records that fail at intake fail (R352, R355). -/
def takeRequest (n q len : Nat) (s : State) : State :=
  let e := engAt s n
  let x := sqAt e q
  let rd := (List.range len).foldl (fun (acc : Bool × State) k =>
    let r := dramReads acc.2 (sqEntry x (x.head.toNat + k) / 8) 8
    (acc.1 || anyPoison r.1, r.2)) (false, s)
  let rs := (List.range len).map (sqRecord s x)
  let ok := !rd.1 && requestOk rs
  let ix := (List.range len).filter (fun i => recLe (lget [] rs i) 0 1 != 9)
  let slots := freeSlots e ix.length
  let y := { x with head := BitVec.ofNat 16 ((x.head.toNat + len) % sqSize x) }
  let add := fun (e : Engine) (k : Nat × Nat) => { e with tasks := e.tasks ++ [newTask s n e x q k.2 e.nextReq k.1 rs] }
  let s1 := engEdit n (fun e => let e1 := (ix.zip slots).foldl add (sqPut q y e); { e1 with nextReq := e1.nextReq + 1 }) rd.2
  (ix.zip slots).foldl (fun acc k =>
    match taskOf (engAt acc n) k.2 with
    | none => acc
    | some t =>
      let bs := lget [] rs k.1
      let code := if !ok || !paramOk bs then 1 else match recStream s n x.tenant rs bs with | .inl c => c | .inr _ => 0
      let acc1 := if code = 2 then tenantViol acc 4 x.tenant (if t.kind = 1 then BitVec.ofNat 12 (recLe bs 16 2) else (ctxAt s t.sid).tenant) (engNode n) else acc
      if code ≠ 0 ∧ !taskOver t then taskFail n t code 7 acc1 else acc) s1

/-- REQUEST_INTAKE: the engine takes one whole request from the next enabled queue in round robin that has one and for which the
task store has room (R356). -/
def execRequestIntake (engine : Die) (s : State) : Host.Outcome State Fault Refusal :=
  let e := engAt s engine
  if e.stopped ∨ s.svc.warming then .next s
  else
    let order := (List.range 64).map (fun k => (e.rr + k) % 64)
    let pick := order.findSome? (fun q =>
      let x := sqAt e q
      if x.en then (requestLen s x).bind (fun n => if e.tasks.length + n ≤ 262144 then some (q, n) else none) else none)
    match pick with
    | none => .next s
    | some p => .next (engUpd engine (fun e => { e with rr := (p.1 + 1) % 64 }) (takeRequest engine p.1 p.2 s))

/-! ### Parameter blocks (R434, R435) -/

/-- Whether FP32 bits are finite. -/
def f32Finite (v : Nat) : Bool := v / 2 ^ 23 % 256 != 255
/-- The magnitude bits of FP32 bits. -/
def f32Mag (v : Nat) : Nat := v % 2 ^ 31
/-- Whether FP32 bits are at least 0 (−0 included). -/
def f32Pos (v : Nat) : Bool := decide (v < 2 ^ 31) || f32Mag v == 0
/-- Whether a parameter block keeps every rule that R435 checks. -/
def blockOk (bs : List Byte) : Bool :=
  let n := recLe bs 1 1
  let temp := recLe bs 4 4
  let topP := recLe bs 8 4
  let minP := recLe bs 12 4
  let rep := recLe bs 16 4
  recLe bs 0 1 == 1 && decide (n ≤ 16) && decide (recLe bs 2 2 ≤ 256) && f32Finite temp && f32Pos temp &&
    decide (0 < topP) && decide (topP ≤ 0x3F800000) && f32Pos minP && decide (f32Mag minP < 0x3F800000) &&
    f32Finite rep && decide (rep < 2 ^ 31) && decide (0 < rep) && f32Finite (recLe bs 20 4) && f32Finite (recLe bs 24 4) &&
    (List.range n).all (fun i => decide (recLe bs (48 + 4 * i) 4 < 2 ^ 18))
/-- The result code of a parameter block at PARAM_PTR for a tenant: TENANT outside its HOST extents, BAD_RECORD where a rule
breaks, FAULT where the block is uncorrectable (R435, R518). -/
def blockCode (s : State) (tenant : BitVec 12) (a : Nat) : Nat :=
  if !hostOwned s tenant a 128 then 2
  else if (List.range 16).any (fun w => dramBad s (a + 8 * w)) then 12
  else if a % 128 = 0 ∧ blockOk (dramPeek s a 128) then 0 else 1
/-- Copy a parameter block into a stream's record (R435, R455). -/
def blockCopy (sid a : Nat) (s : State) : State :=
  let r := dramReads s (a / 8) 16
  dramWrites r.2 (streamRec sid / 8) (bitsOf r.1)

/-- SAMPLE: a new parameter block is checked and copied into the stream's record, or the task fails (R435). -/
def execSample (engine : Die) (slot : BitVec 18) (s : State) : Host.Outcome State Fault Refusal :=
  let n := engine.val
  match taskRead n slot.toNat s with
  | (none, s1) => .next s1
  | (some t, s1) =>
    match t.stream with
    | none => .next s1
    | some sid =>
      if t.kind ≠ 5 ∨ t.st ≠ .ready ∨ !ctxOpen (ctxAt s1 sid) then .next s1
      else
        let a := taskPar t 16 8
        let c := (ctxAt s1 sid).tenant
        match blockCode s1 c a with
        | 0 => .next (taskDone n t (ctxUpd sid (fun c => { c with paramPtr := BitVec.ofNat 48 a }) (blockCopy sid a s1)))
        | k => .next (taskFail n t k 7 (if k = 2 then tenantViol s1 3 c 0 (engNode n) else s1))

/-- EMIT: USAGE is enqueued; with CLOSE the final END record follows and the stream closes, REASON 0 where no end condition
held (R351, R368, R370). An END that was recorded at its end condition is not recorded again. -/
def execEmit (engine : Die) (slot : BitVec 18) (s : State) : Host.Outcome State Fault Refusal :=
  let n := engine.val
  match taskRead n slot.toNat s with
  | (none, s1) => .next s1
  | (some t, s1) =>
    match t.stream with
    | none => .next s1
    | some sid =>
      if t.kind ≠ 6 ∨ t.st ≠ .ready ∨ !ctxOpen (ctxAt s1 sid) then .next s1
      else
        let s2 := taskDone n t (ctxUpd sid (usageRec s1) s1)
        if taskPar t 16 1 = 1 then .next (streamClose sid 0 (endRec s2 0) s2) else .next s2

/-! ### Adapters (R132-R137, R533) -/

/-- Slot a of model m in the slot tables. -/
def adKey (m a : Nat) : Nat := 256 * m + a
/-- An adapter slot. -/
def adAt (s : State) (m a : Nat) : Adapter := sget Adapter.free s.adapters (adKey m a)
/-- Store an adapter slot. -/
def adPut (m a : Nat) (x : Adapter) (s : State) : State := { s with adapters := sset Adapter.free s.adapters (adKey m a) x }
/-- ADAPTER_SLOTS of a model: what its region records declare (R132). -/
def adSlots (s : State) (m : Nat) : Nat :=
  match s.load.img with
  | some i => min 256 (((i.regions.filter (fun r => r.model == m)).map ImgRegion.aslots).foldl max 0)
  | none => 0
/-- The slot of a model that holds an adapter, LOADING or READY (R135). -/
def adFind (s : State) (m : Nat) (id : BitVec 32) : Option Nat :=
  (List.range (adSlots s m)).find? (fun a => let x := adAt s m a; x.st != 0 && x.id == id)
/-- The slot that a load takes: the lowest FREE one, or the READY one without streams that was used least recently (R135). -/
def adChoose (s : State) (m : Nat) : Option Nat :=
  match (List.range (adSlots s m)).find? (fun a => (adAt s m a).st == 0) with
  | some a => some a
  | none => (sortBy (fun a => (adAt s m a).lastUse.toNat) ((List.range (adSlots s m)).filter (fun a =>
      (adAt s m a).st == 2 && (adAt s m a).bind == 0))).head?
/-- A slot becomes FREE and its DRAM copy is released (R134). -/
def adFree (m a : Nat) (s : State) : State :=
  let s1 := match (adAt s m a).copyAt with | some z => cacheDrop z s | none => s
  adPut m a Adapter.free s1
/-- A stream's binding is released (R135). -/
def unbind (sid : Nat) (s : State) : State :=
  let c := ctxAt s sid
  if c.aen ∧ 0 < (adAt s c.m.toNat c.aslot.toNat).bind.toNat ∧ (adAt s c.m.toNat c.aslot.toNat).id = c.adapter then
    adPut c.m.toNat c.aslot.toNat { adAt s c.m.toNat c.aslot.toNat with bind := (adAt s c.m.toNat c.aslot.toNat).bind - 1 } s
  else s

/-- The first unfinished stream-ordered task of a stream loses or gains dependences (R358). -/
def firstOrdered (sid : Nat) (f : Task → Task) (s : State) : State :=
  match (engAt s (sidEng sid)).tasks.find? (fun t => ordered t.kind && t.stream == some sid && !taskOver t) with
  | some t => engEdit (sidEng sid) (taskSet (f t)) s
  | none => s
/-- A wait of a stream ends (R358). -/
def waitEnds (sid : Nat) (adapter : Bool) (s : State) : State :=
  let c := ctxAt s sid
  if (adapter && c.waitA) || (!adapter && c.waitM) then
    firstOrdered sid depDone (ctxUpd sid (fun c =>
      let d := if adapter then { c with waitA := false } else { c with waitM := false }
      if d.st = .waitSt ∧ !d.waitA ∧ !d.waitM then { d with st := .openSt } else d) s)
  else s
/-- The streams of a model that wait for an adapter. -/
def adWaiters (s : State) (m : Nat) (id : BitVec 32) : List Nat :=
  (openSids s).filter (fun sid => let c := ctxAt s sid; c.m.toNat == m && c.aen && c.waitA && c.adapter == id)

/-- The placed sites of a logical tile, on every placed member of its region's stack. -/
def memberSites (s : State) (i : Image) (reg lx ly : Nat) : List Nat :=
  (stackOf i reg).filterMap (fun n => (placedOf s.plc.courses n).bind (fun p => placedSite i p lx ly))

/-- A projection of a package. -/
structure AdProj where
  proj : Nat
  aOff : Nat
  bOff : Nat
  crc : Nat
deriving DecidableEq, Repr

/-- The projections of a package (R533). -/
def adProjs (r : Rd) : List AdProj :=
  (List.range (rdLe r 0x0E 2)).map (fun p => let b := 0x40 + 16 * p; ⟨rdLe r b 2, rdLe r (b + 4) 4, rdLe r (b + 8) 4, rdLe r (b + 12) 4⟩)
/-- The bytes of a projection's A factors and scales, and of its B factors and scales, at rank r (R127). -/
def adLens (k : ImgSkim) (r : Nat) : Nat × Nat := (128 * (r * k.k + scaleLines k.k), 128 * (r * k.npanel + scaleLines k.npanel))
/-- A package in plain text: its factor bytes decrypted where FLAGS bit 0 is set (R533). -/
def adPlain (key : BitVec 256) (first : Nat) (id : BitVec 32) (r : Rd) : Rd := fun o =>
  if o < first then r o
  else r o ^^^ lget 0 (Config.aes256 key (leBytes 4 id.toNat ++ List.replicate 4 0 ++ leBytes 8 ((o - first) / 16))) ((o - first) % 16)

/-- The lines of one projection in slot a: where each goes and its content (R127, R256). -/
def adLines (s : State) (i : Image) (r : Rd) (a rank : Nat) (k : ImgSkim) (p : AdProj) : List (Nat × Nat × List Word) :=
  let reg := regIndex i k.region
  let sa := 64 * k.k + scaleLines k.k
  let lead := fun (line off : Nat) => (memberSites s i reg k.leadX k.leadY).map (fun z => (z, k.adpA + sa * a + line, packBytes (rdBytes r off 128) 16))
  let gaAt := p.aOff + 128 * rank * k.k
  let gbAt := p.bOff + 128 * rank * k.npanel
  (List.range (rank * k.k)).flatMap (fun j => lead j (p.aOff + 128 * j)) ++
    (List.range (scaleLines k.k)).flatMap (fun j => lead (64 * k.k + j) (gaAt + 128 * j)) ++
    (Config.stage2Tiles k.proj).flatMap (fun z =>
      let ps := z.2.2
      let sb := 64 * ps.length + scaleLines ps.length
      let put := fun (line : Nat) (ws : List Word) => (memberSites s i reg z.1 z.2.1).map (fun x => (x, k.adpB + sb * a + line, ws))
      ((List.range ps.length).zip ps).flatMap (fun qp => (List.range rank).flatMap (fun t =>
        put (rank * qp.1 + t) (packBytes (rdBytes r (p.bOff + 128 * (rank * qp.2 + t)) 128) 16))) ++
      (List.range (scaleLines ps.length)).flatMap (fun j =>
        put (64 * ps.length + j) (packHalves (((ps.drop (64 * j)).take 64).map (fun n => BitVec.ofNat 16 (rdLe r (gbAt + 2 * n) 2))))))

/-- The lines that slot a of a model reserves: they are cleared before a load, so that a projection that the package does not
name adds +0 (R132, R256). -/
def adReserved (s : State) (i : Image) (m a : Nat) : List (Nat × Nat) :=
  (i.skims.filter (fun k => k.adapterCap && i.regions.any (fun g => g.id == k.region && g.model == m))).flatMap (fun k =>
    let reg := regIndex i k.region
    let sa := 64 * k.k + scaleLines k.k
    (memberSites s i reg k.leadX k.leadY).flatMap (fun z => (List.range sa).map (fun j => (z, k.adpA + sa * a + j))) ++
    (Config.stage2Tiles k.proj).flatMap (fun x =>
      let sb := 64 * x.2.2.length + scaleLines x.2.2.length
      (memberSites s i reg x.1 x.2.1).flatMap (fun z => (List.range sb).map (fun j => (z, k.adpB + sb * a + j)))))

/-- The lines that a package writes into slot a, none where a check of R533 fails: signature, tenant, model, rank, projections
and their CRCs. -/
def adVerify (s : State) (m a : Nat) (tenant : BitVec 12) (id : BitVec 32) (raw : Rd) : Option (List (Nat × Nat × List Word)) :=
  let len := rdLe raw 0x20 8
  let rank := rankOf (rdLe raw 6 1)
  let ps := adProjs raw
  let first := (ps.flatMap (fun p => [p.aOff, p.bOff])).foldl min len
  let enc := (raw 7).getLsbD 0
  match imgModel s m, (if enc then (sealKey s.sec tenant.toNat).map (fun k => adPlain k first id raw) else some raw) with
  | some ix, some r =>
    let head := rdLe raw 0 4 == 0x4B574150 && rdLe raw 4 2 == 1 && decide (1 ≤ rdLe raw 6 1) && decide (rdLe raw 6 1 ≤ 4) &&
      rdLe raw 8 4 == id.toNat && rdLe raw 0x0C 2 % 4096 == tenant.toNat && decide (1 ≤ ps.length) && decide (ps.length ≤ 255) &&
      rdLe raw 0x10 8 == ix.2.id.toNat && rdLe raw 0x18 4 == ix.2.ver.toNat && decide (96 ≤ len) &&
      sigHolds s.sec .adapter (rdLe raw 0x1C 2) (rdBytes raw 0 (len - 96)) (rdBytes raw (len - 96) 96)
    if !head then none
    else ps.foldl (fun acc p => acc.bind (fun ls =>
      match ix.1.skims.find? (fun k => k.proj == p.proj && k.adapterCap && ix.1.regions.any (fun g => g.id == k.region && g.model == m)) with
      | none => none
      | some k =>
        let n := adLens k rank
        if (crc32c (rdBytes r p.aOff n.1 ++ rdBytes r p.bOff n.2)).toNat = p.crc then some (ls ++ adLines s ix.1 r a rank k p) else none)) (some [])
  | _, _ => none

/-- Write lines into scratchpads. -/
def putLines (ls : List (Nat × Nat × List Word)) (s : State) : State :=
  ls.foldl (fun acc x => tilePut acc x.1 (padLine (tileAt acc x.1) x.2.1 (clean x.2.2))) s

/-- The load of slot a ends READY: the lines and the DRAM copy are written, and the streams that wait for it go on (R134). -/
def adReady (n m a : Nat) (t : Task) (ls : List (Nat × Nat × List Word)) (addr : Nat) (s : State) : State :=
  let blank := match s.load.img with | some i => adReserved s i m a | none => []
  let s1 := putLines ls (putLines (blank.map (fun x => (x.1, x.2, List.replicate 16 0))) s)
  let s2 := dramWrites s1 (addr / 8) (ls.flatMap (fun x => x.2.2))
  let x := adAt s2 m a
  let s3 := cgWhole (adPut m a { x with st := 2, copy := ls.map (fun l => (l.1, l.2.1)), copyAt := some addr, task := none } s2)
  (adWaiters s3 m x.id).foldl (fun acc sid => waitEnds sid true acc) (taskDone n t s3)

/-- The load of slot a fails: the slot is FREE, the task FAILED with ADAPTER and the waiting streams end (R134, R354). -/
def adFail (n m a : Nat) (t : Task) (s : State) : State :=
  let ws := adWaiters s m (adAt s m a).id
  let s1 := taskFail n t 9 7 (adFree m a s)
  ws.foldl (fun acc sid => streamFault sid 9 7 acc) s1

/-- ADAPTER_LOAD: the load first takes a slot, which evicts a READY one without streams where none is FREE, and binds the waiting
streams to it; then it verifies the package, writes the slot and its DRAM copy, or fails (R134, R135, R518, R533). -/
def execAdapterLoad (engine : Die) (slot : BitVec 18) (s : State) : Host.Outcome State Fault Refusal :=
  let n := engine.val
  match taskRead n slot.toNat s with
  | (none, s1) => .next s1
  | (some t, s1) =>
    if t.kind ≠ 2 then .next s1
    else
      let m := taskPar t 28 1
      let id := BitVec.ofNat 32 (taskPar t 24 4)
      let pkg := taskPar t 16 8
      let r : Rd := fun o => dramByte s1 (pkg + o)
      if t.st = .ready then
        if !hostOwned s1 t.tenant pkg 0x40 ∨ !hostOwned s1 t.tenant pkg (rdLe r 0x20 8) then
          .next (taskFail n t 2 7 (tenantViol s1 3 t.tenant 0 (engNode n)))
        else if (adFind s1 m id).isSome then .next (taskDone n t s1)
        else
          match adChoose s1 m with
          | none => .next s1
          | some a =>
            let s2 := adFree m a s1
            let ws := adWaiters s2 m id
            let x : Adapter := ⟨id, t.tenant, 1, BitVec.ofNat 3 (rdLe r 6 1), BitVec.ofNat 15 ws.length, 0, [], none, some (n, t.slot)⟩
            let s3 := ws.foldl (fun acc sid => ctxUpd sid (fun c => { c with aslot := BitVec.ofNat 8 a }) acc) (cgWhole (adPut m a x s2))
            .next (engEdit n (taskSet { t with st := .active }) s3)
      else if t.st = .active then
        match (List.range (adSlots s1 m)).find? (fun a => (adAt s1 m a).task == some (n, t.slot)) with
        | none => .next (taskFail n t 9 7 s1)
        | some a =>
          let bad := (List.range (rdLe r 0x20 8)).any (fun o => dramBad s1 (pkg + o))
          match (if bad then none else adVerify s1 m a t.tenant id r) with
          | none => .next (adFail n m a t s1)
          | some ls =>
            match cacheTake (m % 16) ((ls.length + 511) / 512) t.tenant s1 with
            | none => .next (adFail n m a t s1)
            | some g => .next (adReady n m a t ls g.1 g.2)
      else .next s1

/-- The lines of a slot are restored from its DRAM copy on the sites that a test accepts; a poisoned copy frees the slot and ends
the streams bound to it with FAULT, CAUSE POISON (R134, R161). -/
def adRestore (m a : Nat) (at_ : Nat → Bool) (s : State) : State :=
  let x := adAt s m a
  match x.copyAt with
  | none => s
  | some addr =>
    let r := ((List.range x.copy.length).zip x.copy).foldl (fun (acc : Bool × State) jl =>
      if !at_ jl.2.1 then acc
      else
        let ws := dramReads acc.2 (addr / 8 + 16 * jl.1) 16
        if anyPoison ws.1 then (true, ws.2)
        else (acc.1, tilePut ws.2 jl.2.1 (padLine (tileAt ws.2 jl.2.1) jl.2.2 ws.1))) (false, s)
    if r.1 then
      let ss := (openSids r.2).filter (fun sid => let c := ctxAt r.2 sid; c.aen && c.m.toNat == m && c.aslot.toNat == a && c.adapter == x.id)
      ss.foldl (fun acc sid => streamFault sid 12 1 acc) (adFree m a r.2)
    else r.2
/-- Every READY slot is restored on the sites that a test accepts. -/
def adRestores (at_ : Nat → Bool) (s : State) : State :=
  (s.adapters.filter (fun x => x.2.st == 2)).foldl (fun acc x => adRestore (x.1 / 256) (x.1 % 256) at_ acc) s

/-! ### Admission (R356, R358, R424, R464, R531) -/

/-- Whether the record of an ADMIT is well formed: check 1 of R358 with R424, R435 and R464. -/
def admitForm (s : State) (t : Task) : Bool :=
  let q := taskPar t 19 1
  let sess := taskPar t 52 2
  let tenant := BitVec.ofNat 12 (taskPar t 16 2)
  let fr := taskPar t 56 2
  let sessOk := match (if sess < 4096 then sessAt s sess else none) with
    | some y => y.kind == 0 && y.tenant == tenant && decide (y.regBase.toNat ≤ taskPar t 44 8) &&
        decide (taskPar t 44 8 + 64 * 2 ^ taskPar t 54 1 ≤ y.regBase.toNat + y.regLen.toNat)
    | none => false
  decide (taskPar t 20 1 ≤ 1) && decide (taskPar t 21 1 ≤ 1) && decide (taskPar t 28 4 ≤ 1048576) && decide (fr ≤ 4096) &&
    decide (4 ≤ taskPar t 54 1) && decide (taskPar t 54 1 ≤ 16) && taskPar t 44 8 % 64 == 0 && sessOk &&
    (modelPipes s (taskPar t 18 1)).contains q && !((bulkReg s q).isSome && taskPar t 20 1 == 0) &&
    (blockCode s tenant (taskPar t 36 8) != 1)

/-- LIM_Tn of a tier, in positions (R361, R376). -/
def limOf (p : Pipe) (dram : Bool) (n : Nat) : Nat := 64 * ((if dram then p.limd else p.limw).toNat / 2 ^ (15 * n) % 2 ^ 15)
/-- CAP_Tn. -/
def capOf (p : Pipe) (n : Nat) : Nat := p.cap.toNat / 2 ^ (15 * n) % 2 ^ 15

/-- Whether a pipeline has a GATEWAY region of a span that is down, or any on an orphan (R505, R508). -/
def spanLost (s : State) (q : Nat) : Bool :=
  match s.load.img with
  | some i => !(roleRegs s q 5).isEmpty && (s.pod.st == 4 || s.pod.spans.any (fun e => e.2.any (fun x => x.down && x.id == i.hdr.spanId)))
  | none => false
/-- Whether a pipeline has its model at hand (check 3 of R358, R457, R461). -/
def modelAt (s : State) (q m : Nat) : Bool :=
  let r := residAt s m
  (homePipe s q).en && !spanLost s q && r.st != .free &&
    match bulkReg s q with
    | some b =>
      let d := mdAt s (b.2.anchor - 16)
      d.bulkValid && d.bulkErr == 0 && d.bulkPipe.toNat == q && r.lib.any (fun es => es.all (fun x => x / 65536 == b.2.anchor - 16))
    | none => r.st != .library

/-- The free context that an ADMIT takes (check 5 of R358). -/
def admitCtx (s : State) (n : Nat) (t : Task) : Option Nat :=
  if t.sid = 0xFFFF then ((List.range 1024).map (fun k => 1024 * n + k)).find? (fun sid => (ctxAt s sid).st == .free)
  else if t.sid < 16384 ∧ sidEng t.sid = n ∧ (ctxAt s t.sid).st = .free then some t.sid else none

/-- The failed tenant check of an ADMIT, as the violation kind of R544: the adapter's, the seal key's or the block's. -/
def admitTenant (s : State) (t : Task) : Option Nat :=
  let tenant := BitVec.ofNat 12 (taskPar t 16 2)
  let m := taskPar t 18 1
  let other : Bool := match adFind s m (BitVec.ofNat 32 (taskPar t 24 4)) with
    | some a => (adAt s m a).tenant != tenant
    | none => false
  if taskPar t 21 1 = 1 ∧ other then some 7
  else if taskPar t 55 1 % 2 = 1 ∧ (sealKey s.sec tenant.toNat).isNone then some 6
  else if blockCode s tenant (taskPar t 36 8) = 2 then some 3
  else none

/-- The checks 1 to 6 of R358 in order: the code of the first that fails, 0 for none. -/
def admitCode (s : State) (n : Nat) (t : Task) : Nat :=
  let q := taskPar t 19 1
  let dram := taskPar t 20 1 == 1
  if !admitForm s t then 1
  else if 6 ≤ s.load.st.toNat then 4
  else if !(engAt s n).admitEn ∨ (engAt s n).stopped ∨ s.svc.admitStop then 13
  else if !modelAt s q (taskPar t 18 1) then 3
  else if taskPar t 21 1 = 1 ∧ (bulkReg s q).isSome then 9
  else if (admitTenant s t).isSome then 2
  else if blockCode s (BitVec.ofNat 12 (taskPar t 16 2)) (taskPar t 36 8) = 12 then 12
  else if (admitCtx s n t).isNone then 5
  else if limOf (homePipe s q) dram 3 = 0 then 7
  else 0

/-- Whether the T1 count of a pipeline is below its cap (check 7 of R358). -/
def capFree (s : State) (q : Nat) : Bool := decide (lget 0 (homePipe s q).adm 0 < capOf (homePipe s q) 0)

/-- The admission commit of an ADMIT that has its context is opened, with the homes of the first pages; it fails with NO_PAGES
where the trowel finds none, and waits while no group is to be had (R339, R358, R404). -/
def admitCommit (n sid : Nat) (t : Task) (s : State) : State :=
  let q := taskPar t 19 1
  let dram := taskPar t 20 1 == 1
  let tenant := BitVec.ofNat 12 (taskPar t 16 2)
  let start := homeStart s q
  match planHomes q start dram tenant (List.range (pagesNeeded (geomAt s q) dram 0 (chunkOf s q))) s with
  | none => taskFail n t 8 7 s
  | some r =>
    match cgStart ((engNode n, CgItem.admitItem sid) :: homeItems s sid r.1 ++ ownItems tenant r.1) r.2 with
    | none => s
    | some g => engEdit n (taskSet { t with st := .active, sent := 1, done := start }) (zeroHomes r.1 g.2)

/-- An ADMIT that holds a context goes on once the T1 count is below its cap (R358). -/
def admitGo (n sid : Nat) (t : Task) (s : State) : State := if capFree s (taskPar t 19 1) then admitCommit n sid t s else s

/-- ADMIT: the checks of R358; then the admission commit, or a wait for the cap, or NO_LANE. -/
def execAdmitTask (engine : Die) (slot : BitVec 18) (s : State) : Host.Outcome State Fault Refusal :=
  let n := engine.val
  match taskRead n slot.toNat s with
  | (none, s1) => .next s1
  | (some t, s1) =>
    if t.kind ≠ 1 then .next s1
    else if t.st = .active ∧ t.sent = 0 then .next (match t.stream with | some sid => admitGo n sid t s1 | none => s1)
    else if t.st ≠ .ready then .next s1
    else
      match admitCode s1 n t, admitCtx s1 n t with
      | 0, some sid =>
        if !capFree s1 (taskPar t 19 1) ∧ t.flags.getLsbD 2 then .next (taskFail n t 6 7 s1)
        else
          let t1 := { t with st := .active, stream := some sid }
          let s2 := ctxUpd sid (fun c => { c with st := .admitting }) s1
          .next (admitGo n sid t1 (engEdit n (taskSet t1) s2))
      | k, _ =>
        let tenant := BitVec.ofNat 12 (taskPar t 16 2)
        let s2 := match k, admitTenant s1 t, sessAt s1 (taskPar t 52 2) with
          | 2, some v, _ => tenantViol s1 v tenant 0 (engNode n)
          | 1, _, some y => if y.tenant = tenant then s1 else tenantViol s1 6 tenant y.tenant (engNode n)
          | _, _, _ => s1
        .next (taskFail n t (if k = 0 then 5 else k) 7 s2)

/-- Clear a stream's count table (R437, R455). -/
def countsClear (sid : Nat) (s : State) : State := dramZero s ((streamRec sid + 128) / 8) (16 * 129)

/-- The admission commit applies: the context with GEN incremented and its ring, the first page homes in a cleared page table, the
admitted count and the adapter binding; the request's tasks get the stream, and the ADMIT is DONE (R358, R364). -/
def admitApply (sid : Nat) (s : State) : State :=
  let n := sidEng sid
  match (engAt s n).tasks.find? (fun t => t.kind == 1 && t.stream == some sid && t.st == .active) with
  | none => s
  | some t =>
    let old := ctxAt s sid
    let q := taskPar t 19 1
    let m := taskPar t 18 1
    let aen := taskPar t 21 1 == 1
    let id := BitVec.ofNat 32 (taskPar t 24 4)
    let slot := if aen then adFind s m id else none
    let waitA := aen && (match slot with | some a => (adAt s m a).st == 1 | none => true)
    let waitM := (residAt s m).st == .loading
    let fr := taskPar t 56 2
    let c : Ctx := { Ctx.free with
      tenant := BitVec.ofNat 12 (taskPar t 16 2)
      st := if waitA || waitM then .waitSt else .openSt
      tier := taskPar t 20 1 == 1
      pipe := BitVec.ofNat 8 q
      m := BitVec.ofNat 8 m
      aslot := BitVec.ofNat 8 (slot.getD 0)
      aen := aen
      replayOk := t.flags.getLsbD 3
      maxCtx := BitVec.ofNat 21 (taskPar t 28 4)
      maxNew := BitVec.ofNat 21 (taskPar t 32 4)
      gen := old.gen + 1
      paramPtr := BitVec.ofNat 48 (taskPar t 36 8)
      raddr := BitVec.ofNat 64 (taskPar t 44 8)
      session := BitVec.ofNat 16 (taskPar t 52 2)
      log2n := BitVec.ofNat 5 (taskPar t 54 1)
      flags := BitVec.ofNat 3 (taskPar t 55 1)
      batchFr := BitVec.ofNat 13 (if fr = 0 then 64 else fr)
      nonce := BitVec.ofNat 32 (taskPar t 60 4)
      admitFrame := s.frames
      start := t.done
      adapter := id
      waitA := waitA
      waitM := waitM }
    let s1 := (List.range 1024).foldl (fun acc k => ptePut sid k 0xF acc) (countsClear sid (blockCopy sid (taskPar t 36 8) s))
    let s2 := match slot with
      | some a => adPut m a { adAt s1 m a with bind := (adAt s1 m a).bind + 1 } s1
      | none => s1
    let s3 := pipeUpd q (fun p => { p with adm := lupd p.adm 0 (· + 1) }) (ctxPut s2 sid c)
    let s4 := residUpd m (fun r => if r.st = .free then r else { r with lastUse := frameCtr s }) s3
    let give := fun (e : Engine) => { e with tasks := e.tasks.map (fun u =>
      if u.req = t.req ∧ u.kind ≠ 1 ∧ u.sid = 0xFFFF ∧ u.stream = none then { u with stream := some sid } else u) }
    let w := b1 waitA + b1 waitM
    let s5 := firstOrdered sid (fun u => { u with dep := u.dep + w, st := if 0 < w ∧ u.st = .ready then .pending else u.st }) (engEdit n give s4)
    admitCpl { t with stream := some sid } 0 (taskDone n t s5)

/-! ### Ready notices of lane tasks (R360, R368, R372, R429) -/

/-- Whether a lane task may send its ready notice now: its stream is open and not ended, fewer than six records are pending, and
no earlier task of its stream is unfinished. -/
def noticeDue (s : State) (n : Nat) (t : Task) (c : Ctx) : Bool :=
  t.st == .ready && !t.noticed && ctxOpen c && c.fin == 0 && c.cancelAt.isNone && decide (pendPlaces c < 6) &&
    !hasEarlier (engAt s n) t

/-- A lane task of a kind that is READY sends its ready notice to its pipeline's home engine; a stream that has reached an end
refuses it with LENGTH (R360, R368, R429). -/
def laneReady (kind n slot : Nat) (s : State) : State :=
  match taskRead n slot s with
  | (none, s1) => s1
  | (some t, s1) =>
    match t.stream with
    | none => s1
    | some sid =>
      let c := ctxAt s1 sid
      if t.kind ≠ kind then s1
      else if t.st = .ready ∧ ctxOpen c ∧ c.final then taskFail n t 7 7 s1
      else if noticeDue s1 n t c then notify sid slot (kind != 4) false (engEdit n (taskSet { t with noticed := true }) s1)
      else s1

/-- PREFILL: a PREFILL task becomes ready and its chunks are dispatched by its home engine (R360, R366, R367). -/
def execPrefill (engine : Die) (slot : BitVec 18) (s : State) : Host.Outcome State Fault Refusal := .next (laneReady 3 engine slot.toNat s)
/-- DECODE: a DECODE task that is READY asks for its next step (R353, R360, R368). -/
def execDecode (engine : Die) (slot : BitVec 18) (s : State) : Host.Outcome State Fault Refusal := .next (laneReady 4 engine slot.toNat s)
/-- REPLAY: a REPLAY task becomes ready and its chunks rebuild the stream's pages (R372). -/
def execReplay (engine : Die) (slot : BitVec 18) (s : State) : Host.Outcome State Fault Refusal := .next (laneReady 8 engine slot.toNat s)

end Sys2Proof.Machine
end

