-- ==== Sys2Proof/Machine/Lanes.lean ====
section
/-! DEFINITION. Dispatch: ready queues, lane tempos, dispatch decisions and the lines they deliver (R360-R368, R386, R439, R463). -/

namespace Sys2Proof.Machine

/-! ### Notices and tempos (R360, R362, R363, R458) -/

/-- READY_NOTICE: the oldest notice reaches the home engine: a task joins the ready queues, eligible from the next frame, or a
cancelled one leaves them (R360, R365, R371). -/
def execReadyNotice (engine : Die) (s : State) : Host.Outcome State Fault Refusal :=
  match (engAt s engine).notices with
  | [] => .next s
  | x :: rest =>
    let s1 := engUpd engine (fun e => { e with notices := rest }) s
    .next (pipeUpd x.pipe (fun p =>
      if x.cancel then { p with queue := p.queue.map (fun t => if t.sid = x.sid ∧ t.slot = x.slot then { t with gone := some (s.frames + 1) } else t) }
      else { p with queue := p.queue ++ [⟨x.sid, x.slot, x.pf, s.frames + 1, none, none, 0⟩] }) s1)

/-- The tempo code of lane k (R376). -/
def tempoCode (p : Pipe) (k : Nat) : Nat := if k < 32 then bitsAt p.tmap0 (2 * k) 2 else bitsAt p.tmap1 (2 * (k - 32)) 2
/-- n_k. -/
def tempoOf (p : Pipe) (k : Nat) : Nat := 2 ^ tempoCode p k
/-- The lanes of a new tempo map whose tempo changes drain until the last stream that entered has left the chain (R363). -/
def drainLanes (old new : Pipe) : Pipe :=
  (List.range 64).foldl (fun p k =>
    if tempoCode old k = tempoCode new k then p
    else { p with drain := sset 0 p.drain k (max (sget 0 p.drain k) (sget 0 p.lastEntry k)) }) new
/-- A write of REQ_PIPEq_TMAP0 or _TMAP1: ignored outside the home engine, and in a bulk pipeline where it sets another tempo
than T1 (R363, R373, R458). -/
def tmapPut (n q : Nat) (hi : Bool) (v : Word) (s : State) : State :=
  if homeEng s q ≠ some n ∨ ((bulkReg s q).isSome ∧ v ≠ 0) then s
  else pipeUpd q (fun p => drainLanes p (if hi then { p with tmap1 := v } else { p with tmap0 := v })) s
/-- TMAP_WRITE. -/
def execTmapWrite (engine : Die) (q : Byte) (hi : Bool) (v : Word) (s : State) : Host.Outcome State Fault Refusal :=
  .next (tmapPut engine q.toNat hi v s)

/-! ### Chunks and classes (R361, R367, R386, R401) -/

/-- What a lane carries of a task: position and number of tokens, LAST, and whether the task is all dispatched by it. -/
structure Chunk where
  pos : Nat
  ntok : Nat
  last : Bool
  whole : Bool
deriving DecidableEq, Repr

/-- The next chunk or step of a lane task (R367, R372). -/
def chunkFor (s : State) (sid : Nat) (t : Task) : Chunk :=
  let c := ctxAt s sid
  let n := chunkOf s c.pipe.toNat
  if t.kind = 4 then ⟨c.len.toNat, 1, true, true⟩
  else
    let total := if t.kind = 3 then taskPar t 20 4 else c.len.toNat
    let first := if t.kind = 3 then taskPar t 16 4 else 0
    let k := min n (total - t.sent)
    ⟨first + t.sent, k, t.kind == 3 && t.flags.getLsbD 4 && t.sent + k == total, decide (total ≤ t.sent + k)⟩
/-- Whether a stream takes its class from REQ_PIPEq_LIMD: a DRAM stream, or one with a page in DRAM (R361, R401). -/
def limitsDram (s : State) (sid : Nat) : Bool :=
  (ctxAt s sid).tier || (List.range (pagesHomed s sid)).any (fun n => pteDram (pteAt s sid n))
/-- The class that a length requires: 0 T1 to 3 T8, none above every limit (R361). -/
def classFor (p : Pipe) (dram : Bool) (len : Nat) : Option Nat := (List.range 4).find? (fun n => decide (len ≤ limOf p dram n))

/-- The landing windows of a tile with a SOURCE, in ascending number. -/
def landWins (s : State) (site source : Nat) : List Win :=
  ((List.range 32).map (fun n => winGet (tileAt s site).pad n)).filter (fun w => w.typ == 1 && w.source.toNat == source)
/-- The site of logical tile (0, 0) of a region. -/
def originSite (s : State) (reg : Nat) : Option Nat :=
  s.load.img.bind (fun i => (placedOf s.plc.courses reg).bind (fun p => placedSite i p 0 0))
/-- The lane, token and page-table windows of a pipeline with the tile that they lie on (R367, R386). -/
def laneWins (s : State) (q h : Nat) : Option (Nat × Win × Win × Win) :=
  (entryReg s q).bind (fun r => (originSite s r.1).bind (fun z =>
    match landWins s z (16 + h) with
    | a :: b :: c :: _ => some (z, a, b, c)
    | _ => none))
/-- PTL of a pipeline: page-table lines per lane (R386). -/
def ptlOf (s : State) (q h : Nat) : Nat :=
  match laneWins s q h with
  | some w => w.2.2.2.lines.toNat / max 1 (lanesOf s q)
  | none => 0

/-- The queue tasks that an engine may dispatch in this frame: eligible, not cancelled, their record READY and their stream open
(R365, R370, R371). -/
def eligible (s : State) (t : QTask) : Option Task :=
  if t.from_ ≤ s.frames ∧ !(t.gone.any (fun g => decide (g ≤ s.frames))) then
    match taskOf (engAt s (sidEng t.sid)) t.slot with
    | some r => if r.st = .ready ∧ ctxOpen (ctxAt s t.sid) ∧ (ctxAt s t.sid).fin = 0 then some r else none
    | none => none
  else none
/-- Whether a queue entry is dead: its task has ended or its stream is no longer open. -/
def stale (s : State) (t : QTask) : Bool :=
  match taskOf (engAt s (sidEng t.sid)) t.slot with
  | some r => taskOver r || !ctxOpen (ctxAt s t.sid) || (t.gone.any (fun g => decide (g ≤ s.frames)))
  | none => true

/-- A stream whose next chunk fits no class or whose pages exceed the page-table lines ends with END = LENGTH (R361, R386). -/
def lengthEnd (p : Pipe) (ptl : Nat) (t : QTask) (s : State) : State :=
  match eligible s t with
  | none => s
  | some r =>
    let c := ctxAt s t.sid
    let k := chunkFor s t.sid r
    let n := pagesBelow (geomAt s c.pipe.toNat) c.tier (k.pos + k.ntok)
    if (classFor p (limitsDram s t.sid) (k.pos + k.ntok)).isNone ∨ 16 * ptl < n then
      taskFail (sidEng t.sid) r 7 7 (streamEnd t.sid 4 s)
    else s

/-! ### The decision (R365, R366, R463) -/

/-- A queue task with the class it requires. -/
structure Cand where
  t : QTask
  cls : Nat
deriving DecidableEq, Repr

/-- The lane loop's progress: the tasks left, the lanes filled, and whether a decode went before an eligible prefill. -/
structure Fill where
  rest : List Cand
  got : List (Nat × Cand)
  pre : Bool
deriving DecidableEq, Repr

/-- The task that a lane of class n takes (R366). -/
def laneTask (preempt : Nat) (n : Nat) (l : List Cand) : Option Cand × Bool :=
  let dc := l.filter (fun c => c.cls == n && !c.t.pf)
  let pf := l.filter (fun c => c.cls == n && c.t.pf)
  match dc.find? (fun c => decide (preempt ≤ c.t.wait)) with
  | some c => (some c, !pf.isEmpty)
  | none => match pf with
    | c :: _ => (some c, false)
    | [] => (dc.head?, false)

/-- Fill lane k at beat b (R362, R363, R366, R463). -/
def fillLane (p : Pipe) (b : Nat) (nch : Option Nat) (f : Fill) (k : Nat) : Fill :=
  let n := tempoOf p k
  let opens := match nch with
    | some c => decide (0 < c) && b % max 1 c == 0
    | none => (b + k) % n == 0
  if b < sget 0 p.drain k ∨ !opens then f
  else
    match laneTask p.preempt.toNat (tempoCode p k) f.rest with
    | (none, _) => f
    | (some c, pre) => ⟨f.rest.erase c, f.got ++ [(k, c)], f.pre || pre⟩

/-- The lane record of a dispatch (R211, R367). -/
def laneRecord (sid : Nat) (c : Ctx) (k : Chunk) (cls : Nat) (pf : Bool) : Word :=
  fields [(0, sid), (14, c.aslot.toNat), (22, b1 c.aen), (23, 1), (24, cls), (26, b1 pf), (27, b1 k.last), (28, k.ntok), (36, k.pos), (56, b1 c.tier)]

/-- The tokens of a chunk: LAST_TOKEN for a decode step, else from the token history (R351, R367). -/
def chunkTokens (s : State) (sid : Nat) (k : Chunk) (decode : Bool) : List Nat :=
  if decode then [(ctxAt s sid).lastToken.toNat] else (List.range k.ntok).map (fun i => histWord s sid (k.pos + i) % 2 ^ 18)
/-- Whether a word that a dispatch reads is uncorrectable: a history word or a page-table entry (R546). -/
def dispatchBad (s : State) (sid : Nat) (k : Chunk) (decode : Bool) (pages : Nat) : Bool :=
  (!decode && (List.range k.ntok).any (fun i => histBad s sid (k.pos + i))) || (List.range pages).any (fun n => pteBad s sid n)

/-- A stream's count moves to the class of its dispatch (R364). -/
def moveClass (old new : Nat) (p : Pipe) : Pipe :=
  if old = new then p else { p with adm := lupd (lupd p.adm old (· - 1)) new (· + 1) }

/-- Perform the dispatch of a task in lane k at beat b, whose beat begins at frame f (R364-R368, R420, R427). -/
def dispatch (q b f : Nat) (k : Nat) (c : Cand) (s : State) : State :=
  let sid := c.t.sid
  let n := sidEng sid
  match taskOf (engAt s n) c.t.slot with
  | none => s
  | some t =>
    let ch := chunkFor s sid t
    let x := ctxAt s sid
    let bp := beatOf s q
    let tempo := 2 ^ c.cls
    let len := chainLen s q
    let e := bp.1 * (b + len * tempo) + bp.2
    let smp := bp.1 * (b + (len - 1) * tempo) + bp.2
    let fl : Flight := ⟨t.slot, f, tempo, smp, e, k, ch.pos, ch.ntok, ch.last, t.kind == 8, [], none⟩
    let t1 := { t with sent := t.sent + (if t.kind = 4 then 1 else ch.ntok), wait := 0, st := if ch.whole then .active else .ready, noticed := !(t.kind == 4) }
    let s1 := engEdit n (taskSet t1) s
    let s2 := ctxPut s1 sid { x with
      tempo := BitVec.ofNat 2 c.cls, st := if t.kind = 4 then .decode else .prefill
      laneBeats := x.laneBeats + len * tempo, flights := x.flights ++ [fl] }
    pipeUpd q (fun p =>
      let again := if ch.whole then [] else [{ c.t with from_ := s.frames + 1, first := none, wait := 0 }]
      { moveClass x.tempo.toNat c.cls p with
        entries := p.entries + 1
        lastEntry := sset 0 p.lastEntry k (b + len * tempo)
        queue := p.queue.filter (fun t => !(t.sid == c.t.sid && t.slot == c.t.slot)) ++ again }) s2

/-- Lines that a rim die holds for release at a frame. -/
def rimPush (code : Nat) (ls : List RimLine) (s : State) : State :=
  onGrid (fun g => { g with rimQ := sset [] g.rimQ code (sget [] g.rimQ code ++ ls) }) s
/-- 32-bit elements packed from a list, in lines (R93). -/
def packTokens (l : List Nat) (lines : Nat) : List (List RWord) :=
  (List.range lines).map (fun j => (List.range 16).map (fun w =>
    ⟨fields [(0, lget 0 l (32 * j + 2 * w)), (32, lget 0 l (32 * j + 2 * w + 1))], false⟩))

/-- The lines of a decision: lane records, tokens and page-table entries (R367, R386). -/
def decisionLines (s : State) (q h f : Nat) (got : List (Nat × Cand)) : List RimLine :=
  match laneWins s q h with
  | none => []
  | some w =>
    let lanes := lanesOf s q
    let tl := (4 * chunkOf s q + 127) / 128
    let ptl := ptlOf s q h
    let rel := BitVec.ofNat 8 f
    let info := fun (k : Nat) => (got.find? (fun g => g.1 == k)).bind (fun g =>
      (taskOf (engAt s (sidEng g.2.t.sid)) g.2.t.slot).map (fun t => (g.2, t, chunkFor s g.2.t.sid t)))
    let rec_ := fun (k : Nat) => match info k with
      | some x => laneRecord x.1.t.sid (ctxAt s x.1.t.sid) x.2.2 x.1.cls (x.2.1.kind != 4)
      | none => 0
    let line := fun (win : Win) (j : Nat) (ws : List RWord) => (⟨w.1, lineAdd win.base j, rel, ws⟩ : RimLine)
    let recs := (List.range ((lanes + 15) / 16)).map (fun j => line w.2.1 j ((List.range 16).map (fun i => ⟨rec_ (16 * j + i), false⟩)))
    let toks := (List.range lanes).flatMap (fun k =>
      let l := match info k with | some x => chunkTokens s x.1.t.sid x.2.2 (x.2.1.kind == 4) | none => []
      ((List.range tl).zip (packTokens l tl)).map (fun jw => line w.2.2.1 (k * tl + jw.1) jw.2))
    let ptes := (List.range lanes).flatMap (fun k => (List.range ptl).map (fun j =>
      line w.2.2.2 (k * ptl + j) (match info k with
        | some x =>
          let c := ctxAt s x.1.t.sid
          let n := pagesBelow (geomAt s q) c.tier (x.2.2.pos + x.2.2.ntok)
          (List.range 16).map (fun i => ⟨if 16 * j + i < n then pteAt s x.1.t.sid (16 * j + i) else 0xF, false⟩)
        | none => List.replicate 16 RWord.zero)))
    recs ++ toks ++ ptes

/-- The landing offset of a pipeline's lane window (0) or sampling window (1), at least 4 frames (R365, R439). -/
def landOffset (s : State) (q which : Nat) : Nat := max 4 (Config.landing s.load.activeId q which)

/-- The beats of a pipeline that begin after this frame's start up to a frame. -/
def beatsAhead (s : State) (q f : Nat) : Nat :=
  let bp := beatOf s q
  (f - bp.2) / bp.1 - (s.frames - bp.2) / bp.1
/-- Whether the beat that begins at frame f falls in a hold of the pipeline (R162, R365). -/
def beatHeld (s : State) (q f : Nat) : Bool :=
  s.grid.held.contains q && !(s.grid.begun.contains q && decide (0 < sget 0 s.grid.release q) && decide (sget 0 s.grid.release q ≤ beatsAhead s q f))

/-- The decision of a pipeline for beat b, whose first frame is f (R366). -/
def decide1 (q h b f : Nat) (s0 : State) : State :=
  let p0 := pipeAt (engAt s0 h) q
  let ptl := ptlOf s0 q h
  let s := p0.queue.foldl (fun acc t => lengthEnd p0 ptl t acc) s0
  let mark := fun (t : QTask) => if (eligible s t).isSome ∧ t.first.isNone then { t with first := some s.frames } else t
  let s1 := pipeUpd q (fun p => { p with queue := (p.queue.filter (fun t => !stale s t)).map mark }) s
  let p := pipeAt (engAt s1 h) q
  let cands := (sortBy (fun t => 16384 * t.first.getD 0 + t.sid) (p.queue.filter (fun t => (eligible s1 t).isSome))).filterMap (fun t =>
    (eligible s1 t).bind (fun r =>
      let k := chunkFor s1 t.sid r
      (classFor p (limitsDram s1 t.sid) (k.pos + k.ntok)).map (fun n => (⟨t, n⟩ : Cand))))
  let fill := (List.range (lanesOf s1 q)).foldl (fillLane p b (nchOf s1 q)) ⟨cands, [], false⟩
  let bad := fill.got.filter (fun g => (taskOf (engAt s1 (sidEng g.2.t.sid)) g.2.t.slot).any (fun r =>
    let k := chunkFor s1 g.2.t.sid r
    dispatchBad s1 g.2.t.sid k (r.kind == 4) (pagesBelow (geomAt s1 q) (ctxAt s1 g.2.t.sid).tier (k.pos + k.ntok))))
  let got := fill.got.filter (fun g => !bad.contains g)
  let s2 := rimPush (16 + h) (decisionLines s1 q h f got) s1
  let took := got.map (fun g => g.2.cls)
  let waits := (fill.rest.filter (fun c => took.contains c.cls)).map Cand.t
  let bump := fun (n : Nat) => min 0xFFFF (n + 1)
  let s3 := waits.foldl (fun acc t => engEdit (sidEng t.sid) (fun e => match taskOf e t.slot with
    | some r => taskSet { r with wait := bump r.wait } e
    | none => e) acc) s2
  let s4 := pipeUpd q (fun p => { p with
    queue := p.queue.map (fun t => if waits.contains t then { t with wait := bump t.wait } else t)
    preempts := if fill.pre then satInc p.preempts else p.preempts
    passFilled := match nchOf s1 q with
      | some c => if 0 < c ∧ b % max 1 c = 0 then sset false p.passFilled b (!got.isEmpty) else p.passFilled
      | none => p.passFilled }) s3
  let s5 := got.foldl (fun acc g => dispatch q b f g.1 g.2 acc) s4
  bad.foldl (fun acc g => streamFault g.2.t.sid 12 1 acc) s5

/-- DISPATCH_DECISION: in frame F − D the home engine fills the lanes of the beat that begins at F and delivers its lines; no
decision is made for a beat in a hold, by a stopped engine or during a warm reset (R365-R367). -/
def execDispatchDecision (q : Byte) (s : State) : Host.Outcome State Fault Refusal :=
  let p := q.toNat
  match homeEng s p with
  | none => .next s
  | some h =>
    let f := s.frames + landOffset s p 0
    let bp := beatOf s p
    if (engAt s h).stopped ∨ s.svc.warming ∨ gridStopped s ∨ f < bp.2 ∨ (f - bp.2) % bp.1 ≠ 0 ∨ beatHeld s p f then .next s
    else .next (decide1 p h ((f - bp.2) / bp.1) f s)

/-! ### Sampling deliveries and step results (R418, R439) -/

/-- The stream and step of a pipeline whose lane enters the SAMPLE region at a frame. -/
def sampleFlight (s : State) (q lane f : Nat) : Option (Nat × Flight) :=
  (busySids s).findSome? (fun sid =>
    let c := ctxAt s sid
    if c.pipe.toNat = q then (c.flights.find? (fun x => x.lane == lane && x.sample == f)).map (fun x => (sid, x)) else none)

/-- SAMPLING_DELIVERY: in frame F − D the anchor die delivers the parameter copy and the count table of the lane that enters the
SAMPLE region at F, or zero lines for an idle lane (R439). -/
def execSamplingDelivery (q : Byte) (lane : BitVec 6) (s : State) : Host.Outcome State Fault Refusal :=
  let p := q.toNat
  match sampleReg s p with
  | none => .next s
  | some r =>
    match originSite s r.1 with
    | none => .next s
    | some z =>
      match landWins s z r.2.anchor with
      | [] => .next s
      | w :: _ =>
        let f := s.frames + landOffset s p 1
        let put := fun (j : Nat) (ws : List RWord) => (⟨z, lineAdd w.base (130 * lane.toNat + j), BitVec.ofNat 8 f, ws⟩ : RimLine)
        match sampleFlight s p lane.toNat f with
        | none => .next (rimPush r.2.anchor ((List.range 130).map (fun j => put j (List.replicate 16 RWord.zero))) s)
        | some x =>
          let rd := dramReads s (streamRec x.1 / 8) (16 * 130)
          let s1 := rimPush r.2.anchor ((List.range 130).map (fun j => put j ((rd.1.drop (16 * j)).take 16))) rd.2
          .next (ctxUpd x.1 (fun c => { c with flights := c.flights.map (fun y =>
            if y = x.2 then { y with params := bitsOf (rd.1.take 16) } else y) }) s1)

/-- STEP_RESULT: a step result reaches the engine of its stream and waits for the commit boundary (R418, R420). -/
def execStepResult (a : StepArgs) (s : State) : Host.Outcome State Fault Refusal :=
  let r : StepRes := ⟨a.sid.toNat, a.lane.toNat, a.status, a.last, a.prefill, a.token, a.pos.toNat, a.ntok.toNat, a.logp⟩
  let c := ctxAt s a.sid.toNat
  match c.flights.find? (fun x => x.lane == a.lane.toNat && x.pos == a.pos.toNat && x.ntok == a.ntok.toNat && x.res.isNone) with
  | none => .next s
  | some x => .next (ctxUpd a.sid.toNat (fun c => { c with flights := c.flights.map (fun y => if y = x then { y with res := some r } else y) }) s)

end Sys2Proof.Machine
end

