-- ==== Sys2Proof/Machine/Rings.lean ====
section
/-! DEFINITION. Token commits, count tables, the closing of streams, ring records and hardware locks (R415-R417, R420-R433, R437,
R438, R445). -/

namespace Sys2Proof.Machine

/-! ### Count tables (R437, R438, R455) -/

/-- A 32-bit word of module DRAM as it stands. -/
def dram32 (s : State) (a : Nat) : Nat := leNat (dramPeek s a 4)
/-- The address of the header of a stream's count table. -/
def countHead (sid : Nat) : Nat := streamRec sid + 128
/-- The address of entry i of the table. -/
def countEntry (sid i : Nat) : Nat := streamRec sid + 256 + 4 * i
/-- The address of spill entry i. -/
def spillEntry (sid i : Nat) : Nat := streamRec sid + 128 * 130 + 4 * i
/-- NUSED of a table. -/
def countUsed (s : State) (sid : Nat) : Nat := leNat (dramPeek s (countHead sid) 2)
/-- NSPILL of a table. -/
def countSpill (s : State) (sid : Nat) : Nat := leNat (dramPeek s (countHead sid + 2) 4)
/-- Set a bit of the table's FLAGS: 0 SAT, 1 SPILL_FULL. -/
def countFlag (sid bit : Nat) (s : State) : State :=
  dramStore s (countHead sid + 6) [dramByte s (countHead sid + 6) ||| BitVec.ofNat 8 (2 ^ bit)]
/-- Count a token at an entry that holds it: saturating at 255, with SAT where the count was there already (R438). -/
def countBump (sid a : Nat) (s : State) : State :=
  let v := dram32 s a
  if v / 2 ^ 24 = 255 then countFlag sid 0 s else dramStore s a (leBytes 4 (v + 2 ^ 24))
/-- The report of a spill (R438, R548). -/
def spillRpt (sid : Nat) (s : State) : State :=
  sendRpt s (engNode (sidEng sid)) 0x17 (BitVec.ofNat 64 (engNode (sidEng sid))) [BitVec.ofNat 64 sid]
/-- A committed token is counted in its stream's table or spill area (R438). -/
def countToken (sid tok : Nat) (s : State) : State :=
  let used := countUsed s sid
  let nsp := countSpill s sid
  match (List.range used).find? (fun i => dram32 s (countEntry sid i) % 2 ^ 18 == tok) with
  | some i => countBump sid (countEntry sid i) s
  | none =>
    if used < 4096 then
      dramStore (dramStore s (countEntry sid used) (leBytes 4 (tok + 2 ^ 24))) (countHead sid) (leBytes 2 (used + 1))
    else
      match (List.range nsp).find? (fun i => dram32 s (spillEntry sid i) % 2 ^ 18 == tok) with
      | some i => countBump sid (spillEntry sid i) s
      | none =>
        if nsp < 12224 then
          let s1 := dramStore (dramStore s (spillEntry sid nsp) (leBytes 4 (tok + 2 ^ 24))) (countHead sid + 2) (leBytes 4 (nsp + 1))
          if nsp = 0 then spillRpt sid s1 else s1
        else spillRpt sid (countFlag sid 1 s)
/-- Whether a word of a stream's count table or the used part of its spill area is uncorrectable. -/
def countBad (s : State) (sid : Nat) : Bool :=
  (List.range 2064).any (fun w => dramBad s (countHead sid + 8 * w)) ||
    (List.range (countSpill s sid)).any (fun i => dramBad s (spillEntry sid i))

/-! ### The token commit (R420-R422, R445) -/

/-- The stop tokens of a parameter copy (R434). -/
def stopTokens (ws : List Word) : List Nat :=
  (List.range (byteOf ws 1).toNat).map (fun i => leNat ((List.range 4).map (fun b => byteOf ws (48 + 4 * i + b))))
/-- The end condition that a commit reaches: 1 STOP, 2 MAX_NEW, 3 MAX_CTX (R368, R445). -/
def endOf (c : Ctx) (params : List Word) (tok : Nat) : Option Nat :=
  if (stopTokens params).contains tok then some 1
  else if c.maxNew ≠ 0 ∧ c.maxNew.toNat ≤ c.gend.toNat then some 2
  else if c.maxCtx.toNat ≤ c.len.toNat then some 3
  else none

/-- The ring takes a committed token: as a TOKEN record, or into the pending batch, which is enqueued at 8 tokens (R421, R427,
R430). -/
def ringToken (s : State) (tok : BitVec 18) (logp : BitVec 32) (c : Ctx) : Ctx :=
  let e := (frameCtr s).toNat
  if c.flags.getLsbD 1 then
    let d := { c with batch := c.batch ++ [(tok, logp)], batchAt := if c.batch.isEmpty then e else c.batchAt }
    if d.batch.length = 8 then batchFlush d else d
  else recPut 1 1 (tokenBody c tok logp e) c

/-- The changes of R421 for a step whose LAST is 1: the token, its history position, its count and its record. -/
def commitToken (sid : Nat) (r : StepRes) (s : State) : State :=
  let c := ctxAt s sid
  let p := c.len.toNat
  let s1 := if p < 1048576 then dramStore s (histAddr sid + 4 * p) (leBytes 4 r.token.toNat) else s
  let s2 := countToken sid r.token.toNat s1
  ctxPut s2 sid (ringToken s r.token r.logp { c with lastToken := r.token, gend := c.gend + 1 })

/-- What the commit of a step does to its task: a PREFILL is DONE with its last chunk; a DECODE is DONE at an end condition or
with its last step, and otherwise READY (R353, R368). -/
def commitTask (sid : Nat) (t : Task) (f : Flight) (ended : Bool) (s : State) : State :=
  let n := sidEng sid
  if t.kind = 4 then
    let t1 := { t with done := t.done + 1 }
    let steps := taskPar t 16 4
    if ended ∨ (steps ≠ 0 ∧ steps ≤ t1.done) then taskDone n t1 s else engEdit n (taskSet { t1 with st := .ready }) s
  else
    let t1 := { t with done := t.done + f.ntok }
    let total := if t.kind = 3 then taskPar t 20 4 else (ctxAt s sid).len.toNat
    if total ≤ t1.done then taskDone n t1 s else engEdit n (taskSet t1) s

/-- A step commits (R421): every change is visible at once; an end condition is followed by an END record. A REPLAY chunk only
advances its task. -/
def commitStep (sid : Nat) (t : Task) (f : Flight) (r : StepRes) (s : State) : State :=
  if f.replay then commitTask sid t f false s
  else
    let s1 := ctxUpd sid (fun c => { c with len := BitVec.ofNat 21 (f.pos + f.ntok), prompt := c.prompt + if t.kind = 3 then f.ntok else 0 }) s
    if f.last then
      if countBad s1 sid then taskFail (sidEng sid) t 12 1 s1
      else
        let s2 := commitToken sid r s1
        match endOf (ctxAt s2 sid) f.params r.token.toNat with
        | some k => commitTask sid t f true (streamEnd sid k s2)
        | none => commitTask sid t f false s2
    else commitTask sid t f false s1

/-- The CAUSE of a step that may not commit: a late or a bad result; 0 where it commits (R420, R422). A reserved STATUS counts
as POISON. -/
def badStep (f : Flight) : Nat :=
  match f.res with
  | none => 3
  | some r => if r.status = 0 then 0 else if r.status = 2 then 2 else 1

/-- The commit boundary of a dispatched step (R420-R422). The steps of a stream are taken in order of dispatch, and a stream that
is closing commits none. -/
def flightDue (sid : Nat) (f : Flight) (s : State) : State :=
  let c := ctxAt s sid
  let left := c.flights.filter (fun g => g ≠ f)
  let s1 := ctxPut s sid { c with flights := left, st := if ctxOpen c ∧ left.isEmpty ∧ c.st ≠ .waitSt then .openSt else c.st }
  if !ctxOpen c then s1
  else
    match taskOf (engAt s1 (sidEng sid)) f.task with
    | none => s1
    | some t =>
      if taskOver t then s1
      else
        match badStep f, f.res with
        | 0, some r => commitStep sid t f r s1
        | k, _ => taskFail (sidEng sid) t 12 k s1

/-- The steps of a stream that reach their commit boundary at this frame boundary. -/
def commitsDue (sid : Nat) (s : State) : State :=
  ((ctxAt s sid).flights.filter (fun f => decide (f.e ≤ s.frames))).foldl (fun acc f => flightDue sid f acc) s

/-- The steps whose entry beat begins at this boundary mark their adapter slot and their model as used (R133, R169). -/
def entriesDue (sid : Nat) (s : State) : State :=
  let c := ctxAt s sid
  if c.flights.any (fun f => f.entry == s.frames) then
    let s1 := if c.aen then adPut c.m.toNat c.aslot.toNat { adAt s c.m.toNat c.aslot.toNat with lastUse := frameCtr s } s else s
    residUpd c.m.toNat (fun r => if r.st = .free then r else { r with lastUse := frameCtr s }) s1
  else s

/-! ### Closing a stream (R423, R433) -/

/-- A context becomes FREE and keeps what R433 names. -/
def ctxFreed (c : Ctx) : Ctx :=
  { Ctx.free with tenant := c.tenant, fin := c.fin, len := c.len, lastToken := c.lastToken, gend := c.gend, gen := c.gen, seq := c.seq, head := c.head }
/-- A closed context whose records are all written or discarded becomes FREE (R423). -/
def ctxFinish (sid : Nat) (s : State) : State :=
  let c := ctxAt s sid
  if c.st = .closing ∧ c.closed ∧ c.recs.isEmpty ∧ c.batch.isEmpty then ctxPut s sid (ctxFreed c) else s

/-- CLOSING_COMMIT: once the commit boundary of every dispatched lane has passed, the closing commit's group is opened (R423). -/
def execClosingCommit (sid : Sid) (s : State) : Host.Outcome State Fault Refusal :=
  let x := sid.toNat
  let c := ctxAt s x
  if c.st ≠ .closing ∨ c.closing ∨ !c.flights.isEmpty then .next s
  else
    let own := ((List.range 1024).map (pteAt s x)).flatMap (pteGranules s c.pipe.toNat)
    let items := (engNode (sidEng x), CgItem.closing x) :: own.map (fun sg => (sg.1, CgItem.pageOwn sg.1 sg.2 0))
    match cgStart items s with
    | none => .next s
    | some g => .next (ctxUpd x (fun c => { c with closing := true }) g.2)

/-- The closing commit applies: the pages, the admitted count and the adapter binding are released (R423). -/
def closingApply (sid : Nat) (s : State) : State :=
  let c := ctxAt s sid
  if c.st ≠ .closing then s
  else
    let q := c.pipe.toNat
    let olds := (List.range 1024).map (pteAt s sid)
    let s1 := olds.foldl (fun acc e => freeHome q e acc) s
    let s2 := (List.range 1024).foldl (fun acc n => if pteAt acc sid n = 0xF then acc else ptePut sid n 0xF acc) s1
    let s3 := unbind sid (pipeUpd q (fun p => { p with adm := lupd p.adm c.tempo.toNat (· - 1) }) s2)
    ctxFinish sid (ctxUpd sid (fun c => { c with closed := true }) s3)

/-! ### Ring records (R426-R432, R531) -/

/-- The 64 bytes of a record: header, body and tag, sealed where the ring has SEAL set (R426, R531). -/
def recBytes (s : State) (sid : Nat) (c : Ctx) (r : RingRec) : List Byte :=
  let sealOn := c.flags.getLsbD 0
  let phase := 1 - r.seq.toNat / 2 ^ c.log2n.toNat % 2
  let head := [r.typ, BitVec.ofNat 8 (phase + 2 * b1 sealOn)] ++ leBytes 2 sid ++ leBytes 2 c.gen.toNat ++ [r.n, 0] ++
    leBytes 4 r.seq.toNat ++ leBytes 4 r.cidx.toNat
  let body := (r.body ++ List.replicate 32 0).take 32
  match sealOn, sealKey s.sec c.tenant.toNat with
  | true, some k =>
    let nonce := leBytes 4 c.nonce.toNat ++ leBytes 2 sid ++ leBytes 2 c.gen.toNat ++ leBytes 4 r.seq.toNat
    (head ++ Config.gcm k nonce head body ++ List.replicate 48 0).take 64
  | _, _ => head ++ body ++ List.replicate 16 0

/-- LED3 is on for 50 ms after each ring record that the module writes (R627). -/
def ledPulse (s : State) : State := { s with svc := { s.svc with led3Until := s.time + 50000000 * 7927920 } }

/-- The engine hands a record to the link dies as one one-sided write (R428). -/
def recSend (sid : Nat) (r : RingRec) (s : State) : State :=
  let c := ctxAt s sid
  ledPulse <| klpSend c.session.toNat false 0x12 (c.raddr + BitVec.ofNat 64 (64 * (r.seq.toNat % 2 ^ c.log2n.toNat))) (recBytes s sid c r) s

/-- RING_RECORD_WRITE: the oldest pending record is written when SEQ − HEAD is below the ring's size (R428). -/
def execRingRecordWrite (sid : Sid) (s : State) : Host.Outcome State Fault Refusal :=
  let x := sid.toNat
  let c := ctxAt s x
  match c.recs with
  | [] => .next s
  | r :: rest =>
    if (r.seq - c.head).toNat < 2 ^ c.log2n.toNat then
      .next (ctxFinish x (ctxUpd x (fun c => { c with recs := rest, written := c.written ++ [r] }) (recSend x r s)))
    else .next s

/-- After a warm reset the engine writes again every record from HEAD up to the last one handed over (R432). -/
def recRewrite (sid : Nat) (s : State) : State := (ctxAt s sid).written.foldl (fun acc r => recSend sid r acc) s

/-- BATCH_TIMEOUT: BATCH_FR frames after its first token a pending batch is enqueued (R430). -/
def execBatchTimeout (sid : Sid) (s : State) : Host.Outcome State Fault Refusal :=
  let c := ctxAt s sid.toNat
  if !c.batch.isEmpty ∧ c.batchAt + c.batchFr.toNat ≤ s.frames then .next (ctxPut s sid.toNat (batchFlush c)) else .next s

/-- RCREDIT: a HEAD that lies from the current one to SEQ is accepted; any other, and a GEN that does not match, is ignored, as is
another tenant's credit, which is a failed check (R428, R518). -/
def execRcredit (sess : SessId) (arg : Word) (s : State) : Host.Outcome State Fault Refusal :=
  .next (gated (hostGate s sess.toNat) s (
    let sid := bitsAt arg 0 14
    let c := ctxAt s sid
    let tenant := match sessAt s sess.toNat with | some y => y.tenant | none => 0
    let head := BitVec.ofNat 32 (bitsAt arg 32 32)
    if c.st = .free ∨ c.st = .admitting ∨ c.gen.toNat ≠ bitsAt arg 14 16 then answerCode s 0
    else if c.tenant ≠ tenant then answerCode (tenantViol s 6 tenant c.tenant (engNode (sidEng sid))) 0
    else if (head - c.head).toNat ≤ (c.seq - c.head).toNat then
      answerCode (ctxPut s sid { c with head := head, written := c.written.filter (fun r => decide ((head - c.head).toNat ≤ (r.seq - c.head).toNat)) }) 0
    else answerCode s 0))

/-! ### Locks (R415-R417) -/

/-- A lock. -/
def lockAt (s : State) (n : Nat) : Lock := sget Lock.reset s.locks n
/-- Store a lock. -/
def lockPut (n : Nat) (l : Lock) (s : State) : State := { s with locks := sset Lock.reset s.locks n l }
/-- A lock command of an agent: OP 1 ACQUIRE, 2 RELEASE; other values do nothing (R415, R416). -/
def lockOp (agent aepoch : BitVec 16) (n op : Nat) (s : State) : State :=
  let l := lockAt s n
  if op = 1 ∧ !l.held then lockPut n { l with held := true, holder := agent, aepoch := aepoch, lepoch := l.lepoch + 1 } s
  else if op = 2 ∧ l.held ∧ l.holder = agent ∧ l.aepoch = aepoch then lockPut n { l with held := false, abandoned := false } s
  else s
/-- ACQUIRE: a free lock is granted to the agent; a held one is left as it is (R416). -/
def execAcquire (agent aepoch : BitVec 16) (lock : Byte) (s : State) : Host.Outcome State Fault Refusal :=
  .next (lockOp agent aepoch lock.toNat 1 s)
/-- RELEASE: the holder frees its lock and clears ABANDONED; any other RELEASE changes nothing (R416). -/
def execRelease (agent aepoch : BitVec 16) (lock : Byte) (s : State) : Host.Outcome State Fault Refusal :=
  .next (lockOp agent aepoch lock.toNat 2 s)
/-- Abandon every held lock that a test accepts (R417). -/
def abandonLocks (p : Lock → Bool) (s : State) : State :=
  { s with locks := stab Lock.reset 256 (fun n =>
      let l := lockAt s n
      if l.held && p l then { l with held := false, abandoned := true } else l) }

end Sys2Proof.Machine
end

