-- ==== Sys2Proof/Machine/Bulk.lean ====
section
/-! DEFINITION. What the memory dies do for lanes: fetches and appends of DRAM pages, scrubbing, the extent table, and the streamed
bulk class (R392, R398, R452, R453, R456-R466). -/

namespace Sys2Proof.Machine

/-! ### Fetches and appends (R392, R398, R518) -/

/-- The pool tile that a FETCH of a die names by its index and landing line, with its pipeline: that of the first POOL region
whose tile has a landing window of the die at the line. -/
def fetchTile (s : State) (die wtile line : Nat) : Option (Nat × Nat) :=
  match s.load.img with
  | none => none
  | some i => (List.range i.regions.length).findSome? (fun n => (regAt i n).bind (fun r =>
      if r.role ≠ 2 then none
      else (placedOf s.plc.courses n).bind (fun p => ((regSites i p)[wtile]?).bind (fun z =>
        if (landWins s z (16 + die)).any (fun w => winHas w (BitVec.ofNat 16 line)) then some (z, r.pipe) else none))))

/-- The source line, within the page, of each line of a block's landing, none for a line of zeros (R383, R392). -/
def blockLines (kv4 : Bool) (npl p blk : Nat) : List (Option Nat) :=
  let per := planeLines kv4 p
  let v := min 128 p
  let part := fun (base n at_ full : Nat) => (List.range full).map (fun j => if j < n then some (base + at_ + j) else none)
  (List.range npl).flatMap (fun pl =>
    let b := pl * per
    let ks := b + kLines kv4 p
    let vv := ks + (p + 31) / 32
    let vs := vv + kLines kv4 p
    part b (kLines kv4 v) (kLines kv4 128 * blk) (kLines kv4 128) ++ part ks ((v + 31) / 32) (4 * blk) 4 ++
      part vv (kLines kv4 v) (kLines kv4 128 * blk) (kLines kv4 128) ++ part vs ((v + 7) / 8) (16 * blk) 16)

/-- Whether the granules of lines of a DRAM page belong to a tenant. -/
def linesOwned (s : State) (tenant : BitVec 12) (dline : Nat) (ls : List (Option Nat)) : Bool :=
  ls.all (fun l => match l with | some j => granOwner s (128 * (dline + j)) == some tenant | none => true)

/-- FETCH: the die delivers one block of a DRAM page to the work tile; zero lines with NULL set, and every line marked poisoned
where the tenant check fails (R391, R392, R518). -/
def execFetch (w0 w1 : Word) (s : State) : Host.Outcome State Fault Refusal :=
  let die := bitsAt w0 5 4
  let line := bitsAt w0 15 16
  match fetchTile s die (bitsAt w0 9 6) line with
  | none => .next s
  | some zq =>
    let g := geomAt s zq.2
    let ls := blockLines (geomKv4 g) (geomNpl g) (pageSize (min 8 (bitsAt w0 39 4))) (bitsAt w0 43 5)
    let dline := bitsAt w1 0 38
    let tenant := BitVec.ofNat 12 (bitsAt w1 38 12)
    let rel := BitVec.ofNat 8 (bitsAt w0 31 8)
    let put := fun (j : Nat) (ws : List RWord) => (⟨zq.1, lineAdd (BitVec.ofNat 16 line) j, rel, ws⟩ : RimLine)
    let zero := List.replicate 16 RWord.zero
    if w0.getLsbD 4 then .next (rimPush (16 + die) ((List.range ls.length).map (fun j => put j zero)) s)
    else if !linesOwned s tenant dline ls then
      .next (rimPush (16 + die) ((List.range ls.length).map (fun j => put j (markAll zero)))
        (tenantViol s 2 tenant ((granOwner s (128 * dline)).getD 0) (8080 + die)))
    else
      let r := ((List.range ls.length).zip ls).foldl (fun (acc : List RimLine × State) jl =>
        match jl.2 with
        | none => (acc.1 ++ [put jl.1 zero], acc.2)
        | some k =>
          let x := dramReads acc.2 (16 * (dline + k)) 16
          (acc.1 ++ [put jl.1 x.1], x.2)) ([], s)
      .next (rimPush (16 + die) r.1 r.2)

/-- DRAM_APPEND: the die writes the enabled bytes of a line of a DRAM page; nothing where the tenant check fails (R398, R518). -/
def execDramAppend (die : Die) (dline : BitVec 38) (tenant : BitVec 12) (mask : BitVec 128) (line : List Word) (s : State) :
    Host.Outcome State Fault Refusal :=
  let a := 128 * dline.toNat
  if dramDie a ≠ die.val then .next s
  else if granOwner s a ≠ some tenant then .next (tenantViol s 2 tenant ((granOwner s a).getD 0) (8080 + die.val))
  else .next ((List.range 16).foldl (fun acc w => dramMask acc (a / 8 + w) ((mask >>> (8 * w)).setWidth 8) (lget 0 line w)) s)

/-! ### Scrub and the extent table (R452, R456) -/

/-- SCRUB: a scrub period passes: with SCRUB_EN set the die reads every word it owns (R452). A word that no upset has changed reads
without effect. -/
def execScrub (die : Die) (s : State) : Host.Outcome State Fault Refusal :=
  if (mdAt s die).scrubEn then
    .next ((s.dram.filter (fun e => dramDie (8 * e.1) == die.val && e.2.ecc != .good)).foldl (fun acc e => (dramRead acc e.1).2) s)
  else .next s

/-- Whether an enabled submission queue lies in an extent of a die. -/
def extentQueue (s : State) (die e : Nat) : Bool :=
  let a := 0x8000000 * e + 0x800000 * die
  s.eng.any (fun n => n.2.sq.any (fun q =>
    q.2.en && decide (q.2.base.toNat < a + 0x800000) && decide (a < q.2.base.toNat + 64 * sqSize q.2)))
/-- A host write of an extent entry: FREE to HOST with a tenant, within HOST_MAX, or HOST to FREE where no enabled queue lies in the
extent; any other is ignored (R456, R541). -/
def extentPut (die e : Nat) (v : BitVec 32) (s : State) : State :=
  let d := mdAt s die
  let old := extClass (extAt d e)
  if old = 0 ∧ extClass v = 4 ∧ classCount d 4 < d.hostMax.toNat then mdPut s die (extPut d e (extEntry 4 (extTenant v) 0))
  else if old = 4 ∧ extClass v = 0 ∧ !extentQueue s die e then mdPut s die (extPut d e 0)
  else s
/-- EXTENT_TABLE_WRITE. -/
def execExtentTableWrite (die : Die) (e : BitVec 16) (v : BitVec 32) (s : State) : Host.Outcome State Fault Refusal :=
  .next (extentPut die e.toNat v s)

/-! ### The bulk stream (R458-R463) -/

/-- An item of a bulk stream: the skim lines of a slice or a macro record, with the lines that follow its header and the bytes
that it reads (R460, R461). -/
structure BulkItem where
  slice : Nat
  skim : Bool
  rec_ : Nat
  fmt : Nat
  logical : Nat
  lines : Nat
  bytes : Nat
deriving DecidableEq, Repr

/-- The library copy of a model that lies on a die. -/
def dieCopy (s : State) (m die : Nat) : Option (List Nat) := (residAt s m).lib.find? (fun es => es.all (fun x => x / 65536 == die))
/-- The weight tiles of a BULK region by logical index, each with its weight window (R459). -/
def bulkTiles (s : State) (reg anchor : Nat) : List (Nat × Win) :=
  match s.load.img, placedOf s.plc.courses reg with
  | some i, some p => (regSites i p).filterMap (fun z => ((landWins s z anchor).head?).map (fun w => (z, w)))
  | _, _ => []
/-- CHT of a BULK region. -/
def bulkCht (ts : List (Nat × Win)) : Nat := match ts with | t :: _ => t.2.lines.toNat / 2 | [] => 0
/-- The BULK region that a die streams: the one with the lowest REGION_ID (R458). -/
def dieBulk (s : State) (die : Nat) : Option (Nat × ImgRegion) :=
  match s.load.img with
  | none => none
  | some i => (sortBy (fun r => r.2.id) ((List.range i.regions.length).filterMap (fun n => (regAt i n).bind (fun r =>
      if r.role = 4 ∧ r.anchor = 16 + die then some (n, r) else none)))).head?

/-- The items of a stream in order: by slice, its skim item first, then its macro records (R458, R461). -/
def bulkItems (s : State) (r : Rd) (m first : Nat) : List BulkItem :=
  let n := match imgModel s m with | some x => x.2.nslice | none => 0
  ((sortBy SliceTab.id (shardSlices r)).filter (fun t => decide (first ≤ t.id) && decide (t.id < n))).flatMap (fun t =>
    (if 0 < t.skimLines then [⟨t.id, true, 0, t.fmt, 0, t.skimLines, 128 * t.skimLines⟩] else []) ++
      (List.range t.n).map (fun k => ⟨t.id, false, t.first + k, t.fmt, rdLe r (128 * mrecLine r (t.first + k)) 4,
        (if t.fmt = 3 then 128 else 256) + 16, 19200⟩))

/-- The packing of a stream so far: closed beats, and the open beat's parcels with the lines left in the last and the bytes read. -/
structure Packing where
  beats : List (List (List BulkItem))
  cur : List (List BulkItem)
  left : Nat
  bytes : Nat
deriving DecidableEq, Repr

/-- Place an item (R461). -/
def packItem (nwt cht budget : Nat) (p : Packing) (x : BulkItem) : Packing :=
  let need := x.lines + 1
  let fresh := fun (beats : List (List (List BulkItem))) => (⟨beats, [[x]], cht - 1 - need, x.bytes⟩ : Packing)
  match p.cur.getLast? with
  | none => fresh p.beats
  | some par =>
    let newSlice : Bool := match par.getLast? with | some y => y.slice != x.slice | none => false
    if newSlice ∨ budget < p.bytes + x.bytes then fresh (p.beats ++ [p.cur])
    else if need ≤ p.left then ⟨p.beats, p.cur.dropLast ++ [par ++ [x]], p.left - need, p.bytes + x.bytes⟩
    else if p.cur.length < nwt then ⟨p.beats, p.cur ++ [[x]], cht - 1 - need, p.bytes + x.bytes⟩
    else fresh (p.beats ++ [p.cur])
/-- The beats of a stream, each a list of parcels. -/
def packBeats (nwt cht budget : Nat) (xs : List BulkItem) : List (List (List BulkItem)) :=
  let p := xs.foldl (packItem nwt cht budget) ⟨[], [], 0, 0⟩
  if p.cur.isEmpty then p.beats else p.beats ++ [p.cur]

/-- BUDGET of a die for a region with B frames a beat (R461). -/
def bulkBudget (d : MemDie) (b : Nat) : Nat := d.bulkBw.toNat * b * 2048 * 10 / 11
/-- The beats of a die's stream (R461). -/
def dieBeats (s : State) (die : Nat) (reg : Nat × ImgRegion) (es : List Nat) : List (List (List BulkItem)) :=
  let ts := bulkTiles s reg.1 (16 + die)
  let rd : Rd := fun o => dramByte s (copyAddr es o)
  packBeats ts.length (bulkCht ts) (bulkBudget (mdAt s die) (max 1 reg.2.b)) (bulkItems s rd reg.2.model reg.2.firstSlice)

/-- The die computes NCH, or sets ERR: NO_COPY without a library copy on the die, ITEM_TOO_LONG for an item beyond CHT − 1 lines
or BUDGET (R461, R471). -/
def bulkCompute (die : Nat) (s : State) : State :=
  match dieBulk s die with
  | none => s
  | some reg =>
    let d := { mdAt s die with bulkPipe := BitVec.ofNat 8 reg.2.pipe, bulkM := BitVec.ofNat 8 reg.2.model }
    match dieCopy s reg.2.model die with
    | none => mdPut s die { d with bulkErr := 1, bulkValid := false }
    | some es =>
      let ts := bulkTiles s reg.1 (16 + die)
      let xs := bulkItems s (fun o => dramByte s (copyAddr es o)) reg.2.model reg.2.firstSlice
      if xs.any (fun x => decide (bulkCht ts < x.lines + 2) || decide (bulkBudget d (max 1 reg.2.b) < x.bytes)) then
        mdPut s die { d with bulkErr := 2, bulkValid := false }
      else mdPut s die { d with bulkErr := 0, bulkValid := true, nch := BitVec.ofNat 32 (dieBeats s die reg es).length }

/-- A write of REQ_PIPEq_CFG: PREEMPT_MAX and EN, in the home engine only; setting EN of a bulk pipeline makes its die compute
NCH (R360, R376, R461). -/
def pipeCfgPut (n q : Nat) (v : Word) (s : State) : State :=
  if homeEng s q ≠ some n then s
  else
    let on := v.getLsbD 12 && !(homePipe s q).en
    let s1 := pipeUpd q (fun p => { p with preempt := BitVec.ofNat 12 (bitsAt v 0 12), en := v.getLsbD 12 }) s
    match bulkReg s1 q with
    | some r => if on then bulkCompute (r.2.anchor - 16) s1 else s1
    | none => s1
/-- PIPE_ENABLE. -/
def execPipeEnable (engine : Die) (q : Byte) (v : Word) (s : State) : Host.Outcome State Fault Refusal :=
  .next (pipeCfgPut engine q.toNat v s)

/-- BULK_PASS: at a beat index that is a multiple of NCH a pass begins; the home engine has told the die whether any lane was
filled (R462). -/
def execBulkPass (die : Die) (s : State) : Host.Outcome State Fault Refusal :=
  let d := mdAt s die
  match dieBulk s die with
  | none => .next s
  | some r =>
    let b := (s.frames - r.2.p) / max 1 r.2.b
    if !d.bulkValid ∨ d.nch = 0 ∨ b % d.nch.toNat ≠ 0 then .next s
    else .next (mdPut s die { d with passEmpty := !(sget false (homePipe s r.2.pipe).passFilled b) })

/-- The INT4 nibble of row i, column c of a macro record (R460). -/
def nibbleOf (r : Rd) (x : BulkItem) (i c : Nat) : Nat :=
  let l := fun (k : Nat) => levelAt (lineBits (mrecPage r x.rec_ i)) k
  if x.fmt = 1 then (l c + 14) % 16 else if x.fmt = 2 then (l c + 15) % 16 else (4 * l (2 * c) + 8 + l (2 * c + 1)) % 16
/-- Strip byte k of a macro record (R82, R158). -/
def stripByte (r : Rd) (x : BulkItem) (k : Nat) : Byte := r (128 * (mrecLine r x.rec_ + 129 + k / 128) + k % 128)
/-- Scale byte n of a macro item (R460). -/
def scaleByte (r : Rd) (x : BulkItem) (n : Nat) : Byte :=
  let c := n / 4
  let j := n % 4
  if x.fmt = 3 then (if c < 256 then stripByte r x (512 * j + 2 * c) else 0) else stripByte r x (512 * j + c)
/-- The lines of an item after its header (R460): two columns of 64 nibble bytes in a line, then the scales. -/
def itemLines (r : Rd) (sk : Nat) (x : BulkItem) : List (List Word) :=
  if x.skim then (List.range x.lines).map (fun j => rdLine r (sk + j))
  else
    (List.range (x.lines - 16)).map (fun l => packBytes ((List.range 128).map (fun b =>
      let c := 2 * l + b / 64
      let i := 2 * (b % 64)
      BitVec.ofNat 8 (nibbleOf r x i c + 16 * nibbleOf r x (i + 1) c))) 16) ++
    (List.range 16).map (fun l => packBytes ((List.range 128).map (fun b => scaleByte r x (128 * l + b))) 16)
/-- The header line of an item. -/
def itemHead (x : BulkItem) : List Word :=
  fields [(0, if x.skim then 1 else 2), (8, x.fmt), (32, x.logical)] :: fields [(0, x.slice), (16, x.lines)] :: List.replicate 14 0

/-- The shard lines that an item reads. -/
def itemReads (r : Rd) (sk : Nat) (x : BulkItem) : List Nat :=
  if x.skim then (List.range x.lines).map (sk + ·) else (List.range 150).map (mrecLine r x.rec_ + ·)

/-- Read an item: its lines, marked poisoned where a word it reads is uncorrectable or a page's tag fails (R453, R466). -/
def itemRead (die m : Nat) (es : List Nat) (x : BulkItem) (s : State) : List (List RWord) × State :=
  let r : Rd := fun o => dramByte s (copyAddr es o)
  let sk := match (shardSlices r).find? (fun t => t.id == x.slice) with | some t => t.skimOff | none => 0
  let rd := (itemReads r sk x).foldl (fun (acc : Bool × State) l =>
    let y := dramReads acc.2 (copyAddr es (128 * l) / 8) 16
    (acc.1 || anyPoison y.1, y.2)) (false, s)
  let badTag := !x.skim && !rd.1 && (List.range 144).any (fun p => !mrecTag r x.rec_ p)
  let s1 := if badTag then tagFail m die (mdPut rd.2 die { mdAt rd.2 die with bulkErr := 3 }) else rd.2
  ((itemHead x :: itemLines r sk x).map (fun l => markIf (rd.1 || badTag) (clean l)), s1)

/-- The beats that a pass of a die delivers: none without lanes or without a library copy (R462, R466). -/
def passBeats (s : State) (die : Nat) (reg : Nat × ImgRegion) : List (List (List BulkItem)) :=
  match dieCopy s reg.2.model die with
  | some es => if (mdAt s die).passEmpty then [] else dieBeats s die reg es
  | none => []

/-- PARCEL_DELIVERY: the parcels of pass beat r go to the weight tiles, released at the BULK region's next beat; zero lines in a
pass without lanes or without a library copy (R459-R462, R466). -/
def execParcelDelivery (die : Die) (r : BitVec 32) (s : State) : Host.Outcome State Fault Refusal :=
  match dieBulk s die with
  | none => .next s
  | some reg =>
    let ts := bulkTiles s reg.1 (16 + die.val)
    let cht := bulkCht ts
    let b := max 1 reg.2.b
    let rel := BitVec.ofNat 8 (b * ((s.frames - reg.2.p) / b + 1) + reg.2.p)
    let beats := passBeats s die reg
    let es := (dieCopy s reg.2.model die).getD []
    let parcels := lget [] beats r.toNat
    let zero := List.replicate 16 RWord.zero
    let x := ((List.range ts.length).zip ts).foldl (fun (acc : List RimLine × State) kt =>
      let items := lget [] parcels kt.1
      let body := items.foldl (fun (a : List (List RWord) × State) y => let z := itemRead die reg.2.model es y a.2; (a.1 ++ z.1, z.2)) ([], acc.2)
      let slice := match items with | y :: _ => y.slice | [] => match parcels.flatten with | y :: _ => y.slice | [] => 0
      let nextSlice := match (lget [] beats (r.toNat + 1)).flatten with | y :: _ => some y.slice | [] => none
      let lastOf := b1 (nextSlice != some slice)
      let head : List RWord := clean (fields [(0, r.toNat), (32, slice), (48, items.length)] :: BitVec.ofNat 64 lastOf :: List.replicate 14 0)
      let ls := if beats.isEmpty then List.replicate cht zero else ((head :: body.1) ++ List.replicate cht zero).take cht
      let put := ((List.range cht).zip ls).map (fun (il : Nat × List RWord) =>
        (⟨kt.2.1, lineAdd kt.2.2.base (il.1 + cht * (r.toNat % 2)), rel, il.2⟩ : RimLine))
      (acc.1 ++ put, body.2)) ([], s)
    .next (rimPush (16 + die.val) x.1 x.2)

end Sys2Proof.Machine
end

