-- ==== Sys2Proof/Machine/Apply.lean ====
section
/-! DEFINITION. What resets and an image load clear in a tile, and the image load's apply boundary (R37, R234, R268, R269, R274,
R292, R294, R303). -/

namespace Sys2Proof.Machine

/-! ### Clearing a tile (R36, R37, R234, R274, R292, R294, R303) -/

/-- The units of a tile as every reset and an image-load commit leave them: control core, base and mask registers, dense array
and finish unit cleared, the queues empty; the instruction RAM and the other stores stay. -/
def unitsClear (t : Tile) : Tile :=
  { t with
    cc := { CCore.reset with iram := t.cc.iram }
    seq := { t.seq with base := [], m1 := 0, reps := [], lUse := [], daUse := none, fuUse := none }
    da := DArr.reset
    fu := FUnit.reset
    pad := { t.pad with storeQ := [] } }
/-- Both lane tables are cleared and the stencil stops (R234, R268). -/
def lanesClear (t : Tile) : Tile :=
  { t with seq := { t.seq with laneAct := [], laneShadow := [] }, mesh := { t.mesh with run := false, held := false } }
/-- Whether a line lies in a resident window (R37). -/
def inResidentWin (p : Pad) (line : Nat) : Bool :=
  (List.range 32).any (fun n =>
    let w := winGet p n
    w.typ == 2 && decide (w.base.toNat ≤ line) && decide (line < w.base.toNat + w.lines.toNat))
/-- The scratchpad set to 0 with valid check bits, but for the words that a test keeps. -/
def padZero (keep : Nat → Bool) (p : Pad) : Pad :=
  { p with words := skeep p.words (fun k _ => keep k), pend := [], rdRows := [] }
/-- The arrival counters cleared; every NR stays (R234). -/
def arrivalsClear (p : Pad) : Pad :=
  (List.range 32).foldl (fun p n =>
    let w := winGet p n
    winPut p n { w with arr0 := 0, arr1 := 0, arr2 := 0, arr3 := 0, late := false }) p
/-- What a warm or tile reset does to a tile's traffic and work in progress: lane tables, arrival counters, read-return entries
and flits cleared, running macro operations and programs stopped, the sensor's reading invalid (R150, R234, R597). -/
def tileHalt (t0 : Tile) : Tile :=
  let t := lanesClear (unitsClear t0)
  { t with
    pad := arrivalsClear t.pad
    seq := { t.seq with retn := [], reqs := [] }
    mesh := { t.mesh with eject := [] }
    fab := { t.fab with ops := [], act := [], busyFrom := [], scans := [] }
    probe := { t.probe with again := none }
    sense := { t.sense with value := 0, valid := false, hist := [], sinceMux := 0, sinceFilt := 0 } }
/-- The flits in flight toward a site are discarded. -/
def flitsDrop (at_ : Nat → Bool) (s : State) : State :=
  onGrid (fun g => { g with flits := g.flits.filter (fun f => !at_ f.site) }) s

/-! ### Apply of an image (R266-R271, R333) -/

/-- The sites whose tiles take part in an image load: exposed and not fenced. -/
def liveSites (s : State) : List Nat := (List.range 8064).filter (fun z => s.grid.exposed.getLsbD z && !isFenced s z)

/-- The member selection that a new image would start from: that of the stack of the old image with the same primary, or after a
cold reset that of the recorded image; primaries otherwise. -/
def candMembers (s : State) (i : Image) : SMap Nat :=
  stab 0 i.regions.length (fun n =>
    if primaryOf i n ≠ n then 0
    else match s.load.img with
      | some o => match o.regions.findIdx? (fun r => some r.id == (regAt i n).map ImgRegion.id) with
        | some k => liveMember s k
        | none => 0
      | none => if s.hist.imageId = i.hdr.id then liveMember s n else 0)

/-- Whether a slice stands where a new image's placement puts it. -/
def sliceStands (i : Image) (cs : List Course) (sel : Nat → Nat) (m : Nat) (sl : Slice) : Bool :=
  (sliceEntries i m sl.id).map (fun e => (memberSite i cs sel (regIndex i e.region) e.lx e.ly, e.tier, e.lmac)) ==
    sl.macros.map (fun z => (some z.site, z.tier, z.lmac))
/-- Whether a model stays resident in place under a new image (R269). -/
def modelKept (i : Image) (cs : List Course) (sel : Nat → Nat) (e : Nat × Resid) : Bool :=
  match i.models.find? (fun x => x.m == e.1) with
  | none => false
  | some x => (e.2.st == .resident || e.2.st == .degraded || e.2.st == .swapping) && x.id == e.2.id && x.ver == e.2.ver &&
      x.assignHash == e.2.assign && e.2.slices.map Slice.id == modelSlices i e.1 && e.2.slices.all (sliceStands i cs sel e.1)
/-- The slices of a kept model name the entries of the new image. -/
def relabel (i : Image) (m : Nat) (sl : Slice) : Slice :=
  { sl with macros := (sl.macros.zip (sliceEntries i m sl.id)).map (fun ze => { ze.1 with logical := ze.2.logical }) }

/-- Copy the staging copy onto the active copy, as corrected (R265). -/
def activeCopy (total : Nat) (s : State) : State :=
  let n := (total + 7) / 8
  let src := s.dram.filter (fun e => decide (stagingAddr / 8 ≤ e.1) && decide (e.1 < stagingAddr / 8 + n))
  let clear := skeep s.dram (fun k _ => !(decide (activeAddr / 8 ≤ k) && decide (k < activeAddr / 8 + n)))
  { s with dram := src.foldl (fun m e =>
      sset SWord.zero m (e.1 - stagingAddr / 8 + activeAddr / 8) (if e.2.ecc = .single then ⟨e.2.bits, .good⟩ else e.2)) clear }

/-- The homes of a stream's pages are released and its page table is empty. -/
def dropHomes (sid : Nat) (s : State) : State :=
  let q := (ctxAt s sid).pipe.toNat
  let olds := (List.range 1024).map (pteAt s sid)
  let s1 := olds.foldl (fun acc e => freeHome q e acc) s
  (List.range 1024).foldl (fun acc n => if pteAt acc sid n = 0xF then acc else ptePut sid n 0xF acc) s1

/-- Write the flash slot that a load named (R604). -/
def flashWrite (s : State) : State :=
  let n := s.load.total
  let bytes := stab 0 n (fun i => dramByte s (activeAddr + i))
  if s.load.flash = 1 then { s with svc := { s.svc with flashA := bytes, flashLenA := n } }
  else if s.load.flash = 2 then { s with svc := { s.svc with flashB := bytes, flashLenB := n } }
  else s

/-- A model of the old image that does not stay leaves the fabric; one that was being built has failed (R170, R269). -/
def imageEvict (s : State) (e : Nat × Resid) : State :=
  let s1 := if e.2.st = .loading then resFail e.1 6 s else s
  resEnd e.1 (evictModel e.1 s1)

/-- The apply boundary of an image load: everything of R268 at once, on every live tile but those in doubt. Streams still open
under ABORT end with FAULT and CAUSE IMAGE_LOAD; models that R269 keeps stay live, the others leave the fabric. -/
def imageApply (doubt : List Nat) (s : State) : State :=
  match s.load.stagedImg with
  | none => s
  | some i =>
    let cs := s.load.stagedPlace
    let cold := s.load.img.isNone
    let cand := candMembers s i
    let sel := fun (p : Nat) => sget 0 cand p
    let kept := (s.resid.filter (modelKept i cs sel)).map Prod.fst
    let s1 := (openSids s).foldl (fun acc sid => streamFault sid 12 6 acc) s
    let s2 := (busySids s1).foldl (fun acc sid => dropHomes sid acc) s1
    let s3 := (s2.resid.filter (fun e => !e.2.slices.isEmpty && !kept.contains e.1)).foldl imageEvict s2
    let s4 := activeCopy s3.load.total s3
    let mem := stab 0 i.regions.length (fun n =>
      if (regAt i n).any (fun r => kept.contains r.model) then sel n else 0)
    let s5 := onLoad (fun l => { l with
      img := some i, activeLen := l.total, activeId := i.hdr.id, activeVer := i.hdr.ver
      activeProf := BitVec.ofNat 4 l.stagedProf, members := mem, applyFrame := frameCtr s, copyBad := false }) s4
    let s6 := { s5 with plc := { s5.plc with courses := cs, gen := s5.plc.gen + 1 } }
    let s7 := onGrid (fun g => { g with credit := [], held := [], begun := [], release := [], handover := [] }) s6
    let sites := (liveSites s7).filter (fun z => !doubt.contains z)
    let s8 := sites.foldl (fun acc z => tilePut acc z (lanesClear (unitsClear (tileAt acc z)))) s7
    let s9 := sendCalendars i (storeSites i sites s8)
    let s10 := kept.foldl (fun acc m =>
      let acc1 := residUpd m (fun r => { r with slices := r.slices.map (relabel i m) }) acc
      let sls := (residAt acc1 m).slices.filter Slice.resident
      let acc2 := sls.foldl (fun a sl => liveSlice i sl a) acc1
      let acc3 := if cold then sls.foldl (fun a sl => restoreSlice sl a) acc2 else acc2
      if (residAt acc3 m).st = .degraded then holdAll (modelPipes acc3 m) acc3 else acc3) s9
    let s11 := onHist (fun h => { h with imageId := i.hdr.id, place := cs }) s10
    loadEnd 0 0xFF 0 (flashWrite s11)

end Sys2Proof.Machine
end

