-- ==== Sys2Proof/Machine/Recovery.lean ====
section
/-! DEFINITION. Dust sheets, the restoring of resident windows, tile resets, re-homing and course moves, and replays of streams whose pages are
lost (R161, R234, R334-R338, R372, R549-R552, R608). -/

namespace Sys2Proof.Machine

/-! ### Shared writes of live state -/

/-- Words of tile windows made live at once. -/
def wordsPut (items : List (Nat × CgItem)) (s : State) : State :=
  items.foldl (fun acc x => match x.2 with
    | .word n off v => if n < 8064 then tilePut acc n (storeWrite off v (tileAt acc n)) else acc
    | _ => acc) s
/-- The tile's units are power-gated, under ACTION 1 all but its router, rim port and lath port (R26, R549). -/
def fencePut (site : Nat) (full : Bool) (s : State) : State :=
  let s1 := onGrid (fun g => if full then { g with fenced := g.fenced ||| (1 <<< site) }
    else { g with gated := if g.gated.contains site then g.gated else g.gated ++ [site] }) s
  let s2 := { s1 with plc := { s1.plc with fencedSvc := if s1.plc.fencedSvc.contains site then s1.plc.fencedSvc else s1.plc.fencedSvc ++ [site] } }
  if full then flitsDrop (fun z => z == site) s2 else s2
/-- A dust sheet comes off (R551, R608). -/
def fenceLift (site : Nat) (s : State) : State :=
  let s1 := onGrid (fun g => { g with fenced := g.fenced &&& ~~~((1 : BitVec 8064) <<< site), gated := g.gated.filter (· != site) }) s
  { s1 with plc := { s1.plc with fencedSvc := s1.plc.fencedSvc.filter (· != site) } }
/-- Dust-sheet a tile as part of a larger command: the hub's new epoch, the neighbours' fences and the power gates (R549). -/
def dustNow (site : Nat) (s : State) : State :=
  if isFenced s site ∨ s.grid.gated.contains site then s
  else
    let full := (rimOf site).isNone
    let s1 := copySet site (epochCopy s site + 1) s
    let s2 := if full then wordsPut (neighbourCfgs s1 site true) s1 else s1
    cgWhole (fencePut site full s2)

/-- The item that fences a site. -/
def isFenceOf (site : Nat) : CgItem → Bool
  | .fence z _ => z == site
  | _ => false
/-- DUST_SHEET: the service die sends FENCE to the tile's hub and opens the group that sets the neighbours' fences and gates the
tile at its apply boundary (R549). -/
def execDustSheet (site : Site) (s : State) : Host.Outcome State Fault Refusal :=
  if isFenced s site ∨ s.grid.gated.contains site.val ∨ (groupWith s (isFenceOf site)).isSome then .next s
  else
    let full := (rimOf site).isNone
    let ep := epochCopy s site + 1
    let msg := lathMsg (hubOf s (blockOf site)) 0 svcNode 0 0x02 (lathNode s svcNode).epoch
      (leBytes 2 site ++ [if full then 0 else 1] ++ leBytes 2 ep.toNat)
    .next (cgTry (fenceItems s site full) (lathSend svcNode msg s))

/-! ### Resident windows (R37, R134, R161) -/

/-- Restore the resident-window lines of a tile: zeros, the lines of resident slices from their stores, and those of adapter slots
from their DRAM copies. -/
def restoreSite (site : Nat) (s : State) : State :=
  let t := tileAt s site
  let s1 := tilePut s site { t with pad := { t.pad with words := skeep t.pad.words (fun k _ => !inResidentWin t.pad (k / 16)) } }
  let s2 := s1.resid.foldl (fun acc e => (e.2.slices.filter Slice.resident).foldl (fun a sl => restoreTile sl site a) acc) s1
  adRestores (fun z => z == site) s2
/-- RESIDENT_STORE_RESTORE. -/
def execResidentStoreRestore (site : Site) (s : State) : Host.Outcome State Fault Refusal := .next (restoreSite site s)

/-- Whether the active image copy is marked invalid or holds an uncorrectable word (R546). -/
def activeBad (s : State) : Bool :=
  s.load.copyBad || s.dram.any (fun e => decide (activeAddr / 8 ≤ e.1) && decide (e.1 < activeAddr / 8 + (s.load.activeLen + 7) / 8) &&
    (e.2.ecc == .double || e.2.ecc == .marked))
/-- Rewrite the stores of tiles from the active copy; a damaged copy escalates to class X (R546, R556, R608). -/
def storesAgain (sites : List Nat) (s : State) : State :=
  match s.load.img with
  | none => s
  | some i =>
    if sites.isEmpty then s
    else if activeBad s then classX 0x04 (onLoad (fun l => { l with copyBad := true }) s)
    else storeSites i sites s

/-! ### Tile reset (R234, R607-R609) -/

/-- PRI of a lath message (R223). -/
def msgPri (bs : List Byte) : Nat := msgHead bs / 2 ^ 32 % 4
/-- The queued PRI 2 and PRI 3 messages of the nodes that a test names are discarded (R234). -/
def lathDrop (at_ : Nat → Bool) (s : State) : State :=
  onLath (fun l => { l with sent := l.sent.filter (fun m => !(at_ m.sender && decide (2 ≤ msgPri m.bytes))) }) s
/-- The elastic buffers of a tile's ports are trained: no port of it stays slipped (R588). -/
def trainPorts (at_ : Nat → Bool) (s : State) : State :=
  { s with clk := { s.clk with slipPorts := skeep s.clk.slipPorts (fun k _ => !at_ (k / 8)) } }

/-- A tile reset: the tile halts and clears, its placed neighbours drop its arrivals under FENCE, its stores and resident windows are
written again, and it is to be heard; a tile already under reset is left alone (R608, R609). -/
def tileResetNow (site : Nat) (retrain : Bool) (s : State) : State :=
  if !s.grid.exposed.getLsbD site ∨ s.lath.resets.contains site then s
  else
    let t := tileAt s site
    let h := tileHalt t
    let s1 := lathDrop (· == site) (flitsDrop (· == site) (tilePut s site { h with pad := padZero (fun _ => false) h.pad }))
    let s2 := if sitePlaced s.plc.courses site ∧ !isFenced s site then wordsPut (neighbourCfgs s1 site true) s1 else s1
    let s3 := restoreSite site (storesAgain [site] s2)
    let s4 := if retrain then trainPorts (· == site) s3 else s3
    onLath (fun l => { l with resets := l.resets ++ [site] }) s4
/-- TILE_RESET: the message reaches the tile (R608). -/
def execTileReset (site : Site) (retrain : Bool) (s : State) : Host.Outcome State Fault Refusal :=
  .next (tileResetNow site retrain (lathDone svcNode 0x28 s))
/-- The service die sends TILE_RESET to a tile (R552, R608). -/
def sendTileReset (site : Nat) (retrain : Bool) (s : State) : State :=
  lathSend svcNode (lathMsg site 0 svcNode 0 0x28 (lathNode s svcNode).epoch (leBytes 2 site ++ [if retrain then 1 else 0])) s

/-! ### Replays (R372, R422) -/

/-- A stream's dispatched and uncommitted steps are forgotten: its lane task is READY again and counts from the committed length. -/
def rewind (sid : Nat) (s : State) : State :=
  let n := sidEng sid
  let q := (ctxAt s sid).pipe.toNat
  let s1 := ctxUpd sid (fun c => { c with flights := [] }) s
  let back := fun (t : Task) => if t.stream = some sid ∧ laneKind t.kind ∧ !taskOver t then
      { t with st := if t.st = .active then .ready else t.st, sent := if t.kind = 8 then 0 else t.done, noticed := false } else t
  pipeUpd q (fun p => { p with queue := p.queue.filter (fun t => t.sid != sid) })
    (engEdit n (fun e => { e with tasks := e.tasks.map back
                                  notices := e.notices.filter (fun x => x.sid != sid) }) s1)
/-- A REPLAY record of a stream (R351, R372). -/
def replayTask (sid slot req : Nat) (tenant : BitVec 12) : Task :=
  { slot := slot, req := req, queue := 0, entry := 0, session := 0, tenant := tenant, kind := 8, st := .ready, result := 0, flags := 3
    idx := 0, succ := [], sid := sid, dep := 0, wait := 0, par := List.replicate 48 0, stream := some sid, noticed := false
    sent := 0, done := 0 }
/-- Insert a REPLAY ahead of a stream's next stream-ordered task, which then waits for it; a REPLAY that is there already starts
again (R372). -/
def insertReplay (sid : Nat) (s0 : State) : State :=
  let s := rewind sid s0
  let n := sidEng sid
  let mine := fun (t : Task) => ordered t.kind && t.stream == some sid && !taskOver t
  if (engAt s n).tasks.any (fun t => mine t && t.kind == 8) then s
  else engEdit n (fun e =>
    let r := replayTask sid ((freeSlots e 1).headD 0) e.nextReq (ctxAt s sid).tenant
    let before := e.tasks.takeWhile (fun t => !mine t)
    let after := match e.tasks.dropWhile (fun t => !mine t) with
      | [] => []
      | t :: rest => { t with dep := t.dep + 1, st := if t.st = .ready then .pending else t.st } :: rest
    { e with tasks := before ++ r :: after, nextReq := e.nextReq + 1 }) s
/-- A stream whose pages are lost is replayed where it may be, and ends with FAULT otherwise (R372, R422). -/
def replayOr (cause sid : Nat) (s : State) : State :=
  if (ctxAt s sid).replayOk then insertReplay sid s else streamFault sid 12 cause s
/-- The open streams with a WAFER page on a tile. -/
def pageStreams (s : State) (site : Nat) : List Nat :=
  (openSids s).filter (fun sid =>
    let q := (ctxAt s sid).pipe.toNat
    (List.range (pagesHomed s sid)).any (fun n => (pteGranules s q (pteAt s sid n)).any (fun g => g.1 == site)))
/-- The pages homed on a tile are lost (R335, R551): CAUSE PAGES_LOST. -/
def pagesLost (sids : List Nat) (s : State) : State := sids.foldl (fun acc sid => replayOr 5 sid acc) s

/-! ### Moving logical tiles (R335, R337) -/

/-- Where a moved site's work goes. -/
def movedTo (moved : List (Nat × Nat)) (site : Nat) : Nat :=
  match moved.find? (fun x => x.1 == site) with
  | some x => x.2
  | none => site
/-- Whether a site's work moves. -/
def isMoved (moved : List (Nat × Nat)) (site : Nat) : Bool := moved.any (fun x => x.1 == site)

/-- Move one tile's own state to its new site: on a pool tile its page lines and ownership entries, but the lines of the failed tile;
every other line is 0 and the units are clear (R335). -/
def moveTile (failed : Nat) (s : State) (x : Nat × Nat) : State :=
  let o := tileAt s x.1
  let n := lanesClear (unitsClear (tileAt s x.2))
  let keep := fun (k : Nat) => o.pool && x.1 != failed && (sget 0 o.seq.pageOwn (k / 256)).getLsbD 15
  tilePut s x.2 { n with
    pad := { padZero (fun _ => false) n.pad with words := skeep o.pad.words (fun k _ => keep k) }
    seq := { n.seq with pageOwn := if o.pool then o.seq.pageOwn else [], retn := [], reqs := [] } }

/-- Part of a slice: the macros, stores and lines on moved sites. -/
def slicePart (moved : List (Nat × Nat)) (sl : Slice) : Slice :=
  { sl with macros := sl.macros.filter (fun z => isMoved moved z.site), stores := sl.stores.filter (fun z => isMoved moved z.site) }
/-- Take a slice off moved sites. -/
def sliceOff (moved : List (Nat × Nat)) (sl : Slice) (s : State) : State :=
  let p := slicePart moved sl
  dropStores p (deadSlice p s)
/-- Put a slice's moved part on the new sites, from the library copy; none where a macro or a copy is missing. -/
def sliceOn (i : Image) (moved : List (Nat × Nat)) (m : Nat) (sl : Slice) (s : State) : Option (Slice × State) :=
  let p := slicePart moved sl
  let news := sl.lines.map (fun l => (movedTo moved l.1, l.2))
  let at_ := (sl.lines.filter (fun l => isMoved moved l.1)).map (fun l => (movedTo moved l.1, l.2))
  let ms := p.macros.foldl (fun acc z => takeMacro s (movedTo moved z.site) z.tier (tierMacros z.tier) z.lmac z.logical acc) (some ([], []))
  if p.macros.isEmpty ∧ at_.isEmpty then some (sl, s)
  else if (residAt s m).lib.isEmpty then none
  else ms.bind (fun a => (planStores s at_ a.2).map (fun b =>
    let rd := libRd s (residAt s m)
    let put := fun (acc : List SliceMacro × List SliceMacro) (z : SliceMacro) =>
      if isMoved moved z.site then (acc.1 ++ [acc.2.headD z], acc.2.drop 1) else (acc.1 ++ [z], acc.2)
    let full : Slice := { sl with macros := (sl.macros.foldl put ([], a.1)).1
                                  stores := sl.stores.filter (fun z => !isMoved moved z.site) ++ b.1, lines := news }
    let part : Slice := { full with macros := a.1, stores := b.1 }
    let s1 := liveSlice i part (buildSlice i rd part s)
    (full, ((at_.map Prod.fst).eraseDups).foldl (fun acc z => restoreTile full z acc) s1)))

/-- Move the slices of one model; it is DEGRADED where one of them does not fit (R335, R337). -/
def moveModel (i : Image) (moved : List (Nat × Nat)) (m : Nat) (olds : List Slice) (s : State) : State :=
  let s1 := olds.foldl (fun acc sl =>
    match sliceOn i moved m sl acc with
    | some r => residUpd m (sliceUpd sl.id (fun _ => r.1)) r.2
    | none => residUpd m (sliceUpd sl.id (fun x => { x with resident := false })) acc) s
  settleModel m s1

/-- Rewrite the names of the tiles of every course, whose lath nodes follow the placement, and the rim calendars (R259, R261). -/
def namesAgain (i : Image) (s : State) : State :=
  let r := imageRd s activeAddr
  let s1 := (s.plc.courses.flatMap courseSites).foldl (fun acc z =>
    match tileOf i acc.plc.courses z with
    | none => acc
    | some x => match tileRec i x.2.1 x.2.2.1 x.2.2.2 with
      | none => acc
      | some nr =>
        let t := tileAt acc z
        let c := coursePos x.1 x.2.1 x.2.2.1 x.2.2.2
        tilePut acc z { t with
          seq := { t.seq with names := stab 0 (min 64 (blobWords i nr.2.names)) (fun k => nameEntry i acc.plc.courses (blobWord r i nr.2.names k).toNat) }
          mesh := { t.mesh with portCfg := (portCfgOf i x.1 z c.1 c.2) ||| (t.mesh.portCfg &&& 0x0808080808) } }) s
  sendCalendars i s1

/-- Move the work of a list of (old, new) sites, in order, to a new set of courses: tiles, stores, weights, resident windows,
adapters, wires and names (R335, R337). -/
def moveWork (i : Image) (moved : List (Nat × Nat)) (failed : Nat) (cs : List Course) (s : State) : State :=
  let olds := (s.resid.filter (fun e => e.2.slices.any (fun sl => (sl.macros ++ sl.stores).any (fun z => isMoved moved z.site) ||
    sl.lines.any (fun l => isMoved moved l.1)))).map (fun e => (e.1, e.2.slices.filter Slice.resident))
  let s1 := olds.foldl (fun acc e => e.2.foldl (fun a sl => sliceOff moved sl a) acc) s
  let s2 := olds.foldl (fun acc e => residUpd e.1 (fun r => { r with slices := r.slices.map (fun sl =>
    if sl.resident then { sl with macros := sl.macros.filter (fun z => !isMoved moved z.site)
                                  stores := sl.stores.filter (fun z => !isMoved moved z.site) } else sl) }) acc) s1
  let s3 := moved.foldl (moveTile failed) s2
  let news := moved.map Prod.snd
  let left := (moved.map Prod.fst).filter (fun z => !news.contains z && !fencedFor s z)
  let s4 := left.foldl (fun acc z => tilePut acc z (let t := tileAt acc z; { t with seq := { t.seq with pageOwn := [] } }))
    (storeSites i (news ++ left) { s3 with plc := { s3.plc with courses := cs, gen := s3.plc.gen + 1 } })
  let s5 := { s4 with adapters := smap Adapter.free s4.adapters (fun _ x => { x with copy := x.copy.map (fun l => (movedTo moved l.1, l.2)) }) }
  let s6 := olds.foldl (fun acc e => moveModel i moved e.1 e.2 acc) s5
  let s7 := adRestores (fun z => news.contains z) s6
  onHist (fun h => { h with place := cs }) (cgWhole (namesAgain i s7))

/-- The (old, new) sites of the logical tiles that two layouts of a course place differently, east-most new site first. -/
def movedSites (i : Image) (c d : Course) : List (Nat × Nat) :=
  let ps := c.regs.flatMap (fun p => match d.regs.find? (fun r => r.reg == p.reg) with
    | none => []
    | some r => (List.range ((placedSize i p).1 * (placedSize i p).2)).filterMap (fun n =>
      match placedSite i p (n % (placedSize i p).1) (n / (placedSize i p).1), placedSite i r (n % (placedSize i p).1) (n / (placedSize i p).1) with
      | some a, some b => if a = b then none else some (a, b)
      | _, _ => none))
  sortBy (fun x => 96 - siteX x.2) ps

/-! ### Re-homing (R334-R338, R346) -/

/-- PLC_REHOME_LAST captures an attempt when it holds no record (R346). -/
def rehomeRec (site region : Nat) (hold : BitVec 16) (res : Nat) (s : State) : State :=
  if s.plc.lastValid then s
  else { s with plc := { s.plc with lastSite := BitVec.ofNat 13 site, lastRegion := BitVec.ofNat 16 region, lastHold := hold,
                                    lastResult := BitVec.ofNat 4 res, lastValid := true } }
/-- A failure that is not re-homed is counted (R346). -/
def rehomeFail (s : State) : State := { s with plc := { s.plc with fail := satInc s.plc.fail } }
/-- The models that a pipeline serves and that are on the wafer. -/
def pipeModels (s : State) (q : Nat) : List Nat :=
  (s.resid.filter (fun e => !e.2.slices.isEmpty && (modelPipes s e.1).contains q)).map Prod.fst
/-- The pipelines held while a region of model M moves: those of M, or its own where it belongs to none (R335). -/
def holdOf (s : State) (q model : Nat) : List Nat := if model = 0xFF then [q] else modelPipes s model

/-- Place a course again at a new origin, its present tiles held as occupied, in the manner of a staged build; without an origin its
models are DEGRADED and its lanes stay held (R337). -/
def moveCourse (q failed : Nat) (s : State) : State :=
  match s.load.img, s.plc.courses.find? (fun c => c.pipe == q) with
  | some i, some c =>
    let qs := (q :: (pipeModels s q).flatMap (modelPipes s)).eraseDups
    match searchCourse s (fencedFor s) i s.load.activeProf.toNat q s.plc.courses with
    | some d =>
      let cs := s.plc.courses.map (fun e => if e.pipe = q then d else e)
      let lost := pageStreams s failed
      let s1 := moveWork i (movedSites i c d) failed cs (holdAll qs s)
      let s2 := (pipeModels s1 q).foldl (fun acc m => settleModel m acc) s1
      plcOp 4 0 (endAll qs (pagesLost lost s2))
    | none =>
      let s1 := (pipeModels s q).foldl (fun acc m => residUpd m (fun r => { r with st := .degraded }) acc) s
      plcOp 4 1 (holdAll qs (rehomeFail s1))
  | _, _ => s

/-- Shift a row of a course over a failed tile under a hold, and count it (R335). -/
def shiftCourse (i : Image) (c d : Course) (g : ImgRegion) (site : Nat) (hold : BitVec 16) (s : State) : State :=
  let qs := holdOf s c.pipe g.model
  let lost := pageStreams s site
  let cs := s.plc.courses.map (fun e => if e.pipe = c.pipe then { d with rotate := c.rotate } else e)
  let s1 := moveWork i (movedSites i c d) site cs (holdAll qs s)
  let s2 := endAll qs (pagesLost lost s1)
  let s3 := rehomeRec site g.id hold 0 (plcOp 3 0 { s2 with plc := { s2.plc with rehome := satInc s2.plc.rehome } })
  if 1000 < hold.toNat then sieEvent s3 else s3

/-- The trowel acts on a failed tile by the case that applies (R334); the tile is dust-sheeted first. -/
def rehomeSite (site : Nat) (hold : BitVec 16) (s0 : State) : State :=
  let s := dustNow site s0
  match s.load.img with
  | none => s
  | some i =>
    match tileOf i s.plc.courses site with
    | none => s
    | some x =>
      match regAt i x.2.1.reg with
      | none => s
      | some g =>
        let c := x.1
        if g.model ≠ 0xFF ∧ (residAt s g.model).slices.isEmpty then s
        else if !s.plc.rehomeEn then rehomeFail s
        else
          let others := s.plc.courses.filter (fun e => e.pipe != c.pipe)
          if x.2.1.shifts.any (fun h => h.ly == x.2.2.2) then
            let s1 := moveCourse c.pipe site s
            rehomeRec site g.id hold (if s1.plc.lastRes = 1 then 1 else 4) s1
          else match courseAt s (fencedFor s) i s.load.activeProf.toNat c.pipe others c.x0 c.y0 with
            | some d => shiftCourse i c d g site hold s
            | none =>
              let s1 := moveCourse c.pipe site s
              rehomeRec site g.id hold (if s1.plc.lastRes = 1 then 1 else 2) s1
/-- REHOME: a failed tile is re-homed (R334, R335); the length of the hold is measured. -/
def execRehome (site : Site) (holdMs : BitVec 16) (s : State) : Host.Outcome State Fault Refusal := .next (rehomeSite site holdMs s)
/-- COURSE_MOVE: a course that has a failed tile is placed again; the trowel retries so a course that found no origin (R337). -/
def execCourseMove (q : Byte) (s : State) : Host.Outcome State Fault Refusal :=
  .next (moveCourse q.toNat ((((s.plc.courses.filter (fun c => c.pipe == q.toNat)).flatMap courseSites).find? (fencedFor s)).getD 8064) s)

/-! ### Silent tiles (R552) -/

/-- Re-home a tile inside a larger command, whose hold's length is a free value. -/
def rehomeFree (site : Nat) (s : State) : State :=
  rehomeSite site (Config.holdMs s.draws) { s with draws := s.draws + 1 }
/-- A tile has failed: it is dust-sheeted and charged, a signature record is written, and its work is re-homed (R549, R552, R566). -/
def tileFailed (site : Nat) (code : BitVec 6) (s : State) : State :=
  let r := chargeEvent (unitTile site) code (dustNow site s)
  let perm := r.1.hist.permanent.contains (unitTile site)
  rehomeFree site (sigWrite code (unitTile site) perm (recentEvents r.1.hist (unitTile site) r.1.flt.opt) 5 [] r.1)
/-- HB_MISS: three heartbeats of a tile were missed: the pipelines whose courses hold it are held and TILE_RESET is sent (R552). -/
def execHbMiss (node : Node) (s : State) : Host.Outcome State Fault Refusal :=
  if node.val < 8064 ∧ 3 ≤ (sget Heard.fresh s.lath.heard node).missed then
    .next (sendTileReset node false (holdAll (sitePipes s node) s))
  else .next s
/-- TILE_RESET_TIMEOUT: 1 ms after its reset the tile has not been heard (R552). -/
def execTileResetTimeout (site : Site) (s : State) : Host.Outcome State Fault Refusal :=
  if s.lath.resets.contains site.val then
    let qs := sitePipes s site
    let s1 := onLath (fun l => { l with resets := l.resets.filter (· != site.val) }) s
    .next (endAll qs (tileFailed site 0x0D s1))
  else .next s
/-- HUB_PROMOTION: three block summaries were missed: the alternate hub is promoted and the old one is a silent tile (R552). -/
def execHubPromotion (b : Block) (s : State) : Host.Outcome State Fault Refusal :=
  if 3 ≤ (sget Heard.fresh s.lath.blocks b).missed ∧ !s.lath.promoted.getLsbD b then
    let old := hubOf s b
    let s1 := onLath (fun l => { l with promoted := l.promoted ||| (1 <<< b.val), blocks := sset Heard.fresh l.blocks b Heard.fresh }) s
    .next (sendTileReset old false (holdAll (sitePipes s1 old) s1))
  else .next s

end Sys2Proof.Machine
end

