-- ==== Sys2Proof/Machine/Link.lean ====
section
/-! DEFINITION. The Ethernet ports and KLP: ports and sub-ports, packets, sessions and their ends, the DRAM and history verbs,
span landing and time (R472-R497). -/

namespace Sys2Proof.Machine

/-! ### Ports and sub-ports (R472-R478, R485) -/

/-- A port of a link die; one never written is as the PORT_MODE strap left it at cold reset (R500). -/
def portAt (d : LinkDie) (p : Nat) : Port := sget (Port.reset 0) d.ports p
/-- Store a port. -/
def portPut (p : Nat) (x : Port) (d : LinkDie) : LinkDie := { d with ports := sset (Port.reset 0) d.ports p x }
/-- Change a port of a link die. -/
def portUpd (n p : Nat) (f : Port → Port) (s : State) : State :=
  let d := linkAt s n
  linkPut s n (portPut p (f (portAt d p)) d)
/-- Whether a sub-port is up. -/
def subUp (d : LinkDie) (sub : Nat) : Bool := (portAt d (sub / 8)).up.getLsbD (sub % 8)
/-- The sub-ports that a mode defines (R472). -/
def modeSubs (m : BitVec 2) : Nat := 2 ^ m.toNat
/-- The addresses of a sub-port. -/
def subAt (d : LinkDie) (sub : Nat) : Sub := sget Sub.none d.subs sub

/-- The packets of a channel that are sent and not acknowledged: within WINDOW and the peer's CREDIT (R484). -/
def chanFlight (window : Nat) (c : KChan) : List KPkt := (c.unacked.take window).filter (fun k => decide (k.psn.toNat ≤ c.credit.toNat))
/-- A retransmission round of a channel, where it has packets to send again (R484). -/
def chanRetx (window : Nat) (c : KChan) : KChan × Nat := if (chanFlight window c).isEmpty then (c, 0) else ({ c with retx := true }, 1)
/-- A session sends its unacknowledged packets again. -/
def sessRetx (x : Session) : Session × Nat :=
  let a := chanRetx x.window.toNat x.data
  let b := chanRetx x.window.toNat x.ctrl
  ({ x with data := a.1, ctrl := b.1 }, a.2 + b.2)
/-- A session whose sub-port is down moves to ALT where that is up (R485). -/
def sessMove (d : LinkDie) (x : Session) : Session × Nat :=
  if !subUp d x.sub && decide (x.alt < 24) && subUp d x.alt then sessRetx { x with sub := x.alt, alt := x.sub } else (x, 0)
/-- Every session of a die whose sub-port is down moves to its ALT where it can, counting its retransmission rounds (R485). -/
def sessMoves (d : LinkDie) : LinkDie :=
  d.sess.foldl (fun acc e => match e.2 with
    | some x =>
      let r := sessMove acc x
      { acc with sess := sset none acc.sess e.1 (some r.1), retx := satAdd acc.retx r.2 }
    | none => acc) d
/-- A change of a die's ports, after which sessions move. -/
def portsDown (n : Nat) (f : LinkDie → LinkDie) (s : State) : State := linkPut s n (sessMoves (f (linkAt s n)))
/-- A port's sub-ports go down (R474, R496). -/
def portDown (p : Nat) (d : LinkDie) : LinkDie := portPut p { portAt d p with up := 0 } d

/-- FRAME_RECEIVE: FEC counts, an uncorrectable codeword discards the frame; ARP, ND and echo for the sub-port's own enabled
addresses are answered, IEEE 1588 and KLP frames pass to their own commands, and every other frame is counted (R473, R476). -/
def execFrameReceive (die : Die) (sub : SubPort) (kind : FrameKind) (len : BitVec 16) (tags : BitVec 2) (corrected uncorrected : Bool)
    (s : State) : Host.Outcome State Fault Refusal :=
  let p := sub.val / 8
  if !subUp (linkAt s die) sub then .next s
  else
    let s1 := portUpd die p (fun x =>
      { x with corr := if corrected then x.corr + 1 else x.corr, uncorr := if uncorrected then satInc x.uncorr else x.uncorr }) s
    if uncorrected then .next s1
    else
      let d := linkAt s1 die
      let a := subAt d sub
      let v4 : Bool := a.ip4 != 0
      let v6 : Bool := a.ip6h != 0 || a.ip6l != 0
      let fits : Bool := decide (len.toNat ≤ 9216) && decide (tags.toNat ≤ 1)
      let other := linkPut s1 die { d with other := satInc d.other }
      .next (match kind with
        | .arp => if fits && v4 then answerCode s1 0 else other
        | .nd => if fits && v6 then answerCode s1 0 else other
        | .echo => if fits && (v4 || v6) then answerCode s1 0 else other
        | .ptp => if fits then s1 else other
        | .klp => if fits && (v4 || v6) then s1 else other
        | .other => other)

/-- The start of a mode change: ignored while one runs; every sub-port of the port goes down and sessions move (R474, R485). -/
def modeApply (n p : Nat) (s : State) : State :=
  if (portAt (linkAt s n) p).modeSt then s
  else portsDown n (fun d => let e := portDown p d; portPut p { portAt e p with modeSt := true } e) s

/-- MODE_APPLY (R474). -/
def execModeApply (die : Die) (p : LocalPort) (s : State) : Host.Outcome State Fault Refusal := .next (modeApply die p s)

/-- MODE_CHANGE_COMPLETE: MODE_ACT takes MODE and the new sub-ports start bring-up; those without signal report LOS (R474, R475). -/
def execModeChangeComplete (die : Die) (p : LocalPort) (los : Byte) (s : State) : Host.Outcome State Fault Refusal :=
  if (portAt (linkAt s die) p).modeSt then
    .next (portUpd die p (fun x => { x with modeSt := false, modeAct := x.mode, los := los &&& BitVec.ofNat 8 (2 ^ modeSubs x.mode - 1) }) s)
  else .next s

/-- SUBPORT_DOWN: a sub-port loses its signal; its sessions move to ALT (R475, R485). -/
def execSubportDown (die : Die) (sub : SubPort) (s : State) : Host.Outcome State Fault Refusal :=
  let bit : Byte := (1 : Byte) <<< (sub.val % 8)
  .next (portsDown die (fun d => let x := portAt d (sub.val / 8); portPut (sub.val / 8) { x with up := x.up &&& ~~~bit, los := x.los ||| bit } d) s)

/-- SUBPORT_UP: a sub-port of the mode in force whose signal returned comes up; ignored during a mode change and while the port is
disabled (R475, R500). -/
def execSubportUp (die : Die) (sub : SubPort) (s : State) : Host.Outcome State Fault Refusal :=
  let bit : Byte := (1 : Byte) <<< (sub.val % 8)
  let x := portAt (linkAt s die) (sub.val / 8)
  if x.en && !x.modeSt && decide (sub.val % 8 < modeSubs x.modeAct) then
    .next (portUpd die (sub.val / 8) (fun x => { x with up := x.up ||| bit, los := x.los &&& ~~~bit }) s)
  else .next s

/-- PAUSE_FRAME: with PFC_EN a received pause frame sets the paused priorities, and the port sends pause frames for DATA_PCP while
its receive buffer is above 75 %; `fill` is in per cent (R478). -/
def execPauseFrame (die : Die) (p : LocalPort) (received : Option Byte) (fill : Byte) (s : State) : Host.Outcome State Fault Refusal :=
  .next (portUpd die p (fun x =>
    if x.pfcEn then { x with paused := received.getD x.paused, pausing := decide (75 < fill.toNat) }
    else { x with paused := 0, pausing := false }) s)

/-- Whether the port that a session uses runs with ECN_EN. -/
def ecnOn (s : State) (id : Nat) (x : Session) : Bool := (portAt (linkAt s (id / 256)) (x.sub / 8)).ecnEn

/-- ECN_RATE_STEP: 100 microseconds without ECE raise the send rate by 5 % of the sub-port rate (R479). -/
def execEcnRateStep (sess : SessId) (s : State) : Host.Outcome State Fault Refusal :=
  match sessAt s sess.toNat with
  | some x => if ecnOn s sess.toNat x then .next (sessPut s sess.toNat (some { x with rate := min 1000 (x.rate + 50) })) else .next s
  | none => .next s

/-! ### Ends of sessions (R417, R431, R483, R486) -/

/-- A session closes: it ends its rings, and a delivery that it carried. A lost one, by a timeout or a higher agent epoch, also
abandons its agent's locks, and loses the hawk where it was the POD session to it (R417, R431, R486, R508). -/
def sessClose (lost : Bool) (id : Nat) (s : State) : State :=
  match sessAt s id with
  | none => s
  | some x =>
    let s1 := ringsLost id (sessPut s id none)
    let s2 := match s1.delivery with
      | some d => if d.sess = id then { s1 with delivery := none } else s1
      | none => s1
    let s3 := if lost then abandonLocks (fun l => x.agent != 0 && l.holder == x.agent && l.aepoch == x.aepoch) s2 else s2
    if s3.pod.hawkSess = some id then { s3 with pod := { s3.pod with hawkSess := none, hawkLost := s3.pod.hawkLost || lost } } else s3

/-- CLOSE: rings end, locks stay (R486). -/
def execCloseSession (sess : SessId) (s : State) : Host.Outcome State Fault Refusal := .next (sessClose false sess.toNat s)

/-- Count a change of a link die's counters. -/
def linkUpd (n : Nat) (f : LinkDie → LinkDie) (s : State) : State := linkPut s n (f (linkAt s n))

/-- SESSION_TIMEOUT: after three intervals without a packet the session closes with the effects of a timeout; a packet that
passed in the meantime wins (R486, R497). -/
def execSessionTimeout (sess : SessId) (s : State) : Host.Outcome State Fault Refusal :=
  match sessAt s sess.toNat with
  | none => .next s
  | some x =>
    if x.silent < 3 then .next s
    else .next (linkUpd (sess.toNat / 256) (fun d => { d with timeout := satInc d.timeout }) (sessClose true sess.toNat s))

/-- A session closes when the PSN of a channel reaches 0xFFFF_FFFF (R530). -/
def psnEnd (id : Nat) (s : State) : State :=
  match sessAt s id with
  | some x =>
    if x.data.nextPsn = 0xFFFFFFFF ∨ x.ctrl.nextPsn = 0xFFFFFFFF ∨ x.data.expect = 0xFFFFFFFF ∨ x.ctrl.expect = 0xFFFFFFFF then
      sessClose false id s
    else s
  | none => s

/-- KLP_HEARTBEAT: a packet has passed on the session (R486). -/
def execKlpHeartbeat (sess : SessId) (s : State) : Host.Outcome State Fault Refusal :=
  .next (sessUpd sess.toNat (fun x => { x with silent := 0 }) s)

/-- KLP_HEARTBEAT_SEND: a HEARTBEAT leaves on the control channel, and an interval ends (R486). -/
def execKlpHeartbeatSend (sess : SessId) (s : State) : Host.Outcome State Fault Refusal :=
  .next (psnEnd sess.toNat (sessUpd sess.toNat (fun x => { x with silent := x.silent + 1 }) (klpSend sess.toNat true 0x03 0 [] s)))

/-! ### Packets (R479-R487) -/

/-- Change a channel of a session: the control or the data channel. -/
def chanUpd (ctrl : Bool) (f : KChan → KChan) (x : Session) : Session :=
  if ctrl then { x with ctrl := f x.ctrl } else { x with data := f x.data }
/-- A channel of a session. -/
def chanAt (ctrl : Bool) (x : Session) : KChan := if ctrl then x.ctrl else x.data
/-- What APSN and CREDIT of a received packet do (R484). -/
def chanAck (apsn credit : BitVec 32) (c : KChan) : KChan :=
  let u := c.unacked.filter (fun k => decide (apsn.toNat ≤ k.psn.toNat))
  { c with unacked := u, credit := credit, retx := c.retx && !u.isEmpty }

/-- ACK: packets below APSN are acknowledged (R484). -/
def execAck (sess : SessId) (ctrl : Bool) (apsn credit : BitVec 32) (s : State) : Host.Outcome State Fault Refusal :=
  .next (sessUpd sess.toNat (chanUpd ctrl (chanAck apsn credit)) s)

/-- A retransmission round of a session's channel, counted (R484, R499). -/
def retxRound (id : Nat) (ctrl : Bool) (s : State) : State :=
  match sessAt s id with
  | none => s
  | some x =>
    let r := chanRetx x.window.toNat (chanAt ctrl x)
    linkUpd (id / 256) (fun d => { d with retx := satAdd d.retx r.2 }) (sessUpd id (chanUpd ctrl (fun _ => r.1)) s)

/-- NAK: the channel sends again, with RETX, from the PSN that the NAK names (R484). -/
def execNak (sess : SessId) (ctrl : Bool) (psn : BitVec 32) (s : State) : Host.Outcome State Fault Refusal :=
  .next (retxRound sess.toNat ctrl (sessUpd sess.toNat (chanUpd ctrl (fun c =>
    { c with unacked := c.unacked.filter (fun k => decide (psn.toNat ≤ k.psn.toNat)) })) s))

/-- RETRANSMIT_TIMEOUT: RTO_US have passed without a new APSN, and the channel sends again from its oldest unacknowledged PSN
(R484). -/
def execRetransmitTimeout (sess : SessId) (ctrl : Bool) (s : State) : Host.Outcome State Fault Refusal :=
  .next (retxRound sess.toNat ctrl s)

/-- The header bytes of a packet (R480). -/
def klpHeader (a : KlpArgs) : List Byte :=
  [a.ver, a.op, a.flags, a.status] ++ leBytes 2 a.session.toNat ++ leBytes 2 a.epoch.toNat ++ leBytes 4 a.psn.toNat ++
    leBytes 4 a.apsn.toNat ++ leBytes 4 a.credit.toNat ++ leBytes 2 a.payload.length ++ leBytes 2 a.reqId.toNat ++ leBytes 8 a.arg.toNat

/-- The verbs of R487 and R514. -/
def klpOps : List Nat :=
  [0x01, 0x02, 0x03, 0x04, 0x05, 0x10, 0x11, 0x12, 0x18, 0x19, 0x1A, 0x1B, 0x1C, 0x20, 0x21, 0x28, 0x29, 0x2A, 0x30, 0x31, 0x32, 0x33,
   0x38, 0x40, 0x41, 0x42, 0x43, 0x44, 0x45, 0x46, 0x47, 0x48, 0x49]

/-- The epoch that a SPAN or POD session's packets carry: that of the upper pod on its sessions (R481, R513). -/
def sessEpoch (s : State) (x : Session) : BitVec 16 := if x.upper then s.pod.uepoch else s.pod.epoch

/-- Whether a packet is stale: the epoch differs on a SPAN or POD session; MEMBER and TAKEOVER, which bring the epoch, pass
(R481, R502, R514). -/
def klpStale (s : State) (x : Session) (a : KlpArgs) : Bool :=
  (x.kind == 2 || x.kind == 3) && !(a.op == 0x40 || a.op == 0x43) && a.epoch != sessEpoch s x

/-- A member that answers MEMBER with OK is live (R503, R516). -/
def memberLive1 (id : Nat) (t : SMap Member) : SMap Member :=
  smap Member.none t (fun _ m => if m.session = some id ∧ m.valid ∧ !m.fenced then { m with live := true } else m)

/-- An accepted packet: the sender's APSN, CREDIT and ECE, the CE mark to echo, and the next PSN expected (R479, R484). -/
def klpTake (s : State) (id : Nat) (x : Session) (ctrl : Bool) (a : KlpArgs) (next : BitVec 32) : Session :=
  let ecn := ecnOn s id x
  let y := chanUpd ctrl (fun c => { chanAck a.apsn a.credit c with echoCe := c.echoCe || (ecn && a.ce), expect := next }) { x with silent := 0 }
  if ecn && a.flags.getLsbD 2 then { y with rate := max 10 (y.rate / 2) } else y

/-- The offset and length of shard j in a whole package, whose shards follow the manifest in the order of its entries (R157, R510). -/
def packageShard (d : Delivery) (j : Nat) : Nat × Nat :=
  let mr : Rd := fun o => sget 0 d.manifest o
  (((List.range j).map (fun k => rdLe mr (0x20 + 64 * k) 8)).sum, rdLe mr (0x20 + 64 * j) 8)

/-- The shard of a package that is the hawk's own, as a delivery, where the hawk is in the span (R510). -/
def ownShard (s : State) : Option Delivery :=
  s.delivery.bind (fun d => d.span.bind (fun n => (sget none s.pod.spans n).bind (fun x =>
    ((List.range x.size).find? (fun p => (lget 0 x.slots p).toNat == s.pod.slot.toNat)).map (fun pos =>
      let y := packageShard d pos
      { d with span := none, shardLen := y.2, got := d.manLen + y.2, shard := bytesPut [] 0 (bytesAt d.shard y.1 y.2) }))))
/-- Every other member of a distribution has completed: host software hears of a failure now, or when the hawk's own shard has been
checked; a shard that follows a failure is checked without another word to it (R510). -/
def distEnd (d : Dist) (s : State) : State :=
  let s1 := { s with pod := { s.pod with dist := none }, delivery := none }
  match ownShard s with
  | none => klpSend d.host true 0x33 d.arg [] s1
  | some o =>
    if bitsAt d.arg 12 4 = 0 then { s1 with delivery := some o }
    else klpSend d.host true 0x33 d.arg [] { s1 with delivery := some { o with sess := 4096 } }

/-- A member's RES_CPL in a distribution: the first failure stands, and host software hears when none is awaited (R510). -/
def distCpl (id : Nat) (arg : Word) (s : State) : State :=
  match s.pod.dist with
  | none => s
  | some d =>
    if !d.wait.contains id then s
    else
      let e := { d with wait := d.wait.filter (· != id), arg := if bitsAt d.arg 12 4 = 0 then arg else d.arg }
      if e.wait.isEmpty ∧ e.todo.isEmpty then distEnd e s
      else { s with pod := { s.pod with dist := some e } }

/-- KLP_PACKET_RECEIVE: the checks of R481, the PSN order of R484 with its NAK, and what the header carries. The verb itself is
the command of its own row; the answer latched is the ACK or NAK that the receiver sends. An OPEN carries no tag (R530). -/
def execKlpPacketReceive (die : Die) (a : KlpArgs) (s : State) : Host.Outcome State Fault Refusal :=
  let n := die.val
  let id := a.session.toNat
  let other := linkUpd n (fun d => { d with other := satInc d.other }) s
  let auth := linkUpd n (fun d => { d with auth := satInc d.auth }) s
  if a.ver ≠ 1 ∨ 4096 < a.payload.length then .next other
  else if a.op = 1 ∧ a.session = 0xFFFF then .next s
  else
    match (if id / 256 = n then sessAt s id else none) with
    | none => .next auth
    | some x =>
      if Config.cmac x.key (klpHeader a ++ a.payload) ≠ a.tag then .next auth
      else if klpStale s x a then .next (linkUpd n (fun d => { d with stale := satInc d.stale }) s)
      else
        let ctrl := a.flags.getLsbD 0
        let c := chanAt ctrl x
        if a.op = 4 then .next (sessPut s id (some (klpTake s id x ctrl a c.expect)))
        else if a.op = 5 then
          .next (retxRound id ctrl (sessPut s id (some (klpTake s id x ctrl { a with apsn := a.arg.setWidth 32 } c.expect))))
        else if a.psn ≠ c.expect then
          .next (answer (sessPut s id (some { x with silent := 0 })) 0
            [⟨if a.psn.toNat < c.expect.toNat then 4 else 5, false⟩, ⟨c.expect.setWidth 64, false⟩])
        else
          let s1 := sessPut (if klpOps.contains a.op.toNat then s else other) id (some (klpTake s id x ctrl a (c.expect + 1)))
          let s2 := if a.op = 0x40 ∧ a.flags.getLsbD 1 ∧ a.status = 0 then
              { s1 with pod := { s1.pod with table := memberLive1 id s1.pod.table, utable := memberLive1 id s1.pod.utable } }
            else if a.op = 0x33 then distCpl id a.arg s1
            else s1
          .next (psnEnd id (answer s2 0 [⟨4, false⟩, ⟨(c.expect + 1).setWidth 64, false⟩]))

/-! ### OPEN (R482, R483, R501, R502, R529, R536) -/

/-- The role of the ROLE strap: 0 standalone, 1 worker, 2 hawk, 3 hawk-standby (R501, R516). -/
def podRole (s : State) : Nat := bitsAt (s.svc.straps.setWidth 64) 0 2
/-- Whether the upper member table holds a VALID entry (R516). -/
def podUlead (s : State) : Bool := s.pod.utable.any (fun e => e.2.valid)

/-- Whether a POD OPEN is accepted: provisionally or not, and for the upper pod or not (R501, R502, R513). -/
def podOpen (s : State) (mac : BitVec 48) : Option (Bool × Bool) :=
  let from_ : Bool := s.pod.takeFrom == some mac.toNat
  if podRole s = 0 then none
  else if s.pod.st = 3 then
    (if podUlead s then none else if !s.pod.upper || from_ then some (false, true) else some (true, true))
  else if s.pod.st = 1 ∨ from_ then some (false, false)
  else if s.pod.st = 2 ∨ s.pod.st = 4 then some (true, false)
  else none

/-- The bytes that the signature of an OPEN covers: payload bytes 0 to 27, then CRED bytes 0 to 99 (R482, R529). -/
def openBytes (a : OpenArgs) : List Byte :=
  leBytes 2 a.agent.toNat ++ leBytes 2 a.aepoch.toNat ++ leBytes 2 a.tenant.toNat ++ [a.kind, a.alt] ++ leBytes 2 a.window.toNat ++ [a.rto, 0] ++
    leBytes 8 a.regBase.toNat ++ leBytes 8 a.regLen.toNat ++ a.epub.take 97 ++ leBytes 2 a.keyId.toNat ++ [0]

/-- The sessions of an agent. -/
def agentSess (s : State) (agent : BitVec 16) : List (Nat × Session) :=
  s.ld.flatMap (fun e => e.2.sess.filterMap (fun x => x.2.bind (fun y => if y.agent = agent then some (256 * e.1 + x.1, y) else none)))

/-- The free session of a die with the lowest number (R482). -/
def freeSess (d : LinkDie) : Option Nat := (List.range 256).find? (fun i => (sget none d.sess i).isNone)

/-- The refusal of an OPEN before its die is searched for a session (R482, R483, R501, R502, R529, R536). -/
def openRefusal (s : State) (a : OpenArgs) : Option Nat :=
  let old := agentSess s a.agent
  if a.agent = 0 ∨ 4 ≤ a.kind.toNat ∨ (24 ≤ a.alt.toNat ∧ a.alt ≠ 0xFF) ∨ a.window.toNat < 16 ∨ 1024 < a.window.toNat ∨
      4096 ≤ a.tenant.toNat ∨ (a.kind ≠ 0 ∧ a.tenant ≠ 0) ∨ a.epub.length ≠ 97 then some 1
  else if a.kind ≠ 1 ∧ (s.sec.lc = 0 ∨ s.sec.lc = 3) then some 2
  else if !sigHolds s.sec (.session (a.kind == 1)) a.keyId.toNat (openBytes a) a.sig then some 2
  else if old.any (fun e => decide (32768 ≤ (a.aepoch - e.2.aepoch).toNat)) then some 5
  else if a.kind = 3 ∧ (podOpen s a.mac).isNone then some 5
  else none

/-- The session that an OPEN gives (R482, R529). -/
def openSess (s : State) (id : Nat) (sub : Nat) (a : OpenArgs) : Session :=
  let pod := if a.kind = 3 then podOpen s a.mac else none
  { mac := a.mac, ip4 := a.ip4, ip6h := a.ip6h, ip6l := a.ip6l, agent := a.agent, aepoch := a.aepoch, tenant := a.tenant.setWidth 12, kind := a.kind.setWidth 2, sub := sub, alt := a.alt.toNat,
    window := a.window, rto := if a.rto = 0 then (linkAt s (id / 256)).rtoUs else a.rto, regBase := a.regBase, regLen := a.regLen,
    keyId := a.keyId, key := Config.sessionKey s.draws a.epub id, data := KChan.reset, ctrl := KChan.reset, rate := 1000, silent := 0,
    prov := match pod with | some x => x.1 | none => false
    upper := match pod with | some x => x.2 | none => false
    span := 0 }

/-- A session opens under its ID with a draw for its key; an accepted POD session is that to the hawk (R482, R502, R529). -/
def sessOpened (kind : Byte) (id : Nat) (x : Session) (s : State) : State :=
  let s1 := sessPut { s with draws := s.draws + 1 } id (some x)
  if kind = 3 ∧ !x.prov then { s1 with pod := { s1.pod with hawkSess := some id } } else s1

/-- OPEN: refused under R482, R483, R501, R502, R529 and R536, or a session opens with the lowest free ID of its die; a higher agent
epoch closes the agent's old sessions with the effects of a timeout. The answer holds the status and the new ID. -/
def execOpenSession (die : Die) (sub : SubPort) (a : OpenArgs) (s : State) : Host.Outcome State Fault Refusal :=
  match openRefusal s a with
  | some r => .next (answerCode s r)
  | none =>
    let s1 := (agentSess s a.agent).foldl (fun acc e => if e.2.aepoch = a.aepoch then acc else sessClose true e.1 acc) s
    match freeSess (linkAt s1 die) with
    | none => .next (answerCode s 4)
    | some i =>
      let id := 256 * die.val + i
      let x := openSess s id sub a
      .next (answer (sessOpened a.kind id x s1) 0 (⟨BitVec.ofNat 64 id, false⟩ :: clean (packBytes (Config.openResponse s.draws (openBytes a)) 26)))

/-! ### DRAM and history verbs (R488, R490, R536) -/

/-- The refusal of a WRITE or READ: DENIED for another kind of session, for an operator in PRODUCTION or RETIRED, and for a
tenant outside its HOST extents; BAD off module DRAM (R488, R536). -/
def dramGate (s : State) (sess : Nat) (a n : Nat) : Option Nat :=
  match sessAt s sess with
  | none => some 2
  | some x =>
    if 2 ≤ x.kind.toNat then some 2
    else if s.svc.warming then some 3
    else if a % 8 ≠ 0 ∨ 4096 < n ∨ 2 ^ 43 < a + n then some 1
    else if x.kind = 1 then (if 2 ≤ s.sec.lc.toNat then some 2 else none)
    else if hostOwned s x.tenant a n then none else some 2

/-- A DENIED access of a tenant is a failed check (R518, R521). -/
def dramViol (s : State) (sess : Nat) (a : Nat) (r : Option Nat) : State :=
  match sessAt s sess with
  | some x =>
    if r = some 2 ∧ x.kind = 0 then
      tenantViol s 3 x.tenant (extTenant (extAt (mdAt s (dramDie a)) (dramExt a))) (engNode (dramDie a))
    else s
  | none => s

/-- WRITE: words are written to module DRAM in address order (R487, R488). -/
def execWrite (sess : SessId) (addr : Word) (data : List Word) (s : State) : Host.Outcome State Fault Refusal :=
  let g := dramGate s sess.toNat addr.toNat (8 * data.length)
  .next (gated g (dramViol s sess.toNat addr.toNat g) (answerCode (dramWrites s (addr.toNat / 8) data) 0))

/-- READ: the answer carries the words, an uncorrectable one marked poisoned (R451, R487, R488). -/
def execRead (sess : SessId) (addr : Word) (len : BitVec 32) (s : State) : Host.Outcome State Fault Refusal :=
  let g := if len.toNat % 8 ≠ 0 then some 1 else dramGate s sess.toNat addr.toNat len.toNat
  .next (gated g (dramViol s sess.toNat addr.toNat g) (
    let r := dramReads s (addr.toNat / 8) (len.toNat / 8)
    answer r.2 0 r.1))

/-- The stream, generation and first position of HIST_WR and HIST_RD (R487). -/
def histSid (arg : Word) : Nat := bitsAt arg 0 14

/-- The refusal of a history verb: DENIED for another tenant, BAD for another generation, or for a count or positions out of
range (R488, R490). -/
def histGate (s : State) (sess : Nat) (arg : Word) (n : Nat) (ok : Ctx → Bool) : Option Nat :=
  match hostGate s sess with
  | some r => some r
  | none =>
    let c := ctxAt s (histSid arg)
    let tenant := match sessAt s sess with | some x => x.tenant | none => 0
    if c.tenant ≠ tenant then some 2
    else if c.gen.toNat ≠ bitsAt arg 14 16 ∨ n = 0 ∨ 1024 < n ∨ 2 ^ 20 < bitsAt arg 32 21 + n ∨ !ok c then some 1
    else none

/-- A DENIED access to a stream's history is a failed check (R518, R521). -/
def histViol (s : State) (sess : Nat) (arg : Word) (r : Option Nat) : State :=
  match sessAt s sess with
  | some x => if r = some 2 ∧ x.kind = 0 then tenantViol s 5 x.tenant (ctxAt s (histSid arg)).tenant (engNode (sidEng (histSid arg))) else s
  | none => s

/-- HIST_WR: tokens are written at or above COMMITTED_LEN of an open stream's history (R490). -/
def execHistWr (sess : SessId) (arg : Word) (tokens : List (BitVec 32)) (s : State) : Host.Outcome State Fault Refusal :=
  let first := bitsAt arg 32 21
  let g := histGate s sess.toNat arg tokens.length (fun c =>
    ctxOpen c && decide (c.len.toNat ≤ first) && tokens.all (fun t => decide (t.toNat < 2 ^ 18)))
  .next (gated g (histViol s sess.toNat arg g)
    (answerCode (dramStore s (histAddr (histSid arg) + 4 * first) (tokens.flatMap (fun t => leBytes 4 t.toNat))) 0))

/-- HIST_RD: the answer carries the tokens, 4 bytes each, also of a stream that has ended (R433, R487). -/
def execHistRd (sess : SessId) (arg : Word) (count : BitVec 32) (s : State) : Host.Outcome State Fault Refusal :=
  let first := bitsAt arg 32 21
  let g := histGate s sess.toNat arg count.toNat (fun _ => true)
  let a := histAddr (histSid arg) + 4 * first
  .next (gated g (histViol s sess.toNat arg g) (
    let r := dramReads s (a / 8) ((a % 8 + 4 * count.toNat + 7) / 8)
    let bs := ((dramBytes r.1).drop (a % 8)).take (4 * count.toNat)
    answer r.2 0 (markIf (anyPoison r.1) (clean (packBytes bs ((4 * count.toNat + 7) / 8))))))

/-! ### Span landing (R491-R493) -/

/-- The tile that a route word names, by the relocation of R261, in this module's placement: its site (R492, R493). -/
def routeSite (s : State) (route : Word) : Option Nat :=
  s.load.img.bind (fun i => logicalSite i s.plc.courses (bitsAt route 6 16) (bitsAt route 22 8) (bitsAt route 30 8))

/-- A line of a LAND: late lines and lines without credit are dropped and counted; another waits for injection with its credit
taken (R493). -/
def landLine (n site win : Nat) (rel : Byte) (e : BitVec 16 × List Word) (s : State) : State :=
  if 128 ≤ (rel - BitVec.ofNat 8 s.frames).toNat then linkUpd n (fun d => { d with late := satInc d.late }) s
  else if sget 0 s.grid.credit (creditKey n site win) = 0 then linkUpd n (fun d => { d with nocred := satInc d.nocred }) s
  else
    let s1 := onGrid (fun g => { g with credit := supd 0 g.credit (creditKey n site win) (· - 1) }) s
    rimPush n [⟨site, e.1, rel, clean ((List.range 16).map (lget 0 e.2))⟩] s1

/-- An entry of a LAND: its line at the tile that the route names; a route to no placed tile finds no credit (R493). -/
def landEntry (n : Nat) (route : Word) (e : BitVec 16 × List Word) (s : State) : State :=
  match routeSite s route with
  | some site => landLine n site (bitsAt route 38 5) (BitVec.ofNat 8 (bitsAt route 43 8)) e s
  | none => linkUpd n (fun d => { d with nocred := satInc d.nocred }) s

/-- LAND: the lines of a SPAN session are relocated and held for injection; a route to no placed tile finds no credit (R493). -/
def execLand (sess : SessId) (route : Word) (entries : List (BitVec 16 × List Word)) (s : State) : Host.Outcome State Fault Refusal :=
  match sessAt s sess.toNat with
  | none => .next (answerCode s 2)
  | some x =>
    if x.kind ≠ 2 then .next (answerCode s 2)
    else if 30 < entries.length then .next (answerCode s 1)
    else
      let n := sess.toNat / 256
      .next (answerCode (entries.foldl (fun acc e => landEntry n route e acc) s) 0)

/-- Cut a list into runs of at most n. -/
def chunksOf {α : Type} (n : Nat) (l : List α) : List (List α) := (List.range ((l.length + n - 1) / n)).map (fun k => (l.drop (n * k)).take n)

/-- The bytes of LAND entries: 8 bytes of line index and 128 of line (R487). -/
def landBytes (ls : List GateLine) : List Byte := ls.flatMap (fun l => leBytes 8 l.line.toNat ++ wordBytes (bitsOf l.words))

/-- The session of a link die to a span position: `span` of a SPAN session is one more than the peer's position (R491). -/
def spanSess (d : LinkDie) (pos : Nat) : Option Nat :=
  (d.sess.find? (fun e => e.2.any (fun x => x.kind == 2 && x.span == pos + 1))).map Prod.fst

/-- SPAN_SEND: the lines that gateway tiles gave this die leave in LAND packets, at most 30 to a packet, each route word in the
order of its arrival; lines for a position without a session are dropped (R492). -/
def execSpanSend (die : Die) (s : State) : Host.Outcome State Fault Refusal :=
  let d := linkAt s die
  let routes := (d.gate.map GateLine.route).eraseDups
  let s1 := linkPut s die { d with gate := [] }
  .next (routes.foldl (fun acc r =>
    match spanSess d (bitsAt r 0 6) with
    | none => acc
    | some i => (chunksOf 30 (d.gate.filter (fun l => l.route == r))).foldl (fun t ls =>
        klpSend (256 * die.val + i) false 0x38 r (landBytes ls) t) acc) s1)

/-! ### Time (R495) -/

/-- The link die that module time follows: the lowest with EN and LOCKED (R495). -/
def ptpSource (s : State) : Option Nat := (List.range 16).find? (fun n => let d := linkAt s n; d.ptpEn && d.ptpLocked)

/-- Module time moves by a number of nanoseconds. -/
def timeShift (ns : Int) (s : State) : State := { s with time := ((s.time : Int) + ns * 7927920).toNat }

/-- PTP_MESSAGE: on the sub-port of a follower with EN the offset from the master is found from the four timestamps, end to end
((t2 - t1) - (t4 - t3)) / 2, or with the peer delay t4 - t3; the die that module time follows disciplines it (R495). -/
def execPtpMessage (die : Die) (sub : SubPort) (t1 t2 t3 t4 : Word) (locked : Bool) (s : State) : Host.Outcome State Fault Refusal :=
  let d := linkAt s die
  if !d.ptpEn || d.ptpGm || d.ptpSub.toNat != sub.val then .next s
  else
    let off := if d.ptpP2p then (t2 - t1 - (t4 - t3)).toInt else (t2 - t1 - (t4 - t3)).toInt / 2
    let s1 := linkPut s die { d with ptpOffset := BitVec.ofInt 32 off, ptpLocked := locked }
    .next (if locked ∧ ptpSource s1 = some die.val then timeShift (-off) s1 else s1)

end Sys2Proof.Machine
end

