-- ==== Sys2Proof/Machine/Probe.lean ====
section
/-! DEFINITION. Probes: the probe set, the probe slots of a tile, and the handling of a confirmed mismatch (R557-R560). -/

namespace Sys2Proof.Machine

/-! ### The probe set (R557) -/

/-- The length of a probe set. -/
def probeSetLen : Nat := 768
/-- Whether a probe set has its layout: MAGIC, VERSION, and zero bytes elsewhere. -/
def probeSetOk (bs : List Byte) : Bool :=
  bs.length == probeSetLen && leNat (bs.take 4) == 0x4B505253 && leNat ((bs.drop 4).take 2) == 1 &&
    ((bs.drop 6).take 2 ++ (bs.drop 12).take 20 ++ (bs.drop 552).take 120).all (fun b => b == 0)
/-- SET_ID of a probe set. -/
def probeSetId (bs : List Byte) : BitVec 32 := BitVec.ofNat 32 (leNat ((bs.drop 8).take 4))
/-- The four probe lines, 16 words each, and their scales as one word. -/
def probeSetWords (bs : List Byte) : List Word := packBytes ((bs.drop 32).take 512) 64 ++ packBytes ((bs.drop 544).take 8) 1
/-- Whether a set's signature holds. -/
def probeSetSigned (s : State) (bs : List Byte) : Bool := sigAny s.sec .probe (bs.take 672) (bs.drop 672)

/-- The refusal of a probe set: BAD for its layout, DENIED for its signature, STATE for a SET_ID that is not greater, BUSY while an
install computes references. -/
def probeRefusal (s : State) (bs : List Byte) : Option Nat :=
  if !probeSetOk bs then some 1
  else if !probeSetSigned s bs then some 2
  else if (probeSetId bs).toNat ≤ s.hist.setId.toNat then some 5
  else if s.flt.setPending then some 3
  else none

/-- Install a probe set: PENDING until the commit group that writes lines and references into the tiles has applied. -/
def probeInstall (bs : List Byte) (s : State) : State :=
  match cgStart [(svcNode, .probeSet)] s with
  | some r => onFlt (fun f => { f with setPending := true, newSet := some (probeSetId bs, probeSetWords bs) }) r.2
  | none => s

/-- The group of a probe set applies: the lines and every resident macro's references are written (R557). -/
def probeApply (s : State) : State :=
  match s.flt.newSet with
  | none => s
  | some n =>
    let lines : SMap Word := ((List.range 65).zip n.2).foldl (fun m iw => sset 0 m iw.1 iw.2) []
    let s1 := onHist (fun h => { h with setId := n.1, probeLines := lines }) s
    let s2 := s1.grid.tiles.foldl (fun acc e => e.2.fab.mt.foldl (fun acc x =>
      if x.2.fmt ≠ 0 ∧ x.2.res then refsPut acc e.1 x.1 else acc) acc) s1
    onFlt (fun f => { f with setPending := false, newSet := none }) s2
/-- The group of a probe set was discarded: the old set stays. -/
def probeDrop (s : State) : State := onFlt (fun f => { f with setPending := false, newSet := none }) s

/-- Pod sessions on which a hawk sends: those of its live members, or of the upper pod's. -/
def liveMembers (t : SMap Member) : List (Nat × Nat) :=
  t.filterMap (fun e => if e.2.valid && e.2.live && !e.2.fenced then e.2.session.map (fun i => (e.1, i)) else none)
/-- Send a verb to every live member of the pods that the module leads. -/
def sendMembers (upper : Bool) (op : Byte) (arg : Word) (payload : List Byte) (s : State) : State :=
  (liveMembers (if upper then s.pod.utable else s.pod.table)).foldl (fun acc m => klpSend m.2 true op arg payload acc) s
/-- A hawk forwards the bytes of a probe set to every live member as PROBE_PUSH (R511). -/
def probeForward (off : Nat) (bs : List Byte) (s : State) : State :=
  if s.pod.st = 3 then sendMembers true 0x48 (BitVec.ofNat 64 off) bs (sendMembers false 0x48 (BitVec.ofNat 64 off) bs s) else s

/-- PROBE_SET_INSTALL: a probe set that arrives whole is forwarded by a hawk, and installed or refused (R511, R557). -/
def execProbeSetInstall (bytes : List Byte) (s : State) : Host.Outcome State Fault Refusal :=
  let s1 := probeForward 0 bytes s
  match probeRefusal s1 bytes with
  | some r => .next (answerCode s1 r)
  | none => .next (answerCode (probeInstall bytes s1) 0)

/-! ### Probe slots (R558, R560) -/

/-- Whether a macro is a candidate, and whether it is idle in a cycle. -/
def probeCand (f : Fabric) (m : Nat) : Bool := (mtGet f m).fmt ≠ 0 && (mtGet f m).res
/-- Whether a candidate may be probed in cycle x. -/
def probeIdle (f : Fabric) (m x : Nat) : Bool := probeCand f m && !(mtGet f m).busyPe && !(activeMacros f x).contains m && limitsOk f m x
/-- The macros in the order of the rotation from its pointer on. -/
def probeOrder (p : Nat) : List Nat := (List.range 8192).map (fun i => (p + i) % 8192)

/-- The macro and line that a slot probes, and the rotation after it: the repeated probe where one is due, else the first idle
candidate at or after the pointer; the line number goes up when the rotation wraps. -/
def probePick (t : Tile) (x : Nat) : Option ((Nat × Nat) × Probe) :=
  let p := t.probe
  match p.again with
  | some ml => if ml.2 < 4 ∧ probeIdle t.fab ml.1 x then some (ml, p) else none
  | none =>
    ((probeOrder p.ptr).find? (fun m => probeIdle t.fab m x)).map (fun m =>
      let l := if m < p.ptr then (p.lineNo + 1) % 4 else p.lineNo
      ((m, l), { p with ptr := (m + 1) % 8192, lineNo := if m + 1 = 8192 then (l + 1) % 4 else l }))

/-- What a probe's comparison leaves in the probe engine, with its report: a pass, a first mismatch, which is repeated, or a
confirmed one. -/
def probeJudge (site frame : Nat) (m l : Nat) (outs : List Lane32) (p : Probe) : Probe × List TOut :=
  let repeated := p.again.isSome
  let unit := fabAddr site m 0 0 false
  if crc32c (outs.flatMap (fun y => leBytes 4 y.toNat)) = sget 0 p.refs (4 * m + l) then
    ({ p with again := none, soft := if repeated then satInc p.soft else p.soft, passAt := sset 0 p.passAt m frame }, [])
  else
    let cap : List (Word × Nat) := (packBytes (outs.flatMap (fun y => leBytes 4 y.toNat)) 256).zip (List.range 256)
    let q := { p with capture := cap.foldl (fun (mp : SMap Word) (wi : Word × Nat) => sset 0 mp wi.2 wi.1) p.capture, missAt := frame }
    if repeated then ({ q with again := some (m, l + 4), conf := satInc p.conf }, [.rpt 0x13 unit [BitVec.ofNat 64 l]])
    else ({ q with again := some (m, l) }, [.rpt 0x12 unit [BitVec.ofNat 64 l]])

/-- A probe slot of a tile at tile cycle 1,920: a probe runs, or the slot is counted in SKIP where every candidate is busy. The
service die deals with a confirmed mismatch before the next probe. -/
def probeSlot (s : State) (site : Nat) (t : Tile) : Tile × List TOut :=
  let x := cycAt s 1920
  match probePick t x with
  | none =>
    let cand := t.fab.mt.any (fun e => probeCand t.fab e.1)
    let busy : Bool := match t.probe.again with | some ml => decide (ml.2 < 4) | none => cand
    ({ t with probe := if busy then { t.probe with skip := satInc t.probe.skip } else t.probe }, [])
  | some r =>
    let line := (List.range 16).map (fun w => sget 0 s.hist.probeLines (16 * r.1.2 + w))
    let o := opCompute t.fab r.1.1 ((List.range 128).map (byteOf line)) (halfOf [sget 0 s.hist.probeLines 64] r.1.2)
    let j := probeJudge site s.frames r.1.1 r.1.2 o.outs r.2
    ({ t with probe := j.1, fab := { t.fab with act := t.fab.act ++ [(x, r.1.1)], busyFrom := sset 0 t.fab.busyFrom r.1.1 (gapFree t.fab r.1.1 x) } },
      j.2)

/-- PROBE_SLOT: in a frame whose number is a multiple of 2^PROBE_DIV a tile's probe engine probes one macro (R558, R560). -/
def execProbeSlot (site : Site) (s : State) : Host.Outcome State Fault Refusal :=
  if s.flt.probeEn ∧ s.hist.setId ≠ 0 ∧ s.frames % 2 ^ min 6 s.flt.probeDiv.toNat = 0 then .next (tileDo s site (probeSlot s site))
  else .next s

/-! ### Confirmed mismatches (R560, R563) -/

/-- A tile's fabric with a macro as its library copy has it and converters as their trims: what the memory die computes with. -/
def exactFab (s : State) (site m : Nat) : Fabric :=
  let f := { fabAt s site with convErr := [] }
  match sliceOf s site m with
  | none => f
  | some mi =>
    let r := residAt s mi.1
    if r.lib.isEmpty then f
    else
      let rd := libRd s r
      let z := r.slices.flatMap (fun sl => if sl.id = mi.2 then sl.macros.filter (fun z => z.site == site && macIx z == m) else [])
      match z.head?, (shardSlices rd).find? (fun t => t.id == mi.2) with
      | some z, some t =>
        match mrecOf rd t z.logical with
        | some i => (List.range 144).foldl (fun f p => progPage m p (lineBits (mrecPage rd i p)) f) f
        | none => f
      | _, _ => f

/-- The logical columns of a macro in which the captured outputs differ from the exact ones: a W4 output has two columns. -/
def diffCols (s : State) (site m l : Nat) : List Nat :=
  let f := exactFab s site m
  let line := (List.range 16).map (fun w => sget 0 s.hist.probeLines (16 * l + w))
  let o := opCompute f m ((List.range 128).map (byteOf line)) (halfOf [sget 0 s.hist.probeLines 64] l)
  let cap := (List.range 256).map (fun w => sget 0 (tileAt s site).probe.capture w)
  ((List.range o.outs.length).filter (fun c => lget 0 o.outs c ≠ laneOf cap c)).flatMap (fun c =>
    if (mtGet f m).fmt = 3 then [2 * c, 2 * c + 1] else [c])

/-- Mark a macro WORN and move what it holds: a live slice's swap falls due as a refresh (R80). -/
def wornMove (site m : Nat) (s : State) : State :=
  let s1 := onFab s site (wornPut m)
  if (mtGet (fabAt s site) m).fmt = 0 then moveMacro site m s1
  else
    match sliceOf s site m with
    | some mi => refreshDue mi.1 mi.2 s1
    | none => s1

/-- A refresh of a macro's slice is scheduled (R156, R560). -/
def macroDue (site m : Nat) (s : State) : State :=
  match sliceOf s site m with
  | some mi => refreshDue mi.1 mi.2 s
  | none => s

/-- A macro as a unit of the history. -/
def unitMacro (site m : Nat) : UnitId := ⟨1, fabAddr site m 0 0 false⟩
/-- A logical column as a unit of the history. -/
def unitColumn (site m col : Nat) : UnitId := ⟨2, fabAddr site m 0 col false⟩

/-- A confirmed mismatch is charged to a unit: a refresh is scheduled on its first two events, and a unit classed permanent is
repaired; a signature record is written (R560, R563, R566). -/
def probeCharge (site m : Nat) (col : Option Nat) (detail : List Word) (s : State) : State :=
  let u := match col with | some c => unitColumn site m c | none => unitMacro site m
  let r := chargeEvent u 0x13 s
  let perm := r.1.hist.permanent.contains u
  let n := recentEvents r.1.hist u r.1.flt.opt
  let s1 := if perm then
      (if r.2 ∧ r.1.flt.remapEn then (match col with | some c => replaceColumn site m c r.1 | none => wornMove site m r.1) else r.1)
    else macroDue site m r.1
  let action : BitVec 4 := if perm then (if r.1.flt.remapEn then (if col.isSome then 2 else 4) else 0) else 1
  sigWrite 0x13 u perm n action detail s1

/-- PROBE_MISMATCH: the service die deals with a tile's confirmed mismatch: each of at most four differing columns is charged, or the
macro (R560). -/
def execProbeMismatch (site : Site) (s : State) : Host.Outcome State Fault Refusal :=
  let p := (tileAt s site).probe
  match p.again with
  | none => .next s
  | some ml =>
    if ml.2 < 4 then .next s
    else
      let cols := diffCols s site ml.1 (ml.2 - 4)
      let s1 := tilePut s site (let t := tileAt s site; { t with probe := { p with again := none } })
      let s2 := onFlt (fun f => { f with confirmed := if f.confirmed = 0xFFFF then 0xFFFF else f.confirmed + 1 }) s1
      let detail := [BitVec.ofNat 64 (sget 0 p.passAt ml.1), BitVec.ofNat 64 p.missAt]
      .next (if !cols.isEmpty && decide (cols.length ≤ 4) then cols.foldl (fun acc c => probeCharge site ml.1 (some c) detail acc) s2
        else probeCharge site ml.1 none detail s2)

end Sys2Proof.Machine
end

