-- ==== Sys2Proof/Machine/Pod.lean ====
section
/-! DEFINITION. Pods: membership, epochs, fencing, takeover, spans and the verbs that the hawk sends (R501-R516). -/

namespace Sys2Proof.Machine

/-- Change the pod functions. -/
def onPod (f : Pod → Pod) (s : State) : State := { s with pod := f s.pod }

/-! ### Sessions that the module opens (R491, R502, R508, R510) -/

/-- The sub-port that the module opens a session from on a link die: the lowest that is up. -/
def upSub (d : LinkDie) : Option Nat := (List.range 24).find? (fun x => subUp d x)
/-- The link die that the module opens POD and OPERATOR sessions from: the lowest with an up sub-port and a free session. -/
def outDie (s : State) : Option Nat := (List.range 16).find? (fun n => (upSub (linkAt s n)).isSome && (freeSess (linkAt s n)).isSome)

/-- Open a session from a die to a peer; its agent is not known and stands as 0. -/
def openOut (die : Nat) (kind : BitVec 2) (upper : Bool) (span : Nat) (m : Member) (s : State) : Option (Nat × State) :=
  let d := linkAt s die
  (upSub d).bind (fun sub => (freeSess d).map (fun i =>
    let id := 256 * die + i
    let x : Session :=
      { mac := m.mac, ip4 := m.ip4, ip6h := m.ip6h, ip6l := m.ip6l, agent := 0, aepoch := 0, tenant := 0, kind := kind, sub := sub, alt := 255,
        window := 1024, rto := d.rtoUs, regBase := 0, regLen := 0, keyId := 0, key := Config.sessionKey s.draws [] id,
        data := KChan.reset, ctrl := KChan.reset, rate := 1000, silent := 0, prov := false, upper := upper, span := span }
    (id, sessPut { s with draws := s.draws + 1 } id (some x))))

/-! ### The member tables (R502, R516) -/

/-- A member table of the module. -/
def memberTab (upper : Bool) (s : State) : SMap Member := if upper then s.pod.utable else s.pod.table
/-- An entry of a member table. -/
def memberAt (upper : Bool) (s : State) (slot : Nat) : Member := sget Member.none (memberTab upper s) slot
/-- Store an entry. -/
def memberPut (upper : Bool) (slot : Nat) (m : Member) (s : State) : State :=
  onPod (fun p => if upper then { p with utable := sset Member.none p.utable slot m } else { p with table := sset Member.none p.table slot m }) s
/-- The slot of the module in a pod. -/
def ownSlot (upper : Bool) (s : State) : Nat := if upper then s.pod.uslot.toNat else s.pod.slot.toNat
/-- The epoch of a pod. -/
def podEpoch (upper : Bool) (s : State) : BitVec 16 := if upper then s.pod.uepoch else s.pod.epoch
/-- Whether the module leads a pod: it is a hawk, of the upper pod only with a VALID entry in its upper table. -/
def leads (upper : Bool) (s : State) : Bool := s.pod.st == 3 && (!upper || podUlead s)

/-- Word 0 of an entry (R516). -/
def memberWord0 (m : Member) : Word := fields [(0, m.mac.toNat), (48, b1 m.valid), (49, b1 m.standby), (50, b1 m.live)]
/-- The four words of an entry. -/
def memberWords (m : Member) : List Word := [memberWord0 m, m.ip4.setWidth 64, m.ip6h, m.ip6l]
/-- Write word w of an entry; LIVE is read-only. -/
def memberWrite (w : Nat) (v : Word) (m : Member) : Member :=
  if w = 0 then { m with mac := v.setWidth 48, valid := v.getLsbD 48, standby := v.getLsbD 49 }
  else if w = 1 then { m with ip4 := v.setWidth 32 }
  else if w = 2 then { m with ip6h := v }
  else { m with ip6l := v }

/-- Send MEMBER to a slot: the epoch, the slot and FRAME_BASE (R503, R514). -/
def sendMember (upper : Bool) (slot id : Nat) (s : State) : State :=
  klpSend id true 0x40 (fields [(0, slot), (7, (podEpoch upper s).toNat)]) (leBytes 8 s.pod.frameBase.toNat) s

/-- The hawk tends an entry: it opens a POD session to a VALID member that has none and sends MEMBER to one that is not live
(R502, R515). -/
def tendMember (upper : Bool) (slot : Nat) (s : State) : State :=
  let m := memberAt upper s slot
  if !m.valid || m.fenced || m.live || slot == ownSlot upper s then s
  else match m.session.bind (sessAt s) with
    | some _ => sendMember upper slot (m.session.getD 0) s
    | none =>
      match (outDie s).bind (fun n => openOut n 3 upper 0 m s) with
      | some r => sendMember upper slot r.1 (memberPut upper slot { m with session := some r.1 } r.2)
      | none => s

/-- MEMBER_TABLE_WRITE: host software writes a word of a hawk's member table; a VALID entry gets its POD session and MEMBER. A
VALID write of word 0 to a fenced entry lists the module anew; on other roles the write is ignored (R502, R506, R516). -/
def execMemberTableWrite (upper : Bool) (slot : BitVec 7) (w : BitVec 2) (v : Word) (s : State) : Host.Outcome State Fault Refusal :=
  if s.pod.st ≠ 3 then .next s
  else
    let m := memberWrite w.toNat v (memberAt upper s slot.toNat)
    let m1 := if w = 0 ∧ m.valid ∧ m.fenced then { m with fenced := false, session := none } else m
    .next (tendMember upper slot.toNat (memberPut upper slot.toNat m1 s))

/-! ### Verbs from the hawk (R502-R505, R508, R514) -/

/-- The refusal of a pod verb: DENIED from another kind of session, STATE from a provisional one or one that is not the hawk's. -/
def podGate (s : State) (sess : Nat) (hawk : Bool) : Option Nat :=
  match sessAt s sess with
  | none => some 2
  | some x => if x.kind ≠ 3 then some 2 else if x.prov ∨ (hawk ∧ s.pod.hawkSess ≠ some sess) then some 5 else none
/-- Whether a session belongs to the upper pod. -/
def sessUpper (s : State) (sess : Nat) : Bool := match sessAt s sess with | some x => x.upper | none => false

/-- MEMBER: while no stencil runs the module takes the epoch, its slot and FRAME_BASE, and its frame counter is aligned at the next
frame boundary; STATE otherwise. A lower hawk joins the upper pod so and stays HAWK (R503, R513). -/
def execMember (sess : SessId) (arg frameBase : Word) (s : State) : Host.Outcome State Fault Refusal :=
  .next (gated (podGate s sess.toNat true) s (
    if s.grid.tiles.any (fun e => e.2.mesh.run) then answerCode s 5
    else
      let slot := BitVec.ofNat 7 (bitsAt arg 0 7)
      let epoch := BitVec.ofNat 16 (bitsAt arg 7 16)
      let up := sessUpper s sess.toNat
      let s1 := onPod (fun p =>
        let q := { p with frameBase := frameBase, baseFrame := 0, align := true, hawkLost := false }
        if up then { q with upper := true, uslot := slot, uepoch := epoch } else { q with st := 2, slot := slot, epoch := epoch }) s
      answerCode { s1 with clk := { s1.clk with offGrid := false } } 0))

/-- Whether epoch a is ahead of epoch b by 1 to 32,767 (R502, R515). -/
def epochAhead (a b : BitVec 16) : Bool := decide (1 ≤ (a - b).toNat) && decide ((a - b).toNat ≤ 32767)

/-- An epoch is to apply at a frame: at once when that has passed, else pending; of two that wait the higher stays (R504, R515). -/
def epochSched (upper : Bool) (e : BitVec 16) (f : Nat) (s : State) : State :=
  onPod (fun p =>
    if f ≤ (frameCtr s).toNat then (if upper then { p with uepoch := e } else { p with epoch := e })
    else
      let keep := fun (o : Option (BitVec 16 × Nat)) => match o with
        | some x => if epochAhead e x.1 then some (e, f) else some x
        | none => some (e, f)
      if upper then { p with pendUpper := keep p.pendUpper } else { p with pendEpoch := keep p.pendEpoch }) s
/-- The pending epochs whose apply frame has come (R504). -/
def epochsDue (s : State) : State :=
  let due := fun (x : BitVec 16 × Nat) => decide (x.2 ≤ (frameCtr s).toNat)
  onPod (fun p =>
    let q := match p.pendEpoch with | some x => if due x then { p with epoch := x.1, pendEpoch := none } else p | none => p
    match q.pendUpper with | some x => if due x then { q with uepoch := x.1, pendUpper := none } else q | none => q) s

/-- EPOCH_SET: the epoch and its apply frame from the hawk (R504). -/
def execEpochSet (sess : SessId) (arg : Word) (s : State) : Host.Outcome State Fault Refusal :=
  .next (gated (podGate s sess.toNat true) s
    (answerCode (epochSched (sessUpper s sess.toNat) (BitVec.ofNat 16 (bitsAt arg 0 16)) (bitsAt arg 16 48) s) 0))

/-- A span as the words of SYNC give it: SPAN_ID, then size, then the slot bytes. -/
def spanOfWords (ws : List Word) : Span :=
  let n := (lget 0 ws 1).toNat % 64
  ⟨lget 0 ws 0, 0, n, (List.range n).map (fun i => byteOf (ws.drop 2) i), false⟩
/-- The words of a span in SYNC. -/
def spanWords (x : Span) : List Word := x.id :: BitVec.ofNat 64 x.size :: packBytes x.slots ((x.size + 7) / 8)
/-- A member entry as the words of SYNC give it; bit 51 of word 0 carries FENCED. -/
def memberOfWords (ws : List Word) : Member :=
  let w := lget 0 ws 0
  ⟨w.setWidth 48, w.getLsbD 48, w.getLsbD 49, w.getLsbD 50, (lget 0 ws 1).setWidth 32, lget 0 ws 2, lget 0 ws 3, w.getLsbD 51, none⟩

/-- SYNC: a standby keeps the latest copy of the hawk's tables (R507, R513). -/
def execSync (sess : SessId) (epoch : BitVec 16) (members : List (BitVec 7 × List Word)) (spans : List (Byte × List Word)) (s : State) :
    Host.Outcome State Fault Refusal :=
  .next (gated (podGate s sess.toNat true) s (
    if podRole s ≠ 3 ∧ !sessUpper s sess.toNat then answerCode s 5
    else
      let ms : SMap Member := members.foldl (fun m e => sset Member.none m e.1.toNat (memberOfWords e.2)) []
      let ss : SMap (Option Span) := spans.foldl (fun m e => sset none m e.1.toNat (some (spanOfWords e.2))) []
      answerCode (onPod (fun p => { p with synced := some (epoch, ms, ss) }) s) 0))

/-- The bytes of the tables that SYNC carries. -/
def syncBytes (upper : Bool) (s : State) : List Byte :=
  (memberTab upper s).flatMap (fun e =>
    BitVec.ofNat 8 e.1 :: wordBytes ((memberWord0 e.2 ||| (if e.2.fenced then 1 <<< 51 else 0)) :: (memberWords e.2).drop 1)) ++
    (if upper then [] else s.pod.spans.flatMap (fun e => match e.2 with | some x => BitVec.ofNat 8 e.1 :: wordBytes (spanWords x) | none => []))
/-- Change the pod's epoch: EPOCH_SET to every live member with an apply frame 8 frames ahead, and the hawk's own switch; at most
once in a heartbeat interval, otherwise in the next one (R504). -/
def epochChange (upper : Bool) (s : State) : State :=
  let made := if upper then s.pod.upperMade else s.pod.epochMade
  if made then onPod (fun p => if upper then { p with upperOwed := true } else { p with epochOwed := true }) s
  else
    let e := podEpoch upper s + 1
    let f := (s.frames + 8) % 2 ^ 48
    let s1 := sendMembers upper 0x41 (fields [(0, e.toNat), (16, f)]) [] s
    onPod (fun p => if upper then { p with upperMade := true, upperOwed := false } else { p with epochMade := true, epochOwed := false })
      (epochSched upper e f s1)
/-- One pod of a hawk at a heartbeat interval: an owed epoch change, the entries tended, and SYNC to the live standby (R502, R504,
R507). -/
def hawkInterval (upper : Bool) (s : State) : State :=
  if !leads upper s then s
  else
    let owed := if upper then s.pod.upperOwed else s.pod.epochOwed
    let s1 := onPod (fun p => if upper then { p with upperMade := false } else { p with epochMade := false }) s
    let s2 := if owed then epochChange upper s1 else s1
    let s3 := (memberTab upper s2).foldl (fun acc e => tendMember upper e.1 acc) s2
    match (memberTab upper s3).find? (fun e => e.2.standby && e.2.live && !e.2.fenced) with
    | some e =>
      match e.2.session with
      | some id => (chunksOf 4096 (syncBytes upper s3)).foldl (fun acc c => klpSend id true 0x42 ((podEpoch upper s3).setWidth 64) c acc) s3
      | none => s3
    | none => s3
/-- SYNC_SEND: a hawk's heartbeat interval passes (R507). -/
def execSyncSend (s : State) : Host.Outcome State Fault Refusal := .next (hawkInterval true (hawkInterval false s))

/-- The epoch that a TAKEOVER must be ahead of: the pending one where there is one (R504, R515). -/
def epochRef (upper : Bool) (s : State) : BitVec 16 :=
  match (if upper then s.pod.pendUpper else s.pod.pendEpoch) with
  | some p => p.1
  | none => podEpoch upper s

/-- TAKEOVER: one that carries an epoch ahead of the module's own is accepted: the session to the old hawk closes, and the epochs
switch at the apply frame; STALE otherwise (R502, R504, R508). -/
def execTakeover (sess : SessId) (arg : Word) (s : State) : Host.Outcome State Fault Refusal :=
  match sessAt s sess.toNat with
  | none => .next (answerCode s 2)
  | some x =>
    let e := BitVec.ofNat 16 (bitsAt arg 0 16)
    if x.kind ≠ 3 then .next (answerCode s 2)
    else if !(s.pod.st == 2 || s.pod.st == 4 || (s.pod.st == 3 && x.upper && s.pod.upper)) then .next (answerCode s 5)
    else
      if !epochAhead e (epochRef x.upper s) then .next (answerCode s 6)
      else
        let s1 := match s.pod.hawkSess with
          | some old => if old = sess.toNat then s else sessClose false old s
          | none => s
        let s2 := sessUpd sess.toNat (fun y => { y with prov := false }) s1
        let s3 := onPod (fun p => { p with hawkSess := some sess.toNat, hawkLost := false, takeFrom := some x.mac.toNat,
                                           st := if p.st = 4 then 2 else p.st }) s2
        .next (answerCode (epochSched x.upper e (bitsAt arg 16 48) s3) 0)

/-- PROVISIONAL_SESSION_TIMEOUT: a provisional session without a TAKEOVER for 10 ms closes (R502). -/
def execProvisionalSessionTimeout (sess : SessId) (s : State) : Host.Outcome State Fault Refusal :=
  match sessAt s sess.toNat with
  | some x => .next (if x.prov then sessClose false sess.toNat s else s)
  | none => .next s

/-- ORPHAN_TIMEOUT: a member whose hawk's session timed out and that received no TAKEOVER for 10 ms becomes an orphan (R508). -/
def execOrphanTimeout (s : State) : Host.Outcome State Fault Refusal :=
  .next (if s.pod.hawkLost ∧ s.pod.st = 2 then onPod (fun p => { p with st := 4 }) s else s)

/-- STANDBY_TAKEOVER: a standby whose session to the hawk timed out becomes hawk: the last synced epoch plus 16, the synced tables
with slot 0 fenced, a POD session and TAKEOVER to every member that is not fenced, and the grandmaster role (R508, R513). -/
def execStandbyTakeover (upper : Bool) (s : State) : Host.Outcome State Fault Refusal :=
  let able : Bool := s.pod.hawkLost && (if upper then s.pod.st == 3 && s.pod.upper else podRole s == 3 && (s.pod.st == 2 || s.pod.st == 4))
  match s.pod.synced with
  | none => .next s
  | some c =>
    if !able then .next s
    else
      let e := c.1 + 16
      let me := ownSlot upper s
      let tab := smap Member.none (supd Member.none c.2.1 0 (fun m => { m with fenced := true, live := false })) (fun _ m => { m with session := none })
      let s1 := onPod (fun p =>
        let q := { p with hawkLost := false, synced := none, takeovers := satInc p.takeovers, fences := satInc p.fences }
        if upper then { q with uepoch := e, utable := tab, pendUpper := none, upper := false }
        else { q with st := 3, epoch := e, table := tab, pendEpoch := none,
                      spans := if c.2.2.isEmpty then q.spans else smap none c.2.2 (fun k x => x.map (fun y =>
                        match sget none q.spans k with | some z => z | none => y)) }) s
      let f := (s.frames + 8) % 2 ^ 48
      let s2 := tab.foldl (fun acc x =>
        if !x.2.valid || x.2.fenced || x.1 == me || x.1 == 0 then acc
        else match (outDie acc).bind (fun n => openOut n 3 upper 0 x.2 acc) with
          | some r => klpSend r.1 true 0x43 (fields [(0, e.toNat), (16, f)]) [] (memberPut upper x.1 { x.2 with session := some r.1 } r.2)
          | none => acc) s1
      .next { s2 with ld := smap LinkDie.reset s2.ld (fun _ d => if d.ptpEn then { d with ptpGm := true } else d) }

/-! ### Loss of members (R505, R514, R515) -/

/-- A span that holds a slot is down: its members hear SPAN_DOWN, and the hawk marks it (R505). -/
def spansDown (slot : Nat) (s : State) : State :=
  s.pod.spans.foldl (fun acc e => match e.2 with
    | some x =>
      if x.slots.any (fun b => b.toNat == slot) then
        let s1 := (liveMembers acc.pod.table).foldl (fun t m =>
          if x.slots.any (fun b => b.toNat == m.1) then klpSend m.2 true 0x45 (BitVec.ofNat 64 e.1) [] t else t) acc
        onPod (fun p => { p with spans := sset none p.spans e.1 (some { x with down := true }) }) s1
      else acc
    | none => acc) s

/-- The hawk fences a lost member, changes the epoch, abandons the locks of the module's agents and downs its spans; a shard that it
was receiving ends with its failure (R417, R505, R515). -/
def loseMember (upper : Bool) (slot : Nat) (s : State) : State :=
  let m := memberAt upper s slot
  let agents := s.ld.flatMap (fun e => e.2.sess.filterMap (fun x => x.2.bind (fun y => if y.mac = m.mac ∧ y.agent ≠ 0 then some y.agent else none)))
  let s1 := memberPut upper slot { m with fenced := true, live := false, session := none } s
  let s2 := onPod (fun p => { p with fences := satInc p.fences }) s1
  let s3 := abandonLocks (fun l => agents.contains l.holder) (epochChange upper s2)
  if upper then s3 else spansDown slot s3

/-- MEMBER_LOST: a member whose POD session has closed is lost (R505). -/
def execMemberLost (upper : Bool) (slot : BitVec 7) (s : State) : Host.Outcome State Fault Refusal :=
  let m := memberAt upper s slot.toNat
  let gone : Bool := m.session.isSome && (m.session.bind (sessAt s)).isNone
  .next (if leads upper s && m.valid && !m.fenced && gone then loseMember upper slot.toNat s else s)

/-- LEAVE: a hawk loses the member that sends it; a member that receives it is fenced until it rejoins (R505, R506, R514). -/
def execLeave (sess : SessId) (s : State) : Host.Outcome State Fault Refusal :=
  .next (gated (podGate s sess.toNat false) s (
    let up := sessUpper s sess.toNat
    match (memberTab up s).find? (fun e => e.2.session == some sess.toNat) with
    | some e => loseMember up e.1 (sessClose false sess.toNat (answerCode s 0))
    | none =>
      if s.pod.hawkSess = some sess.toNat then
        onPod (fun p => if up then { p with upper := false } else { p with st := 5 }) (sessClose false sess.toNat (answerCode s 0))
      else answerCode s 5))

/-! ### Spans (R491, R505, R509, R510) -/

/-- The link dies that anchor GATEWAY regions of the active image (R491). -/
def gatewayDies (s : State) : List Nat :=
  match s.load.img with
  | some i => ((i.regions.filter (fun g => g.role == 5 && decide (g.anchor < 16))).map ImgRegion.anchor).eraseDups
  | none => []
/-- The SPAN sessions of the active image's span that are not open: one from each gateway's link die to every other position (R491,
R509). -/
def openSpans (s : State) : State :=
  let id : Word := match s.load.img with | some i => i.hdr.spanId | none => 0
  s.pod.spans.foldl (fun acc e => match e.2 with
    | some x =>
      if x.id ≠ id then acc
      else (gatewayDies acc).foldl (fun acc n => (List.range x.size).foldl (fun acc pos =>
        if pos = x.pos ∨ (spanSess (linkAt acc n) pos).isSome then acc
        else match openOut n 2 false (pos + 1) (memberAt false acc (lget 0 x.slots pos).toNat) acc with
          | some r => r.2
          | none => acc) acc) acc
    | none => acc) s

/-- SPAN_SET: the module's position in a span; BAD where the slots do not match the size (R509, R514). -/
def execSpanSet (sess : SessId) (arg spanId : Word) (slots : List Byte) (s : State) : Host.Outcome State Fault Refusal :=
  let pos := bitsAt arg 8 6
  let size := bitsAt arg 14 6
  .next (gated (podGate s sess.toNat true) s (
    if slots.length < size ∨ size ≤ pos then answerCode s 1
    else answerCode (openSpans (onPod (fun p =>
      { p with spans := sset none p.spans (bitsAt arg 0 8) (some ⟨spanId, pos, size, slots.take size, false⟩) }) s)) 0))

/-- SPAN_DOWN: later ADMITs to the span's pipelines fail until a new SPAN_SET (R505). -/
def execSpanDown (sess : SessId) (span : Byte) (s : State) : Host.Outcome State Fault Refusal :=
  .next (gated (podGate s sess.toNat true) s (answerCode (onPod (fun p => match sget none p.spans span.toNat with
    | some x => { p with spans := sset none p.spans span.toNat (some { x with down := true }) }
    | none => p) s) 0))

/-- Send a member its part of a delivery: SHARD_BEGIN, the manifest and its shard in SHARD_DATA of 4,096 bytes (R487, R510). -/
def sendShard (d : Delivery) (id pos : Nat) (s : State) : State :=
  let x := packageShard d pos
  let head := leBytes 4 d.manLen ++ leBytes 4 0 ++ leBytes 8 x.2 ++ [BitVec.ofNat 8 (b1 d.pin), 0, 0]
  let bs := bytesAt d.manifest 0 d.manLen ++ bytesAt d.shard x.1 x.2
  ((List.range ((bs.length + 4095) / 4096)).zip (chunksOf 4096 bs)).foldl
    (fun acc c => klpSend id false 0x31 (BitVec.ofNat 64 (4096 * c.1)) c.2 acc) (klpSend id true 0x30 0 head s)

/-- Serve one position of a distribution over an OPERATOR session to its member; a member that cannot be reached ends with
failure 1 (R510, R515). -/
def distServe (d : Delivery) (x : Span) (pos : Nat) (s : State) : State :=
  let slot := (lget 0 x.slots pos).toNat
  let m := memberAt false s slot
  let fail := onPod (fun p => { p with dist := p.dist.map (fun e => { e with arg := if bitsAt e.arg 12 4 = 0 then fields [(12, 1), (16, (frameCtr s).toNat)] else e.arg }) }) s
  if !m.valid || m.fenced then fail
  else match (outDie s).bind (fun n => openOut n 1 false 0 m s) with
    | none => fail
    | some r => onPod (fun p => { p with dist := p.dist.map (fun e => { e with wait := e.wait ++ [r.1] }) }) (sendShard d r.1 pos r.2)

/-- The members of a distribution that are served next: at most 8 at once; host software hears when none is left (R510). -/
def distNext (d : Delivery) (x : Span) (s : State) : State :=
  match s.pod.dist with
  | none => s
  | some e =>
    let now := e.todo.take (8 - e.wait.length)
    let s1 := onPod (fun p => { p with dist := some { e with todo := e.todo.drop now.length } }) s
    let s2 := now.foldl (fun acc pos => distServe d x pos acc) s1
    match s2.pod.dist with
    | some g => if g.wait.isEmpty ∧ g.todo.isEmpty then distEnd g s2 else s2
    | none => s2

/-- SHARD_DISTRIBUTION: the hawk verifies the manifest of a complete package and sends each member of the span its shard, at most 8 at
once; its own shard becomes a delivery of its own when the others are done (R510). -/
def execShardDistribution (span : Byte) (s : State) : Host.Outcome State Fault Refusal :=
  match s.delivery, sget none s.pod.spans span.toNat with
  | some d, some x =>
    if d.span ≠ some span.toNat ∨ d.got < d.manLen + d.shardLen ∨ s.pod.st ≠ 3 then .next s
    else
      let mr : Rd := fun o => sget 0 d.manifest o
      let cpl := fun (err : Nat) => klpSend d.sess true 0x33 (fields [(12, err), (16, (frameCtr s).toNat)]) [] { s with delivery := none }
      if !manifestOk mr d.manLen ∨ !manifestSigned s mr d.manLen then .next (cpl 1)
      else match s.pod.dist with
        | some _ => .next (distNext d x s)
        | none =>
          let all := (List.range x.size).filter (fun p => (lget 0 x.slots p).toNat ≠ s.pod.slot.toNat)
          .next (distNext d x (onPod (fun p => { p with dist := some ⟨d.sess, [], all, 0⟩ }) s))
  | _, _ => .next s

/-! ### Reports, probe sets and frequency (R511, R512, R514, R598) -/

/-- DISTRESS: a member's deputy reports to the hawk, which keeps the report (R514, R554). -/
def execDistress (sess : SessId) (arg : Word) (bytes : List Byte) (s : State) : Host.Outcome State Fault Refusal :=
  .next (gated (podGate s sess.toNat false) s
    (answerCode (onPod (fun p => { p with distress := sset [] p.distress (16 * sess.toNat + bitsAt arg 0 4) bytes }) s) 0))

/-- PROBE_PUSH: bytes of a probe set from the hawk, forwarded by a module that is itself a hawk; the set is verified and installed
when all 768 bytes are there (R511, R557). -/
def execProbePush (sess : SessId) (off : Word) (bytes : List Byte) (s : State) : Host.Outcome State Fault Refusal :=
  .next (gated (podGate s sess.toNat true) s (
    if probeSetLen < off.toNat + bytes.length then answerCode s 1
    else
      let s1 := probeForward off.toNat bytes s
      let got := (if off = 0 then 0 else s1.pod.probeGot) + bytes.length
      let mem := bytesPut s1.pod.probe off.toNat bytes
      if got < probeSetLen then answerCode (onPod (fun p => { p with probe := mem, probeGot := got }) s1) 0
      else
        let set := bytesAt mem 0 probeSetLen
        let s2 := onPod (fun p => { p with probe := [], probeGot := 0 }) s1
        match probeRefusal s2 set with
        | some r => answerCode s2 r
        | none => answerCode (probeInstall set s2) 0))

/-- Whether an item is a frequency step. -/
def isFreq : CgItem → Bool
  | .freq _ => true
  | _ => false
/-- The frequency code that waits for its apply frame (R590). -/
def freqPending (s : State) : Option (BitVec 4) :=
  (s.cg.parts.flatMap CgPart.items).findSome? (fun i => match i with | .freq k => some (k.setWidth 4) | _ => none)
/-- Open the commit group of a step to code k; none while a step is in progress, for the code in force or for a reserved code (R589,
R590). -/
def freqStep (k : Nat) (s : State) : State :=
  if 8 < k ∨ k = s.clk.k.toNat ∨ (freqPending s).isSome then s else cgTry [(svcNode, .freq (BitVec.ofNat 8 k))] s
/-- A hawk sends FREQ to every member, 16 frames ahead, and takes the step itself; other modules take it alone (R512, R581, R598). -/
def freqLead (k : Nat) (s : State) : State :=
  freqStep k (if s.pod.st = 3 then sendMembers false 0x49 (fields [(0, k), (16, (s.frames + 16) % 2 ^ 48)]) [] s else s)
/-- Set the code requested: kreq (R580, R598). -/
def kreqPut (k : Nat) (s : State) : State := { s with clk := { s.clk with kreq := BitVec.ofNat 4 k } }

/-- FREQ: the hawk's step: kreq is set and the module runs its own frequency commit; reserved codes are ignored (R512, R589, R598). -/
def execFreq (sess : SessId) (arg : Word) (s : State) : Host.Outcome State Fault Refusal :=
  let k := bitsAt arg 0 8
  .next (gated (podGate s sess.toNat true) s (answerCode (if 8 < k then s else freqStep k (kreqPut k s)) 0))

/-- FREQUENCY_STEP: a write of CLK_CTRL.FREQ: ignored in MEMBER state and for codes 9 to 15, carried to the members in HAWK state
(R589, R590, R598). -/
def execFrequencyStep (code : BitVec 4) (s : State) : Host.Outcome State Fault Refusal :=
  .next (if 8 < code.toNat ∨ s.pod.st = 2 then s else freqLead code.toNat (kreqPut code.toNat s))

end Sys2Proof.Machine
end

