-- ==== Sys2Proof/Machine/Faults.lean ====
section
/-! DEFINITION. History events and the repairs they bring, silent rim dies, deputy watchdogs and the warm reset (R372, R545, R546,
R549, R553-R556, R561-R563, R607). -/

namespace Sys2Proof.Machine

/-! ### History events (R561-R563) -/

/-- Courses whose anchored regions no longer stand are placed again (R337, R549, R553). -/
def anchorsAgain (s : State) : State :=
  match s.load.img with
  | none => s
  | some i => (s.plc.courses.filter (fun c => !anchorsOk s i c)).foldl (fun acc c => moveCourse c.pipe 8064 acc) s

/-- A tile classed permanent is dust-sheeted and re-homed (R563). -/
def tileOut (site : Nat) (s : State) : State := if site < 8064 then rehomeFree site s else s
/-- The router of a rim-attached tile has failed: its rim port is lost, and courses that name it are placed again (R549). -/
def rimPortLost (site : Nat) (s : State) : State :=
  match rimOf site with
  | none => s
  | some cp =>
    let k := 8 * cp.1 + cp.2
    anchorsAgain { s with plc := { s.plc with deadPorts := if s.plc.deadPorts.contains k then s.plc.deadPorts else s.plc.deadPorts ++ [k] } }
/-- The spare of a group stands in for converter v for good, or the macro becomes WORN where it is in use (R81). -/
def converterOut (site m g v : Nat) (s : State) : State :=
  let e := mtGet (fabAt s site) m
  if spareUsed e g then wornMove site m s
  else
    let byte : Word := BitVec.ofNat 64 (128 + v)
    cgWhole (onFab s site (fun f => mtPut f m { e with conv := (e.conv &&& ~~~((0xFF : Word) <<< (8 * g))) ||| (byte <<< (8 * g)) }))
/-- An extent becomes BAD; a system one keeps its class (R456). -/
def extentBad (a : Nat) (s : State) : State :=
  let d := mdAt s (dramDie a)
  let v := extAt d (dramExt a)
  if extClass v = 1 then s else mdPut s (dramDie a) (extPut d (dramExt a) ((v &&& 0xFFFFFFF8) ||| 5))

/-- The action on a unit that becomes permanent, with its code of R566: columns, converters and macros by their fabric address, a
tile or lath node by its number, a router port as site + 8,192 × port, an extent by its DRAM address (R563, R566). -/
def permAction (kind addr : Nat) (s : State) : State × BitVec 4 :=
  let l := fabLoc (BitVec.ofNat 44 addr)
  match kind with
  | 0 => (tileOut addr s, 5)
  | 1 => (wornMove l.site l.mac s, 4)
  | 2 => (replaceColumn l.site l.mac l.col s, 2)
  | 3 => (converterOut l.site l.mac (l.row / 16) (l.col / 4) s, 3)
  | 4 => (rimPortLost (addr % 8192) (tileOut (addr % 8192) s), if (rimOf (addr % 8192)).isSome then 10 else 5)
  | 5 => (tileOut addr s, 5)
  | 6 => (extentBad addr s, 8)
  | _ => (s, 0)

/-- HISTORY_EVENT: an event is charged to a unit; one that becomes permanent by it is acted on while REMAP_EN is 1, and has its
signature record (R563, R566). -/
def execHistoryEvent (kind : BitVec 4) (addr : Word) (code : BitVec 6) (s : State) : Host.Outcome State Fault Refusal :=
  let u : UnitId := ⟨kind, addr⟩
  let r := chargeEvent u code s
  if !r.2 then .next r.1
  else
    let n := recentEvents r.1.hist u r.1.flt.opt
    let a := if r.1.flt.remapEn then permAction kind.toNat addr.toNat r.1 else (r.1, 0)
    .next (sigWrite code u true n a.2 [] a.1)

/-- OPT_RECORD: the operating-time count is recorded in the band (R562). -/
def execOptRecord (s : State) : Host.Outcome State Fault Refusal := .next (onHist (fun h => { h with opt := s.flt.opt }) s)

/-! ### Silent rim dies (R553) -/

/-- A silent link die is dust-sheeted: the RIM fences of its attached tiles are set, its sessions end, its ports go down, and the
courses anchored at it are placed again; a silent memory die is class X and its engine stops (R553). A silent service die is left to
the deputies. -/
def rimSilent (code : Nat) (s : State) : State :=
  let s1 := (chargeEvent (unitRim code) 0x1C (svcRpt s 0x1C (BitVec.ofNat 64 (rimNode code)) [])).1
  if code < 16 then
    let sites := (List.range 6).filterMap (rimSite code)
    let s2 := sites.foldl (fun acc z => tilePut acc z (let t := tileAt acc z; { t with mesh := { t.mesh with portCfg := setFence t.mesh.portCfg 4 true } })) s1
    let s3 := ((linkAt s2 code).sess.map Prod.fst).foldl (fun acc i => sessClose true (256 * code + i) acc) s2
    let s4 := linkUpd code (fun d => { d with silent := true, ports := smap (Port.reset 0) d.ports (fun _ p => { p with up := 0 }) }) s3
    anchorsAgain s4
  else if code < 32 then classX 0x1C (engUpd (code - 16) (fun e => { e with stopped := true }) s1)
  else s

/-- RIM_SILENT. -/
def execRimSilent (rim : BitVec 6) (s : State) : Host.Outcome State Fault Refusal := .next (rimSilent rim.toNat s)

/-! ### Deputies (R554, R555) -/

/-- The DISTRESS payload (R554). -/
def distressBytes (s : State) (n faulted : Nat) (silence : BitVec 2) : List Byte :=
  leBytes 8 Config.stackSn.toNat ++ leBytes 6 (frameCtr s).toNat ++ leBytes 2 faulted ++ leBytes 6 (mdAt s n).svcHeard ++ [silence.setWidth 8]

/-- DEPUTY_WATCHDOG: a memory die that has heard the service die neither on the lath nor on the engine ring stops its engine, ends
its open streams with FAULT and CAUSE RESET, asserts ALERT_N and sends DISTRESS to the hawk (R554, R555, R566, R567). -/
def execDeputyWatchdog (die : Die) (silence : BitVec 2) (s : State) : Host.Outcome State Fault Refusal :=
  if silence ≠ 3 ∨ (mdAt s die).deputyActed then .next s
  else
    let n := die.val
    let mine := (openSids s).filter (fun sid => sidEng sid == n && !(ctxAt s sid).final)
    let s1 := mine.foldl (fun acc sid => streamFault sid 12 4 acc) (engUpd n (fun e => { e with stopped := true }) s)
    let s2 := onFlt (fun f => { f with alertN := true, deputy := true }) (mdPut s1 n { mdAt s1 n with deputyActed := true })
    let s3 := match s.pod.hawkSess with
      | some id => klpSend id true 0x47 (BitVec.ofNat 64 n) (distressBytes s n mine.length silence) s2
      | none => s2
    .next (sieEvent (sigWrite 0x0D (unitRim (16 + n)) false 0 9 [] s3))

/-! ### Warm reset (R372, R403, R556, R607) -/

/-- Whether a word of a resident window holds poison. -/
def winPoisoned (p : Pad) (n : Nat) : Bool :=
  let w := winGet p n
  w.typ == 2 && p.words.any (fun e => winHas w (BitVec.ofNat 16 (e.1 / 16)) && (e.2.ecc == .double || e.2.ecc == .marked))
/-- A tile's scratchpad through a warm reset: zero outside resident windows; resident windows that held poison are restored and the
others keep their words (R37). -/
def warmPad (site : Nat) (s : State) : State :=
  let old := (tileAt s site).pad
  let bad := (List.range 32).filter (winPoisoned old)
  let s1 := tilePut s site (let t := tileAt s site; { t with pad := padZero (fun k => inResidentWin t.pad (k / 16)) t.pad })
  if bad.isEmpty then s1
  else
    let kept := (tileAt s1 site).pad.words
    let s2 := restoreSite site s1
    let inBad := fun (k : Nat) => bad.any (fun n => winHas (winGet old n) (BitVec.ofNat 16 (k / 16)))
    tilePut s2 site (let t := tileAt s2 site
      { t with pad := { t.pad with words := kept.foldl (fun m e => if inBad e.1 then m else sset SWord.zero m e.1 e.2)
                                              (skeep t.pad.words (fun k _ => inBad k)) } })
/-- A tile's fabric through a warm reset: programs and erases stop, macros with an erase pending are erased, and RES is found again
from the markers (R83, R150, R151). -/
def warmFab (f : Fabric) : Fabric :=
  let f1 := { f with peOps := [] }
  let f2 := (f1.mt.map Prod.fst).foldl (fun g m => if (mtGet g m).erasePending then eraseOk m g else mtPut g m { mtGet g m with busyPe := false }) f1
  (f2.mt.map Prod.fst).foldl (fun g m => mtPut g m { mtGet g m with res := (mtGet g m).fmt ≠ 0 && macroValid g m }) f2
/-- A live tile through a warm reset (R234, R607). -/
def warmTile (site : Nat) (s : State) : State :=
  let t := tileHalt (tileAt s site)
  creditTile site (warmPad site (tilePut s site { t with fab := warmFab t.fab, pad := { t.pad with hazOn := false } }))

/-- The order in which a pipeline's queues are rebuilt: READY lane tasks by SID (R372). -/
def requeue (s : State) : State :=
  (busySids s).foldl (fun acc sid =>
    (((engAt acc (sidEng sid)).tasks.filter (fun t => t.stream == some sid && laneKind t.kind && t.st == .ready)).foldl (fun a t =>
      pipeUpd (ctxAt a sid).pipe.toNat (fun p => { p with queue := p.queue ++ [⟨sid, t.slot, t.kind != 4, a.frames + 1, none, none, 0⟩] })
        (engEdit (sidEng sid) (taskSet { t with wait := 0, noticed := true }) a)) acc)) s
/-- The request engines through a warm reset: lane tasks count again from the committed length, open WAFER streams are replayed or
end with FAULT, the queues are rebuilt, and rings are written again (R372, R403, R432). -/
def warmEngines (s : State) : State :=
  let s1 := (List.range 16).foldl (fun acc n => engUpd n (fun e => { e with
    notices := [], pipes := smap Pipe.reset e.pipes (fun _ p => { p with queue := [], drain := [], lastEntry := [], passFilled := [] }) }) acc) s
  let s2 := (busySids s1).foldl (fun acc sid => ctxUpd sid (fun c => { c with closing := c.closing && c.closed }) (rewind sid acc)) s1
  let s3 := (openSids s2).foldl (fun acc sid =>
    if (ctxAt acc sid).tier || (ctxAt acc sid).len == 0 then acc else replayOr 4 sid acc) s2
  let s4 := requeue s3
  (busySids s4).foldl (fun acc sid => recRewrite sid acc) s4

/-- The security, fault, calibration and debug state through a warm reset: the Warm columns, the debug grant cleared and a new
challenge (R179, R192, R537, R543, R570). -/
def warmRegs (s : State) : State :=
  { s with
    draws := s.draws + 1
    sec := { s.sec with op := 0, result := 0, level := 0, req := 0, tokenMax := 0, chal := Config.challenge s.draws }
    flt := { s.flt with setPending := false, newSet := none }
    cal := endRunReset s.cal
    plc := { s.plc with busy := false }
    svc := { s.svc with hazEn := false, hazStop := false, traceEn := false, frz := 0, frzCause := 0 }
    lath := { s.lath with heard := [], blocks := [], resets := [], lifts := [] }
    pod := { s.pod with st := if s.pod.st = 5 then 1 else s.pod.st } }

/-- A warm reset: every open group is discarded, the stencils stop, the live tiles are cleared, stores and macro tables are made good,
the engines rebuild, and admission resumes when the recovery ends, after the given time (R556, R607). A load in progress ends with
code 25 (R270). -/
def warmNow (cause : BitVec 6) (asked : Bool) (ms : Nat) (s0 : State) : State :=
  let s1 := lathDrop (fun _ => true) (trainPorts (fun _ => true) (cgReset s0))
  let lifts := (s0.lath.resets ++ s0.lath.lifts).foldl (fun acc z => if isFenced acc z then acc else wordsPut (neighbourCfgs acc z false) acc) s1
  let s2 := onGrid (fun g => { g with flits := [], rimQ := [], begun := g.held, release := [], ready := [] }) lifts
  let s3 := (s2.grid.tiles.map Prod.fst).foldl (fun acc z => if s2.grid.exposed.getLsbD z && !isFenced s2 z then warmTile z acc else acc) s2
  let s4 := warmEngines (warmRegs s3)
  let s5 := if s4.load.st = 0 then s4 else loadEnd 25 0xFF 0 s4
  let s6 := onFlt (fun f => { f with warm := satInc f.warm, lastCause := cause, recovMs := BitVec.ofNat 16 (min 65535 ms) }) s5
  let s7 := { s6 with svc := { s6.svc with warming := true, warmEnd := s6.time + ms * 1000000 * 7927920, admitStop := s6.svc.admitStop && s6.pwr.act == 2 } }
  let s8 := if asked then s7 else sieEvent s7
  sigWrite cause unitModule false 0 7 [] s8

/-- The end of the recovery when module time has come to it: requests are accepted again (R556). -/
def warmDue (s : State) : State :=
  if s.svc.warming ∧ s.svc.warmEnd ≤ s.time then { s with svc := { s.svc with warming := false, warmN := 0 } } else s

/-- A warm reset for a class W event or on request. Nothing after a deputy's action or a class X event; with WARM_EN = 0 an event
stops admission and asserts ALERT_N instead; a second event during the recovery makes the module class X (R545, R555, R556, R568). -/
def warmReset (a : WarmArgs) (s : State) : State :=
  if s.flt.deputy ∨ s.flt.fatal then s
  else if !a.asked ∧ !s.flt.warmEn then onFlt (fun f => { f with alertN := true }) { s with svc := { s.svc with admitStop := true } }
  else
    let n := a.again + if s.svc.warming ∧ !a.asked then s.svc.warmN + 1 else 0
    if 2 ≤ n then classX a.cause s
    else warmNow a.cause a.asked a.ms.toNat { s with svc := { s.svc with warmN := n } }

/-- WARM_RESET. -/
def execWarmReset (a : WarmArgs) (s : State) : Host.Outcome State Fault Refusal := .next (warmReset a s)

end Sys2Proof.Machine
end

