-- ==== Sys2Proof/Machine/Security.lean ====
section
/-! DEFINITION. Signed commands, key installs, the anti-rollback fuse, the owner slots, life-cycle states and debug levels (R523-R544). -/

namespace Sys2Proof.Machine

/-! ### The inbox and the end of a GO (R527, R543) -/

/-- Change the security unit. -/
def onSec (f : Sec → Sec) (s : State) : State := { s with sec := f s.sec }

/-- n bytes of the inbox from an offset on: SEC_INBOXi holds bytes 8i to 8i + 7 (R527, R542). -/
def inboxBytes (c : Sec) (off n : Nat) : List Byte :=
  (List.range n).map (fun i => ((sget 0 c.inbox ((off + i) / 8)) >>> (8 * ((off + i) % 8))).setWidth 8)
/-- A little-endian number of the inbox. -/
def inboxLe (c : Sec) (off n : Nat) : Nat := leNat (inboxBytes c off n)

/-- The RESULT codes of SEC_CMD (R543). -/
inductive SecResult where
  | ok | sig | chal | unwrap | busy | state | bad
deriving DecidableEq, Repr

/-- The code of a result (R543). -/
def SecResult.code : SecResult → BitVec 4
  | .ok => 0
  | .sig => 1
  | .chal => 2
  | .unwrap => 3
  | .busy => 4
  | .state => 5
  | .bad => 6

/-- The end of a GO: OP and RESULT stand in SEC_CMD and the challenge is new (R527). -/
def secDone (op : BitVec 3) (r : SecResult) (s : State) : State :=
  { s with draws := s.draws + 1, sec := { s.sec with op := op, result := r.code, chal := Config.challenge s.draws } }

/-- A GO of an operation that the result lets act. -/
def secAct (op : BitVec 3) (r : SecResult) (f : State → State) (s : State) : State :=
  secDone op r (if r = .ok then f s else s)

/-! ### Signed commands (R527) -/

/-- What the checks that every signed command shares find: the layout, the module, the command and the challenge, then the signature
under KEY_ID (R525, R527). -/
def signedCheck (c : Sec) (cmd : Byte) (o : Signed) : SecResult :=
  if inboxLe c 0 4 ≠ 0x53434D31 ∨ inboxLe c 4 8 ≠ Config.stackSn.toNat ∨ inboxLe c 20 1 ≠ cmd.toNat ∨ inboxLe c 24 8 ≠ 0 then .bad
  else if inboxLe c 12 8 ≠ c.chal.toNat then .chal
  else if sigHolds c o (inboxLe c 22 2) (inboxBytes c 0 32) (inboxBytes c 32 96) then .ok
  else .sig

/-- Whether unrevoked owner keys with DEV = 0 together hold IMAGE, WEIGHT, SESSION and LC (R534). -/
def provisoHolds (c : Sec) : Bool :=
  [0, 1, 3, 7].all (fun b => (List.range 8).any (fun n =>
    let k := ownerKey c n
    k.written && !k.revoked && !k.dev && k.use.getLsbD b))

/-- Whether a transition is one of R534, with its proviso. -/
def lcMay (c : Sec) (target : Nat) : Bool :=
  match c.lc.toNat, target with
  | 0, 1 => true
  | 0, 2 => provisoHolds c
  | 0, 3 => true
  | 1, 2 => provisoHolds c
  | 1, 3 => true
  | 2, 3 => true
  | _, _ => false

/-- What a LIFECYCLE command finds: refused with STATE while a transition waits, off the transitions of R534, and without the
proviso (R534, R541). -/
def lifecycleCheck (c : Sec) : SecResult :=
  match signedCheck c 1 .lifecycle with
  | .ok => if c.lcPend ∨ !lcMay c (inboxLe c 21 1) then .state else .ok
  | r => r

/-- SIGNED_LIFECYCLE: the target is burnt and waits for the next cold reset (R534). -/
def execSignedLifecycle (s : State) : Host.Outcome State Fault Refusal :=
  .next (secAct 1 (lifecycleCheck s.sec)
    (onSec (fun c => { c with lcPend := true, lcNext := BitVec.ofNat 2 (inboxLe c 21 1) })) s)

/-- What a DEBUG command finds; ARG is a level (R527, R537). -/
def debugCheck (c : Sec) : SecResult :=
  match signedCheck c 2 .debug with
  | .ok => if 3 < inboxLe c 21 1 then .bad else .ok
  | r => r

/-- SIGNED_DEBUG: TOKEN_MAX is set to ARG; a level follows when SEC_DBG.REQ is written (R537). -/
def execSignedDebug (s : State) : Host.Outcome State Fault Refusal :=
  .next (secAct 1 (debugCheck s.sec) (onSec (fun c => { c with tokenMax := BitVec.ofNat 2 (inboxLe c 21 1) })) s)

/-- The owner slots whose key holds LC, unrevoked (R524). -/
def lcSlots (c : Sec) : List Nat :=
  (List.range 8).filter (fun n => let k := ownerKey c n; k.written && !k.revoked && k.use.getLsbD 7)

/-- What a REVOKE command finds: BAD for a slot that holds no key, STATE outside OPEN and PRODUCTION and for the last unrevoked LC
key (R524). -/
def revokeCheck (c : Sec) : SecResult :=
  match signedCheck c 3 .lifecycle with
  | .ok =>
    let n := inboxLe c 21 1
    if 8 ≤ n ∨ !(ownerKey c n).written then .bad
    else if !ownerAccepted c.lc ∨ lcSlots c = [n] then .state
    else .ok
  | r => r

/-- The sessions opened under a key, in the order of their dies (R541). -/
def keySessions (s : State) (keyId : Nat) : List Nat :=
  (List.range 16).flatMap (fun n => (linkAt s n).sess.filterMap (fun e =>
    match e.2 with
    | some x => if x.keyId.toNat = keyId then some (256 * n + e.1) else none
    | none => none))

/-- An owner key is revoked, and the sessions opened under it close as on CLOSE (R524, R541). -/
def revokeSlot (n : Nat) (s : State) : State :=
  let s1 := onSec (fun c => { c with owners := supd OwnerKey.none c.owners n (fun k => { k with revoked := true }) }) s
  (keySessions s1 (0x100 + n)).foldl (fun acc id => sessClose false id acc) s1

/-- SIGNED_REVOKE (R524, R541). -/
def execSignedRevoke (s : State) : Host.Outcome State Fault Refusal :=
  .next (secAct 1 (revokeCheck s.sec) (revokeSlot (inboxLe s.sec 21 1)) s)

/-! ### Key installs (R528) -/

/-- Whether a shard delivery in progress names a weight key: that of this module's entry in an encrypted manifest (R528, R532). -/
def deliveryNames (s : State) (keyId : Nat) : Bool :=
  match s.delivery with
  | some d =>
    let mr : Rd := fun o => sget 0 d.manifest o
    let pos := match s.load.img with | some i => i.hdr.spanPos | none => 0
    rdLe mr 0x14 4 % 2 == 1 && rdLe mr (0x20 + 64 * pos + 58) 2 == keyId
  | none => false

/-- Whether a tenant has an open stream with SEAL set (R528). -/
def sealInUse (s : State) (tenant : Nat) : Bool :=
  (openSids s).any (fun sid => let c := ctxAt s sid; c.tenant.toNat == tenant && c.flags.getLsbD 0)

/-- The key that an install wraps, where AES-256-KW accepts it (R528). -/
def wrappedKey (c : Sec) : Option (BitVec 256) := Config.unwrap (inboxBytes c 0 97) Config.stackSn (inboxBytes c 112 40)

/-- What a key install finds (R525, R528). -/
def installCheck (s : State) : SecResult :=
  let c := s.sec
  let kind := inboxLe c 97 1
  let ix := inboxLe c 98 2
  if kind = 0 ∨ 3 < kind ∨ 4096 ≤ ix ∨ (kind = 2 ∧ 256 ≤ ix) ∨ inboxLe c 102 2 ≠ 0 then .bad
  else if inboxLe c 104 8 ≠ c.chal.toNat then .chal
  else if !sigHolds c .keywrap (inboxLe c 100 2) (inboxBytes c 0 152) (inboxBytes c 152 96) then .sig
  else if (kind = 1 ∧ sealInUse s ix) ∨ (kind = 2 ∧ deliveryNames s ix) then .busy
  else if kind ≠ 3 ∧ (wrappedKey c).isNone then .unwrap
  else .ok

/-- The effect of an install: the seal key of tenant INDEX, the weight key INDEX, or the erasing of both slots of INDEX (R528). -/
def installKey (s : State) : State :=
  let c := s.sec
  let ix := inboxLe c 98 2
  match inboxLe c 97 1 with
  | 1 => onSec (fun c => { c with seals := sset none c.seals ix (wrappedKey c) }) s
  | 2 => onSec (fun c => { c with weights := sset none c.weights ix (wrappedKey c) }) s
  | _ => onSec (fun c => { c with seals := sset none c.seals ix none, weights := sset none c.weights ix none }) s

/-- KEY_INSTALL (R528). -/
def execKeyInstall (s : State) : Host.Outcome State Fault Refusal := .next (secAct 2 (installCheck s) installKey s)

/-! ### Fuses (R524, R526) -/

/-- What OP 3 finds (R526). -/
def rollbackCheck (s : State) : SecResult :=
  match s.load.img with
  | some i =>
    if ownerAccepted s.sec.lc ∧ s.sec.rbMin.toNat < s.sec.rbNew.toNat ∧ s.sec.rbNew.toNat ≤ i.hdr.secVer then .ok else .bad
  | none => .bad

/-- RAISE_ROLLBACK: SEC_RB.MIN is raised to NEW (R526). -/
def execRaiseRollback (s : State) : Host.Outcome State Fault Refusal :=
  .next (secAct 3 (rollbackCheck s) (onSec (fun c => { c with rbMin := c.rbNew })) s)

/-- What OP 4 finds: a slot is written once, in FACTORY or OPEN, while OWN_LOCK is 0 (R524). -/
def ownerCheck (c : Sec) (slot : BitVec 3) : SecResult :=
  if c.ownLock ∨ 2 ≤ c.lc.toNat ∨ (ownerKey c slot.toNat).written then .state else .ok

/-- The owner slot that inbox bytes 0-63 give; WRITTEN is set by the write (R524). -/
def ownerOf (c : Sec) : OwnerKey :=
  { key := BitVec.ofNat 392 (inboxLe c 0 49), use := BitVec.ofNat 8 (inboxLe c 49 1), dev := inboxLe c 50 1 % 2 == 1,
    revoked := inboxLe c 50 1 / 2 % 2 == 1, written := true }

/-- WRITE_OWNER_SLOT (R524, R543). -/
def execWriteOwnerSlot (slot : BitVec 3) (s : State) : Host.Outcome State Fault Refusal :=
  .next (secAct 4 (ownerCheck s.sec slot) (onSec (fun c => { c with owners := sset OwnerKey.none c.owners slot.toNat (ownerOf c) }))
    (onSec (fun c => { c with slot := slot }) s))

/-! ### Debug levels (R537-R540) -/

/-- Whether a level is granted in a life-cycle state with a token up to TOKEN_MAX (R540). -/
def levelMay (lc tokenMax : BitVec 2) (l : Nat) : Bool :=
  match lc.toNat with
  | 0 => true
  | 2 => decide (l ≤ 1) || (l == 2 && decide (2 ≤ tokenMax.toNat))
  | _ => decide (l ≤ 2) || tokenMax == 3

/-- The level that a request gets: the highest that is granted, no higher than REQ (R537). -/
def levelFor (lc tokenMax req : BitVec 2) : BitVec 2 :=
  if levelMay lc tokenMax req.toNat then req
  else if 2 ≤ req.toNat ∧ levelMay lc tokenMax 2 ∧ req = 3 then 2
  else 1

/-- SEC_DBG.REQ is written; a lower request ends the grant and TOKEN_MAX with it (R537). -/
def debugRequest (req : BitVec 2) (c : Sec) : Sec :=
  let tm : BitVec 2 := if req.toNat < c.req.toNat then 0 else c.tokenMax
  { c with req := req, tokenMax := tm, level := levelFor c.lc tm req }

/-- Whether R539 applies: D2 in PRODUCTION. -/
def secSealed (c : Sec) : Bool := c.lc == 2 && c.level == 2

/-- Whether the hazard detectors compare: enabled, at D2 or D3, while the code in force is 8 (R324). -/
def hazLive (s : State) : Bool := s.svc.hazEn && decide (2 ≤ s.sec.level.toNat) && s.clk.k == 8
/-- Every exposed tile's detector runs or stops as R324 has it; a stopped one holds no hazard. -/
def hazRefresh (s : State) : State :=
  let on := hazLive s
  if on then
    onGrid (fun g => { g with tiles := stab Tile.reset 8064 (fun z =>
      let t := sget Tile.reset g.tiles z
      if g.exposed.getLsbD z then { t with pad := { t.pad with hazOn := true } } else t) }) s
  else onGrid (fun g => { g with tiles := smap Tile.reset g.tiles (fun _ t => { t with pad := { t.pad with hazOn := false, haz := [] } }) }) s

/-- DEBUG_LEVEL_REQUEST (R537, R540). -/
def execDebugLevelRequest (req : BitVec 2) (s : State) : Host.Outcome State Fault Refusal :=
  .next (hazRefresh (onSec (debugRequest req) s))

end Sys2Proof.Machine
end

