-- ==== Sys2Proof/Machine/Power.lean ====
section
/-! DEFINITION. The feeds, the sensors and zone regulators, supply faults, the governor, the power states, the hold-up store and its
gauge, pod alignment, slips and temperature limits (R571-R598, R629). -/

namespace Sys2Proof.Machine

/-- Change the power unit. -/
def onPwr (f : Pwr → Pwr) (s : State) : State := { s with pwr := f s.pwr }
/-- Change the clock unit. -/
def onClk (f : Clk → Clk) (s : State) : State := { s with clk := f s.clk }

/-- Whether an alert condition holds: ALERT_N is asserted (R545, R555, R556, R572, R602, R610, R629). -/
def alertOn (s : State) : Bool :=
  s.flt.alertN || s.pwr.feedA != s.pwr.feedB || s.pwr.tempAlert || s.svc.warming || s.svc.stage != 10

/-! ### Feeds (R571, R572) -/

/-- A feed's flag is set: feed A, or B. -/
def feedPut (b v : Bool) (s : State) : State := onPwr (fun p => if b then { p with feedB := v } else { p with feedA := v }) s

/-- FEED_LOSS: one feed is lost; while the other is there the module runs on it unchanged and reports POWER (R572). -/
def execFeedLoss (b : Bool) (s : State) : Host.Outcome State Fault Refusal :=
  let was := if b then s.pwr.feedB else s.pwr.feedA
  let s1 := feedPut b false s
  .next (if was ∧ (s1.pwr.feedA || s1.pwr.feedB) then svcRpt s1 codePower (if b then 1 else 0) [] else s1)

/-- FEED_RETURN: a lost feed has stayed above 40.0 V for 10 ms (R571). -/
def execFeedReturn (b : Bool) (s : State) : Host.Outcome State Fault Refusal := .next (feedPut b true s)

/-! ### Sensors and zones (R574-R578) -/

/-- A zone regulator. -/
def zoneAt (s : State) (z : Nat) : Zone := sget Zone.reset s.pwr.zones z
/-- Change a zone regulator. -/
def zoneUpd (z : Nat) (f : Zone → Zone) (s : State) : State := onPwr (fun p => { p with zones := supd Zone.reset p.zones z f }) s

/-- 2^FILT conversions; 7 is taken as 6 (R597). -/
def filtLen (z : Sense) : Nat := 2 ^ min 6 z.filt.toNat

/-- A sensor after a conversion: the moving average of the last 2^FILT, and VALID (R575). -/
def senseStep (mv : Nat) (z : Sense) : Sense :=
  let h := (mv :: z.hist).take 64
  let w := h.take (filtLen z)
  let a := min 100 (z.sinceMux + 1)
  let b := min 100 (z.sinceFilt + 1)
  { z with
    hist := h, value := BitVec.ofNat 11 (w.sum / w.length), sinceMux := a, sinceFilt := b
    valid := decide (2 < a) && decide (filtLen z < b) && decide (z.mux.toNat < 2) }

/-- Whether a reading counts for its zone: valid, of VLOG, from an exposed tile that has not left the minimum (R575, R577, R578). -/
def readingCounts (s : State) (site : Nat) (z : Sense) : Bool := z.valid && z.mux == 0 && !z.out && s.grid.exposed.getLsbD site

/-- The lowest reading of a zone is captured while none is held, and replaced by a strictly lower one (R577). -/
def zoneCapture (site : Nat) (v : Nat) (now : Word) (z : Zone) : Zone :=
  if z.minValid && decide (z.min.toNat ≤ v) then z
  else { z with min := BitVec.ofNat 10 (min 1023 v), minSite := BitVec.ofNat 13 site, minValid := true, minTime := now }

/-- SENSOR_CONVERSION: a tile's sensor converts; `mv` is the conversion (R575, R577). -/
def execSensorConversion (site : Site) (mv : BitVec 11) (s : State) : Host.Outcome State Fault Refusal :=
  let t := tileAt s site
  let z := senseStep mv.toNat t.sense
  let s1 := tilePut s site { t with sense := z }
  .next (if readingCounts s1 site z then zoneUpd (zoneOf site) (zoneCapture site z.value.toNat (moduleNs s)) s1 else s1)

/-- The readings of a zone that count. -/
def zoneReadings (s : State) (z : Nat) : List Nat :=
  s.grid.tiles.filterMap (fun e => if zoneOf e.1 = z ∧ readingCounts s e.1 e.2.sense then some e.2.sense.value.toNat else none)
/-- The lowest of a list of readings. -/
def lowest (l : List Nat) : Option Nat := l.foldl (fun acc v => some (match acc with | some a => min a v | none => v)) none

/-- The code whose V(k) the regulators hold: the code in force, or a lower one that waits for its apply frame (R576, R590). -/
def vCode (s : State) : Nat := min s.clk.k.toNat ((freqPending s).getD s.clk.k).toNat
/-- Twice V(k) in mV (R589). -/
def vTarget2 (k : Nat) : Nat := 1440 - 25 * k

/-- The zones that share an edge with a zone (R574, R576). -/
def zoneNear (z : Nat) : List Nat :=
  (if z % 8 = 0 then [] else [z - 1]) ++ (if z % 8 = 7 then [] else [z + 1]) ++ (if z < 8 then [] else [z - 8]) ++ (if z < 40 then [z + 8] else [])

/-- A setpoint held within 0.62-0.80 V and ±40 mV of the neighbours' (R576). -/
def boundSet (near : List Nat) (v : Nat) : Nat := near.foldl (fun a n => max (n - 40) (min (n + 40) a)) (max 620 (min 800 v))

/-- The setpoint that a regulator wants: 5 mV toward the target while the minimum is off by more than 5 mV (R576). -/
def wantSet (setpt low2 target2 : Nat) : Nat :=
  if low2 + 10 < target2 then setpt + 5 else if target2 + 10 < low2 then setpt - 5 else setpt

/-- ZONE_REGULATION: a zone's setpoint moves so that its lowest reading comes to V(k), within the bounds; LIMITED where one of them
stops it (R576). -/
def execZoneRegulation (z : Fin 48) (s : State) : Host.Outcome State Fault Refusal :=
  match lowest (zoneReadings s z) with
  | none => .next s
  | some v =>
    let want := wantSet (zoneAt s z).setpt.toNat (2 * v) (vTarget2 (vCode s))
    let got := boundSet ((zoneNear z).map (fun n => (zoneAt s n).setpt.toNat)) want
    .next (zoneUpd z (fun x => { x with setpt := BitVec.ofNat 10 got, limited := got != want }) s)

/-- BOND: a sensor is flagged and reported. Where its zone is at 0.80 V and the tile still reads below V(k) - 20 mV, the tile is
dust-sheeted and charged, its work re-homed, and its sensor leaves the minimum (R578). -/
def execBond (site : Site) (s : State) : Host.Outcome State Fault Refusal :=
  let t := tileAt s site
  let z := zoneOf site
  let s1 := zoneUpd z (fun x => { x with bond := true, bondSite := BitVec.ofNat 13 site.val })
    (tilePut s site { t with sense := { t.sense with bond := true } })
  let s2 := svcRpt s1 codePower (BitVec.ofNat 64 site.val) []
  let weak := t.sense.valid && t.sense.mux == 0 && decide (2 * t.sense.value.toNat + 40 < vTarget2 (vCode s))
  if 800 ≤ (zoneAt s z).setpt.toNat ∧ weak then
    let s3 := tilePut s2 site (let u := tileAt s2 site; { u with sense := { u.sense with out := true } })
    .next (tileFailed site codePower s3)
  else .next s2

/-! ### Supply faults (R579) -/

/-- A latch-off: class X, PWR_OK low, and PWR_FAULT names the unit (R579). -/
def latchOff (s : State) : State :=
  classX codePower (svcRpt (onPwr (fun p => { p with latched := true, foldback := false, pwrOk := false }) s) codePower s.pwr.fUnit.toNat
    [BitVec.ofNat 64 s.pwr.fDomain.toNat])

/-- The fault record of a unit (R597). -/
def faultPut (domain : BitVec 4) (unit : BitVec 6) (service : Bool) (p : Pwr) : Pwr :=
  { p with fDomain := domain, fUnit := unit, retries := 0, fKind := service, foldback := !service }

/-- SUPPLY_FAULT of a unit of VLOG (1), VARR (2), VLNK (3) or VMIF (4). Kind 0: its soft start failed, and it folds back and waits for
its retry. Kind 1: at its current limit in service, it latches off. Kind 2: its voltage is out of bounds: a class W event of VLOG and
VARR, which is reported, and a silent die of VLNK and VMIF. Nothing follows a latch-off (R553, R579). -/
def execSupplyFault (domain : BitVec 4) (unit : BitVec 6) (kind : BitVec 2) (s : State) : Host.Outcome State Fault Refusal :=
  let d := domain.toNat
  if d = 0 ∨ 4 < d ∨ s.pwr.latched then .next s
  else .next (match kind.toNat with
    | 0 => onPwr (faultPut domain unit false) s
    | 1 => latchOff (onPwr (faultPut domain unit true) s)
    | 2 =>
      if d ≤ 2 then svcRpt s codePower (BitVec.ofNat 64 unit.toNat) [BitVec.ofNat 64 d]
      else if 16 ≤ unit.toNat then s
      else rimSilent (if d = 3 then unit.toNat else 16 + unit.toNat) s
    | _ => s)

/-- SOFT_START_RETRY: 100 ms after a foldback the regulator starts again; the third failed retry latches off (R579). -/
def execSoftStartRetry (ok : Bool) (s : State) : Host.Outcome State Fault Refusal :=
  if !s.pwr.foldback then .next s
  else
    let s1 := onPwr (fun p => { p with retries := p.retries + 1, foldback := !ok }) s
    .next (if !ok ∧ s1.pwr.retries = 3 then latchOff s1 else s1)

/-! ### The governor (R580, R581) -/

/-- The cap in force: 30,000 W in P0, CAP_W in P1; the governor holds no other state to a cap (R580). -/
def powerCap (p : Pwr) : Option Nat := match p.act.toNat with | 0 => some 30000 | 1 => some p.capW.toNat | _ => none

/-- The meter: the input power of a frame enters the 64-frame average (R580, R597). -/
def meter (power : Nat) (p : Pwr) : Pwr :=
  let h := (power :: p.hist).take 64
  let a := h.sum / h.length
  let above : Bool := (powerCap p).any (fun c => decide (c < a))
  let below : Bool := (powerCap p).any (fun c => decide (a + 1500 < c))
  { p with hist := h, pin := BitVec.ofNat 16 a, pinPeak := if p.pinPeak.toNat < a then BitVec.ofNat 16 a else p.pinPeak
           overFr := if above then satInc p.overFr else p.overFr, belowFr := if below then min 4096 (p.belowFr + 1) else 0
           sinceStep := min 128 (p.sinceStep + 1) }

/-- A governor step to a code: on a MEMBER it leaves the pod grid, on a HAWK it goes to every member (R581). -/
def govStep (k : Nat) (s : State) : State :=
  if s.pod.st = 2 then onClk (fun c => { c with offGrid := true }) (freqStep k s) else freqLead k s

/-- The zone regulators are pre-positioned for the frame after next by the plan in force; no rule gives the amount, which stays within
the setpoint's range (R576, R580). -/
def prePosition (s : State) : State :=
  match s.load.img.bind (fun i => i.plans[s.load.activeProf.toNat]?) with
  | none => s
  | some p =>
    if p.rows.isEmpty then s
    else match p.rows[(s.frames + 2) % p.rows.length]? with
      | none => s
      | some r => (List.range 48).foldl (fun acc z => zoneUpd z (fun x =>
          { x with setpt := BitVec.ofNat 10 (max 620 (min 800 (Config.prePosition z (lget 0 r.zones z) x.setpt.toNat))) }) acc) s

/-- GOVERNOR_STEP: the frame's input power is measured, and the frequency code steps to hold the cap (R580, R581). -/
def execGovernorStep (power : BitVec 16) (s : State) : Host.Outcome State Fault Refusal :=
  let s1 := prePosition (onPwr (meter power.toNat) s)
  let p := s1.pwr.pin.toNat
  let k := s1.clk.k.toNat
  let free := (freqPending s1).isNone
  .next (match powerCap s1.pwr with
    | none => s1
    | some cap =>
      if cap < p ∧ k < 8 ∧ free ∧ 128 ≤ s1.pwr.sinceStep then
        govStep (k + 1) (onPwr (fun p => { p with down := satInc p.down }) s1)
      else if 4096 ≤ s1.pwr.belowFr ∧ s1.clk.kreq.toNat < k ∧ free then govStep (k - 1) s1
      else s1)

/-! ### Power states (R582, R583) -/

/-- What a tile keeps without power: its weight fabric and the history band (R582). -/
def fabKept (f : Fabric) : Fabric :=
  { Fabric.reset with
    pages := f.pages, convErr := f.convErr
    mt := smap MEntry.fresh f.mt (fun _ e => { e with busyPe := false, res := false }) }
/-- The state of every tile is lost but for its weight fabric; what lies in the mesh is lost with it (R582, R587). -/
def tilesLost (s : State) : State :=
  onGrid (fun g => { g with
    tiles := smap Tile.reset g.tiles (fun _ t => { Tile.reset with fab := fabKept t.fab })
    flits := [], rimQ := [], credit := [], begun := [], ready := [], release := [] }) s

/-- A P-state write that is refused (R582). -/
def pstateRefused (s : State) : State := onPwr (fun p => { p with pstateErr := true }) s
/-- PSTATE_ACT changes. -/
def pstateAct (n : Nat) (s : State) : State := onPwr (fun p => { p with act := BitVec.ofNat 3 n }) s
/-- A write of PWR_CTRL.PSTATE that a warm reset does not overtake: the state that it gives, or none where it is refused (R582,
R595). -/
def pstateWrite (n : Nat) (next : State → Option State) (s : State) : State :=
  let s1 := onPwr (fun p => { p with pstate := BitVec.ofNat 3 n }) s
  if s.svc.warming then pstateRefused s1
  else match next s1 with
    | some t => t
    | none => pstateRefused s1

/-- Whether every stream context is FREE (R582). -/
def allFree (s : State) : Bool := (busySids s).isEmpty

/-- The way back from P3: phases 2 to 8 of a warm reset, with every store written again and every resident window restored; the module
accepts requests again when the recovery ends (R583). -/
def standbyWake (n : Nat) (s : State) : State :=
  let sites := liveSites s
  let s1 := sites.foldl (fun acc z => onFab acc z (fun f =>
    { f with mtLoaded := true, mt := smap MEntry.fresh f.mt (fun m e => { e with res := e.fmt ≠ 0 && macroValid f m }) })) s
  let s2 := storesAgain sites { s1 with cal := trimsToTarget s1.cal }
  let s3 := match s2.load.img with
    | none => s2
    | some i => s2.resid.foldl (fun acc e => (e.2.slices.filter Slice.resident).foldl (fun a sl => liveSlice i sl a) acc) s2
  let s4 := warmEngines (sites.foldl (fun acc z => creditTile z (restoreSite z acc)) s3)
  freqStep s4.clk.kreq.toNat (pstateAct n { s4 with
    draws := s4.draws + 1
    svc := { s4.svc with warming := true, admitStop := s4.flt.fatal, warmEnd := s4.time + min 3000 (Config.wakeMs s4.draws) * 1000000 * 7927920 } })

/-- PSTATE_P0: from P1 at once, from P2 at the next frame boundary, from P3 by recovery (R582, R583). -/
def execPstateP0 (s : State) : Host.Outcome State Fault Refusal :=
  .next (pstateWrite 0 (fun t => match t.pwr.act.toNat with
    | 0 => some t
    | 1 => some (pstateAct 0 t)
    | 2 => some t
    | 3 => some (standbyWake 0 t)
    | _ => none) s)

/-- PSTATE_P1: from P0 at once, from P2 at the next frame boundary, from P3 by recovery (R582, R583). -/
def execPstateP1 (s : State) : Host.Outcome State Fault Refusal :=
  .next (pstateWrite 1 (fun t => match t.pwr.act.toNat with
    | 0 => some (pstateAct 1 t)
    | 1 => some t
    | 2 => some t
    | 3 => some (standbyWake 1 t)
    | _ => none) s)

/-- PSTATE_P2: from P0 or P1 while every stream context is FREE: admission stops and the clock steps to code 8 (R582). -/
def execPstateP2 (s : State) : Host.Outcome State Fault Refusal :=
  .next (pstateWrite 2 (fun t => match t.pwr.act.toNat with
    | 2 => some t
    | 0 | 1 => if allFree t then some (freqStep 8 (pstateAct 2 { t with svc := { t.svc with admitStop := true } })) else none
    | _ => none) s)

/-- PSTATE_P3: from P2: the grid loses its power (R582). -/
def execPstateP3 (s : State) : Host.Outcome State Fault Refusal :=
  .next (pstateWrite 3 (fun t => match t.pwr.act.toNat with
    | 3 => some t
    | 2 => some (tilesLost (pstateAct 3 t))
    | _ => none) s)

/-- At a frame boundary in P2 a write of 0 or 1 takes effect: admission resumes, and the clock returns to the code requested (R583). -/
def pstateDue (s : State) : State :=
  if s.pwr.act = 2 ∧ s.pwr.pstate.toNat < 2 then
    freqStep s.clk.kreq.toNat (pstateAct s.pwr.pstate.toNat { s with svc := { s.svc with admitStop := s.flt.fatal } })
  else s

/-! ### The hold-up store (R584, R585) -/

/-- GAUGE_CHECK: the gauge's two estimates in mJ and the store voltage; a disagreement above 1.5 J sets GAUGE_BAD and Q_OFF (R585). -/
def execGaugeCheck (ev eq vstore : BitVec 16) (s : State) : Host.Outcome State Fault Refusal :=
  let s1 := onPwr (fun p => { p with ev := ev, eq := eq, vstore := vstore }) s
  let bad : Bool := decide (ev.toNat + 1500 < eq.toNat) || decide (eq.toNat + 1500 < ev.toNat)
  .next (if bad ∧ !s.pwr.qOff then svcRpt (onPwr (fun p => { p with gaugeBad := true, qOff := true }) s1) codePower 0 [] else s1)

/-- RECAL: a write of PWR_HOLDUP.RECAL; once the charge current has stayed low, E_Q is set to E_V and both flags clear (R585). -/
def execRecal (low : Bool) (s : State) : Host.Outcome State Fault Refusal :=
  .next (onPwr (fun p => if low then { p with recal := false, eq := p.ev, gaugeBad := false, qOff := false } else { p with recal := true }) s)

/-- HOLDUP_CHARGE_TIMEOUT: a store that has not reached 10 J keeps PWR_OK low, and the module reports POWER (R584). -/
def execHoldupChargeTimeout (s : State) : Host.Outcome State Fault Refusal :=
  .next (if !s.pwr.pwrOk ∧ s.pwr.ev.toNat < 10000 ∧ (s.pwr.feedA || s.pwr.feedB) then svcRpt s codePower 0 [] else s)

/-! ### Pod alignment, slips and temperature (R591, R594, R629) -/

/-- The loop's error, trim and lock after a frame boundary with an error in ns; `trim` in ppb (R591). -/
def alignStep (err : BitVec 32) (trim : Int) (c : Clk) : Clk :=
  let near : Bool := decide (-200 ≤ err.toInt) && decide (err.toInt ≤ 200)
  let a := if near then min 1024 (c.inRun + 1) else 0
  let b := if near then 0 else min 16 (c.outRun + 1)
  { c with err := err, adj := BitVec.ofInt 16 (max (-30000) (min 30000 trim)), inRun := a, outRun := b
           podLock := if 1024 ≤ a then true else if 16 ≤ b then false else c.podLock }

/-- POD_ALIGNMENT: a MEMBER or HAWK on the grid compares a frame boundary with pod time; losing the lock is reported (R591). -/
def execPodAlignment (err : BitVec 32) (s : State) : Host.Outcome State Fault Refusal :=
  if !(s.pod.st == 2 || s.pod.st == 3) || s.clk.offGrid then .next s
  else
    let s1 := { s with draws := s.draws + 1, clk := alignStep err (Config.pllTrim s.draws) s.clk }
    .next (if s.clk.podLock && !s1.clk.podLock then svcRpt s1 0x19 (BitVec.ofNat 64 svcNode) [BitVec.ofInt 64 err.toInt] else s1)

/-- The record of a slip in CLK_SLIP (R598). -/
def slipNote (site port : Nat) (frames now : Nat) (c : Clk) : Clk :=
  let d := { c with
    slip := satInc c.slip, slipPorts := sset 0 c.slipPorts (8 * site + port) (frames + 2), slipTimes := sset 0 c.slipTimes (8 * site + port) (now + 1) }
  if c.slipValid then d else { d with slipSite := BitVec.ofNat 13 site, slipPort := BitVec.ofNat 3 port, slipValid := true }

/-- ELASTIC_BUFFER_SLIP: a port poisons what it receives in this frame and the next, the slip is recorded, reported and charged to the
tile; a second slip on the port within 1 s is a class W event, which the report's detail marks (R594). -/
def execElasticBufferSlip (site : Site) (port : Fin 5) (s : State) : Host.Outcome State Fault Refusal :=
  let last := sget 0 s.clk.slipTimes (8 * site.val + port.val)
  let again := decide (0 < last) && decide (s.time + 1 < last + 1000000000 * 7927920)
  let s1 := onClk (slipNote site port s.frames s.time) s
  .next (svcRpt (chargeEvent (unitTile site) 0x19 s1).1 0x19 (BitVec.ofNat 64 site.val) [BitVec.ofNat 64 port.val, if again then 1 else 0])

/-- TEMPERATURE_LIMIT: a calibration block's reading in 1/16 °C. Above 95 °C it is reported, above 100 °C ALERT_N is asserted until
every block reads 95 °C or less, and above 105 °C the module is class X without VLOG and VARR (R629). -/
def execTemperatureLimit (b : Block) (temp : BitVec 12) (s : State) : Host.Outcome State Fault Refusal :=
  let t := temp.toInt
  if t ≤ 1520 then
    .next (onPwr (fun p =>
      let o := p.overTemp.filter (· != b.val)
      { p with overTemp := o, tempAlert := p.tempAlert && !o.isEmpty }) s)
  else
    let s1 := onPwr (fun p => { p with
      overTemp := if p.overTemp.contains b.val then p.overTemp else p.overTemp ++ [b.val], tempAlert := p.tempAlert || decide (1600 < t) }) s
    let s2 := svcRpt s1 codePower (BitVec.ofNat 64 b.val) []
    .next (if 1680 < t then classX codePower (tilesLost (onPwr (fun p => { p with hot := true }) s2)) else s2)

end Sys2Proof.Machine
end

