-- ==== Sys2Proof/Machine/ResetFreeze.lean ====
section
/-! DEFINITION. The last gasp, cold reset and the primer, straps, the resets of SVC_RESET, freezes and the hazard detector (R324-R326,
R584-R587, R599-R615, R618). -/

namespace Sys2Proof.Machine

/-- Change the service die. -/
def onSvc (f : Svc → Svc) (s : State) : State := { s with svc := f s.svc }

/-! ### What a cold reset and a loss of power clear (R587, R607) -/

/-- Everything but the weight fabric, the history band, the calibration sets, the one-time store, the secret table, the flash and
the supply goes to its reset value (R152, R417, R448, R496, R587, R607). -/
def coldClear (s : State) : State :=
  let t := tilesLost s
  { t with
    frames := 0, time := 0
    grid := { Grid.reset with tiles := t.grid.tiles, exposed := s.grid.exposed, fenced := ~~~s.grid.exposed }
    dram := [], lath := Lath.reset, cg := Cg.reset, locks := []
    cal := { Cal.reset with trims := s.cal.trims }
    plc := Plc.reset, load := Load.reset, delivery := none, adapters := [], geom := [], eng := [], md := [], ld := [], pod := Pod.reset
    flt := { Flt.reset with opt := s.hist.opt }, clk := Clk.reset
    sec := { s.sec with
      op := 0, result := 0, slot := 0, rbNew := 0, inbox := [], req := 0, level := 0, tokenMax := 0
      viol := Sat.zero 16, vKind := 0, vClaimed := 0, vOwner := 0, vNode := 0, vValid := false }
    svc := { Svc.reset with
      straps := s.svc.straps, pins := s.svc.pins, step := s.svc.step, grade := s.svc.grade, flashA := s.svc.flashA, flashB := s.svc.flashB
      flashLenA := s.svc.flashLenA, flashLenB := s.svc.flashLenB, mgmtUp := false } }

/-- LAST_GASP: both feeds are lost. With E_V of 2.0 J or more the journal is written, whatever E_Q reports; the module is then in P4,
and what R587 lists is lost (R572, R585-R587). -/
def execLastGasp (s : State) : Host.Outcome State Fault Refusal :=
  if s.pwr.feedA || s.pwr.feedB || s.pwr.act == 4 then .next s
  else
    let writes : Bool := decide (2000 ≤ s.pwr.ev.toNat)
    let s1 := if writes then onHist (fun h => { h with opt := s.flt.opt }) s else s
    .next (onPwr (fun p => { p with act := 4, pwrOk := false, journal := writes, lastGasp := true }) (coldClear s1))

/-! ### The primer (R599-R605) -/

/-- The boot stage that a halt code belongs to, none for code 0 (R602). -/
def haltStage (halt : BitVec 4) : Option Nat :=
  match halt.toNat with
  | 1 => some 3
  | 2 => some 2
  | 3 => some 7
  | 4 => some 4
  | 5 => some 5
  | 6 => some 6
  | _ => none
/-- Whether a stage completes under a halt code (R602, R603). -/
def bootDoes (halt : BitVec 4) (stage : Nat) : Bool := match haltStage halt with | some h => decide (stage < h) | none => true

/-- The fields of STRAP_VAL (R621). -/
def strapRole (s : State) : Nat := s.svc.straps.toNat % 4
/-- BOOT_SRC. -/
def strapBoot (s : State) : Nat := s.svc.straps.toNat / 4 % 4
/-- PORT_MODE. -/
def strapMode (s : State) : BitVec 2 := BitVec.ofNat 2 (s.svc.straps.toNat / 16)
/-- POD_SLOT. -/
def strapSlot (s : State) : Nat := s.svc.straps.toNat / 64 % 128
/-- MGMT_ADDR. -/
def strapMaddr (s : State) : Nat := s.svc.straps.toNat / 8192 % 16
/-- TEST_EN. -/
def strapTest (s : State) : Bool := s.svc.straps.getLsbD 17

/-- STRAPS: every pin is sampled, and the management port has its default address (R600, R601). -/
def bootStraps (s : State) : State :=
  let s1 := onSvc (fun v => { v with straps := v.pins }) s
  onSvc (fun v => { v with mgmtIp4 := BitVec.ofNat 32 (0xA9FE0000 + 256 * (1 + strapSlot s1) + 16 + strapMaddr s1) }) s1

/-- Every macro of every exposed tile erased (R535). -/
def wipeFab (f : Fabric) : Fabric :=
  { f with pages := [], mt := stab MEntry.fresh 8192 (fun m =>
      let e := mtGet f m
      { e with erases := e.erases + 1, erasePending := false, worn := e.worn || decide (100000 ≤ e.erases + 1), res := false }) }

/-- FUSES: a pending transition takes effect; entering PRODUCTION sets OWN_LOCK, and from OPEN erases the secret table; entering RETIRED
erases the secret table and every macro (R534, R535). -/
def bootFuses (s : State) : State :=
  let c := s.sec
  let s1 := { s with draws := s.draws + 1, sec := { c with chal := Config.challenge s.draws } }
  if !c.lcPend then s1
  else
    let n := c.lcNext
    let drop : Bool := n == 3 || (c.lc == 1 && n == 2)
    let s2 := onSec (fun c => { c with
      lc := n, lcPend := false, ownLock := c.ownLock || n == 2, seals := if drop then [] else c.seals, weights := if drop then [] else c.weights }) s1
    if n = 3 then
      onGrid (fun g => { g with tiles := stab Tile.reset 8064 (fun z =>
        let t := sget Tile.reset g.tiles z
        if g.exposed.getLsbD z then { t with fab := wipeFab t.fab } else t) }) s2
    else s2

/-- The sites of tiles, router ports and lath nodes classed permanent (R563). -/
def permSites (h : Hist) : List Nat :=
  (h.permanent.filterMap (fun u =>
    if u.kind = 0 ∨ u.kind = 5 then some u.addr.toNat else if u.kind = 4 then some (u.addr.toNat % 8192) else none)).filter (fun z => decide (z < 8064))
/-- The codes of rim dies classed permanent (R563). -/
def permRims (h : Hist) : List Nat :=
  h.permanent.filterMap (fun u => if u.kind = 7 ∧ 8064 ≤ u.addr.toNat then some (u.addr.toNat - 8064) else none)

/-- A site is dust-sheeted at boot, a rim-attached tile compute-only (R549). -/
def bootFence (site : Nat) (s : State) : State := fencePut site (rimOf site).isNone s

/-- A rim die classed permanent stays dust-sheeted: a link die is silent, a memory die's engine stopped (R553, R563). -/
def bootRim (code : Nat) (s : State) : State :=
  if code < 16 then linkUpd code (fun d => { d with silent := true }) s
  else if code < 32 then engUpd (code - 16) (fun e => { e with stopped := true }) s
  else s

/-- LATH: permanent units stay fenced; alternate hubs are promoted for silent ones; a silent tile is dust-sheeted and charged (R552,
R563, R602). -/
def bootLath (silent : List Site) (s : State) : State :=
  let s1 := (permRims s.hist).foldl (fun acc c => bootRim c acc) ((permSites s.hist).foldl (fun acc z => bootFence z acc) s)
  let hush := (silent.map Fin.val).eraseDups.filter (fun z => s1.grid.exposed.getLsbD z)
  let old := (List.range 56).filter (fun b => hush.contains (hubOf s1 b))
  let s2 := onLath (fun l => { l with promoted := old.foldl (fun p b => p ||| ((1 : BitVec 56) <<< b)) l.promoted }) s1
  hush.foldl (fun acc z => (chargeEvent (unitTile z) 0x0D (bootFence z acc)).1) s2

/-- A model at cold reset: the library is empty; LIBRARY and LOADING become FREE, the others are RESIDENT or DEGRADED by what their
pages read, and every slice is 1.5 days older (R155, R164, R170). -/
def residBoot (s : State) (r : Resid) : Resid :=
  let keep : Bool := r.st == .resident || r.st == .swapping || r.st == .degraded
  if !keep then Resid.free
  else
    let sls := r.slices.map (fun sl => { sl with
      resident := sl.resident && sl.macros.all (fun z => macroValid (fabAt s z.site) (macIx z)), age := sl.age + ageDays 3 / 2 })
    { r with
      slices := sls, st := if sls.any (fun sl => !sl.resident) then .degraded else .resident
      blocked := false, lastErr := 0, lastUse := 0, manifest := [], shardLen := 0, lib := [], req := none }

/-- A tile's macro table rebuilt: stopped programs and erases have ended, erase-pending macros are erased, and RES comes from the
markers (R85, R150, R151). -/
def fabBoot (f : Fabric) : Fabric := { warmFab f with mtLoaded := true }

/-- HISTORY: the operating time resumes, the macro tables and the residency table are rebuilt, trims are set to their targets, and
extents classed permanent are BAD (R85, R151, R155, R170, R179, R562, R563). -/
def bootHistory (s : State) : State :=
  let s1 := onFlt (fun f => { f with opt := s.hist.opt }) { s with cal := trimsToTarget s.cal }
  let loading := s1.resid.filter (fun e => e.2.st == .loading)
  let s2 := loading.foldl (fun acc e => e.2.slices.foldl (fun a sl => deadSlice sl a) acc) s1
  let s3 := onGrid (fun g => { g with tiles := stab Tile.reset 8064 (fun z =>
    let t := sget Tile.reset g.tiles z
    if g.exposed.getLsbD z then { t with fab := fabBoot t.fab } else t) }) s2
  { s3 with resid := smap Resid.free s3.resid (fun _ r => residBoot s3 r) }

/-- DRAM: every channel trained and every word cleared; extents classed permanent are BAD (R448, R456, R563). -/
def bootDram (s : State) : State :=
  let s1 := { s with md := stab MemDie.reset 16 (fun _ => { MemDie.reset with trained := 0xFF, cleared := true }) }
  (s1.hist.permanent.filter (fun u => u.kind == 6)).foldl (fun acc u => extentBad u.addr.toNat acc) s1

/-- The MAC address of sub-port s of link die n in the one-time store: the base address and up, below the management port's (R500,
R601). -/
def otsMac (n sub : Nat) : BitVec 48 := Config.baseMac + BitVec.ofNat 48 (24 * n + sub)
/-- The interface identifier of a MAC address by EUI-64 (R601). -/
def eui64 (mac : BitVec 48) : Word :=
  let m := mac.toNat
  BitVec.ofNat 64 (((m / 2 ^ 24) * 2 ^ 40 + 0xFFFE * 2 ^ 24 + m % 2 ^ 24)) ^^^ 0x0200000000000000

/-- PORTS: the link dies in PORT_MODE, the management port, and the pod state of ROLE; a network boot gives every sub-port its IPv6
link-local address (R501, R602, R604). -/
def bootPorts (s : State) : State :=
  let m := strapMode s
  let subs := fun (n : Nat) => if strapBoot s = 1 then stab Sub.none 24 (fun i => { Sub.none with ip6h := 0xFE80000000000000, ip6l := eui64 (otsMac n i) }) else []
  let s1 := { s with ld := stab LinkDie.reset 16 (fun n =>
    let d := linkAt s n
    { d with ports := stab (Port.reset 0) 3 (fun _ => Port.reset m), subs := subs n }) }
  let st : BitVec 3 := match strapRole s with | 0 => 0 | 2 => 3 | _ => 1
  onPod (fun p => { p with st := st, slot := BitVec.ofNat 7 (strapSlot s) }) (onSvc (fun v => { v with mgmtUp := true }) s1)

/-- The primer reads a slot of the service flash, 1 or 2, into the staging copy and begins a load of it (R604). -/
def bootSlot (n : Nat) (s : State) : State :=
  let len := if n = 1 then s.svc.flashLenA else s.svc.flashLenB
  let bs := bytesAt (if n = 1 then s.svc.flashA else s.svc.flashB) 0 len
  onLoad (fun l => { l with parts := [(0, len)] })
    (dramStore (loadBegin none len false 0 0 (onSvc (fun v => { v with stage := 9, slot := BitVec.ofNat 2 n }) s)) stagingAddr bs)

/-- READY (R602). -/
def bootReady (s : State) : State := onSvc (fun v => { v with stage := 10 }) s

/-- IMAGE: from the service flash the load of slot A begins; the other sources load nothing now, and the module is READY (R604). -/
def bootImage (s : State) : State := if strapBoot s = 0 then bootSlot 1 s else bootReady s

/-- A boot from the flash goes on once a load has ended: READY where the image committed, slot B after slot A, and READY without an
image, SLOT 3, where neither loaded (R604). -/
def bootDue (s : State) : State :=
  if s.svc.stage ≠ 9 ∨ s.load.st ≠ 0 then s
  else if s.load.img.isSome then bootReady s
  else if s.svc.slot = 1 then bootSlot 2 s
  else bootReady (onSvc (fun v => { v with slot := 3 }) s)

/-- The supply after PWR_OK has risen; a latch-off and its record last until both feeds and the store were gone (R579, R597). -/
def pwrBoot (p : Pwr) : Pwr :=
  let q := { Pwr.reset with feedA := p.feedA, feedB := p.feedB, va := p.va, vb := p.vb, ev := p.ev, eq := p.eq, vstore := p.vstore }
  if p.act = 4 then q
  else { q with fDomain := p.fDomain, fUnit := p.fUnit, retries := p.retries, latched := p.latched, fKind := p.fKind }

/-- Whether PWR_OK rises: a feed is present, E_V is 10 J or more, and nothing is latched off but what a power-up clears (R579, R584). -/
def pwrRises (p : Pwr) : Bool := (p.feedA || p.feedB) && decide (10000 ≤ p.ev.toNat) && (!p.latched || p.act == 4)

/-- The boot of a cold reset after PWR_OK has risen: the stages of R602 in order, up to the one that fails; a failure ends in stage 15
(R602, R603). -/
def coldBoot (a : BootArgs) (cause : BitVec 2) (s : State) : State :=
  let d := bootDoes a.halt
  let s1 := bootStraps (onSvc (fun v => { v with lastCold := cause, bootMs := a.ms }) { coldClear s with pwr := pwrBoot s.pwr })
  let s2 := if d 2 then bootFuses s1 else s1
  let s3 := if d 4 then bootLath a.silent s2 else s2
  let s4 := if d 6 then bootHistory s3 else s3
  let s5 := if d 7 then bootDram s4 else s4
  match haltStage a.halt with
  | some h => onSvc (fun v => { v with stage := 15, haltStage := BitVec.ofNat 4 h, halt := a.halt, mgmtUp := true }) s5
  | none => bootImage (bootPorts s5)

/-- A cold reset; one that host software did not ask for is a service-interrupting event, and where PWR_OK cannot rise the module waits
in stage 0 (R567, R584, R602, R606). -/
def coldReset (a : BootArgs) (cause : BitVec 2) (asked : Bool) (s : State) : State :=
  if !pwrRises s.pwr then onPwr (fun p => { p with pwrOk := false }) (onSvc (fun v => { v with lastCold := cause }) (coldClear s))
  else
    let s1 := coldBoot a cause s
    if asked then s1 else sieEvent s1

/-- COLD_RESET: PWR_OK rises (R602, R606). -/
def execColdReset (a : BootArgs) (s : State) : Host.Outcome State Fault Refusal :=
  .next (if pwrRises s.pwr then coldReset a (if s.pwr.lastGasp then 3 else 0) false s else s)
/-- RST_N: held low for 10 µs or more (R606). -/
def execRstN (a : BootArgs) (s : State) : Host.Outcome State Fault Refusal := .next (if s.pwr.act = 4 then s else coldReset a 1 false s)
/-- SVC_RESET_COLD (R606). -/
def execSvcResetCold (a : BootArgs) (s : State) : Host.Outcome State Fault Refusal := .next (coldReset a 2 true s)

/-- STRAP_CHECK: the pins are compared with STRAP_VAL; a change has no other effect (R600). -/
def execStrapCheck (pins : BitVec 18) (s : State) : Host.Outcome State Fault Refusal :=
  .next (onSvc (fun v => { v with pins := pins, strapChg := v.strapChg || pins != v.straps }) s)

/-! ### The other resets (R606-R609, R614) -/

/-- The end of a freeze by a reset: FREEZE_N is released, and a pod member must rejoin (R506, R611, R614). -/
def freezeEnd (frozen : Bool) (s : State) : State :=
  let s1 := onSvc (fun v => { v with freezePin := true }) s
  if frozen && s.pod.st == 2 then onPod (fun p => { p with st := 1 }) s1 else s1

/-- SVC_RESET_WARM: host software asks for a warm reset, which also ends a freeze (R606, R614). -/
def execSvcResetWarm (a : WarmArgs) (s : State) : Host.Outcome State Fault Refusal :=
  let s1 := warmReset { a with asked := true } s
  .next (if s1.svc.frz = 0 then freezeEnd (s.svc.frz != 0) s1 else s1)

/-- SVC_RESET_TILE: a tile reset with RETRAIN = 1, which a warm reset in progress covers (R606, R609, R620). -/
def execSvcResetTile (site : BitVec 13) (s : State) : Host.Outcome State Fault Refusal :=
  .next (if s.svc.warming ∨ 8064 ≤ site.toNat then s else tileResetNow site.toNat true s)

/-- SVC_RESET_PORT: the port's sub-ports go down and their sessions move; during a mode change the change completes and the port stays
down until its EN is written again; a warm reset in progress covers it (R474, R485, R496, R609). -/
def execSvcResetPort (port : BitVec 6) (s : State) : Host.Outcome State Fault Refusal :=
  let n := port.toNat / 3
  let p := port.toNat % 3
  .next (if s.svc.warming ∨ 48 ≤ port.toNat then s
    else portsDown n (fun d =>
      let e := portDown p d
      portPut p { portAt e p with en := (portAt e p).en && !(portAt e p).modeSt } e) s)

/-- SVC_MGMT_IP4: the management port's address is replaced at once (R601). -/
def execSvcMgmtIp4 (v : Word) (s : State) : Host.Outcome State Fault Refusal :=
  .next (onSvc (fun d => { d with mgmtIp4 := v.setWidth 32 }) s)

/-! ### Freeze (R611-R614, R618) -/

/-- A trigger that is ignored is counted (R611). -/
def freezeIgnore (s : State) : State := onSvc (fun v => { v with ign := if v.ign = 0xFFF then 0xFFF else v.ign + 1 }) s

/-- A freeze trigger: ignored and counted below D2 and during a warm reset, ignored during a freeze; otherwise the stop frame is four
frames on and FREEZE_N is driven low (R611, R612, R618). -/
def freezeStart (cause : BitVec 2) (s : State) : State :=
  if s.svc.frz ≠ 0 then s
  else if s.sec.level.toNat < 2 ∨ s.svc.warming then freezeIgnore s
  else onSvc (fun v => { v with frz := 1, frzCause := cause, stopFrame := BitVec.ofNat 48 (s.frames + 4), freezePin := false }) s

/-- FREEZE_N: the pin is held low for a number of µs, while PIN_EN is 1 (R611). -/
def execFreezeN (us : BitVec 16) (s : State) : Host.Outcome State Fault Refusal :=
  .next (if s.svc.pinEn ∧ 1 ≤ us.toNat then freezeStart 1 s else s)

/-- FRZ_REQ: a write of DBG_CTRL.FRZ_REQ (R611). -/
def execFrzReq (s : State) : Host.Outcome State Fault Refusal := .next (freezeStart 2 s)

/-- FREEZE: the message gives the nodes the stop frame of a freeze; the first one stands (R612, R618). -/
def execFreeze (stop : BitVec 48) (cause : BitVec 2) (s : State) : Host.Outcome State Fault Refusal :=
  .next (if s.svc.frz ≠ 0 ∨ s.sec.level.toNat < 2 then s
    else onSvc (fun v => { v with frz := 1, frzCause := cause, stopFrame := stop, freezePin := false }) s)

/-- FREEZE_STOP: from the stop frame on every domain stops, and the module is FROZEN (R613). -/
def execFreezeStop (s : State) : Host.Outcome State Fault Refusal :=
  .next (if s.svc.frz = 1 ∧ s.svc.stopFrame.toNat ≤ s.frames % 2 ^ 48 then onSvc (fun v => { v with frz := 2 }) s else s)

/-! ### The hazard detector (R324-R326) -/

/-- The frequency step that a change of HAZ_EN makes: none on a MEMBER, through FREQ on a HAWK (R324). -/
def hazFreq (k : Nat) (s : State) : State := if s.pod.st = 2 then s else freqLead k s

/-- HAZ_EN: ignored below D2. Enabling steps the clock to code 8; disabling restores the code that was in force (R324, R622). -/
def execHazEn (on : Bool) (s : State) : Host.Outcome State Fault Refusal :=
  .next (if s.sec.level.toNat < 2 ∨ on = s.svc.hazEn then s
    else if on then hazRefresh (hazFreq 8 (onSvc (fun v => { v with hazEn := true, hazPrev := s.clk.k }) s))
    else hazRefresh (hazFreq s.svc.hazPrev.toNat (onSvc (fun v => { v with hazEn := false }) s)))

/-- HAZARD: a tile's detector reports the hazards of a code in this frame as one report, with their count, the first one's cycle offset
and, for codes 3 and 4, its store index; under stop-on-hazard it starts a freeze (R325, R326). -/
def execHazard (site : Site) (code : BitVec 4) (s : State) : Host.Outcome State Fault Refusal :=
  let t := tileAt s site
  let e := sget (0, 0, 0) t.pad.haz code.toNat
  if !hazLive s || e.1 == 0 then .next s
  else
    let s1 := tilePut s site { t with pad := { t.pad with haz := sdel t.pad.haz code.toNat } }
    let ix := if code = 3 ∨ code = 4 then e.2.2 else 0
    let s2 := sendRpt s1 site 0x14 (BitVec.ofNat 64 site.val)
      [BitVec.ofNat 64 code.toNat, BitVec.ofNat 64 (e.2.1 % 2048), BitVec.ofNat 64 ix, BitVec.ofNat 64 e.1]
    .next (if s.svc.hazStop then freezeStart 3 s2 else s2)

end Sys2Proof.Machine
end

