-- ==== Sys2Proof/Machine/RegRead.lean ====
section
/-! DEFINITION. Reading the registers and records of the service die, the request engines, the link dies and the memory dies by
their address (R9-R12, R41, R630-R634). -/

namespace Sys2Proof.Machine

/-- A signed number of n bits as a field value. -/
def intF (n : Nat) (x : Int) : Nat := (x % (2 ^ n : Int)).toNat
/-- Word w of a list of words, 0 beyond its end. -/
def wordIn (l : List Word) (w : Nat) : Option Word := some (lget 0 l w)
/-- Word w of a byte string. -/
def bytesWord (f : Nat → Byte) (w : Nat) : Word := fields ((List.range 8).map (fun i => (8 * i, (f (8 * w + i)).toNat)))

/-! ### The good-tile map (R17) -/

/-- The IEEE 802.3 CRC-32 of bytes. -/
def crc32 (bs : List Byte) : BitVec 32 :=
  ~~~(bs.foldl (fun c b => (List.range 8).foldl (fun (c : BitVec 32) _ =>
    if c.getLsbD 0 then (c >>> (1 : Nat)) ^^^ 0xEDB88320 else c >>> (1 : Nat)) (c ^^^ b.setWidth 32)) (0xFFFFFFFF : BitVec 32))
/-- The bytes 0x000 to 0x7FF of the map; a site is good when it is exposed. -/
def mapHead (s : State) (i : Nat) : Byte :=
  let bits := fun (o : Nat) => BitVec.ofNat 8 ((List.range 8).foldl (fun a j => a + if s.grid.exposed.getLsbD (8 * o + j) then 2 ^ j else 0) 0)
  if i < 4 then lget 0 (leBytes 4 0x47544D31) i
  else if i < 6 then lget 0 (leBytes 2 1) (i - 4)
  else if i = 6 then s.svc.grade.setWidth 8
  else if 8 ≤ i ∧ i < 10 then lget 0 (leBytes 2 (nexp s)) (i - 8)
  else if 10 ≤ i ∧ i < 12 then lget 0 (leBytes 2 (nexp s)) (i - 10)
  else if 16 ≤ i ∧ i < 24 then lget 0 (leBytes 8 Config.stackSn.toNat) (i - 16)
  else if 0x20 ≤ i ∧ i < 0x410 then bits (i - 0x20)
  else if 0x410 ≤ i ∧ i < 0x800 then bits (i - 0x410)
  else 0
/-- A byte of the map. -/
def mapByte (s : State) (i : Nat) : Byte :=
  if i < 0x800 then mapHead s i
  else if i < 0x804 then lget 0 (leBytes 4 (crc32 ((List.range 0x800).map (mapHead s))).toNat) (i - 0x800)
  else if i < 0x864 then Config.mapSignature (i - 0x804)
  else 0

/-! ### Signature records as CBOR (R566) -/

/-- A CBOR head of a major type with its argument, deterministically encoded. -/
def cborHead (major n : Nat) : List Byte :=
  let be := fun (k : Nat) => (leBytes k n).reverse
  let h := fun (a : Nat) => BitVec.ofNat 8 (32 * major + a)
  if n < 24 then [h n] else if n < 2 ^ 8 then h 24 :: be 1 else if n < 2 ^ 16 then h 25 :: be 2
  else if n < 2 ^ 32 then h 26 :: be 4 else h 27 :: be 8
/-- A pair of an integer key and an unsigned integer. -/
def cborPair (k v : Nat) : List Byte := cborHead 0 k ++ cborHead 0 v
/-- The pairs of keys 1 to 12, with their number. -/
def sigPairs (r : SigRecord) : List Byte × Nat :=
  let p := cborPair 1 1 ++ cborPair 2 r.stackSn.toNat ++ cborPair 3 r.opt.toNat ++ cborPair 4 r.frame.toNat ++ cborPair 5 r.code.toNat ++
    cborPair 6 r.unit.kind.toNat ++ cborPair 7 r.unit.addr.toNat ++ cborPair 8 (b1 r.permanent) ++ cborPair 9 r.events ++
    cborPair 10 r.action.toNat ++ cborPair 11 r.imageId.toNat
  if r.detail.isEmpty then (p, 11) else (p ++ cborHead 0 12 ++ cborHead 2 (8 * r.detail.length) ++ wordBytes r.detail, 12)
/-- A record as its slot holds it. -/
def sigBytes (r : SigRecord) : List Byte :=
  let p := sigPairs r
  let sig := Config.dikSignature (Config.sha384 (cborHead 5 p.2 ++ p.1))
  cborHead 5 (p.2 + 1) ++ p.1 ++ cborHead 0 13 ++ cborHead 2 96 ++ (List.range 96).map (lget 0 sig)
/-- Slot i of the signature ring. -/
def sigSlot (s : State) (i w : Nat) : Word :=
  match sget none s.flt.sig i with
  | some r => bytesWord (lget 0 (sigBytes r)) w
  | none => 0

/-! ### The placement report (R348) -/

/-- The placed regions in section order, each with its pipeline. -/
def rptRegs (s : State) : List (Nat × PlacedReg) :=
  match s.load.img with
  | none => []
  | some i => (List.range i.regions.length).filterMap (fun n =>
      s.plc.courses.findSome? (fun c => (c.regs.find? (fun p => p.reg == n)).map (fun p => (c.pipe, p))))
/-- The shift entries of the report. -/
def rptShifts (s : State) : List Shift := (rptRegs s).flatMap (fun p => p.2.shifts)
/-- The two words of region entry e. -/
def rptEntry (s : State) (e w : Nat) : Word :=
  match s.load.img, (rptRegs s)[e]? with
  | some i, some (q, p) =>
    let z := placedSize i p
    if w = 0 then
      fields [(0, match regAt i p.reg with | some r => r.id | none => 0), (16, p.variant), (24, p.st), (32, p.x0), (40, p.y0), (48, z.1 + 1),
        (56, z.2)]
    else fields [(0, q), (8, p.shifts.length), (16, (((rptRegs s).take e).map (fun (x : Nat × PlacedReg) => x.2.shifts.length)).sum)]
  | _, _ => 0
/-- A shift entry as 32 bits. -/
def rptShift (s : State) (k : Nat) : Nat :=
  match (rptShifts s)[k]? with
  | some x => x.ly + 256 * x.lx + 65536 * b1 x.inService
  | none => 0

/-! ### Blocks of the service die -/

/-- SVC_LEDn (R627). -/
def ledReg (l : Led) : Word :=
  fields [(0, l.duty.toNat), (8, b1 l.fn), (9, b1 l.stretch), (10, l.iset.toNat), (14, l.diag.toNat)]
/-- LEDn. -/
def ledAt (s : State) (n : Nat) : Led := sget Led.reset s.svc.leds n
/-- SVC_ (R620). -/
def svcBlockRead (s : State) (off : Nat) : Option Word :=
  let v := s.svc
  if off = 0 then some (fields [(0, 0x96), (16, v.step.toNat), (24, v.grade.toNat)])
  else if off = 8 then
    some (fields [(0, v.stage.toNat), (4, v.haltStage.toNat), (8, v.halt.toNat), (12, v.slot.toNat), (16, v.bootMs.toNat)])
  else if off = 0x10 then some 0
  else if off = 0x18 then some (fields [(0, b1 v.strapChg), (1, v.lastCold.toNat)])
  else if off = 0x20 then some (v.mgmtIp4.setWidth 64)
  else if 0x40 ≤ off ∧ off < 0x60 then some (ledReg (ledAt s ((off - 0x40) / 8)))
  else if off = 0x1000 then some (v.straps.setWidth 64)
  else none

/-- CAL_ (R191-R195). -/
def calBlockRead (c : Cal) (off : Nat) : Option Word :=
  if off = 0 then
    some (fields [(1, c.what.toNat), (3, c.set.toNat), (6, c.scope.toNat), (8, c.model.toNat), (16, c.site.toNat), (29, c.macroIx.toNat),
      (42, b1 c.hold)])
  else if off = 8 then some (fields ([(0, b1 c.busy), (1, c.last.toNat)] ++ satF c.defer 16 32))
  else if off = 0x10 then some (fields [(0, c.pass.toNat), (32, c.fail.toNat), (48, c.skip.toNat)])
  else if off = 0x18 then
    some (fields [(0, c.failAddr.toNat), (44, c.failGroup.toNat), (47, c.failReason.toNat), (51, b1 c.failValid)])
  else if off = 0x20 then some (fields [(0, c.marAddr.toNat), (44, c.marMin.toNat), (50, b1 c.marValid)])
  else if 0x100 ≤ off ∧ off < 0x100 + 8 * 56 then
    some (fields [(0, intF 12 (sget 0 c.temps ((off - 0x100) / 8))), (12, b1 c.tempValid)])
  else none

/-- The pool tiles of the module. -/
def allPools (s : State) : List Nat := (s.plc.courses.flatMap (fun c => (poolSites s c.pipe).flatten)).eraseDups
/-- The pages homed in DRAM. -/
def dramPages (s : State) : Nat :=
  ((busySids s).map (fun sid => (List.range (pagesHomed s sid)).countP (fun n => pteDram (pteAt s sid n)))).sum
/-- PLC_ (R345-R347). -/
def plcBlockRead (s : State) (off : Nat) : Option Word :=
  let p := s.plc
  if off = 0 then some (fields [(0, b1 p.rehomeEn), (1, b1 p.wearRotEn), (16, p.rotThresh.toNat)])
  else if off = 8 then
    some (fields [(0, freeSites s), (13, b1 p.busy), (16, p.fencedSvc.length), (29, p.lastOp.toNat), (32, p.lastRes.toNat)])
  else if off = 0x10 then some (fields (satF p.rehome 0 16 ++ satF p.fail 32 48))
  else if off = 0x18 then
    some (fields [(0, p.lastSite.toNat), (16, p.lastRegion.toNat), (32, p.lastHold.toNat), (48, p.lastResult.toNat), (63, b1 p.lastValid)])
  else if off = 0x20 then some (fields [(0, 16 * ((allPools s).map (arenaFree s)).sum), (32, dramPages s)])
  else if off = 0x28 then some (fields (satF p.spill 0 16))
  else if off = 0x30 then some (fields [(0, (rptRegs s).length), (16, (rptShifts s).length), (32, p.gen.toNat)])
  else none

/-- The commit-group status record (R414). -/
def cgBlockRead (c : Cg) (off : Nat) : Option Word :=
  if off = 0 then
    some (fields [(0, c.groups.length), (16, c.lastCgid.toNat), (32, c.lastReason.toNat), (35, c.lastNo.toNat), (38, c.lastNode.toNat)])
  else if off = 8 then some (fields [(0, c.applied.toNat), (32, c.discarded.toNat), (48, c.indoubt.toNat), (63, b1 c.ovf)])
  else none

/-- Byte i of an owner key slot (R524). -/
def ownerByte (k : OwnerKey) (i : Nat) : Byte :=
  if i < 49 then (k.key >>> (8 * i)).setWidth 8
  else if i = 49 then k.use
  else if i = 50 then BitVec.ofNat 8 (b1 k.dev + 2 * b1 k.revoked + 4 * b1 k.written)
  else 0
/-- SEC_ (R542-R544). -/
def secBlockRead (c : Sec) (off : Nat) : Option Word :=
  if off = 0 then some (fields [(0, c.lc.toNat), (2, b1 c.lcPend), (3, c.lcNext.toNat), (5, b1 c.ownLock)])
  else if off = 8 then some (fields [(0, c.op.toNat), (8, c.result.toNat), (12, c.slot.toNat)])
  else if off = 0x10 then some c.chal
  else if off = 0x18 then some (fields [(0, c.rbMin.toNat), (8, c.rbNew.toNat)])
  else if off = 0x20 then some (fields [(0, c.req.toNat), (2, c.level.toNat), (4, c.tokenMax.toNat), (6, b1 (secSealed c))])
  else if off = 0x28 then some (fields (satF c.viol 0 16))
  else if off = 0x30 then
    some (fields [(0, c.vKind.toNat), (4, c.vClaimed.toNat), (16, c.vOwner.toNat), (28, c.vNode.toNat), (41, b1 c.vValid)])
  else if 0x100 ≤ off ∧ off < 0x200 then some (sget 0 c.inbox ((off - 0x100) / 8))
  else if 0x200 ≤ off ∧ off < 0x400 then some (bytesWord (ownerByte (ownerKey c ((off - 0x200) / 64))) (off / 8 % 8))
  else if 0x1000 ≤ off ∧ off < 0x1400 then some (Config.dikCertificate ((off - 0x1000) / 8))
  else none

/-- FLT_ (R570). -/
def fltBlockRead (s : State) (off : Nat) : Option Word :=
  let f := s.flt
  if off = 0 then some (fields [(0, b1 f.probeEn), (1, f.probeDiv.toNat), (4, b1 f.remapEn), (5, b1 f.warmEn)])
  else if off = 8 then
    some (fields (satF f.warm 0 16 ++ [(17, f.lastCause.toNat), (23, b1 f.deputy), (24, b1 f.fatal), (25, f.recovMs.toNat)]))
  else if off = 0x10 then some (fields ([(0, f.wr.toNat)] ++ satF f.lost 16 48 ++ satF f.inOvf 32 49))
  else if off = 0x18 then some (f.rd.setWidth 64)
  else if off = 0x20 then some (fields [(0, f.sieCnt.toNat), (32, f.sieOpt.toNat)])
  else if off = 0x28 then some (fields [(0, s.hist.setId.toNat), (32, b1 f.setPending), (48, f.confirmed.toNat)])
  else if off = 0x30 then some (f.opt.setWidth 64)
  else if off = 0x38 then some (fields [(0, f.sigWr.toNat), (8, f.sigRd.toNat), (16, f.sigLost.toNat)])
  else none

/-- PWR_ (R597). -/
def pwrBlockRead (s : State) (off : Nat) : Option Word :=
  let p := s.pwr
  if off = 0 then some (fields [(0, p.pstate.toNat), (3, p.capW.toNat)])
  else if off = 8 then
    some (fields [(0, p.act.toNat), (3, b1 p.feedA), (4, b1 p.feedB), (5, b1 p.pwrOk), (6, b1 p.pstateErr),
      (7, b1 (decide (2000 ≤ p.ev.toNat)))])
  else if off = 0x10 then some (fields [(0, p.va.toNat), (16, p.vb.toNat), (32, p.pin.toNat), (48, p.pinPeak.toNat)])
  else if off = 0x18 then
    some (fields [(0, p.fDomain.toNat), (4, p.fUnit.toNat), (10, p.retries.toNat), (12, b1 p.latched), (13, b1 p.fKind)])
  else if off = 0x20 then
    some (fields [(0, p.ev.toNat), (16, p.eq.toNat), (32, p.vstore.toNat), (49, b1 p.gaugeBad), (50, b1 p.qOff)])
  else if off = 0x28 then some (fields (satF p.down 0 16 ++ satF p.overFr 32 48))
  else if 0x100 ≤ off ∧ off < 0x100 + 32 * 48 then
    let z := zoneAt s ((off - 0x100) / 32)
    if off / 8 % 4 = 0 then some (fields [(0, z.setpt.toNat), (10, b1 z.limited), (11, b1 z.bond), (12, z.bondSite.toNat)])
    else if off / 8 % 4 = 1 then some (fields [(0, z.min.toNat), (10, z.minSite.toNat), (23, b1 z.minValid)])
    else if off / 8 % 4 = 2 then some z.minTime
    else none
  else none

/-- CLK_ (R598); STEP_PEND while the group of a step has been prepared and has not applied. -/
def clkBlockRead (s : State) (off : Nat) : Option Word :=
  let c := s.clk
  let pend := s.cg.groups.any (fun g => g.prepared && s.cg.parts.any (fun p => p.cgid == g.cgid && p.items.any isFreq))
  if off = 0 then some (c.kreq.setWidth 64)
  else if off = 8 then some (fields [(0, c.k.toNat), (4, b1 pend), (5, b1 c.podLock), (6, b1 c.offGrid)])
  else if off = 0x10 then some (fields [(0, c.err.toNat), (32, c.adj.toNat)])
  else if off = 0x18 then some (fields (satF c.slip 0 16 ++ [(17, c.slipSite.toNat), (30, c.slipPort.toNat), (33, b1 c.slipValid)]))
  else none

/-- DBG_ (R622). -/
def dbgBlockRead (v : Svc) (off : Nat) : Option Word :=
  if off = 0 then some (fields [(0, b1 v.hazEn), (1, b1 v.hazStop), (2, b1 (v.frz != 0 && v.frzCause == 2)), (3, b1 v.pinEn), (4, b1 v.traceEn)])
  else if off = 8 then some (fields [(0, v.frz.toNat), (2, v.frzCause.toNat), (4, v.ign.toNat), (16, v.stopFrame.toNat)])
  else none

/-! ### Tables of the service die -/

/-- An adapter slot's words (R133). -/
def adapterWord (x : Adapter) (w : Nat) : Word :=
  if w = 0 then fields [(0, x.id.toNat), (32, x.tenant.toNat), (44, x.st.toNat), (46, x.rank.toNat), (49, x.bind.toNat)]
  else x.lastUse.setWidth 64
/-- STATE of a model as a number. -/
def resCode : ResState → Nat
  | .free => 0
  | .library => 1
  | .loading => 2
  | .resident => 3
  | .swapping => 4
  | .degraded => 5
/-- Word w of residency entry M (R169). -/
def residWord (s : State) (m w : Nat) : Word :=
  let r := residAt s m
  if w = 0 then (if r.st = .free then 0 else r.id)
  else if w = 1 then
    fields [(0, r.ver.toNat), (32, resCode r.st), (35, b1 r.pin), (36, b1 r.blocked), (40, r.lastErr.toNat), (48, modelStreams s m)]
  else if w = 2 then fields [(0, r.lastUse.toNat), (48, r.slices.countP (fun x => !x.resident))]
  else fields [(0, r.slices.length), (32, libMib r)]
/-- The image status record (R273). -/
def loadWord (l : Load) (w : Nat) : Word :=
  if w = 0 then l.activeId
  else if w = 1 then
    fields [(0, l.activeVer.toNat), (32, l.activeProf.toNat), (36, l.st.toNat), (40, l.lastResult.toNat), (48, l.lastSect.toNat)]
  else if w = 2 then l.applyFrame.setWidth 64
  else l.lastDetail.setWidth 64
/-- Word 0 of a lock (R415); OP is write-only. -/
def lockWord (l : Lock) (w : Nat) : Word :=
  if w = 0 then
    fields [(0, b1 l.held), (1, b1 l.abandoned), (16, l.holder.toNat), (32, l.aepoch.toNat), (48, l.lepoch.toNat)]
  else 0
/-- The pod record (R516). -/
def podWord (s : State) (w : Nat) : Word :=
  let p := s.pod
  if w = 0 then
    fields [(0, podRole s), (2, p.st.toNat), (5, p.slot.toNat), (16, p.epoch.toNat),
      (32, if p.st = 3 then p.table.countP (fun e => e.2.live) else 0), (40, b1 p.upper)]
  else
    fields [(0, p.fences.cnt.toNat), (16, p.takeovers.cnt.toNat), (32, b1 (p.fences.ovf || p.takeovers.ovf)), (33, p.uepoch.toNat),
      (49, p.uslot.toNat), (56, b1 (podUlead s))]
/-- Word w of an error-log entry (R564). -/
def logWord (e : LogEntry) (w : Nat) : Word :=
  if w = 0 then e.first
  else if w = 1 then fields [(0, e.lastDt.toNat), (32, e.count.toNat), (48, e.code.toNat), (56, e.n)]
  else if w = 2 then e.src.setWidth 64
  else if w = 3 then e.unit
  else lget 0 e.detail (w - 4)

/-- A word of the service die's window at an offset; none where nothing is mapped. -/
def svcRead (s : State) (off : Nat) : Option Word :=
  if off < 0x20000 then svcBlockRead s off
  else if off < 0x30000 then calBlockRead s.cal (off - 0x20000)
  else if off < 0x40000 then plcBlockRead s (off - 0x30000)
  else if off < 0x50000 then cgBlockRead s.cg (off - 0x40000)
  else if off < 0x60000 then secBlockRead s.sec (off - 0x50000)
  else if off < 0x70000 then fltBlockRead s (off - 0x60000)
  else if off < 0x80000 then pwrBlockRead s (off - 0x70000)
  else if off < 0x90000 then clkBlockRead s (off - 0x80000)
  else if off < 0xA0000 then dbgBlockRead s.svc (off - 0x90000)
  else if 0x100000 ≤ off ∧ off < 0x100868 then some (bytesWord (mapByte s) ((off - 0x100000) / 8))
  else if 0x400000 ≤ off ∧ off < 0x500000 then
    let m := (off - 0x400000) / 0x1000
    some (adapterWord (adAt s m (off % 0x1000 / 16)) (off / 8 % 2))
  else if 0x500000 ≤ off ∧ off < 0x502000 then some (residWord s ((off - 0x500000) / 32) (off / 8 % 4))
  else if 0x600000 ≤ off ∧ off < 0x600020 then some (loadWord s.load (off / 8 % 4))
  else if 0x700000 ≤ off ∧ off < 0x704000 then some (rptEntry s ((off - 0x700000) / 16) (off / 8 % 2))
  else if 0x740000 ≤ off ∧ off < 0x748000 then
    let k := (off - 0x740000) / 4
    some (fields [(0, rptShift s k), (32, rptShift s (k + 1))])
  else if 0x800000 ≤ off ∧ off < 0x800800 then some (geomAt s ((off - 0x800000) / 8))
  else if 0x900000 ≤ off ∧ off < 0x901000 then some (lockWord (lockAt s ((off - 0x900000) / 16)) (off / 8 % 2))
  else if 0xA00000 ≤ off ∧ off < 0xA00010 then some (podWord s (off / 8 % 2))
  else if 0xA10000 ≤ off ∧ off < 0xA11000 then
    if s.pod.st = 3 then wordIn (memberWords (memberAt false s ((off - 0xA10000) / 32))) (off / 8 % 4) else some 0
  else if 0xA20000 ≤ off ∧ off < 0xA21000 then
    if s.pod.st = 3 then wordIn (memberWords (memberAt true s ((off - 0xA20000) / 32))) (off / 8 % 4) else some 0
  else if 0xB00000 ≤ off ∧ off < 0xB40000 then some (logWord (logAt s.flt ((off - 0xB00000) / 64)) (off / 8 % 8))
  else if 0xB80000 ≤ off ∧ off < 0xBC0000 then some (sigSlot s ((off - 0xB80000) / 1024) (off / 8 % 128))
  else none

/-! ### Request engines (R357, R373-R376, R425) -/

/-- STATE of a context as a number. -/
def ctxCode : CtxSt → Nat
  | .free => 0
  | .admitting => 1
  | .openSt => 2
  | .prefill => 3
  | .decode => 4
  | .waitSt => 5
  | .closing => 6
/-- TASK_HEAD: the task-store address of a stream's oldest unfinished stream-ordered task. -/
def taskHead (s : State) (sid : Nat) : Nat :=
  match (engAt s (sidEng sid)).tasks.find? (fun t => ordered t.kind && t.stream == some sid && !taskOver t) with
  | some t => taskAddr (sidEng sid) t.slot
  | none => 0
/-- Word w of the context of a stream. -/
def ctxWord (s : State) (sid w : Nat) : Word :=
  let c := ctxAt s sid
  if w = 0 then
    fields [(0, sid), (16, c.tenant.toNat), (28, ctxCode c.st), (31, b1 c.tier), (32, c.tempo.toNat), (34, c.pipe.toNat), (42, c.m.toNat),
      (50, c.aslot.toNat), (58, b1 c.aen), (59, b1 c.replayOk), (60, c.fin.toNat)]
  else if w = 1 then fields [(0, c.len.toNat), (21, c.maxCtx.toNat), (42, c.lastToken.toNat)]
  else if w = 2 then fields [(0, c.gend.toNat), (21, c.maxNew.toNat), (42, c.gen.toNat)]
  else if w = 3 then c.paramPtr.setWidth 64
  else if w = 4 then BitVec.ofNat 64 (taskHead s sid)
  else if w = 5 then fields [(0, c.seq.toNat), (32, c.head.toNat)]
  else if w = 6 then c.raddr
  else fields [(0, c.session.toNat), (16, c.log2n.toNat), (21, c.flags.toNat), (24, c.recs.length), (28, c.batchFr.toNat)]
/-- Four 15-bit fields. -/
def fields15 (l : List Nat) : Word := fields ((List.range 4).map (fun n => (15 * n, lget 0 l n)))
/-- Register r of pipeline q's block; 0 outside its home engine, apart from HOME, which reads 0 there too (R373, R376). -/
def pipeReg (s : State) (n q r : Nat) : Word :=
  if homeEng s q ≠ some n then 0
  else
    let p := homePipe s q
    match r with
    | 0 => fields [(0, p.preempt.toNat), (12, b1 p.en), (13, 1)]
    | 1 => p.tmap0
    | 2 => p.tmap1
    | 3 => p.limw.setWidth 64
    | 4 => p.limd.setWidth 64
    | 5 => p.cap.setWidth 64
    | 6 => fields15 p.adm
    | _ => fields ([(0, p.entries.toNat)] ++ satF p.preempts 32 48)
/-- A word of engine n's window. -/
def engRead (s : State) (n off : Nat) : Option Word :=
  let e := engAt s n
  if off = 0 then some (fields [(0, b1 e.admitEn)])
  else if off = 8 then some (fields [(0, e.ctx.countP (fun c => c.2.st != .free)), (12, e.tasks.length)])
  else if off = 0x10 then some (fields [(0, e.errCode.toNat), (8, e.errSid.toNat), (22, b1 e.errValid)])
  else if off = 0x18 then some (fields (satF e.failed 0 16 ++ satF e.cancels 32 48))
  else if 0x100 ≤ off ∧ off < 0x900 then
    let x := sqAt e ((off - 0x100) / 32)
    match off / 8 % 4 with
    | 0 => some (x.base.setWidth 64)
    | 1 => some (fields [(0, b1 x.en), (1, x.log2size.toNat), (16, x.tenant.toNat)])
    | 2 => some (x.head.setWidth 64)
    | _ => some (x.tail.setWidth 64)
  else if 0x1000 ≤ off ∧ off < 0x5000 then some (pipeReg s n ((off - 0x1000) / 64) (off / 8 % 8))
  else if 0x100000 ≤ off ∧ off < 0x110000 then some (ctxWord s (1024 * n + (off - 0x100000) / 64) (off / 8 % 8))
  else none

/-! ### Link dies (R498-R500) -/

/-- A word of link die n's window. -/
def lnkRead (s : State) (n off : Nat) : Option Word :=
  let d := linkAt s n
  if off = 0 then
    some (fields [(0, d.udpPort.toNat), (16, d.hbUs.toNat), (24, d.rtoUs.toNat), (32, d.dataPcp.toNat), (35, d.dataDscp.toNat), (41, d.vid.toNat)])
  else if off = 8 then some (fields ([(0, d.sess.length)] ++ satF d.stale 16 48 ++ satF d.auth 32 49))
  else if off = 0x10 then some (fields (satF d.retx 0 48 ++ satF d.timeout 16 49 ++ satF d.other 32 50))
  else if off = 0x18 then
    some (fields [(0, b1 d.ptpEn), (1, b1 d.ptpGm), (2, d.ptpSub.toNat), (7, b1 d.ptpTwoStep), (8, b1 d.ptpP2p)])
  else if off = 0x20 then some (fields [(0, d.ptpOffset.toNat), (32, b1 d.ptpLocked)])
  else if off = 0x28 then some (fields (satF d.late 0 32 ++ satF d.nocred 16 33))
  else if 0x40 ≤ off ∧ off < 0x70 then
    let p := portAt d ((off - 0x40) / 16)
    if off / 8 % 2 = 0 then
      some (fields [(0, p.mode.toNat), (3, b1 p.en), (4, b1 p.anEn), (5, b1 p.pfcEn), (6, b1 p.ecnEn)])
    else some (fields [(0, p.up.toNat), (8, p.los.toNat), (16, b1 p.modeSt), (17, p.modeAct.toNat)])
  else if 0x80 ≤ off ∧ off < 0x98 then
    let p := portAt d ((off - 0x80) / 8)
    some (fields ([(0, p.corr.toNat)] ++ satF p.uncorr 32 48))
  else if 0x100 ≤ off ∧ off < 0x400 then
    let k := (off - 0x100) / 32
    let x := subAt d k
    match off / 8 % 4 with
    | 0 => some ((x.mac.getD (otsMac n k)).setWidth 64)
    | 1 => some (x.ip4.setWidth 64)
    | 2 => some x.ip6h
    | _ => some x.ip6l
  else none

/-! ### Memory dies (R456, R468-R471) -/

/-- A word of memory die n's window. -/
def mifRead (s : State) (n off : Nat) : Option Word :=
  let d := mdAt s n
  if off = 0 then some (fields [(0, b1 d.scrubEn), (8, d.scrubHrs.toNat), (16, d.bulkBw.toNat)])
  else if off = 8 then some (fields [(0, d.trained.toNat), (8, b1 d.cleared)])
  else if off = 0x10 then some (fields (satF d.ce 0 16 ++ satF d.ue 32 48))
  else if off = 0x18 then some (fields [(0, d.eccAddr.toNat), (43, b1 d.eccType), (44, b1 d.eccValid)])
  else if off = 0x20 then some (fields (satF d.tag 0 16 ++ [(32, d.tagM.toNat)]))
  else if off = 0x28 then some (fields [(0, d.libMax.toNat), (16, d.cacheMax.toNat), (32, d.hostMax.toNat)])
  else if off = 0x30 then
    some (fields [(0, classCount d 2), (16, classCount d 3), (32, classCount d 4), (48, classCount d 5)])
  else if off = 0x38 then
    some (fields [(0, d.bulkPipe.toNat), (8, b1 d.bulkValid), (9, d.bulkErr.toNat), (16, d.nch.toNat), (48, d.bulkM.toNat)])
  else if 0x100000 ≤ off ∧ off < 0x140000 then
    let e := (off - 0x100000) / 4
    some (fields [(0, (extAt d e).toNat), (32, (extAt d (e + 1)).toNat)])
  else none

end Sys2Proof.Machine
end

