-- ==== Sys2Proof/Machine/RegWrite.lean ====
section
/-! DEFINITION. Writing the registers and records of the module by their address and access type (R9-R12, R41, R632-R634). A field
with a command of its own is written by that command's effect. -/

namespace Sys2Proof.Machine

/-- The state that a command leads to. -/
def afterCmd (o : Host.Outcome State Fault Refusal) (s : State) : State :=
  match o with
  | .next t => t
  | _ => s

/-! ### The service die -/

/-- A write of SVC_RESET: TILE and PORT. COLD and WARM are the commands SVC_RESET_COLD and SVC_RESET_WARM, which carry what the reset
finds, and cover the others (R609, R620). -/
def svcResetPut (v : Word) (s : State) : State :=
  if v.getLsbD 0 || v.getLsbD 1 then s
  else
    let s1 := if v.getLsbD 2 then afterCmd (execSvcResetTile (BitVec.ofNat 13 (bitsAt v 4 13)) s) s else s
    if v.getLsbD 3 then afterCmd (execSvcResetPort (BitVec.ofNat 6 (bitsAt v 17 6)) s1) s1 else s1
/-- A write of SVC_LEDn (R627). -/
def ledPut (n : Nat) (v : Word) (s : State) : State :=
  onSvc (fun d => { d with leds := supd Led.reset d.leds n (fun l =>
    { l with duty := v.setWidth 8, fn := v.getLsbD 8, stretch := v.getLsbD 9, iset := BitVec.ofNat 4 (bitsAt v 10 4) }) }) s
/-- SVC_ (R620). -/
def svcBlockPut (off : Nat) (v : Word) (s : State) : State :=
  if off = 0x10 then svcResetPut v s
  else if off = 0x18 then onSvc (fun d => { d with strapChg := d.strapChg && !v.getLsbD 0 }) s
  else if off = 0x20 then afterCmd (execSvcMgmtIp4 v s) s
  else if 0x40 ≤ off ∧ off < 0x60 then ledPut ((off - 0x40) / 8) v s
  else s

/-- CAL_ (R191-R194). -/
def calBlockPut (off : Nat) (v : Word) (s : State) : State :=
  if off = 0 then afterCmd (execCalStart v s) s
  else if off = 8 then onCal (fun c => { c with defer := satW1C c.defer (v.getLsbD 32) }) s
  else if off = 0x18 then onCal (fun c => { c with failValid := c.failValid && !v.getLsbD 51 }) s
  else if off = 0x20 then onCal (fun c => { c with marValid := c.marValid && !v.getLsbD 50 }) s
  else s

/-- PLC_ (R345-R347). -/
def plcBlockPut (off : Nat) (v : Word) (s : State) : State :=
  let p := s.plc
  if off = 0 then
    { s with plc := { p with rehomeEn := v.getLsbD 0, wearRotEn := v.getLsbD 1, rotThresh := BitVec.ofNat 16 (bitsAt v 16 16) } }
  else if off = 0x10 then
    { s with plc := { p with rehome := satW1C p.rehome (v.getLsbD 16), fail := satW1C p.fail (v.getLsbD 48) } }
  else if off = 0x18 then { s with plc := { p with lastValid := p.lastValid && !v.getLsbD 63 } }
  else if off = 0x28 then { s with plc := { p with spill := satW1C p.spill (v.getLsbD 16) } }
  else s

/-- A write of SEC_CMD: OP and SLOT are set, and GO performs OP; a signed command by the CMD byte of the inbox (R527, R543). -/
def secCmdPut (v : Word) (s : State) : State :=
  let op : BitVec 3 := v.setWidth 3
  let slot : BitVec 3 := BitVec.ofNat 3 (bitsAt v 12 3)
  let s1 := onSec (fun c => { c with op := op, slot := slot }) s
  if !v.getLsbD 3 then s1
  else match op.toNat with
    | 1 => match inboxLe s.sec 20 1 with
      | 1 => afterCmd (execSignedLifecycle s1) s1
      | 2 => afterCmd (execSignedDebug s1) s1
      | 3 => afterCmd (execSignedRevoke s1) s1
      | _ => secDone 1 .bad s1
    | 2 => afterCmd (execKeyInstall s1) s1
    | 3 => afterCmd (execRaiseRollback s1) s1
    | 4 => afterCmd (execWriteOwnerSlot slot s1) s1
    | _ => secDone op .bad s1
/-- SEC_ (R542-R544). -/
def secBlockPut (off : Nat) (v : Word) (s : State) : State :=
  if off = 8 then secCmdPut v s
  else if off = 0x18 then onSec (fun c => { c with rbNew := BitVec.ofNat 8 (bitsAt v 8 8) }) s
  else if off = 0x20 then afterCmd (execDebugLevelRequest (v.setWidth 2) s) s
  else if off = 0x28 then onSec (fun c => { c with viol := satW1C c.viol (v.getLsbD 16) }) s
  else if off = 0x30 then onSec (fun c => { c with vValid := c.vValid && !v.getLsbD 41 }) s
  else if 0x100 ≤ off ∧ off < 0x200 then onSec (fun c => { c with inbox := sset 0 c.inbox ((off - 0x100) / 8) v }) s
  else s

/-- FLT_ (R570): a write of RD beyond WR is ignored. -/
def fltBlockPut (off : Nat) (v : Word) (s : State) : State :=
  if off = 0 then
    onFlt (fun f => { f with probeEn := v.getLsbD 0, probeDiv := BitVec.ofNat 3 (bitsAt v 1 3), remapEn := v.getLsbD 4, warmEn := v.getLsbD 5 }) s
  else if off = 8 then onFlt (fun f => { f with warm := satW1C f.warm (v.getLsbD 16) }) s
  else if off = 0x10 then
    onFlt (fun f => { f with lost := satW1C f.lost (v.getLsbD 48), inOvf := satW1C f.inOvf (v.getLsbD 49) }) s
  else if off = 0x18 then
    onFlt (fun f => if (f.wr - v.setWidth 16).toNat ≤ 4096 then { f with rd := v.setWidth 16 } else f) s
  else if off = 0x38 then onFlt (fun f => { f with sigRd := BitVec.ofNat 8 (bitsAt v 8 8) }) s
  else s

/-- A write of PWR_CTRL: CAP_W, but for values above 30,000, then PSTATE, which has no state above 3 to give (R582, R597). -/
def pwrCtrlPut (v : Word) (s : State) : State :=
  let cap := bitsAt v 3 15
  let s1 := if cap ≤ 30000 then onPwr (fun p => { p with capW := BitVec.ofNat 15 cap }) s else s
  match bitsAt v 0 3 with
  | 0 => afterCmd (execPstateP0 s1) s1
  | 1 => afterCmd (execPstateP1 s1) s1
  | 2 => afterCmd (execPstateP2 s1) s1
  | 3 => afterCmd (execPstateP3 s1) s1
  | _ => pstateRefused s1
/-- PWR_ (R597). -/
def pwrBlockPut (off : Nat) (v : Word) (s : State) : State :=
  if off = 0 then pwrCtrlPut v s
  else if off = 8 then onPwr (fun p => { p with pstateErr := p.pstateErr && !v.getLsbD 6 }) s
  else if off = 0x20 then (if v.getLsbD 48 then afterCmd (execRecal false s) s else s)
  else if off = 0x28 then
    onPwr (fun p => { p with down := satW1C p.down (v.getLsbD 16), overFr := satW1C p.overFr (v.getLsbD 48) }) s
  else if 0x100 ≤ off ∧ off < 0x100 + 32 * 48 ∧ off / 8 % 4 = 1 then
    zoneUpd ((off - 0x100) / 32) (fun z => { z with minValid := z.minValid && !v.getLsbD 23 }) s
  else s

/-- CLK_ (R598). -/
def clkBlockPut (off : Nat) (v : Word) (s : State) : State :=
  if off = 0 then afterCmd (execFrequencyStep (v.setWidth 4) s) s
  else if off = 0x18 then
    onClk (fun c => { c with slip := satW1C c.slip (v.getLsbD 16), slipValid := c.slipValid && !v.getLsbD 33 }) s
  else s

/-- DBG_CTRL (R611, R622). -/
def dbgBlockPut (off : Nat) (v : Word) (s : State) : State :=
  if off = 0 then
    let s1 := onSvc (fun d => { d with hazStop := v.getLsbD 1, pinEn := v.getLsbD 3, traceEn := v.getLsbD 4 }) s
    let s2 := afterCmd (execHazEn (v.getLsbD 0) s1) s1
    if v.getLsbD 2 then afterCmd (execFrzReq s2) s2 else s2
  else s

/-- A write of a page geometry entry, ignored while EN of its pipeline is 1 in the home engine (R381). -/
def geomPut (q : Nat) (v : Word) (s : State) : State :=
  if (homePipe s q).en then s else { s with geom := sset geomReset s.geom q (v &&& 0x3FFFFFFF) }

/-- A write in the service die's window, by an agent. -/
def svcWrite (agent aepoch : BitVec 16) (off : Nat) (v : Word) (s : State) : State :=
  if off < 0x20000 then svcBlockPut off v s
  else if off < 0x30000 then calBlockPut (off - 0x20000) v s
  else if off < 0x40000 then plcBlockPut (off - 0x30000) v s
  else if off < 0x50000 then (if off = 0x40008 then onCg (fun c => { c with ovf := c.ovf && !v.getLsbD 63 }) s else s)
  else if off < 0x60000 then secBlockPut (off - 0x50000) v s
  else if off < 0x70000 then fltBlockPut (off - 0x60000) v s
  else if off < 0x80000 then pwrBlockPut (off - 0x70000) v s
  else if off < 0x90000 then clkBlockPut (off - 0x80000) v s
  else if off < 0xA0000 then dbgBlockPut (off - 0x90000) v s
  else if 0x800000 ≤ off ∧ off < 0x800800 then geomPut ((off - 0x800000) / 8) v s
  else if 0x900000 ≤ off ∧ off < 0x901000 then
    (if off / 8 % 2 = 1 then lockOp agent aepoch ((off - 0x900000) / 16) (bitsAt v 0 2) s else s)
  else if off = 0xA00008 then
    onPod (fun p => { p with fences := satW1C p.fences (v.getLsbD 32), takeovers := satW1C p.takeovers (v.getLsbD 32) }) s
  else if 0xA10000 ≤ off ∧ off < 0xA11000 then
    afterCmd (execMemberTableWrite false (BitVec.ofNat 7 ((off - 0xA10000) / 32)) (BitVec.ofNat 2 (off / 8)) v s) s
  else if 0xA20000 ≤ off ∧ off < 0xA21000 then
    afterCmd (execMemberTableWrite true (BitVec.ofNat 7 ((off - 0xA20000) / 32)) (BitVec.ofNat 2 (off / 8)) v s) s
  else s

/-! ### Engines, link dies, memory dies and tiles -/

/-- A write of a queue's registers; BASE is kept while EN is 1 (R375). -/
def sqWrite (n q r : Nat) (v : Word) (s : State) : State :=
  match r with
  | 0 => engUpd n (fun e => if (sqAt e q).en then e else sqPut q { sqAt e q with base := v.setWidth 48 } e) s
  | 1 => sqCfgPut n q v s
  | 3 => tailPut n q (bitsAt v 0 16) s
  | _ => s
/-- A write of a pipeline's registers, live in its home engine only (R373, R376). -/
def pipeWrite (n q r : Nat) (v : Word) (s : State) : State :=
  if homeEng s q ≠ some n then s
  else match r with
    | 0 => pipeCfgPut n q v s
    | 1 => tmapPut n q false v s
    | 2 => tmapPut n q true v s
    | 3 => pipeUpd q (fun p => { p with limw := v.setWidth 60 }) s
    | 4 => pipeUpd q (fun p => { p with limd := v.setWidth 60 }) s
    | 5 => pipeUpd q (fun p => { p with cap := v.setWidth 60 }) s
    | 7 => pipeUpd q (fun p => { p with preempts := satW1C p.preempts (v.getLsbD 48) }) s
    | _ => s
/-- A write in engine n's window (R373-R376). -/
def engWrite (n off : Nat) (v : Word) (s : State) : State :=
  if off = 0 then engUpd n (fun e => { e with admitEn := v.getLsbD 0 }) s
  else if off = 0x10 then engUpd n (fun e => { e with errValid := e.errValid && !v.getLsbD 22 }) s
  else if off = 0x18 then
    engUpd n (fun e => { e with failed := satW1C e.failed (v.getLsbD 16), cancels := satW1C e.cancels (v.getLsbD 48) }) s
  else if 0x100 ≤ off ∧ off < 0x900 then sqWrite n ((off - 0x100) / 32) (off / 8 % 4) v s
  else if 0x1000 ≤ off ∧ off < 0x5000 then pipeWrite n ((off - 0x1000) / 64) (off / 8 % 8) v s
  else s

/-- A write of LNK_PORTp_CFG: EN = 0 takes every sub-port down, APPLY starts a mode change (R474, R500). -/
def portCfgPut (n p : Nat) (v : Word) (s : State) : State :=
  let s1 := portUpd n p (fun x =>
    { x with mode := v.setWidth 2, en := v.getLsbD 3, anEn := v.getLsbD 4, pfcEn := v.getLsbD 5, ecnEn := v.getLsbD 6 }) s
  let s2 := if v.getLsbD 3 then s1 else portsDown n (portDown p) s1
  if v.getLsbD 2 then modeApply n p s2 else s2
/-- A write of an address register of a sub-port (R500). -/
def subPut (k r : Nat) (v : Word) (d : LinkDie) : LinkDie :=
  let x := subAt d k
  let y : Sub := match r with
    | 0 => { x with mac := some (v.setWidth 48) }
    | 1 => { x with ip4 := v.setWidth 32 }
    | 2 => { x with ip6h := v }
    | _ => { x with ip6l := v }
  { d with subs := sset Sub.none d.subs k y }
/-- A write in link die n's window (R498-R500). -/
def lnkWrite (n off : Nat) (v : Word) (s : State) : State :=
  if off = 0 then
    linkUpd n (fun d =>
      { d with udpPort := v.setWidth 16, hbUs := BitVec.ofNat 8 (bitsAt v 16 8), rtoUs := BitVec.ofNat 8 (bitsAt v 24 8),
               dataPcp := BitVec.ofNat 3 (bitsAt v 32 3), dataDscp := BitVec.ofNat 6 (bitsAt v 35 6), vid := BitVec.ofNat 12 (bitsAt v 41 12) }) s
  else if off = 8 then linkUpd n (fun d => { d with stale := satW1C d.stale (v.getLsbD 48), auth := satW1C d.auth (v.getLsbD 49) }) s
  else if off = 0x10 then
    linkUpd n (fun d => { d with retx := satW1C d.retx (v.getLsbD 48), timeout := satW1C d.timeout (v.getLsbD 49),
                                 other := satW1C d.other (v.getLsbD 50) }) s
  else if off = 0x18 then
    linkUpd n (fun d => { d with ptpEn := v.getLsbD 0, ptpGm := v.getLsbD 1, ptpSub := BitVec.ofNat 5 (bitsAt v 2 5),
                                 ptpTwoStep := v.getLsbD 7, ptpP2p := v.getLsbD 8 }) s
  else if off = 0x28 then linkUpd n (fun d => { d with late := satW1C d.late (v.getLsbD 32), nocred := satW1C d.nocred (v.getLsbD 33) }) s
  else if 0x40 ≤ off ∧ off < 0x70 ∧ off / 8 % 2 = 0 then portCfgPut n ((off - 0x40) / 16) v s
  else if 0x80 ≤ off ∧ off < 0x98 then
    portUpd n ((off - 0x80) / 8) (fun p => { p with uncorr := satW1C p.uncorr (v.getLsbD 48) }) s
  else if 0x100 ≤ off ∧ off < 0x400 then linkUpd n (subPut ((off - 0x100) / 32) (off / 8 % 4) v) s
  else s

/-- A write in memory die n's window (R456, R469-R471): a BULK_BW above 288 and shares above 64,944 in all are ignored. -/
def mifWrite (n off : Nat) (v : Word) (s : State) : State :=
  let d := mdAt s n
  if off = 0 then
    mdPut s n { d with scrubEn := v.getLsbD 0, scrubHrs := BitVec.ofNat 8 (bitsAt v 8 8),
                       bulkBw := if bitsAt v 16 9 ≤ 288 then BitVec.ofNat 9 (bitsAt v 16 9) else d.bulkBw }
  else if off = 0x10 then mdPut s n { d with ce := satW1C d.ce (v.getLsbD 16), ue := satW1C d.ue (v.getLsbD 48) }
  else if off = 0x18 then mdPut s n { d with eccValid := d.eccValid && !v.getLsbD 44 }
  else if off = 0x20 then mdPut s n { d with tag := satW1C d.tag (v.getLsbD 16) }
  else if off = 0x28 then
    (if bitsAt v 0 16 + bitsAt v 16 16 + bitsAt v 32 16 ≤ 64944 then
      mdPut s n { d with libMax := v.setWidth 16, cacheMax := BitVec.ofNat 16 (bitsAt v 16 16), hostMax := BitVec.ofNat 16 (bitsAt v 32 16) }
    else s)
  else if 0x100000 ≤ off ∧ off < 0x140000 then
    let e := (off - 0x100000) / 4
    extentPut n (e + 1) ((v >>> (32 : Nat)).setWidth 32) (extentPut n e (v.setWidth 32) s)
  else s

/-- A word write in a tile's window; a store of R248 takes one only at D3, otherwise it is discarded and recorded (R28, R262, R538). -/
def tileWrite (d3 : Bool) (site off : Nat) (v : Word) (s : State) : State :=
  let t := tileAt s site
  if off < 0x800000 then tilePut s site { t with pad := padPut t.pad (off / 8) ⟨v, false⟩ }
  else if isStore off then
    (if d3 then tilePut s site (storeWrite off v t) else addrErr s site (BitVec.ofNat 64 (0x100000000000 + 0x1000000 * site + off)))
  else if off = 0x804030 then lathStatWrite site v s
  else tilePut s site (tileRegWrite off v t)

/-! ### The global address space (R41, R42) -/

/-- Whether a tile's window answers: the tile is not fenced and has power (R42, R540). -/
def tileThere (s : State) (site : Nat) : Bool := !isFenced s site && decide (s.pwr.act.toNat < 3) && !s.pwr.hot

/-- What a global address names. -/
inductive RegAt where
  | dram (w : Nat)
  | tile (site off : Nat)
  | svc (off : Nat)
  | eng (n off : Nat)
  | lnk (n off : Nat)
  | mif (n off : Nat)
  | none
deriving DecidableEq, Repr

/-- The window and offset of an address (R41). -/
def regAddr (a : Nat) : RegAt :=
  let hi := a / 2 ^ 40
  let n := a / 2 ^ 24 % 2 ^ 16
  let off := a % 2 ^ 24
  if a < 2 ^ 43 then .dram (a / 8)
  else if hi = 0x10 then (if n < 8064 then .tile n off else .none)
  else if hi = 0x20 then (if n = 0 then .svc off else .none)
  else if hi = 0x21 then (if n < 16 then .eng n off else .none)
  else if hi = 0x22 then (if n < 16 then .lnk n off else .none)
  else if hi = 0x23 then (if n < 16 then .mif n off else .none)
  else .none

/-- The word at an address; none where nothing is mapped. A read corrects and counts check bits, and clears PIN_PEAK; of a frozen module
it changes nothing in tiles and module DRAM (R29, R42, R451, R597, R615). -/
def regGet (a : Nat) (s : State) : Option RWord × State :=
  let ok (o : Option Word) : Option RWord := o.map (fun w => ⟨w, false⟩)
  let still := fun (t : State) => if s.svc.frz = 2 then s else t
  match regAddr a with
  | .dram w => let r := dramRead s w; (some r.1, still r.2)
  | .tile z off =>
    if !tileThere s z then (none, s)
    else if off < 0x800000 then
      let t := tileAt s z
      let r := bankRead z t.pad (off / 8)
      (some r.2.1, still (r.2.2.foldl (putOut z) (tilePut s z { t with pad := r.1 })))
    else (tileRegRead s z off, s)
  | .svc off =>
    (ok (svcRead s off), if off = 0x70010 then onPwr (fun p => { p with pinPeak := 0 }) s else s)
  | .eng n off => (ok (engRead s n off), s)
  | .lnk n off => (ok (lnkRead s n off), s)
  | .mif n off => (ok (mifRead s n off), s)
  | .none => (none, s)

/-- Write the word at an address, by an agent; `d3` when the level lets refused writes be performed. A write where nothing is mapped
is discarded and recorded; tiles of a frozen module take none (R42, R613). -/
def regPut (d3 : Bool) (agent aepoch : BitVec 16) (a : Nat) (v : Word) (s : State) : State :=
  let lost := addrErr s svcNode (BitVec.ofNat 64 a)
  match regAddr a with
  | .dram w => dramWrite s w v
  | .tile z off =>
    if !tileThere s z then lost
    else if gridStopped s then s
    else if off < 0x800000 ∨ (tileRegRead s z off).isSome then tileWrite d3 z off v s else lost
  | .svc off => if (svcRead s off).isSome then svcWrite agent aepoch off v s else lost
  | .eng n off => if (engRead s n off).isSome then engWrite n off v s else lost
  | .lnk n off => if (lnkRead s n off).isSome then lnkWrite n off v s else lost
  | .mif n off => if (mifRead s n off).isSome then mifWrite n off v s else lost
  | .none => lost

end Sys2Proof.Machine
end

