-- ==== Sys2Proof/Machine/Registers.lean ====
section
/-! DEFINITION. Register access by verbs and by lath messages: REG_RD, REG_WR, the register write, CFG_WR, CFG_RD and CFG_RSP (R11,
R42, R262, R263, R487, R536-R539, R615). -/

namespace Sys2Proof.Machine

/-! ### What the security state allows (R536-R539) -/

/-- Whether a scratchpad word of a tile is masked: its line lies outside the resident windows, or in an adapter slot (R539). -/
def padMasked (s : State) (site line : Nat) : Bool :=
  !inResidentWin (tileAt s site).pad line ||
    (match s.load.img with
    | none => false
    | some i => i.models.any (fun m => (List.range (adSlots s m.m)).any (fun a => (adReserved s i m.m a).contains (site, line))))
/-- Whether a word of a freeze window is masked: control-core g registers, finish-unit registers, dense-array accumulators and buffers,
and the payloads of flits (R539, R616). -/
def freezeMasked (off : Nat) : Bool :=
  decide (off < 0x100) || (decide (0x1000 ≤ off) && decide (off < 0x31008)) ||
    (decide (0x41000 ≤ off) && decide (off < 0x42000) && decide ((off - 0x41000) % 144 < 128))
/-- Whether the word at an address is in the masked set of R539. -/
def regMasked (s : State) (a : Nat) : Bool :=
  match regAddr a with
  | .dram w =>
    let c := extClass (extAt (mdAt s (dramDie (8 * w))) (dramExt (8 * w)))
    decide (dramExt (8 * w) < 528) || c == 3 || c == 4
  | .tile z off => if off < 0x800000 then padMasked s z (off / 128) else decide (0xF00000 ≤ off) && freezeMasked (off - 0xF00000)
  | _ => false

/-- Whether an address lies in a freeze window, whose read-out needs D2 (R538, R616). -/
def inFreeze (a : Nat) : Bool := match regAddr a with | .tile _ off => decide (0xF00000 ≤ off) | _ => false
/-- Whether an operator may read the word at an address: in PRODUCTION all but the masked set, in RETIRED SEC_, FLT_, DBG_ and the
good-tile map (R536); a freeze window from D2 on. -/
def mayRead (s : State) (a : Nat) : Bool :=
  (decide (2 ≤ s.sec.level.toNat) || !inFreeze a || s.svc.frz != 2) && match s.sec.lc.toNat with
  | 2 => !regMasked s a || secSealed s.sec
  | 3 => match regAddr a with
    | .svc off => (decide (0x50000 ≤ off) && decide (off < 0x70000)) || (decide (0x90000 ≤ off) && decide (off < 0xA0000)) ||
        (decide (0x100000 ≤ off) && decide (off < 0x200000))
    | _ => false
  | _ => true
/-- Whether an operator may write the word at an address (R536); at D3 every write is performed (R538). -/
def regMayWrite (s : State) (a : Nat) : Bool :=
  let inR := fun (off lo hi : Nat) => decide (lo ≤ off) && decide (off < hi)
  s.sec.level == 3 || match s.sec.lc.toNat with
  | 2 => match regAddr a with
    | .svc off => decide (off < 0x1000) || off == 0x20000 || off == 0x30000 || inR off 0x50000 0x60000 || inR off 0x70000 0xA0000 ||
        inR off 0x800000 0x800800 || inR off 0x900000 0x901000 || inR off 0xA10000 0xA11000 || inR off 0xA20000 0xA21000
    | .eng _ off => decide (off < 0x100000)
    | .lnk _ _ => true
    | .mif _ off => off == 0 || off == 0x28 || inR off 0x100000 0x140000
    | _ => false
  | 3 => match regAddr a with
    | .svc off => inR off 0x50000 0x60000 || inR off 0x90000 0xA0000
    | _ => false
  | _ => true

/-! ### Reads with tags (R42, R615) -/

/-- A word as REG_RD and CFG_RD read it: the word, its tag 0 valid, 1 poisoned, 2 masked, 3 unavailable, and whether it is mapped. -/
def regTagged (a : Nat) (s : State) : (RWord × Nat × Bool) × State :=
  let away := match regAddr a with | .tile z _ => !tileThere s z | _ => false
  if away then ((RWord.zero, 3, false), s)
  else if secSealed s.sec && regMasked s a then ((RWord.zero, 2, true), s)
  else
    let r := regGet a s
    match r.1 with
    | some w => ((w, b1 w.poison, true), r.2)
    | none => ((RWord.zero, 0, false), r.2)
/-- n words from an address on. -/
def regReads (a n : Nat) (s : State) : List (RWord × Nat × Bool) × State :=
  (List.range n).foldl (fun (acc : List (RWord × Nat × Bool) × State) i =>
    let r := regTagged (a + 8 * i) acc.2
    (acc.1 ++ [r.1], r.2)) ([], s)
/-- The tags of an answer: carried while the module is FROZEN and while reads are sealed. -/
def tagsOf (s : State) (l : List (RWord × Nat × Bool)) : List Nat :=
  if s.svc.frz = 2 ∨ secSealed s.sec then l.map (fun x => x.2.1) else []
/-- The words without a mapping are recorded as address errors. -/
def readErrs (a : Nat) (l : List (RWord × Nat × Bool)) (s : State) : State :=
  ((List.range l.length).zip l).foldl (fun (acc : State) (ix : Nat × RWord × Nat × Bool) =>
    if ix.2.2.2 then acc else addrErr acc svcNode (BitVec.ofNat 64 (a + 8 * ix.1))) s

/-! ### Verbs (R487, R488, R536) -/

/-- The refusal of a register verb: DENIED but for an operator, BAD off the form, BUSY during recovery but for a link die's registers,
DENIED for an address that the state refuses (R487, R488, R496, R536). -/
def regGate (s : State) (sess : Option SessId) (a n : Nat) (may : Nat → Bool) : Option Nat :=
  let kind := match sess with
    | none => some 1
    | some i => (sessAt s i.toNat).map (fun x => x.kind.toNat)
  let linkOnly := match regAddr a, regAddr (a + 8 * (n - 1)) with
    | .lnk x _, .lnk y _ => x == y
    | _, _ => false
  if kind ≠ some 1 then some 2
  else if a % 8 ≠ 0 ∨ n = 0 ∨ 512 < n ∨ 2 ^ 48 < a + 8 * n then some 1
  else if s.svc.warming ∧ !linkOnly then some 3
  else if (List.range n).all (fun i => may (a + 8 * i)) then none
  else some 2

/-- REG_RD: the answer carries the words; one that lies on no register makes it BAD and reads as 0 (R42, R487, R615). -/
def execRegRd (sess : Option SessId) (addr : BitVec 48) (n : BitVec 32) (s : State) : Host.Outcome State Fault Refusal :=
  .next (gated (regGate s sess addr.toNat n.toNat (mayRead s)) s (
    let r := regReads addr.toNat n.toNat s
    let bad := r.1.any (fun x => !x.2.2)
    let s1 := readErrs addr.toNat r.1 r.2
    latch s1 ⟨b1 bad, r.1.map Prod.fst, tagsOf s r.1⟩))

/-- The agent and agent epoch of a command: those of the session that carries it, 0 and 0 for the management port (R415). -/
def cmdAgent (s : State) (sess : Option SessId) : BitVec 16 × BitVec 16 :=
  match sess.bind (fun i => sessAt s i.toNat) with
  | some x => (x.agent, x.aepoch)
  | none => (0, 0)

/-- REG_WR: the words are written in address order (R487). -/
def execRegWr (sess : Option SessId) (addr : BitVec 48) (data : List Word) (s : State) : Host.Outcome State Fault Refusal :=
  let ag := cmdAgent s sess
  .next (gated (regGate s sess addr.toNat data.length (regMayWrite s)) s (
    answerCode (((List.range data.length).zip data).foldl (fun (acc : State) (iv : Nat × Word) =>
      regPut (s.sec.level == 3) ag.1 ag.2 (addr.toNat + 8 * iv.1) iv.2 acc) s) 0))

/-- REGISTER_WRITE: a word written at a register's address acts on every field by its access type; an address off the 8-byte grid is
unmapped (R11, R42, R633). -/
def execRegisterWrite (addr : BitVec 48) (v : Word) (s : State) : Host.Outcome State Fault Refusal :=
  .next (if addr.toNat % 8 ≠ 0 then addrErr s svcNode (addr.setWidth 64) else regPut (s.sec.level == 3) 0 0 addr.toNat v s)

/-! ### Configuration messages (R262, R263) -/

/-- The base of a node's window. -/
def nodeWindow (node : Nat) : Nat :=
  if node < 8064 then 0x100000000000 + 0x1000000 * node
  else if node < 8080 then 0x220000000000 + 0x1000000 * (node - 8064)
  else if node < 8096 then 0x230000000000 + 0x1000000 * (node - 8080)
  else 0x200000000000

/-- Whether a node applies a message with a select tag: a tile only where one of its select tags equals it (R262). -/
def selects (s : State) (node : Nat) (sel : BitVec 16) : Bool :=
  sel == 0 || decide (8064 ≤ node) || (List.range 4).any (fun i => sget 0 (tileAt s node).seq.selTags i == sel)

/-- CFG_WR: a node takes configuration words, into the shadow state of their group or at once; a message off the form is discarded and
recorded (R262, R405). -/
def execCfgWr (a : CfgArgs) (s0 : State) : Host.Outcome State Fault Refusal :=
  let s := lathDone svcNode 0x20 s0
  let node := a.node.val
  let n := a.data.length
  let off := a.off.toNat
  if !selects s node a.sel then .next s
  else if off % 8 ≠ 0 ∨ n = 0 ∨ 5 < n ∨ 2 ^ 24 < off + 8 * n then .next (addrErr s node (BitVec.ofNat 64 (nodeWindow node + off)))
  else
    let words := (List.range n).zip a.data
    if a.shadow then
      .next (onCg (fun c => words.foldl (fun (acc : Cg) (iv : Nat × Word) =>
        shadowWrite node a.cgid (.word node (off + 8 * iv.1) iv.2) acc) c) s)
    else
      .next (words.foldl (fun (acc : State) (iv : Nat × Word) =>
        regPut (s.sec.level == 3) 0 0 (nodeWindow node + off + 8 * iv.1) iv.2 acc) s)

/-- The STATUS of a configuration read (R263). -/
def cfgStatus (l : List (RWord × Nat × Bool)) : Nat :=
  if l.any (fun x => !x.2.2) then 1 else if l.any (fun x => x.1.poison) then 3 else 0

/-- CFG_RD: a node reads configuration words and sends CFG_RSP to the service die; with STATUS 1 or 2 it carries no data (R263). -/
def execCfgRd (node : Node) (off : BitVec 24) (count : Byte) (tag : BitVec 16) (s0 : State) : Host.Outcome State Fault Refusal :=
  let s := lathDone svcNode 0x21 s0
  let a := nodeWindow node.val + off.toNat
  let n := count.toNat
  let form : Bool := decide (off.toNat % 8 = 0) && decide (1 ≤ n) && decide (n ≤ 5) && decide (off.toNat + 8 * n ≤ 2 ^ 24)
  let refused : Bool := form && !(List.range n).all (fun i => mayRead s (a + 8 * i))
  let r := if form && !refused then regReads a n s else ([], s)
  let st := if !form then 1 else if refused then 2 else cfgStatus r.1
  let ws := if st = 1 ∨ st = 2 then [] else r.1.map Prod.fst
  let s1 := if refused then r.2 else if form then readErrs a r.1 r.2 else addrErr r.2 node (BitVec.ofNat 64 a)
  let bytes := leBytes 2 tag.toNat ++ [BitVec.ofNat 8 st, 0, 0, 0, 0, 0] ++ wordBytes (bitsOf ws)
  let s2 := lathSend node.val (lathMsg svcNode 0 node.val 3 0x22 (lathNode s node.val).epoch bytes) s1
  .next (latch s2 ⟨st, ws, if ws.isEmpty then [] else tagsOf s r.1⟩)

/-- CFG_RSP: a reply reaches its requester, which has its status and words (R263). -/
def execCfgRsp (tag : BitVec 16) (status : Byte) (words : List Word) (s : State) : Host.Outcome State Fault Refusal :=
  let hit := fun (bs : List Byte) => msgType bs == 0x22 && leNat ((bs.drop 8).take 2) == tag.toNat
  let s1 := onLath (fun l => { l with sent := l.sent.eraseP (fun m => hit m.bytes), inbox := l.inbox.eraseP (fun m => hit m.2) }) s
  .next (answer s1 status.toNat (words.map (fun w => ⟨w, status == 3⟩)))

end Sys2Proof.Machine
end

