-- ==== Sys2Proof/Machine/Boards.lean ====
section
/-! DEFINITION. The test access port, the indicator drives and the pulse per second (R617, R624-R627). -/

namespace Sys2Proof.Machine

/-! ### The test access port (R615, R617) -/

/-- A number's bits, lowest first. -/
def bitsLow (n v : Nat) : List Bool := (List.range n).map v.testBit
/-- An instruction of the port, performed while TEST_EN is 1. -/
def tapDo (ir : TapIr) (out : List Bool) (f : Svc → Svc) (s : State) : State :=
  if strapTest s then onSvc (fun v => f { v with tapIr := ir, tapOut := out }) s else s

/-- IDCODE: 0x1009_64B7, lowest bit first. -/
def execIdcode (s : State) : Host.Outcome State Fault Refusal := .next (tapDo .idcode (bitsLow 32 0x100964B7) id s)
/-- BYPASS: the one-bit register gives 0, then TDI (IEEE 1149.1). -/
def execBypass (tdi : Bool) (s : State) : Host.Outcome State Fault Refusal := .next (tapDo .bypass [false, tdi] id s)
/-- The boundary cells as a scan captures them. -/
def captured (s : State) (n : Nat) : List Bool := (List.range n).map (Config.boundary s.draws)
/-- SAMPLE_PRELOAD: the cells are captured and shifted out while the new ones are shifted in. -/
def execSamplePreload (bits : List Bool) (s : State) : Host.Outcome State Fault Refusal :=
  .next (if strapTest s then
    tapDo .samplePreload (captured s bits.length) (fun v => { v with bsr := bits }) { s with draws := s.draws + 1 } else s)
/-- EXTEST: the preloaded cells drive the pins, in FACTORY, OPEN or at D3 only. -/
def execExtest (s : State) : Host.Outcome State Fault Refusal :=
  .next (if strapTest s ∧ (s.sec.lc.toNat ≤ 1 ∨ s.sec.level = 3) then
    tapDo .extest (captured s s.svc.bsr.length) id { s with draws := s.draws + 1 } else s)
/-- FRZ_SEL: the address of the word to be read is loaded. -/
def execFrzSel (addr : BitVec 48) (s : State) : Host.Outcome State Fault Refusal :=
  .next (tapDo .frzSel [] (fun v => { v with tapSel := addr }) s)
/-- The word and tag that FRZ_DATA shifts out: those of R615, masked where the state refuses the read, and unavailable outside a
freeze. -/
def frzWord (s : State) : Word × Nat :=
  let a := s.svc.tapSel.toNat
  if s.svc.frz ≠ 2 then (0, 3)
  else if a % 8 ≠ 0 then (0, 3)
  else if !mayRead s a then (0, 2)
  else let r := (regTagged a s).1; (r.1.bits, r.2.1)
/-- FRZ_DATA: 66 bits, the word and then its tag, lowest bit first; the address advances by 8. -/
def execFrzData (s : State) : Host.Outcome State Fault Refusal :=
  let w := frzWord s
  .next (tapDo .frzData (bitsLow 64 w.1.toNat ++ bitsLow 2 w.2) (fun v => { v with tapSel := v.tapSel + 8 }) s)

/-! ### Indicator drives (R625-R627) -/

/-- The function of LEDn: LED0 while STAGE is 10, LED1 while ALERT_N is asserted, LED3 for 50 ms after a ring record (R627). -/
def ledFn (s : State) (n : Nat) : Bool :=
  if n = 0 then s.svc.stage == 10 else if n = 1 then alertOn s else if n = 3 then decide (s.time < s.svc.led3Until) else false
/-- One period of the driver: a pulse of 10 µs or more is diagnosed, 0 OK, 1 OPEN, 2 SHORT; DIAG follows two that agree, and is UNKNOWN
once 256 periods pass without one (R625, R626). -/
def ledStep (lit : Bool) (current50 atSetting over3 : Bool) (l : Led) : Led :=
  let ph := (l.phase + 1) % 256
  let judged : Bool := lit && (decide (3 ≤ l.duty.toNat) || (l.stretch && ph == 0))
  let r : BitVec 2 := if current50 then 1 else if atSetting ∧ over3 then 2 else 0
  if judged then { l with phase := ph, since := 0, lastDiag := some r, diag := if l.lastDiag = some r then r else l.diag }
  else { l with phase := ph, since := min 256 (l.since + 1), diag := if 256 ≤ l.since + 1 then 3 else l.diag }
/-- LED_PERIOD: 1 ms of LEDn, with what the driver sees 10 µs into its pulse: the sink current below 50 % of its setting, at its setting,
and the pin above 3.0 V (R625-R627). -/
def execLedPeriod (n : Fin 4) (current50 atSetting over3 : Bool) (s : State) : Host.Outcome State Fault Refusal :=
  let l := ledAt s n
  .next (onSvc (fun v => { v with leds := sset Led.reset v.leds n (ledStep (!l.fn || ledFn s n) current50 atSetting over3 l) }) s)

/-- PPS_OUT: a pulse rises at each second of module time (R624). -/
def execPpsOut (s : State) : Host.Outcome State Fault Refusal := .next (onSvc (fun v => { v with pps := (moduleNs s).toNat / 1000000000 }) s)

end Sys2Proof.Machine
end

