-- ==== Sys2Proof/Machine/TileCc.lean ====
section
/-! DEFINITION. What each control-core instruction does to its tile (R274-R285, R35, R36). -/

namespace Sys2Proof.Machine

/-! ### Integer results (R279, R280) -/

/-- The sign-extended immediate of the I format. -/
def sext12 (i : BitVec 12) : Word := i.signExtend 64
/-- The number of leading zeros, 64 for zero (R280). -/
def clz64 (a : Word) : Word := if a = 0 then 64 else BitVec.ofNat 64 (63 - a.toNat.log2)
/-- The number of set bits. -/
def popc64 (a : Word) : Word := BitVec.ofNat 64 ((List.range 64).countP (fun i => a.getLsbD i))
/-- Bits [127:64] of the unsigned product (R280). -/
def mulhu (a b : Word) : Word := BitVec.ofNat 64 (a.toNat * b.toNat / 2 ^ 64)
/-- Bits [127:64] of the signed product (R280). -/
def mulhs (a b : Word) : Word := BitVec.ofInt 64 (a.toInt * b.toInt / 2 ^ 64)
/-- The result of a DIVU or REMU; a zero divisor gives all ones, or the dividend (R280). -/
def divResult (rem : Bool) (a b : Word) : Word :=
  if rem then (if b = 0 then a else a % b) else (if b = 0 then BitVec.allOnes 64 else a / b)

/-- A register-register ALU instruction. -/
def ccAlu (f : Word → Word → Word) (lat : Nat) (site x : Nat) (guard : BitVec 4) (rd ra rb : BitVec 5) (t : Tile) :
    Tile × List TOut :=
  ccIssue site x guard [ra, rb] [rd] (fun t => ccResult x lat rd (f (gVal t.cc ra) (gVal t.cc rb)) t) t

/-- An ALU instruction that reads g(ra) only: CLZ and POPC take one operand (DEDUCED: their operation names no second
source, so the mark of g(rb) raises no fault). -/
def ccAlu1 (f : Word → Word) (site x : Nat) (guard : BitVec 4) (rd ra : BitVec 5) (t : Tile) : Tile × List TOut :=
  ccIssue site x guard [ra] [rd] (fun t => ccResult x 1 rd (f (gVal t.cc ra)) t) t

/-- A register-immediate instruction. -/
def ccImm (f : Word → Word) (site x : Nat) (guard : BitVec 4) (rd ra : BitVec 5) (t : Tile) : Tile × List TOut :=
  ccAlu1 f site x guard rd ra t

/-- DIVU and REMU start an unpipelined division of 24 tc and stall behind one in progress (R279, R281). -/
def ccDiv (rem : Bool) (site x : Nat) (guard : BitVec 4) (rd ra rb : BitVec 5) (t : Tile) : Tile × List TOut :=
  ccIssue site x guard [ra, rb] [rd] (fun t =>
    match t.cc.div with
    | some _ => (t, [])
    | none =>
      ({ t with cc := ccNext { t.cc with div := some ⟨rem, rd, gVal t.cc ra, gVal t.cc rb, x + 24⟩ } x }, [])) t

/-- A division completes 24 tc after its issue: the result is written, and a zero divisor raises DZ (R275, R280). -/
def ccDivDone (site x : Nat) (t : Tile) : Tile × List TOut :=
  let r := tileSync site x t
  match r.1.cc.div with
  | none => r
  | some d =>
    if d.due ≤ x then
      let c := gSet r.1.cc d.rd (divResult d.rem d.a d.b)
      let f := if d.b = 0 then flagRaise c.fcc d.due flDZ else c.fcc
      ({ r.1 with cc := { c with div := none, fcc := f } }, r.2)
    else r

/-! ### Predicates -/

/-- CMP: p(rd[2:0]) := g(ra) cond g(rb) (R279). -/
def ccCmp (f : Word → Word → Bool) (site x : Nat) (guard : BitVec 4) (pd : BitVec 3) (ra rb : BitVec 5) (t : Tile) :
    Tile × List TOut :=
  ccIssue site x guard [ra, rb] [] (fun t => ccPred x pd (f (gVal t.cc ra) (gVal t.cc rb)) t) t

/-- CMPI: p(rd[2:0]) := g(ra) cond sext(imm12) (R279). -/
def ccCmpi (f : Word → Bool) (site x : Nat) (guard : BitVec 4) (pd : BitVec 3) (ra : BitVec 5) (t : Tile) :
    Tile × List TOut :=
  ccIssue site x guard [ra] [] (fun t => ccPred x pd (f (gVal t.cc ra)) t) t

/-- The logical operations of PLOG (R279): 0 AND, 1 OR, 2 XOR, 3 ANDN. -/
def plog (op : BitVec 2) (a b : Bool) : Bool :=
  if op = 0 then a && b else if op = 1 then a || b else if op = 2 then a != b else a && !b

/-! ### Memory (R35, R36, R282) -/

/-- The effective address of LD and ST. -/
def effAddr (c : CCore) (ra : BitVec 5) (imm : BitVec 12) : Word := gVal c ra + sext12 imm * 8

/-- The range and alignment checks of LD and ST: the word index, or the cause of the fault (R282). -/
def addrCheck (a : Word) : CcCause ⊕ Nat :=
  if 0x800000 ≤ a.toNat then .inl .address else if a.toNat % 8 ≠ 0 then .inl .misalign else .inr (a.toNat / 8)

/-- The data of the newest queued store of a word (R36). -/
def storeMatch (p : Pad) (w : Nat) : Option Word :=
  (p.storeQ.reverse.find? (fun e => e.2.1 == w)).map (fun e => e.2.2)

/-- LD issues a load; its data comes at its bank read and is usable 5 tc after the issue (R35, R282). -/
def ccLd (site x : Nat) (guard : BitVec 4) (rd ra : BitVec 5) (imm : BitVec 12) (t : Tile) : Tile × List TOut :=
  ccIssue site x guard [ra] [rd] (fun t =>
    match addrCheck (effAddr t.cc ra imm) with
    | .inl k => ccFault site t k
    | .inr w =>
      let l : LoadOp := ⟨rd, w, x, storeMatch t.pad w⟩
      ({ t with cc := ccNext { t.cc with loads := t.cc.loads ++ [l], rdy := sset 0 t.cc.rdy rd.toNat (x + 5) } x },
        [])) t

/-- The oldest load in flight reaches its bank in the first odd cycle at or after its issue + 2. The read has its
check-bit events; the load returns the data of the newest matching store of its issue, or the word read with its
mark (R30, R35, R36). -/
def ccLoadRead (site x : Nat) (t : Tile) : Tile × List TOut :=
  let r := tileSync site x t
  match r.1.cc.loads with
  | [] => r
  | l :: rest =>
    if x % 2 = 1 ∧ l.issued + 2 ≤ x then
      let ln := BitVec.ofNat 16 (l.word / 16)
      let p := if sameWord r.1.pad x ln (1 <<< (l.word % 16)) then padHaz r.1.pad 5 x 0 else r.1.pad
      let b := bankRead site p l.word
      let w := match l.fwd with | some v => (⟨v, false⟩ : RWord) | none => b.2.1
      ({ r.1 with pad := b.1, cc := gPut { r.1.cc with loads := rest } l.rd w }, r.2 ++ b.2.2)
    else r

/-- ST enters the store queue, stalling while its 8 entries are taken (R36). -/
def ccSt (site x : Nat) (guard : BitVec 4) (rd ra : BitVec 5) (imm : BitVec 12) (t : Tile) : Tile × List TOut :=
  ccIssue site x guard [ra, rd] [] (fun t =>
    match addrCheck (effAddr t.cc ra imm) with
    | .inl k => ccFault site t k
    | .inr w =>
      if 8 ≤ t.pad.storeQ.length then (t, [])
      else
        let q := t.pad.storeQ ++ [(x, w, gVal t.cc rd)]
        ({ t with pad := { t.pad with storeQ := q }, cc := ccNext t.cc x }, [])) t

/-- The oldest queued store drains in an even cycle, at or after its issue + 2, in which no other local-side write uses
its bank's write port (R36). -/
def ccDrain (site x : Nat) (t : Tile) : Tile × List TOut :=
  let r := tileSync site x t
  match r.1.pad.storeQ with
  | [] => r
  | e :: rest =>
    let l := BitVec.ofNat 16 (e.2.1 / 16)
    if x % 2 = 0 ∧ e.1 + 2 ≤ x ∧ !portUsed r.1.pad (bankOf l) x then
      let w := e.2.1 % 16
      let pw : PWrite := ⟨x, .store, l, 1 <<< w, List.replicate w RWord.zero ++ [⟨e.2.2, false⟩]⟩
      ({ r.1 with pad := sendWrite { r.1.pad with storeQ := rest } pw }, r.2)
    else r

/-! ### Control flow (R276, R279) -/

/-- BR: PC := PC + sext(off22). -/
def ccBr (site x : Nat) (guard : BitVec 4) (off : BitVec 22) (t : Tile) : Tile × List TOut :=
  ccIssue site x guard [] [] (fun t => ccJump site x ((t.cc.pc.toNat : Int) + off.toInt) 0 t) t

/-- BRL: as BR, with g31 := PC + 1. -/
def ccBrl (site x : Nat) (guard : BitVec 4) (off : BitVec 22) (t : Tile) : Tile × List TOut :=
  ccIssue site x guard [] [31] (fun t => ccJump site x ((t.cc.pc.toNat : Int) + off.toInt) 31 t) t

/-- JR: if rd ≠ 0, rd := PC + 1; PC := g(ra) + sext(imm12). The target is judged as a 64-bit unsigned sum (DEDUCED:
the sum wraps as ADD does). -/
def ccJr (site x : Nat) (guard : BitVec 4) (rd ra : BitVec 5) (imm : BitVec 12) (t : Tile) : Tile × List TOut :=
  ccIssue site x guard [ra] [rd] (fun t => ccJump site x ((gVal t.cc ra + sext12 imm).toNat : Int) rd t) t

/-- WAITC stalls until the cycle offset reaches its target or a beat boundary comes (R279). -/
def ccWaitc (site x : Nat) (guard : BitVec 4) (ra : BitVec 5) (t : Tile) : Tile × List TOut :=
  ccIssue site x guard [ra] [] (fun t =>
    let g : BitVec 15 := (gVal t.cc ra).setWidth 15
    let c := ccNext t.cc x
    ({ t with cc := if g.toNat ≤ beatCyc t x then c else { c with wait := some g } }, [])) t

/-- A WAITC stall ends when cyc reaches its target (R279). -/
def ccResume (site x : Nat) (t : Tile) : Tile × List TOut :=
  let r := tileSync site x t
  match r.1.cc.wait with
  | none => r
  | some g => if g.toNat ≤ beatCyc r.1 x then ({ r.1 with cc := { r.1.cc with wait := none } }, r.2) else r

/-- HALT: CC_STATE := 0 (R276, R279). -/
def ccHalt (site x : Nat) (guard : BitVec 4) (t : Tile) : Tile × List TOut :=
  ccIssue site x guard [] [] (fun t => ({ t with cc := { ccNext t.cc x with st := .idle } }, [])) t

/-! ### Descriptors, credits and messages (R283, R284) -/

/-- DESC pushes a descriptor, stalling while the queue's 32 entries are taken (R23, R283). -/
def ccDesc (site x : Nat) (guard : BitVec 4) (ra rb : BitVec 5) (t : Tile) : Tile × List TOut :=
  ccIssue site x guard [ra, rb] [] (fun t =>
    if 32 ≤ t.cc.descQ.length then (t, [])
    else ({ t with cc := ccNext { t.cc with descQ := t.cc.descQ ++ [(x, gVal t.cc ra, gVal t.cc rb)] } x }, [])) t

/-- The lines that a credit return adds: at most what takes CREDITS to QUOTA (R39). -/
def creditAdded (w : Win) (n : Nat) : Nat := min n (w.quota.toNat - w.credits.toNat)

/-- CRET: the return of R39 with its CREDIT message; it does nothing where no line is added or the window is not a
landing window, and stalls while the lath queue's 4 entries are taken (R284). -/
def ccCret (site x : Nat) (guard : BitVec 4) (ra : BitVec 5) (win : BitVec 5) (t : Tile) : Tile × List TOut :=
  ccIssue site x guard [ra] [] (fun t =>
    let w := winGet t.pad win.toNat
    let n := creditAdded w ((gVal t.cc ra).setWidth 16).toNat
    if w.typ ≠ 1 ∨ n = 0 then ({ t with cc := ccNext t.cc x }, [])
    else if 4 ≤ t.cc.lathQ.length then (t, [])
    else
      ({ t with
          pad := winPut t.pad win.toNat { w with credits := w.credits + BitVec.ofNat 16 n },
          cc := ccNext { t.cc with lathQ := t.cc.lathQ ++ [.credit w.source win (BitVec.ofNat 16 n)] } x }, [])) t

/-- Whether a name-table entry is VALID (R252). -/
def nameValid (t : Tile) (n : BitVec 6) : Bool := (sget 0 t.seq.names n.toNat).getLsbD 63

/-- LSEND: an ERR_REPORT of n = rd words from g(ra), to the node of a name entry; a bad n is illegal and an entry that is
not VALID discards the message (R284, R285). -/
def ccLsend (site x : Nat) (guard : BitVec 4) (n ra : BitVec 5) (name code : BitVec 6) (t : Tile) : Tile × List TOut :=
  let bad := decide (4 < n.toNat) || decide (31 < ra.toNat + n.toNat - 1)
  let srcs := if bad then [] else (List.range n.toNat).map (fun i => ra + BitVec.ofNat 5 i)
  ccIssue site x guard srcs [] (fun t =>
    if bad then ccFault site t .illegal
    else if !nameValid t name then ({ t with cc := ccNext t.cc x }, [])
    else if 4 ≤ t.cc.lathQ.length then (t, [])
    else ({ t with cc := ccNext { t.cc with lathQ := t.cc.lathQ ++ [.report name code (srcs.map (gVal t.cc))] } x },
      [])) t

/-! ### System registers (R275) -/

/-- The system registers as RDSR reads them; none for the reserved number. -/
def sysReg (t : Tile) (x frame : Nat) (n : BitVec 3) : Option Word :=
  match n.toNat with
  | 0 => some (t.cc.fcc.val.setWidth 64)
  | 1 => some (t.da.fda.val.setWidth 64)
  | 2 => some (t.fu.ffu.val.setWidth 64)
  | 3 => some (BitVec.ofNat 64 (beatCyc t x))
  | 4 => some (BitVec.ofNat 64 (frame % 2 ^ 48))
  | 5 => some (BitVec.ofNat 64 (32 - t.cc.descQ.length))
  | 6 => some (BitVec.ofNat 64 (8 - t.pad.storeQ.length))
  | _ => none

/-- RDSR; the reserved number is illegal (R275, R285). -/
def ccRdsr (site x frame : Nat) (guard : BitVec 4) (rd : BitVec 5) (n : BitVec 3) (t : Tile) : Tile × List TOut :=
  ccIssue site x guard [] [rd] (fun t =>
    match sysReg t x frame n with
    | some v => ccResult x 1 rd v t
    | none => ccFault site t .illegal) t

/-- WRSR replaces a flag register; a read-only or reserved number is illegal (R275, R285). -/
def ccWrsr (site x : Nat) (guard : BitVec 4) (ra : BitVec 5) (n : BitVec 3) (t : Tile) : Tile × List TOut :=
  let bad := decide (2 < n.toNat)
  ccIssue site x guard (if bad then [] else [ra]) [] (fun t =>
    let f : FlagBits := (gVal t.cc ra).setWidth 6
    if bad then ccFault site t .illegal
    else if n = 0 then ({ t with cc := ccNext { t.cc with fcc := flagWrite t.cc.fcc x f } x }, [])
    else if n = 1 then ({ t with da := { t.da with fda := flagWrite t.da.fda x f }, cc := ccNext t.cc x }, [])
    else ({ t with fu := { t.fu with ffu := flagWrite t.fu.ffu x f }, cc := ccNext t.cc x }, [])) t

/-- RDLANE: rd := active lane-table entry g(ra)[5:0] (R279). -/
def ccRdlane (site x : Nat) (guard : BitVec 4) (rd ra : BitVec 5) (t : Tile) : Tile × List TOut :=
  ccIssue site x guard [ra] [rd] (fun t => ccResult x 1 rd (laneGet t ((gVal t.cc ra).setWidth 6)) t) t

end Sys2Proof.Machine
end

