-- ==== Sys2Proof/Machine/CcAlu.lean ====
section
/-! DEFINITION. The meanings of the control core's integer, shift, compare and predicate instructions (R279-R281). -/

namespace Sys2Proof.Machine

/-- Issue a control-core instruction on its tile: `f` takes the site, the tile cycle and the guard (R278). -/
def ccDo (s : State) (h : CcHdr) (f : Nat → Nat → BitVec 4 → Tile → Tile × List TOut) :
    Host.Outcome State Fault Refusal :=
  .next (tileDo s h.site (f h.site (cycAt s h.k) h.g))

/-- An event of a tile in its tile cycle. -/
def evDo (s : State) (a : TileAt) (f : Nat → Nat → Tile → Tile × List TOut) : Host.Outcome State Fault Refusal :=
  .next (tileDo s a.site (f a.site (cycAt s a.k)))

/-- The amount of a shift by a register or an immediate: six bits (R280). -/
def shAmt (b : Word) : Nat := b.toNat % 64

/-- ADD: rd := g(ra) + g(rb) modulo 2^64 (R279, R280). -/
def execAdd (h : CcHdr) (rd ra rb : BitVec 5) (s : State) : Host.Outcome State Fault Refusal :=
  ccDo s h (fun site x g => ccAlu (fun a b => a + b) 1 site x g rd ra rb)

/-- SUB: rd := g(ra) - g(rb) modulo 2^64 (R279, R280). -/
def execSub (h : CcHdr) (rd ra rb : BitVec 5) (s : State) : Host.Outcome State Fault Refusal :=
  ccDo s h (fun site x g => ccAlu (fun a b => a - b) 1 site x g rd ra rb)

/-- AND: bitwise AND (R279, R280). -/
def execAnd (h : CcHdr) (rd ra rb : BitVec 5) (s : State) : Host.Outcome State Fault Refusal :=
  ccDo s h (fun site x g => ccAlu (fun a b => a &&& b) 1 site x g rd ra rb)

/-- OR: bitwise OR (R279, R280). -/
def execOr (h : CcHdr) (rd ra rb : BitVec 5) (s : State) : Host.Outcome State Fault Refusal :=
  ccDo s h (fun site x g => ccAlu (fun a b => a ||| b) 1 site x g rd ra rb)

/-- XOR: bitwise exclusive OR (R279, R280). -/
def execXor (h : CcHdr) (rd ra rb : BitVec 5) (s : State) : Host.Outcome State Fault Refusal :=
  ccDo s h (fun site x g => ccAlu (fun a b => a ^^^ b) 1 site x g rd ra rb)

/-- SHL: left shift by g(rb)[5:0] (R279, R280). -/
def execShl (h : CcHdr) (rd ra rb : BitVec 5) (s : State) : Host.Outcome State Fault Refusal :=
  ccDo s h (fun site x g => ccAlu (fun a b => a <<< shAmt b) 1 site x g rd ra rb)

/-- SHR: logical right shift by g(rb)[5:0] (R279, R280). -/
def execShr (h : CcHdr) (rd ra rb : BitVec 5) (s : State) : Host.Outcome State Fault Refusal :=
  ccDo s h (fun site x g => ccAlu (fun a b => a >>> shAmt b) 1 site x g rd ra rb)

/-- SAR: right shift by g(rb)[5:0], filled with the sign (R279, R280). -/
def execSar (h : CcHdr) (rd ra rb : BitVec 5) (s : State) : Host.Outcome State Fault Refusal :=
  ccDo s h (fun site x g => ccAlu (fun a b => a.sshiftRight (shAmt b)) 1 site x g rd ra rb)

/-- MUL: product modulo 2^64, latency 3 (R279, R280). -/
def execMul (h : CcHdr) (rd ra rb : BitVec 5) (s : State) : Host.Outcome State Fault Refusal :=
  ccDo s h (fun site x g => ccAlu (fun a b => a * b) 3 site x g rd ra rb)

/-- MULHU: bits [127:64] of the unsigned product (R279, R280). -/
def execMulhu (h : CcHdr) (rd ra rb : BitVec 5) (s : State) : Host.Outcome State Fault Refusal :=
  ccDo s h (fun site x g => ccAlu mulhu 3 site x g rd ra rb)

/-- MULHS: bits [127:64] of the signed product (R279, R280). -/
def execMulhs (h : CcHdr) (rd ra rb : BitVec 5) (s : State) : Host.Outcome State Fault Refusal :=
  ccDo s h (fun site x g => ccAlu mulhs 3 site x g rd ra rb)

/-- MIN: signed minimum (R279, R280). -/
def execMin (h : CcHdr) (rd ra rb : BitVec 5) (s : State) : Host.Outcome State Fault Refusal :=
  ccDo s h (fun site x g => ccAlu (fun a b => if b.slt a then b else a) 1 site x g rd ra rb)

/-- MAX: signed maximum (R279, R280). -/
def execMax (h : CcHdr) (rd ra rb : BitVec 5) (s : State) : Host.Outcome State Fault Refusal :=
  ccDo s h (fun site x g => ccAlu (fun a b => if a.slt b then b else a) 1 site x g rd ra rb)

/-- MINU: unsigned minimum (R279, R280). -/
def execMinu (h : CcHdr) (rd ra rb : BitVec 5) (s : State) : Host.Outcome State Fault Refusal :=
  ccDo s h (fun site x g => ccAlu (fun a b => if b.ult a then b else a) 1 site x g rd ra rb)

/-- MAXU: unsigned maximum (R279, R280). -/
def execMaxu (h : CcHdr) (rd ra rb : BitVec 5) (s : State) : Host.Outcome State Fault Refusal :=
  ccDo s h (fun site x g => ccAlu (fun a b => if a.ult b then b else a) 1 site x g rd ra rb)

/-- DIVU: starts a division of 24 tc, behind one in progress (R279-R281). -/
def execDivu (h : CcHdr) (rd ra rb : BitVec 5) (s : State) : Host.Outcome State Fault Refusal :=
  ccDo s h (fun site x g => ccDiv false site x g rd ra rb)

/-- REMU: starts a division of 24 tc, behind one in progress (R279-R281). -/
def execRemu (h : CcHdr) (rd ra rb : BitVec 5) (s : State) : Host.Outcome State Fault Refusal :=
  ccDo s h (fun site x g => ccDiv true site x g rd ra rb)

/-- The completion of a division (R275, R280). -/
def execDivideComplete (a : TileAt) (s : State) : Host.Outcome State Fault Refusal := evDo s a ccDivDone

/-- CLZ: leading zeros, 64 for 0 (R279, R280). -/
def execClz (h : CcHdr) (rd ra : BitVec 5) (s : State) : Host.Outcome State Fault Refusal :=
  ccDo s h (fun site x g => ccAlu1 clz64 site x g rd ra)

/-- POPC: set bits (R279, R280). -/
def execPopc (h : CcHdr) (rd ra : BitVec 5) (s : State) : Host.Outcome State Fault Refusal :=
  ccDo s h (fun site x g => ccAlu1 popc64 site x g rd ra)

/-- ADDI: rd := g(ra) + sext(imm12) (R279). -/
def execAddi (h : CcHdr) (rd ra : BitVec 5) (imm : BitVec 12) (s : State) : Host.Outcome State Fault Refusal :=
  ccDo s h (fun site x g => ccImm (fun a => a + sext12 imm) site x g rd ra)

/-- ANDI: rd := g(ra) AND sext(imm12) (R279). -/
def execAndi (h : CcHdr) (rd ra : BitVec 5) (imm : BitVec 12) (s : State) : Host.Outcome State Fault Refusal :=
  ccDo s h (fun site x g => ccImm (fun a => a &&& sext12 imm) site x g rd ra)

/-- ORI: rd := g(ra) OR sext(imm12) (R279). -/
def execOri (h : CcHdr) (rd ra : BitVec 5) (imm : BitVec 12) (s : State) : Host.Outcome State Fault Refusal :=
  ccDo s h (fun site x g => ccImm (fun a => a ||| sext12 imm) site x g rd ra)

/-- XORI: rd := g(ra) XOR sext(imm12) (R279). -/
def execXori (h : CcHdr) (rd ra : BitVec 5) (imm : BitVec 12) (s : State) : Host.Outcome State Fault Refusal :=
  ccDo s h (fun site x g => ccImm (fun a => a ^^^ sext12 imm) site x g rd ra)

/-- SHLI: rd := g(ra) shifted left by imm12[5:0] (R279). -/
def execShli (h : CcHdr) (rd ra : BitVec 5) (imm : BitVec 12) (s : State) : Host.Outcome State Fault Refusal :=
  ccDo s h (fun site x g => ccImm (fun a => a <<< shAmt (sext12 imm)) site x g rd ra)

/-- SHRI: rd := g(ra) shifted right by imm12[5:0] (R279). -/
def execShri (h : CcHdr) (rd ra : BitVec 5) (imm : BitVec 12) (s : State) : Host.Outcome State Fault Refusal :=
  ccDo s h (fun site x g => ccImm (fun a => a >>> shAmt (sext12 imm)) site x g rd ra)

/-- SARI: rd := g(ra) shifted right by imm12[5:0] with the sign (R279). -/
def execSari (h : CcHdr) (rd ra : BitVec 5) (imm : BitVec 12) (s : State) : Host.Outcome State Fault Refusal :=
  ccDo s h (fun site x g => ccImm (fun a => a.sshiftRight (shAmt (sext12 imm))) site x g rd ra)

/-- LUI: rd := sext(imm17) x 2^12 (R279). -/
def execLui (h : CcHdr) (rd : BitVec 5) (imm : BitVec 17) (s : State) : Host.Outcome State Fault Refusal :=
  ccDo s h (fun site x g => ccIssue site x g [] [rd] (ccResult x 1 rd (imm.signExtend 64 <<< (12 : Nat))))

/-- The conditions of CMP: 0 EQ, 1 NE, 2 LT, 3 GE, 4 LTU, 5 GEU (R279). -/
def cmpCond (fn : BitVec 3) (a b : Word) : Bool :=
  if fn = 0 then a == b else if fn = 1 then a != b else if fn = 2 then a.slt b
  else if fn = 3 then b.sle a else if fn = 4 then a.ult b else b.ule a

/-- The conditions of CMPI: 0 EQ, 1 NE, 2 LT, 3 LTU (R279). -/
def cmpiCond (fn : BitVec 3) (a b : Word) : Bool :=
  if fn = 0 then a == b else if fn = 1 then a != b else if fn = 2 then a.slt b else a.ult b

/-- An instruction with a reserved code takes the ILLEGAL fault (R285). -/
def ccIllegal (site x : Nat) (guard : BitVec 4) (t : Tile) : Tile × List TOut :=
  ccIssue site x guard [] [] (fun t => ccFault site t .illegal) t

/-- CMP: p(rd[2:0]) := g(ra) cond g(rb); a reserved condition is illegal (R279, R285). -/
def execCmp (h : CcHdr) (fn pd : BitVec 3) (ra rb : BitVec 5) (s : State) : Host.Outcome State Fault Refusal :=
  ccDo s h (fun site x g => if 5 < fn.toNat then ccIllegal site x g else ccCmp (cmpCond fn) site x g pd ra rb)

/-- CMPI: p(rd[2:0]) := g(ra) cond sext(imm12) (R279). -/
def execCmpi (h : CcHdr) (fn pd : BitVec 3) (ra : BitVec 5) (imm : BitVec 12) (s : State) :
    Host.Outcome State Fault Refusal :=
  ccDo s h (fun site x g =>
    if 3 < fn.toNat then ccIllegal site x g else ccCmpi (fun a => cmpiCond fn a (sext12 imm)) site x g pd ra)

/-- PLOG: p(rd[2:0]) := p(ra[2:0]) op p(rb[2:0]) (R279). -/
def execPlog (h : CcHdr) (op : BitVec 2) (pd pa pb : BitVec 3) (s : State) : Host.Outcome State Fault Refusal :=
  ccDo s h (fun site x g => ccIssue site x g [] [] (fun t =>
    ccPred x pd (plog op (pGet t.cc pa) (pGet t.cc pb)) t))

end Sys2Proof.Machine
end

