-- ==== Sys2Proof/Machine/CcCtl.lean ====
section
/-! DEFINITION. The meanings of the control core's memory, control-flow, message and system-register instructions and
of their later events (R35, R36, R275-R285). -/

namespace Sys2Proof.Machine

/-- LD: issue a load of the word at g(ra) + sext(imm12) x 8 (R35, R282). -/
def execLd (h : CcHdr) (rd ra : BitVec 5) (imm : BitVec 12) (s : State) : Host.Outcome State Fault Refusal :=
  ccDo s h (fun site x g => ccLd site x g rd ra imm)

/-- The bank read of the oldest load in flight (R35, R36). -/
def execCcLoadBankRead (a : TileAt) (s : State) : Host.Outcome State Fault Refusal := evDo s a ccLoadRead

/-- ST: queue a store of g(rd) (R36, R282). -/
def execSt (h : CcHdr) (rs ra : BitVec 5) (imm : BitVec 12) (s : State) : Host.Outcome State Fault Refusal :=
  ccDo s h (fun site x g => ccSt site x g rs ra imm)

/-- The drain of the oldest queued store (R36). -/
def execStoreQueueDrain (a : TileAt) (s : State) : Host.Outcome State Fault Refusal := evDo s a ccDrain

/-- BR (R279). -/
def execBr (h : CcHdr) (off : BitVec 22) (s : State) : Host.Outcome State Fault Refusal :=
  ccDo s h (fun site x g => ccBr site x g off)

/-- BRL (R279). -/
def execBrl (h : CcHdr) (off : BitVec 22) (s : State) : Host.Outcome State Fault Refusal :=
  ccDo s h (fun site x g => ccBrl site x g off)

/-- JR (R279). -/
def execJr (h : CcHdr) (rd ra : BitVec 5) (imm : BitVec 12) (s : State) : Host.Outcome State Fault Refusal :=
  ccDo s h (fun site x g => ccJr site x g rd ra imm)

/-- DESC: push a descriptor (R283). -/
def execDesc (h : CcHdr) (ra rb : BitVec 5) (s : State) : Host.Outcome State Fault Refusal :=
  ccDo s h (fun site x g => ccDesc site x g ra rb)

/-- CRET: return credits (R39, R284). -/
def execCret (h : CcHdr) (ra win : BitVec 5) (s : State) : Host.Outcome State Fault Refusal :=
  ccDo s h (fun site x g => ccCret site x g ra win)

/-- LSEND: queue an error report (R284). -/
def execLsend (h : CcHdr) (n ra : BitVec 5) (name code : BitVec 6) (s : State) : Host.Outcome State Fault Refusal :=
  ccDo s h (fun site x g => ccLsend site x g n ra name code)

/-- RDSR (R275). -/
def execRdsr (h : CcHdr) (rd : BitVec 5) (n : BitVec 3) (s : State) : Host.Outcome State Fault Refusal :=
  ccDo s h (fun site x g => ccRdsr site x s.frames g rd n)

/-- WRSR (R275). -/
def execWrsr (h : CcHdr) (ra : BitVec 5) (n : BitVec 3) (s : State) : Host.Outcome State Fault Refusal :=
  ccDo s h (fun site x g => ccWrsr site x g ra n)

/-- RDLANE (R279). -/
def execRdlane (h : CcHdr) (rd ra : BitVec 5) (s : State) : Host.Outcome State Fault Refusal :=
  ccDo s h (fun site x g => ccRdlane site x g rd ra)

/-- WAITC (R279). -/
def execWaitc (h : CcHdr) (ra : BitVec 5) (s : State) : Host.Outcome State Fault Refusal :=
  ccDo s h (fun site x g => ccWaitc site x g ra)

/-- The end of a WAITC stall (R279). -/
def execWaitcResume (a : TileAt) (s : State) : Host.Outcome State Fault Refusal := evDo s a ccResume

/-- HALT (R276). -/
def execHalt (h : CcHdr) (s : State) : Host.Outcome State Fault Refusal :=
  ccDo s h (fun site x g => ccHalt site x g)

end Sys2Proof.Machine
end

