-- ==== Sys2Proof/Machine/Seq.lean ====
section
/-! DEFINITION. The meanings of the sequencer entries that move lines, descriptors and base registers (R213, R214, R219, R286-R292). -/

namespace Sys2Proof.Machine

/-- Perform a sequencer entry on its tile. -/
def seqDo (s : State) (h : SeqHdr) (f : Tile → Tile × List TOut) : Host.Outcome State Fault Refusal :=
  .next (tileDo s h.site f)

/-- NOP (R287). -/
def execSeqNop (h : SeqHdr) (s : State) : Host.Outcome State Fault Refusal :=
  seqDo s h (seqNop h)

/-- INJ: inject a line as a DATA or LANEREC flit (R288, R291). -/
def execInj (h : SeqHdr) (line dline : BitVec 16) (laneRec dly msel : Bool) (s : State) :
    Host.Outcome State Fault Refusal :=
  seqDo s h (seqInj h line dline laneRec dly msel)

/-- RQ: request a line of another tile (R213, R288). -/
def execRq (h : SeqHdr) (dline sline : BitVec 16) (dly : Bool) (tag : BitVec 4) (s : State) :
    Host.Outcome State Fault Refusal :=
  seqDo s h (seqRq h dline sline dly tag)

/-- SRV: serve a request window (R213, R214, R288). -/
def execSrv (h : SeqHdr) (w : BitVec 4) (dly : Bool) (s : State) : Host.Outcome State Fault Refusal :=
  seqDo s h (seqSrv h w dly)

/-- REL: the release of a landing window (R219, R288). -/
def execRel (h : SeqHdr) (win : BitVec 5) (count : BitVec 16) (s : State) : Host.Outcome State Fault Refusal :=
  seqDo s h (seqRel h win count)

/-- DTAKE: pop descriptors into a line (R283, R288, R291). -/
def execDtake (h : SeqHdr) (n : BitVec 3) (line : BitVec 16) (s : State) : Host.Outcome State Fault Refusal :=
  seqDo s h (seqDtake h n line)

/-- BLD: load a base register (R288). -/
def execBld (h : SeqHdr) (n : BitVec 3) (line : BitVec 16) (word : BitVec 4) (half : BitVec 2) (s : State) :
    Host.Outcome State Fault Refusal :=
  seqDo s h (seqBld h n line word half)

/-- MSK: set m1 (R288). -/
def execMsk (h : SeqHdr) (mask : BitVec 16) (s : State) : Host.Outcome State Fault Refusal :=
  seqDo s h (seqMsk h mask)

/-- REP: repeat the following entries (R289). -/
def execRep (h : SeqHdr) (nb : BitVec 6) (count step : BitVec 10) (lstep : BitVec 2) (linc : BitVec 7) (s : State) :
    Host.Outcome State Fault Refusal :=
  seqDo s h (seqRep h nb count step lstep linc)

end Sys2Proof.Machine
end

