-- ==== Sys2Proof/Machine/DenseArray.lean ====
section
/-! DEFINITION. The meanings of the dense array's entries and of their completions (R294-R302, R137). -/

namespace Sys2Proof.Machine

/-- Whether a line lies in the window that holds a base line, at or after the base (R128, R256). -/
def fromBase (p : Pad) (base : Nat) (l : BitVec 16) : Bool :=
  match winOf p (BitVec.ofNat 16 base) with
  | some n => winHas (winGet p n) l && decide (base ≤ l.toNat)
  | none => false

/-- Whether a line of a tile belongs to the adapter space of a projection: on the lead tile from ADP_A_BASE, on every
tile of the region from ADP_B_BASE, to the end of the resident window there (R256; DEDUCED, log entry 8). -/
def adapterLine (i : Image) (t : Tile) (c : Course × PlacedReg × Nat × Nat) (l : BitVec 16) : Bool :=
  match regAt i c.2.1.reg with
  | none => false
  | some r => i.skims.any (fun k => k.adapterCap && k.region == r.id &&
      ((k.leadX == c.2.2.1 && k.leadY == c.2.2.2 && fromBase t.pad k.adpA l) || fromBase t.pad k.adpB l))

/-- Whether a stationary buffer holds factors of an adapter slot that is not READY for its pipeline's lanes, by the slot
table of the latest beat boundary (R137). -/
def notReady (s : State) (site : Nat) (b : SBuf) (slot : BitVec 8) : Bool :=
  match s.load.img, curTile s site with
  | some i, some c =>
    adapterLine i (tileAt s site) c b.line && !(sget [] s.grid.ready c.1.pipe).contains slot.toNat
  | _, _ => false

/-- LDW (R296, R302). -/
def execLdw (h : SeqHdr) (a : LdwArgs) (s : State) : Host.Outcome State Fault Refusal := seqDo s h (daLdw h a)

/-- The completion of an LDW (R296, R302). -/
def execLdwComplete (a : TileAt) (s : State) : Host.Outcome State Fault Refusal :=
  .next (tileDo s a.site (daLdwDone a.site (cycAt s a.k)))

/-- LDS (R297, R302). -/
def execLds (h : SeqHdr) (sb : Bool) (line : BitVec 16) (gm : BitVec 2) (s : State) :
    Host.Outcome State Fault Refusal :=
  seqDo s h (daLds h sb line gm)

/-- MUL (R137, R299, R300, R302). -/
def execDaMul (h : SeqHdr) (a : MulArgs) (s : State) : Host.Outcome State Fault Refusal :=
  seqDo s h (daMul h a (notReady s h.site))

/-- The update of a row 12 tc after its MUL (R302). -/
def execDaMulComplete (a : TileAt) (s : State) : Host.Outcome State Fault Refusal :=
  .next (tileDo s a.site (daMulDone a.site (cycAt s a.k)))

/-- SETS (R298, R302). -/
def execSets (h : SeqHdr) (pair : BitVec 2) (half : Bool) (line : BitVec 16) (elem : BitVec 6) (s : State) :
    Host.Outcome State Fault Refusal :=
  seqDo s h (daSets h pair half line elem)

/-- ST (R301, R302). -/
def execDaSt (h : SeqHdr) (acc : BitVec 3) (line : BitVec 16) (nl : Bool) (s : State) :
    Host.Outcome State Fault Refusal :=
  seqDo s h (daSt h acc line nl)

end Sys2Proof.Machine
end

