-- ==== Sys2Proof/Machine/FabricOps.lean ====
section
/-! DEFINITION. The meanings of macro operations, of their completion and of the clip report (R67-R77, R293). -/

namespace Sys2Proof.Machine

/-- MOP: start a macro operation, or refuse it (R76, R77, R293). -/
def execMop (h : SeqHdr) (aline sline dline : BitVec 16) (tier : BitVec 3) (lm : BitVec 10) (sel : BitVec 6)
    (s : State) : Host.Outcome State Fault Refusal :=
  seqDo s h (mopStart h aline sline dline tier lm sel)

/-- The completion of the oldest macro operation of a tile (R69). -/
def execMacroOpComplete (a : TileAt) (s : State) : Host.Outcome State Fault Refusal :=
  .next (tileDo s a.site (mopDone a.site (cycAt s a.k)))

/-- The clip report of a tile at a frame boundary (R75). -/
def execClipReport (site : Site) (s : State) : Host.Outcome State Fault Refusal :=
  .next (tileDo s site clipReport)

end Sys2Proof.Machine
end

