-- ==== Sys2Proof/Machine/Aes.lean ====
section
/-! DEFINITION. AES-128 encryption of one block (FIPS 197), which the generator of R440 uses. -/

namespace Sys2Proof.Machine

/-- Multiply by x in the field of AES. -/
def aesX (a : Byte) : Byte := (a <<< 1) ^^^ (if a.getLsbD 7 then 0x1B else 0)

/-- Multiply in the field of AES, over the bits of b. -/
def aesMulBits : Nat → Byte → Byte → Byte
  | 0, _, _ => 0
  | n + 1, a, b => (if b.getLsbD 0 then a else 0) ^^^ aesMulBits n (aesX a) (b >>> 1)

/-- Multiply in the field of AES. -/
def aesMul (a b : Byte) : Byte := aesMulBits 8 a b

/-- a^(2^n - 1), by n squarings and products. -/
def aesPow : Nat → Byte → Byte
  | 0, _ => 1
  | n + 1, a => let p := aesPow n a; aesMul a (aesMul p p)

/-- The inverse a^254, 0 for 0. -/
def aesInv (a : Byte) : Byte := let p := aesPow 7 a; aesMul p p

/-- SubBytes of one byte. -/
def aesSub (a : Byte) : Byte :=
  let b := aesInv a
  b ^^^ b.rotateLeft 1 ^^^ b.rotateLeft 2 ^^^ b.rotateLeft 3 ^^^ b.rotateLeft 4 ^^^ 0x63

/-- Byte i of a list. -/
def aesAt (l : List Byte) (i : Nat) : Byte := l.getD i 0

/-- ShiftRows on 16 bytes in column order. -/
def aesShift (s : List Byte) : List Byte :=
  (List.range 16).map (fun i => aesAt s ((i + 4 * (i % 4)) % 16))

/-- MixColumns on 16 bytes in column order. -/
def aesMix (s : List Byte) : List Byte :=
  (List.range 16).map (fun i =>
    let c := 4 * (i / 4)
    let r := i % 4
    aesMul 2 (aesAt s (c + r)) ^^^ aesMul 3 (aesAt s (c + (r + 1) % 4)) ^^^
      aesAt s (c + (r + 2) % 4) ^^^ aesAt s (c + (r + 3) % 4))

/-- XOR of two blocks. -/
def aesXor (a b : List Byte) : List Byte := List.zipWith (· ^^^ ·) a b

/-- The next round key, with its round constant. -/
def aesNextKey (k : List Byte) (rc : Byte) : List Byte :=
  let t0 := aesSub (aesAt k 13) ^^^ rc
  let w0 := [aesAt k 0 ^^^ t0, aesAt k 1 ^^^ aesSub (aesAt k 14), aesAt k 2 ^^^ aesSub (aesAt k 15),
    aesAt k 3 ^^^ aesSub (aesAt k 12)]
  let w1 := aesXor w0 ((k.drop 4).take 4)
  let w2 := aesXor w1 ((k.drop 8).take 4)
  let w3 := aesXor w2 ((k.drop 12).take 4)
  w0 ++ w1 ++ w2 ++ w3

/-- The rounds: `n` of them left, the last without MixColumns. -/
def aesRounds : Nat → List Byte → Byte → List Byte → List Byte
  | 0, _, _, s => s
  | n + 1, k, rc, s =>
    let k' := aesNextKey k rc
    let t := aesShift (s.map aesSub)
    aesRounds n k' (aesX rc) (aesXor (if n = 0 then t else aesMix t) k')

/-- AES-128 of a 16-byte block under a 16-byte key. -/
def aes128 (key block : List Byte) : List Byte := aesRounds 10 key 1 (aesXor block key)

end Sys2Proof.Machine
end

