-- ==== Sys2Proof/Machine/TileFu.lean ====
section
/-! DEFINITION. The finish unit (R303-R310, R440, R636). -/

namespace Sys2Proof.Machine

/-! ### The shape of an FU entry (R304, R305, R636) -/

/-- The lanes that k(KM) selects. -/
def selected (t : Tile) (km : BitVec 2) : List Nat := (List.range 64).filter (fun i => (kget t km.toNat).getLsbD i)

/-- An FU entry of a header: one FU or FUM entry a cycle. -/
def fuOp (h : SeqHdr) (even : Bool) (body : SeqRun → Tile → Tile × List TOut) (t : Tile) : Tile × List TOut :=
  hdrEntry h even (fuEntry h.site h.idx.toNat body) t

/-- An illegal entry raises NV, is reported, and writes the canonical NaN, unmarked, to the given lanes of the given
registers in the cycle its result would have landed (R305). -/
def fuIllegal (h : SeqHdr) (e : SeqRun) (lat : Nat) (regs lanes : List Nat) (t : Tile) : Tile × List TOut :=
  let t1 := regs.foldl (fun s r => sendEff s (e.cyc + lat) (.vreg r (lanes.map (fun i => (i, ⟨nan32, false⟩))))) t
  let d := seqDrop h.site h.idx.toNat e.cyc t1
  (sendEff d.1 (e.cyc + lat) (.ffu flNV), d.2)

/-- Write the selected lanes of a result and raise the flags of its unmarked lanes (R304, R636). -/
def fuPut (e : SeqRun) (lat vd : Nat) (lanes : List (Nat × PLane × FlagBits)) (t : Tile) : Tile × List TOut :=
  let t1 := sendEff t (e.cyc + lat) (.vreg vd (lanes.map (fun x => (x.1, x.2.1))))
  (sendEff t1 (e.cyc + lat) (.ffu (flOr (lanes.map (fun x => if x.2.1.poison then flNone else x.2.2)))), [])

/-- An element-wise FU entry: `regs` are the registers that a result lane reads; a marked operand lane marks the result
lane; `ok` says whether the entry's fields are legal (R304, R305, R636). -/
def fuElem (h : SeqHdr) (a : FuArgs) (lat : Nat) (ok : Bool) (regs : List (BitVec 5))
    (f : List Lane32 → Lane32 × FlagBits) (t : Tile) : Tile × List TOut :=
  fuOp h false (fun e t =>
    if !ok then fuIllegal h e lat [a.vd.toNat] (selected t a.km) t
    else fuPut e lat a.vd.toNat ((selected t a.km).map (fun i =>
      let xs := regs.map (fun r => vget t r.toNat i)
      let r := f (xs.map PLane.bits)
      (i, ⟨r.1, xs.any PLane.poison⟩, r.2))) t) t

/-- The first three operands of a lane. -/
def op1 (l : List Lane32) : Lane32 := lget 0 l 0
def op2 (l : List Lane32) : Lane32 := lget 0 l 1
def op3 (l : List Lane32) : Lane32 := lget 0 l 2

/-- FADD, FSUB and FMUL: RM 0-2 (R304, R306). -/
def fuArith (f : Rm → Lane32 → Lane32 → Lane32 × FlagBits) (h : SeqHdr) (a : FuArgs) (t : Tile) : Tile × List TOut :=
  match rmOf a.rm with
  | some rm => fuElem h a 4 true [a.va, a.vb] (fun l => f rm (op1 l) (op2 l)) t
  | none => fuElem h a 4 false [] (fun _ => (0, 0)) t

/-- FMA (R304, R306). -/
def fuFma (h : SeqHdr) (a : FuArgs) (t : Tile) : Tile × List TOut :=
  match rmOf a.rm with
  | some rm => fuElem h a 4 true [a.va, a.vb, a.vc] (fun l => ffma rm (op1 l) (op2 l) (op3 l)) t
  | none => fuElem h a 4 false [] (fun _ => (0, 0)) t

/-- A two-operand op whose RM is 0. -/
def fuBin (f : Lane32 → Lane32 → Lane32 × FlagBits) (h : SeqHdr) (a : FuArgs) (t : Tile) : Tile × List TOut :=
  fuElem h a 2 (a.rm = 0) [a.va, a.vb] (fun l => f (op1 l) (op2 l)) t

/-- A one-operand op whose RM is 0. -/
def fuUn (lat : Nat) (f : Lane32 → Lane32 × FlagBits) (h : SeqHdr) (a : FuArgs) (t : Tile) : Tile × List TOut :=
  fuElem h a lat (a.rm = 0) [a.va] (fun l => f (op1 l)) t

/-- An INT32 op: no flags (R304). -/
def fuInt (f : Lane32 → Lane32 → Lane32) (h : SeqHdr) (a : FuArgs) (t : Tile) : Tile × List TOut :=
  fuBin (fun x y => (f x y, flNone)) h a t

/-! ### Reductions and selections (R304, R309) -/

/-- One stage of the FRSUM tree: neighbours in pairs. -/
def sumStage : List (Lane32 × FlagBits) → List (Lane32 × FlagBits)
  | a :: b :: t => let s := fadd .rne a.1 b.1; (s.1, a.2 ||| b.2 ||| s.2) :: sumStage t
  | l => l

/-- The six stages of FRSUM (R309). -/
def sumTree : Nat → List (Lane32 × FlagBits) → Lane32 × FlagBits
  | 0, l => lget (0, flNone) l 0
  | n + 1, l => sumTree n (sumStage l)

/-- FRSUM of 64 lanes; unselected lanes take part as -0 (R309). -/
def frsum (sel : Nat → Bool) (v : Nat → Lane32) : Lane32 × FlagBits :=
  sumTree 6 ((List.range 64).map (fun i => (if sel i then v i else 0x80000000, flNone)))

/-- FRMAX of the selected lanes: NaN only when each of them is NaN; -∞ stands for the others (R309). -/
def frmax (vs : List Lane32) : Lane32 × FlagBits :=
  let r := vs.foldl (fun acc v => let m := fmax acc.1 v; (m.1, acc.2 ||| m.2)) (inf32 true, flNone)
  if !vs.isEmpty && vs.all (fun v => isNan (dec32 v)) then (nan32, r.2) else r

/-- A reduction, broadcast to the selected lanes; one marked selected lane marks the result (R309, R636). -/
def fuReduce (f : Tile → List Nat → Lane32 × FlagBits) (h : SeqHdr) (a : FuArgs) (t : Tile) : Tile × List TOut :=
  fuOp h false (fun e t =>
    let sel := selected t a.km
    if a.rm ≠ 0 then fuIllegal h e 8 [a.vd.toNat] sel t
    else
      let r := f t sel
      let p := sel.any (fun i => (vget t a.va.toNat i).poison)
      fuPut e 8 a.vd.toNat (sel.map (fun i => (i, ⟨r.1, p⟩, r.2))) t) t

/-- FRSUM. -/
def fuRsum (h : SeqHdr) (a : FuArgs) (t : Tile) : Tile × List TOut :=
  fuReduce (fun t sel => frsum sel.contains (fun i => (vget t a.va.toNat i).bits)) h a t

/-- FRMAX. -/
def fuRmax (h : SeqHdr) (a : FuArgs) (t : Tile) : Tile × List TOut :=
  fuReduce (fun t sel => frmax (sel.map (fun i => (vget t a.va.toNat i).bits))) h a t

/-- FCMP: k(VD[1:0]) takes the comparison of the selected lanes; VD[4:2] must be 0 and VD[1:0] must not (R304, R305). -/
def fuCmp (h : SeqHdr) (a : FuArgs) (t : Tile) : Tile × List TOut :=
  fuOp h false (fun e t =>
    if a.rm ≠ 0 ∨ a.vd = 0 ∨ 4 ≤ a.vd.toNat then fuIllegal h e 2 [] [] t
    else
      let sel := selected t a.km
      let rs := sel.map (fun i =>
        (i, fcmp (a.vc.setWidth 2) (vget t a.va.toNat i).bits (vget t a.vb.toNat i).bits))
      let m : BitVec 64 := rs.foldl (fun acc r => if r.2.1 then acc ||| (1 <<< r.1) else acc) 0
      let t1 := sendEff t (e.cyc + 2) (.mask a.vd.toNat m (kget t a.km.toNat))
      (sendEff t1 (e.cyc + 2) (.ffu (flOr (rs.map (fun r => r.2.2)))), [])) t

/-- FSEL: VA where k(VC[1:0]) is 1, else VB, with the mark of the lane it copies (R304, R636). -/
def fuSel (h : SeqHdr) (a : FuArgs) (t : Tile) : Tile × List TOut :=
  fuOp h false (fun e t =>
    let sel := selected t a.km
    if a.rm ≠ 0 then fuIllegal h e 2 [a.vd.toNat] sel t
    else
      let k := kget t (a.vc.setWidth 2).toNat
      fuPut e 2 a.vd.toNat (sel.map (fun i =>
        (i, vget t (if k.getLsbD i then a.va else a.vb).toNat i, flNone))) t) t

/-- FBC: one lane of VA in every selected lane (R304, R636). -/
def fuBc (h : SeqHdr) (a : FuArgs) (t : Tile) : Tile × List TOut :=
  fuOp h false (fun e t =>
    let sel := selected t a.km
    if a.rm ≠ 0 then fuIllegal h e 2 [a.vd.toNat] sel t
    else
      let s := vget t a.va.toNat (a.vb.toNat + if a.vc.getLsbD 4 then 32 else 0)
      fuPut e 2 a.vd.toNat (sel.map (fun i => (i, s, flNone))) t) t

/-- VIOTA: lane i := i + lane 0 of VA (R304, R636). -/
def fuIota (h : SeqHdr) (a : FuArgs) (t : Tile) : Tile × List TOut :=
  fuOp h false (fun e t =>
    let sel := selected t a.km
    if a.rm ≠ 0 then fuIllegal h e 2 [a.vd.toNat] sel t
    else
      let s := vget t a.va.toNat 0
      fuPut e 2 a.vd.toNat (sel.map (fun i => (i, ⟨s.bits + BitVec.ofNat 32 i, s.poison⟩, flNone))) t) t

/-- FCVT: the conversion that VC names, by RM and SATB (R308). -/
def fuCvt (h : SeqHdr) (a : FuArgs) (t : Tile) : Tile × List TOut :=
  match rmOf a.rm with
  | some rm =>
    fuElem h a 4 (fcvt a.vc rm a.satb 0).isSome [a.va]
      (fun l => (fcvt a.vc rm a.satb (op1 l)).getD (nan32, flNone)) t
  | none => fuElem h a 4 false [] (fun _ => (0, 0)) t

/-! ### VTOPM (R309) -/

/-- A value with its index, each with its own mark. -/
structure TopPair where
  v : PLane
  i : PLane
deriving DecidableEq, Repr

/-- The order of VTOPM: larger values first, NaN below -∞, and the lower index first on equal values. -/
def topBefore (a b : TopPair) : Bool :=
  let x := dec32 a.v.bits
  let y := dec32 b.v.bits
  if isNan x && isNan y then decide (a.i.bits.toInt < b.i.bits.toInt)
  else if isNan x then false
  else if isNan y then true
  else if ltV y x then true
  else if ltV x y then false
  else decide (a.i.bits.toInt < b.i.bits.toInt)

/-- Insert a pair after those that it does not come before. -/
def topIns (p : TopPair) : List TopPair → List TopPair
  | [] => [p]
  | q :: t => if topBefore p q then p :: q :: t else q :: topIns p t

/-- The 128 pairs of VTOPM in order. -/
def topSort (l : List TopPair) : List TopPair := l.foldl (fun acc p => topIns p acc) []

/-- VTOPM: the first 64 pairs to VD and VD + 1, the other 64 to VA and VB. An odd VD, or a VA or VB that is VD or VD + 1,
is illegal. Where VA and VB are one register the specification states no result, and the lanes are free values. -/
def fuTopm (h : SeqHdr) (a : FuArgs) (t : Tile) : Tile × List TOut :=
  fuOp h false (fun e t =>
    let sel := selected t a.km
    let d := a.vd.toNat
    let x := a.va.toNat
    let y := a.vb.toNat
    if a.rm ≠ 0 ∨ d % 2 = 1 ∨ x = d ∨ x = d + 1 ∨ y = d ∨ y = d + 1 then
      fuIllegal h e 8 [d, d + 1, x, y] sel t
    else
      let ps := topSort ((List.range 64).map (fun i => ⟨vget t d i, vget t (d + 1) i⟩) ++
        (List.range 64).map (fun i => ⟨vget t x i, vget t y i⟩))
      let nth := fun n => lget (⟨PLane.zero, PLane.zero⟩ : TopPair) ps n
      let put := fun (s : Tile) (r : Nat) (g : Nat → PLane) =>
        sendEff s (e.cyc + 8) (.vreg r (sel.map (fun i => (i, g i))))
      let t1 := put (put t d (fun i => (nth i).v)) (d + 1) (fun i => (nth i).i)
      if x = y then
        let free := fun i => Config.vtopmSame (((vlanes t d) ++ (vlanes t (d + 1)) ++ (vlanes t x)).map PLane.bits) i
        (put t1 x (fun i => ⟨free i, (nth (64 + i)).v.poison || (nth (64 + i)).i.poison⟩), [])
      else (put (put t1 x (fun i => (nth (64 + i)).v)) y (fun i => (nth (64 + i)).i), [])) t

/-! ### VRNG (R440) -/

/-- The bytes of a 32-bit value, low byte first. -/
def bytes32 (v : Lane32) : List Byte := (List.range 4).map (fun i => (v >>> (8 * i)).setWidth 8)

/-- Lane i of VRNG for a key of four lanes, q and n. -/
def vrngLane (key : List Lane32) (q n : Lane32) (i : Nat) : Lane32 :=
  let blk := aes128 (key.flatMap bytes32)
    (bytes32 q ++ bytes32 (16 * n + BitVec.ofNat 32 (i / 4)) ++ List.replicate 8 0)
  (List.range 4).foldl (fun acc b => acc ||| ((lget 0 blk (4 * (i % 4) + b)).setWidth 32 <<< (8 * b))) 0

/-- VRNG: 64 lanes of the stream generator (R440). -/
def fuRng (h : SeqHdr) (a : FuArgs) (t : Tile) : Tile × List TOut :=
  fuOp h false (fun e t =>
    let sel := selected t a.km
    if a.rm ≠ 0 then fuIllegal h e 12 [a.vd.toNat] sel t
    else
      let key := (List.range 4).map (vget t a.va.toNat)
      let q := vget t a.vb.toNat 0
      let n := vget t a.vb.toNat 1
      let p := key.any PLane.poison || q.poison || n.poison
      fuPut e 12 a.vd.toNat (sel.map (fun i => (i, ⟨vrngLane (key.map PLane.bits) q.bits n.bits i, p⟩, flNone))) t) t

/-! ### Loads, stores and quantisation (R310) -/

/-- The element format of an FMT code, for VLD and VST (R310). -/
def efmtOf (f : BitVec 4) : Option EFmt :=
  match f.toNat with
  | 0 => some .fp32
  | 1 => some .bf16
  | 2 => some .int8
  | 3 => some .e4m3
  | 4 => some .e5m2
  | 5 => some .int4
  | 6 => some .int32
  | _ => none

/-- The block format of an FMT code, for VLDQ and VSTQ (R310). -/
def bfmtOf (f : BitVec 4) : Option BlockFmt :=
  match f.toNat with
  | 8 => some .a8
  | 9 => some .kv8
  | 10 => some .kv8i
  | 11 => some .kv4
  | _ => none

/-- The width of an element in bits. -/
def efmtBits : EFmt → Nat
  | .fp32 => 32
  | .int32 => 32
  | .bf16 => 16
  | .int4 => 4
  | _ => 8

/-- Whether H is legal for an element width (R310). -/
def hOk (bits : Nat) (h : BitVec 2) : Bool :=
  if bits = 4 then true else if bits = 8 then decide (h.toNat ≤ 1) else h = 0

/-- The first word and the number of words that 64 elements of a width take, from H (R310). -/
def elemWords (bits : Nat) (h : BitVec 2) : Nat × Nat := (bits * h.toNat, bits)

/-- The word-enable mask of words lo to lo + n - 1 of line `q` of the entry's lines. -/
def wordMask (lo n q : Nat) : BitVec 16 :=
  BitVec.ofNat 16 (((2 ^ n - 1) * 2 ^ lo) / 2 ^ (16 * q))

/-- Element i of a list of words, for a width in bits. -/
def rawElem (bits : Nat) (ws : List Word) (i : Nat) : Lane32 :=
  let n := 64 / bits
  ((lget 0 ws (i / n)) >>> (bits * (i % n))).setWidth 32 &&& BitVec.ofNat 32 (2 ^ bits - 1)

/-- Read the words of an entry's 64 elements from LINE onwards. -/
def elemRead (h : SeqHdr) (e : SeqRun) (bits : Nat) (hh : BitVec 2) (line : BitVec 16) (t : Tile) :
    Tile × List RWord × List TOut :=
  let lw := elemWords bits hh
  let n := if bits = 32 then 2 else 1
  let r := (List.range n).foldl (fun acc q =>
    let s := seqRead h.site e.cyc e.taint (wordMask lw.1 lw.2 q) acc.1 (lineAdd line q)
    (s.1, acc.2.1 ++ s.2.1, acc.2.2 ++ s.2.2)) (t, [], [])
  (r.1, (r.2.1.drop lw.1).take lw.2, r.2.2)

/-- VLD: 64 elements into VREG, readable from t + 5 (R310). -/
def fuVld (h : SeqHdr) (a : FumArgs) (t : Tile) : Tile × List TOut :=
  fuOp h true (fun e t =>
    match efmtOf a.fmt with
    | none => fuIllegal h e 5 [a.vreg.toNat] (List.range 64) t
    | some f =>
      let bits := efmtBits f
      if !hOk bits a.h then fuIllegal h e 5 [a.vreg.toNat] (List.range 64) t
      else
        let r := elemRead h e bits a.h (a.line + e.add) t
        let n := 64 / bits
        let p := fuPut e 5 a.vreg.toNat ((List.range 64).map (fun i =>
          let v := loadElem f (rawElem bits (bitsOf r.2.1) i)
          (i, ⟨v.1, (lget RWord.zero r.2.1 (i / n)).poison⟩, v.2))) r.1
        (p.1, r.2.2)) t

/-- Pack 64 element codes of a width into words; a word is marked when any lane it covers is (R310). -/
def packElems (bits : Nat) (ls : List (Lane32 × Bool)) : List RWord :=
  let n := 64 / bits
  (List.range bits).map (fun w =>
    let es := (ls.drop (n * w)).take n
    { bits := (List.range n).foldl (fun acc i =>
        acc ||| (((lget (0, false) es i).1.setWidth 64 &&& BitVec.ofNat 64 (2 ^ bits - 1)) <<< (bits * i))) 0,
      poison := es.any Prod.snd })

/-- Write words lo onwards of the lines from LINE in a bank cycle, with the word enables of what they cover. -/
def elemWrite (e : SeqRun) (cyc lo : Nat) (ws : List RWord) (line : BitVec 16) (t : Tile) : Tile × List TOut :=
  let all := List.replicate lo RWord.zero ++ ws
  (List.range ((lo + ws.length + 15) / 16)).foldl (fun acc q =>
    let r := seqWrite .fu cyc e.taint (wordMask lo ws.length q) acc.1 (lineAdd line q) ((all.drop (16 * q)).take 16)
    (r.1, acc.2 ++ r.2)) (t, [])

/-- VST: 64 lanes, narrowed by RM and SATB, written in bank cycle t + 4 (R310). -/
def fuVst (h : SeqHdr) (a : FumArgs) (t : Tile) : Tile × List TOut :=
  fuOp h true (fun e t =>
    match efmtOf a.fmt, rmOf a.rm with
    | some f, some rm =>
      let bits := efmtBits f
      if !hOk bits a.h || !storeRmOk f rm then fuIllegal h e 4 [] [] t
      else
        let xs := (vlanes t a.vreg.toNat).map (fun l => (storeElem f rm a.satb l.bits, l.poison))
        let fl := flOr (xs.map (fun x => if x.2 then flNone else x.1.2))
        let r := elemWrite e (e.cyc + 4) (elemWords bits a.h).1 (packElems bits (xs.map (fun x => (x.1.1, x.2))))
          (a.line + e.add) t
        (sendEff r.1 (e.cyc + 4) (.ffu fl), r.2)
    | _, _ => fuIllegal h e 4 [] [] t) t

/-- The width of an element of a block format. -/
def bfmtBits : BlockFmt → Nat
  | .kv4 => 4
  | _ => 8

/-- Whether SEL names bytes within its line (R310). -/
def selOk (f : BlockFmt) (sel : BitVec 8) : Bool :=
  if f = .a8 then decide (sel.toNat ≤ 63) else decide (sel.toNat ≤ 126)

/-- VLDQ: 64 elements dequantised into VREG, readable from t + 6; LINE is read before SLINE (R310, R635). -/
def fuVldq (h : SeqHdr) (a : FumArgs) (t : Tile) : Tile × List TOut :=
  fuOp h true (fun e t =>
    match bfmtOf a.fmt with
    | none => fuIllegal h e 6 [a.vreg.toNat] (List.range 64) t
    | some f =>
      let bits := bfmtBits f
      if !hOk bits a.h || !selOk f a.sel then fuIllegal h e 6 [a.vreg.toNat] (List.range 64) t
      else
        let r := elemRead h e bits a.h (a.line + e.add) t
        let n := 64 / bits
        let s0 := if f = .a8 then 2 * a.sel.toNat else a.sel.toNat
        let m : BitVec 16 := (1 <<< (s0 / 8)) ||| (1 <<< ((s0 + 1) / 8))
        let q := seqRead h.site e.cyc e.taint m r.1 a.sline
        let sc := fun (i : Nat) =>
          if f = .a8 then (halfOf (bitsOf q.2.1) a.sel.toNat, (lget RWord.zero q.2.1 (s0 / 8)).poison)
          else
            let b := s0 + i / 32
            ((byteOf (bitsOf q.2.1) b).setWidth 16, (lget RWord.zero q.2.1 (b / 8)).poison)
        let p := fuPut e 6 a.vreg.toNat ((List.range 64).map (fun i =>
          let v := dequant f (sc i).1 ((rawElem bits (bitsOf r.2.1) i).setWidth 8)
          (i, ⟨v.1, (lget RWord.zero r.2.1 (i / n)).poison || (sc i).2⟩, v.2))) q.1
        (p.1, r.2.2 ++ q.2.2)) t

/-- Send bytes of scales to the scale buffer (R310). -/
def sendScales (t : Tile) (cyc n : Nat) (bs : List (Byte × Bool)) : Tile :=
  (List.range bs.length).foldl (fun s i => sendEff s cyc (.sbuf (n + i) (lget (0, false) bs i))) t

/-- VSTQ: quantise lanes to a block format, writing the codes and the scale buffer in bank cycle t + 10; a marked element
marks its whole group and its scale, and its group raises no flag (R310, R96, R118-R120). -/
def fuVstq (h : SeqHdr) (a : FumArgs) (t : Tile) : Tile × List TOut :=
  fuOp h true (fun e t =>
    match bfmtOf a.fmt with
    | none => fuIllegal h e 10 [] [] t
    | some f =>
      if !selOk f a.sel || (f ≠ .a8 && !hOk (bfmtBits f) a.h) || (f = .a8 && a.vreg.getLsbD 0) then
        fuIllegal h e 10 [] [] t
      else
        let ls := if f = .a8 then vlanes t a.vreg.toNat ++ vlanes t (a.vreg.toNat + 1) else vlanes t a.vreg.toNat
        let gs := if f = .a8 then [ls] else [ls.take 32, ls.drop 32]
        let qs := gs.map (fun g => (quantise f (g.map PLane.bits), g.any PLane.poison))
        let fl := flOr (qs.map (fun q => if q.2 then flNone else q.1.flags))
        let codes := qs.flatMap (fun q => q.1.codes.map (fun c => (c.setWidth 32, q.2)))
        let scales : List (Byte × Bool) := if f = .a8 then
            qs.flatMap (fun (q : QGroup × Bool) => [(q.1.scale.setWidth 8, q.2), ((q.1.scale >>> 8).setWidth 8, q.2)])
          else qs.map (fun q => (q.1.scale.setWidth 8, q.2))
        let bits := bfmtBits f
        let ws := if f = .a8 then packElems 8 (codes.take 64) ++ packElems 8 (codes.drop 64) else packElems bits codes
        let lo := if f = .a8 then 0 else (elemWords bits a.h).1
        let r := elemWrite e (e.cyc + 10) lo ws (a.line + e.add) t
        let t1 := sendScales r.1 (e.cyc + 10) (if f = .a8 then 2 * a.sel.toNat else a.sel.toNat) scales
        (sendEff t1 (e.cyc + 10) (.ffu fl), r.2)) t

/-- VSTS: the 128 bytes of the scale buffer, as updated by VSTQ writes in bank cycle t or earlier, are written in bank
cycle t + 2 (R310). -/
def fuVsts (h : SeqHdr) (a : FumArgs) (t : Tile) : Tile × List TOut :=
  fuOp h true (fun e t =>
    let bs := (List.range 128).map (fun i => let b := sget (0, false) t.fu.sbuf i; (b.1.setWidth 32, b.2))
    elemWrite e (e.cyc + 2) 0 (packElems 8 (bs.take 64) ++ packElems 8 (bs.drop 64)) (a.line + e.add) t) t

end Sys2Proof.Machine
end

