-- ==== Sys2Proof/Machine/Finish.lean ====
section
/-! DEFINITION. The meanings of the finish unit's entries (R303-R310, R636). -/

namespace Sys2Proof.Machine

/-- FADD (R304). -/
def execFadd (h : SeqHdr) (a : FuArgs) (s : State) : Host.Outcome State Fault Refusal :=
  seqDo s h (fuArith fadd h a)

/-- FSUB (R304). -/
def execFsub (h : SeqHdr) (a : FuArgs) (s : State) : Host.Outcome State Fault Refusal :=
  seqDo s h (fuArith fsub h a)

/-- FMUL (R304). -/
def execFmul (h : SeqHdr) (a : FuArgs) (s : State) : Host.Outcome State Fault Refusal :=
  seqDo s h (fuArith fmul h a)

/-- FMA, rounded once (R304). -/
def execFma (h : SeqHdr) (a : FuArgs) (s : State) : Host.Outcome State Fault Refusal :=
  seqDo s h (fuFma h a)

/-- FMIN (R304). -/
def execFmin (h : SeqHdr) (a : FuArgs) (s : State) : Host.Outcome State Fault Refusal :=
  seqDo s h (fuBin fmin h a)

/-- FMAX (R304). -/
def execFmax (h : SeqHdr) (a : FuArgs) (s : State) : Host.Outcome State Fault Refusal :=
  seqDo s h (fuBin fmax h a)

/-- FABS (R304). -/
def execFabs (h : SeqHdr) (a : FuArgs) (s : State) : Host.Outcome State Fault Refusal :=
  seqDo s h (fuUn 2 (fsign true) h a)

/-- FNEG (R304). -/
def execFneg (h : SeqHdr) (a : FuArgs) (s : State) : Host.Outcome State Fault Refusal :=
  seqDo s h (fuUn 2 (fsign false) h a)

/-- FRCP (R304). -/
def execFrcp (h : SeqHdr) (a : FuArgs) (s : State) : Host.Outcome State Fault Refusal :=
  seqDo s h (fuUn 8 frcp h a)

/-- FRSQ (R304). -/
def execFrsq (h : SeqHdr) (a : FuArgs) (s : State) : Host.Outcome State Fault Refusal :=
  seqDo s h (fuUn 8 frsq h a)

/-- FEXP (R304). -/
def execFexp (h : SeqHdr) (a : FuArgs) (s : State) : Host.Outcome State Fault Refusal :=
  seqDo s h (fuUn 8 fexp h a)

/-- FEXP2 (R304). -/
def execFexp2 (h : SeqHdr) (a : FuArgs) (s : State) : Host.Outcome State Fault Refusal :=
  seqDo s h (fuUn 8 fexp2 h a)

/-- FSIG (R304). -/
def execFsig (h : SeqHdr) (a : FuArgs) (s : State) : Host.Outcome State Fault Refusal :=
  seqDo s h (fuUn 12 fsig h a)

/-- FTANH (R304). -/
def execFtanh (h : SeqHdr) (a : FuArgs) (s : State) : Host.Outcome State Fault Refusal :=
  seqDo s h (fuUn 12 ftanh h a)

/-- FSILU (R304). -/
def execFsilu (h : SeqHdr) (a : FuArgs) (s : State) : Host.Outcome State Fault Refusal :=
  seqDo s h (fuUn 12 fsilu h a)

/-- FGELU (R304). -/
def execFgelu (h : SeqHdr) (a : FuArgs) (s : State) : Host.Outcome State Fault Refusal :=
  seqDo s h (fuUn 12 fgelu h a)

/-- FRSUM (R304). -/
def execFrsum (h : SeqHdr) (a : FuArgs) (s : State) : Host.Outcome State Fault Refusal :=
  seqDo s h (fuRsum h a)

/-- FRMAX (R304). -/
def execFrmax (h : SeqHdr) (a : FuArgs) (s : State) : Host.Outcome State Fault Refusal :=
  seqDo s h (fuRmax h a)

/-- FCMP (R304). -/
def execFcmp (h : SeqHdr) (a : FuArgs) (s : State) : Host.Outcome State Fault Refusal :=
  seqDo s h (fuCmp h a)

/-- FSEL (R304). -/
def execFsel (h : SeqHdr) (a : FuArgs) (s : State) : Host.Outcome State Fault Refusal :=
  seqDo s h (fuSel h a)

/-- FBC (R304). -/
def execFbc (h : SeqHdr) (a : FuArgs) (s : State) : Host.Outcome State Fault Refusal :=
  seqDo s h (fuBc h a)

/-- FCVT (R304). -/
def execFcvt (h : SeqHdr) (a : FuArgs) (s : State) : Host.Outcome State Fault Refusal :=
  seqDo s h (fuCvt h a)

/-- VTOPM (R304). -/
def execVtopm (h : SeqHdr) (a : FuArgs) (s : State) : Host.Outcome State Fault Refusal :=
  seqDo s h (fuTopm h a)

/-- VIOTA (R304). -/
def execViota (h : SeqHdr) (a : FuArgs) (s : State) : Host.Outcome State Fault Refusal :=
  seqDo s h (fuIota h a)

/-- IADD, modulo 2^32 (R304). -/
def execIadd (h : SeqHdr) (a : FuArgs) (s : State) : Host.Outcome State Fault Refusal :=
  seqDo s h (fuInt (fun x y => x + y) h a)

/-- ISUB, modulo 2^32 (R304). -/
def execIsub (h : SeqHdr) (a : FuArgs) (s : State) : Host.Outcome State Fault Refusal :=
  seqDo s h (fuInt (fun x y => x - y) h a)

/-- IAND (R304). -/
def execIand (h : SeqHdr) (a : FuArgs) (s : State) : Host.Outcome State Fault Refusal :=
  seqDo s h (fuInt (fun x y => x &&& y) h a)

/-- IOR (R304). -/
def execIor (h : SeqHdr) (a : FuArgs) (s : State) : Host.Outcome State Fault Refusal :=
  seqDo s h (fuInt (fun x y => x ||| y) h a)

/-- IXOR (R304). -/
def execIxor (h : SeqHdr) (a : FuArgs) (s : State) : Host.Outcome State Fault Refusal :=
  seqDo s h (fuInt (fun x y => x ^^^ y) h a)

/-- ISHL by VB[4:0] (R304). -/
def execIshl (h : SeqHdr) (a : FuArgs) (s : State) : Host.Outcome State Fault Refusal :=
  seqDo s h (fuInt (fun x y => x <<< (y.toNat % 32)) h a)

/-- ISHR by VB[4:0], arithmetic (R304). -/
def execIshr (h : SeqHdr) (a : FuArgs) (s : State) : Host.Outcome State Fault Refusal :=
  seqDo s h (fuInt (fun x y => x.sshiftRight (y.toNat % 32)) h a)

/-- IMIN, signed (R304). -/
def execImin (h : SeqHdr) (a : FuArgs) (s : State) : Host.Outcome State Fault Refusal :=
  seqDo s h (fuInt (fun x y => if y.slt x then y else x) h a)

/-- IMAX, signed (R304). -/
def execImax (h : SeqHdr) (a : FuArgs) (s : State) : Host.Outcome State Fault Refusal :=
  seqDo s h (fuInt (fun x y => if x.slt y then y else x) h a)

/-- VRNG (R440). -/
def execVrng (h : SeqHdr) (a : FuArgs) (s : State) : Host.Outcome State Fault Refusal :=
  seqDo s h (fuRng h a)

/-- VMOV (R304). -/
def execVmov (h : SeqHdr) (a : FuArgs) (s : State) : Host.Outcome State Fault Refusal :=
  seqDo s h (fuElem h a 2 (a.rm = 0) [a.va] (fun l => (op1 l, flNone)))

/-- VLD (R310). -/
def execVld (h : SeqHdr) (a : FumArgs) (s : State) : Host.Outcome State Fault Refusal :=
  seqDo s h (fuVld h a)

/-- VST (R310). -/
def execVst (h : SeqHdr) (a : FumArgs) (s : State) : Host.Outcome State Fault Refusal :=
  seqDo s h (fuVst h a)

/-- VLDQ (R310). -/
def execVldq (h : SeqHdr) (a : FumArgs) (s : State) : Host.Outcome State Fault Refusal :=
  seqDo s h (fuVldq h a)

/-- VSTQ (R310). -/
def execVstq (h : SeqHdr) (a : FumArgs) (s : State) : Host.Outcome State Fault Refusal :=
  seqDo s h (fuVstq h a)

/-- VSTS (R310). -/
def execVsts (h : SeqHdr) (a : FumArgs) (s : State) : Host.Outcome State Fault Refusal :=
  seqDo s h (fuVsts h a)

end Sys2Proof.Machine
end

