-- ==== Sys2Proof/Machine/Frames.lean ====
section
/-! DEFINITION. Frame and beat boundaries: what becomes due at them, the apply boundary of commit groups, and the reinstatement of an
in-doubt participant (R8, R162, R208-R211, R276, R370, R371, R409-R411, R420, R503, R504, R551, R590). -/

namespace Sys2Proof.Machine

/-! ### Items of a group made live (R404, R411) -/

/-- A frequency step: pod time goes on from the boundary at which it applies, in frames of the new length; a reserved code is ignored
(R589-R591). -/
def freqApply (k : BitVec 4) (s : State) : State :=
  if 8 < k.toNat then s else
  let t := s.pod.frameBase + BitVec.ofNat 64 ((s.frames - s.pod.baseFrame) * frameUnits s.clk.k / 7927920)
  hazRefresh { s with
    pod := { s.pod with frameBase := t, baseFrame := s.frames }
    clk := { s.clk with k := k }
    pwr := { s.pwr with sinceStep := 0 } }

/-- One item of a group becomes live at a participant; `doubt` lists the nodes that miss the group. -/
def itemPut (doubt : List Nat) (node : Nat) (s : State) (i : CgItem) : State :=
  match i with
  | .word n off v => if n < 8064 then tilePut s n (storeWrite off v (tileAt s n)) else regPut true 0 0 (nodeWindow n + off) v s
  | .fence z full => fencePut z full s
  | .unfence z => fenceLift z s
  | .image => openSpans (imageApply doubt s)
  | .admitItem sid => admitApply sid s
  | .closing sid => closingApply sid s
  | .pageHome sid n e _ => if (ctxAt s sid).st = .free then s else ptePut sid n e s
  | .pageOwn _ n e => if node < 8064 then
      let t := tileAt s node
      tilePut s node { t with seq := { t.seq with pageOwn := sset 0 t.seq.pageOwn n e } }
    else s
  | .migrate sid ps => migrateApply sid ps s
  | .freq k => freqApply (k.setWidth 4) s
  | .probeSet => probeApply s

/-! ### The apply boundary (R371, R409-R411, R413, R414) -/

/-- Whether a task of a kind of a stream is ACTIVE. -/
def activeTask (s : State) (sid kind : Nat) : Bool :=
  (engAt s (sidEng sid)).tasks.any (fun t => t.kind == kind && t.stream == some sid && t.st == .active)
/-- Whether an item belongs to an admission or a migration that a cancellation at this boundary has ended (R371). -/
def itemVoid (s : State) : CgItem → Bool
  | .admitItem sid => !activeTask s sid 1
  | .migrate sid _ => !activeTask s sid 7
  | _ => false

/-- A group leaves the service die, its hubs and its participants. -/
def cgClose (cgid : BitVec 16) (c : Cg) : Cg :=
  { c with groups := c.groups.filter (fun g => g.cgid != cgid), parts := c.parts.filter (fun p => p.cgid != cgid),
           hubs := c.hubs.filter (fun v => v.cgid != cgid) }
/-- An in-doubt participant is counted (R414). -/
def countDoubt (c : Cg) : Cg := if c.indoubt = 0x7FFF then { c with ovf := true } else { c with indoubt := c.indoubt + 1 }
/-- A participant misses a group: in doubt it reports, dust-sheeted it does not; what it missed of an applied group is owed to it
(R411, R413). -/
def partMissed (applied : Bool) (s : State) (p : CgPart) : State :=
  let s1 := if dusted s p.node then s else scopeRpt p.node p.cgid (onCg countDoubt s)
  if applied then onCg (fun c => { c with owed := c.owed ++ [p] }) s1 else s1

/-- The apply boundary of a group: every participant that holds the decision makes its shadow state live; the others discard it. A
group without a decision has timed out. -/
def groupDue (cgid : BitVec 16) (s : State) : State :=
  let ps := s.cg.parts.filter (fun p => p.cgid == cgid)
  let g := groupAt s.cg cgid
  if (ps.flatMap CgPart.items).any (itemVoid s) then onCg (fun c => recordDecision cgid 3 0 0 (cgClose cgid c)) s
  else
    let applied : Bool := match g with | some x => x.decision == .apply | none => false
    let gets := ps.filter (fun p => p.decision == .apply && !dusted s p.node)
    let miss := ps.filter (fun p => p.prepared && !(p.decision == .apply && !dusted s p.node) && p.node != svcNode)
    let s1 := onCg (fun c =>
      let d := cgClose cgid c
      if applied then { d with applied := d.applied + 1 } else if g.isSome then recordDecision cgid 2 0 0 d else d) s
    let s2 := gets.foldl (fun acc p => p.items.foldl (itemPut (miss.map CgPart.node) p.node) acc) s1
    miss.foldl (partMissed applied) s2

/-- The groups whose apply boundary this is. -/
def groupsNow (s : State) : List (BitVec 16) :=
  let n := frameCtr s
  (((s.cg.parts.filter (fun p => p.prepared && decide (p.frame.toNat ≤ n.toNat))).map CgPart.cgid) ++
    (s.cg.groups.filter (fun g => g.prepared && decide (g.frame.toNat ≤ n.toNat))).map CgGroup.cgid).eraseDups
/-- Every group that is due. -/
def groupsDue (s : State) : State := (groupsNow s).foldl (fun acc c => groupDue c acc) s

/-! ### What waited for a group that did not apply (R339, R358, R402, R423) -/

/-- Whether some participant holds an item. -/
def held (s : State) (p : CgItem → Bool) : Bool := s.cg.parts.any (fun x => x.items.any p)
/-- A stream's admission, migration or closing after a group of it was discarded: the ADMIT or MIGRATE fails with FAULT, a closing
is opened again by the next CLOSING_COMMIT; an ADMIT that waits for the cap goes on when the count allows it. -/
def streamRetry (sid : Nat) (s : State) : State :=
  let n := sidEng sid
  let c := ctxAt s sid
  let task := fun (k : Nat) => (engAt s n).tasks.find? (fun t => t.kind == k && t.stream == some sid && t.st == .active)
  match c.st, task 1, task 7 with
  | .admitting, some t, _ => if t.sent = 0 then admitGo n sid t s else if held s (isAdmit sid) then s else taskFail n t 12 7 s
  | .closing, _, _ => if c.closing && !c.closed && !held s (isClosing sid) then ctxUpd sid (fun c => { c with closing := false }) s else s
  | _, _, some t => if held s (isMigrate sid) then s else taskFail n t 12 7 s
  | _, _, _ => s
/-- A probe set or an image whose group was discarded is dropped. -/
def dropLost (s : State) : State :=
  let isSet : CgItem → Bool := fun i => match i with | .probeSet => true | _ => false
  let s1 := if s.flt.setPending && !held s isSet then probeDrop s else s
  if 6 ≤ s1.load.st.toNat ∧ s1.load.cgid.isSome ∧ !s1.cg.parts.any (fun p => some p.cgid == s1.load.cgid) then loadEnd 24 0xFF 0 s1 else s1

/-- The page-table entries that a shadow item holds. -/
def itemEntries : CgItem → List Word
  | .pageHome _ _ e _ => [e]
  | .migrate _ ps => ps.map Prod.snd
  | _ => []
/-- Release the CACHE granules that no page table, shadow item or adapter copy names: those of discarded groups. -/
def sweepCache (s : State) : State :=
  let tabs := (busySids s).flatMap (fun sid => (List.range 1024).map (pteAt s sid))
  let shadow := ((s.cg.parts ++ s.cg.owed).flatMap CgPart.items).flatMap itemEntries
  let used := ((tabs ++ shadow).filter pteDram).map pteAddr ++ s.adapters.filterMap (fun a => a.2.copyAt)
  s.md.foldl (fun acc d => d.2.grants.foldl (fun acc g =>
    let a := dramAddr d.1 g.ext (0x10000 * g.first)
    if used.contains a then acc else cacheDrop a acc) acc) s

/-! ### Loads that end (R161, R163, R170) -/

/-- Whether every page that a slice's build programs reads VALID: those of its macros and those of its store lines. -/
def sliceBuilt (s : State) (sl : Slice) : Bool :=
  sl.macros.all (fun z => macroValid (fabAt s z.site) (macIx z)) &&
    ((sl.lines.map Prod.fst).eraseDups).all (fun site =>
      (List.range (tileLines sl site).length).all (fun j => match (tileStores sl site)[j / 128]? with
        | some z => pageState (pageGet (fabAt s site) (macIx z) (j % 128)) == 2
        | none => false))
/-- A LOADING model whose slices are all built becomes RESIDENT by commit, and its waiting streams go on. -/
def loadDone (m : Nat) (s : State) : State :=
  let r := residAt s m
  match s.load.img with
  | none => s
  | some i =>
    if r.st = .loading ∧ !r.slices.isEmpty ∧ r.slices.all (sliceBuilt s) then
      let s1 := r.slices.foldl (fun acc sl => restoreSlice sl (liveSlice i sl acc)) s
      let s2 := cgWhole (residUpd m (fun r => { r with st := .resident, slices := r.slices.map (fun sl => { sl with resident := true, age := 0 }) }) s1)
      resEnd m (((openSids s2).filter (fun sid => (ctxAt s2 sid).m.toNat == m)).foldl (fun acc sid => waitEnds sid false acc) s2)
    else s

/-! ### FRAME_BOUNDARY (R8, R208, R420, R503) -/

/-- The frame counter, module time and the operating seconds advance by a frame (R8, R565). -/
def frameAdvance (s : State) : State :=
  let t := s.time + frameUnits s.clk.k
  let sec := 1000000000 * 7927920
  onFlt (fun f => { f with opt := f.opt + BitVec.ofNat 40 (t / sec - s.time / sec) }) { s with frames := s.frames + 1, time := t }
/-- The boundary at which a member's frame counter and phase step onto the pod's grid: the first pod frame that begins now or later
(R503). -/
def frameAlign (s : State) : State :=
  if !s.pod.align then s
  else
    let u := frameUnits s.clk.k
    let base := s.pod.frameBase.toNat * 7927920
    let n := (s.time - base + u - 1) / u
    { s with frames := n, time := max s.time (base + n * u), pod := { s.pod with align := false } }
/-- What falls due for a stream before the commits of the boundary: its cancellation and the loss of its ring win over them (R371). -/
def streamDue (s : State) (sid : Nat) : State :=
  if (engAt s (sidEng sid)).stopped then s else entriesDue sid (commitsDue sid (lostDue sid (cancelDue sid s)))
/-- The tiles at the start of a frame: their sampled registers, and the reference scans that end. -/
def tilesDue (s : State) : State :=
  let run := fun (acc : State) (z : Nat) => scansDue z (cycAt acc 0) (if routerLive acc z then tileRun acc z (tileFrame z acc.frames) else acc)
  let s1 := (s.grid.tiles.map Prod.fst).foldl run s
  { s1 with clk := { s1.clk with slipPorts := skeep s1.clk.slipPorts (fun _ f => decide (s1.frames < f)) } }
/-- Whether frame boundaries occur: the tile clock runs. -/
def clockRuns (s : State) : Bool :=
  s.svc.frz != 2 && !(s.svc.frz == 1 && decide (s.svc.stopFrame.toNat ≤ (frameCtr s).toNat)) && s.pwr.act != 4

/-- FRAME_BOUNDARY: the frame counter advances; cancellations, token commits, the groups whose apply boundary this is, and everything
else that waits for a frame boundary take effect in that order (R208, R370, R371, R411, R420, R503, R504). -/
def execFrameBoundary (s : State) : Host.Outcome State Fault Refusal :=
  if !clockRuns s then .next s
  else
    let s1 := frameAlign (frameAdvance s)
    let s2 := (busySids s1).foldl streamDue s1
    let s3 := epochsDue (groupsDue s2)
    let s4 := (busySids s3).foldl (fun acc sid => ctxFinish sid (streamRetry sid acc)) s3
    let s5 := sweepCache (dropLost s4)
    let s6 := tilesDue s5
    let s7 := (s6.resid.map Prod.fst).foldl (fun acc m => loadDone m acc) (loadReady s6)
    .next (bootDue (pstateDue (warmDue s7)))

/-! ### BEAT_BOUNDARY (R137, R162, R210, R211, R276, R582, R608) -/

/-- Holds at a beat boundary of a pipeline: one that was requested begins; one that runs loses a beat and ends with its last (R162). -/
def holdBeat (q : Nat) (g : Grid) : Grid :=
  if !g.held.contains q then g
  else if !g.begun.contains q then { g with begun := g.begun ++ [q] }
  else match sget 0 g.release q with
    | 0 => g
    | 1 => { g with held := g.held.filter (· != q), begun := g.begun.filter (· != q), release := sdel g.release q,
                    handover := g.handover.filter (· != q) }
    | n => { g with release := sset 0 g.release q (n - 1) }
/-- The model that a pipeline serves. -/
def pipeModel (s : State) (q : Nat) : Nat :=
  match s.load.img.bind (fun i => i.regions.find? (fun r => r.pipe == q)) with | some r => r.model | none => 0
/-- The READY adapter slots of a model. -/
def readySlots (s : State) (m : Nat) : List Nat := (List.range (adSlots s m)).filter (fun a => (adAt s m a).st == 2)
/-- A tile of the pipeline at its beat boundary: the stencil starts, or in P2 stops; of a tile fenced compute-only the router's part
(R210, R549, R582). -/
def siteBeat (hold hand : Bool) (s : State) (z : Nat) : State :=
  if !routerLive s z then s
  else
    let t := tileAt s z
    if s.pwr.act = 2 then tilePut s z { t with mesh := { t.mesh with run := false, held := false } }
    else
      let b := tileBeat s.frames hold t
      let m := { b.mesh with set := hold && hand }
      tilePut s z (if tileLive s z then { b with mesh := m } else { t with mesh := m })
/-- The placed tiles of a pipeline. -/
def pipeSites (s : State) (q : Nat) : List Nat :=
  match s.load.img with
  | some i => ((s.plc.courses.filter (fun c => c.pipe == q)).flatMap (fun c => c.regs)).flatMap (regSites i)
  | none => []

/-- BEAT_BOUNDARY: at a beat boundary of a pipeline holds begin and end, every stencil starts an invocation, the shadow lane tables
become active, and idle control cores start; the neighbours' FENCE of a tile heard after its reset is cleared. Nothing outside a
beat boundary, without an image, during the recovery of a warm reset or while the tiles stand still. -/
def execBeatBoundary (q : Byte) (s : State) : Host.Outcome State Fault Refusal :=
  let p := q.toNat
  let bp := beatOf s p
  let sites := pipeSites s p
  if sites.isEmpty ∨ s.svc.warming ∨ gridStopped s ∨ s.frames < bp.2 ∨ (s.frames - bp.2) % bp.1 ≠ 0 then .next s
  else
    let s1 := onGrid (holdBeat p) s
    let hold := s1.grid.held.contains p
    let s2 := sites.foldl (siteBeat hold (s1.grid.handover.contains p)) s1
    let s3 := onGrid (fun g => { g with ready := sset [] g.ready p (readySlots s2 (pipeModel s2 p)) }) s2
    let back := s3.lath.lifts.filter (fun z => sites.contains z)
    let s4 := back.foldl (fun acc z => if isFenced acc z then acc else wordsPut (neighbourCfgs acc z false) acc) s3
    .next (onLath (fun l => { l with lifts := l.lifts.filter (fun z => !sites.contains z) }) s4)

/-! ### In-doubt participants (R411, R551) -/

/-- The live state of a group written to a reinstated participant. -/
def owedWrite (s : State) (p : CgPart) : State := p.items.foldl (itemPut [] p.node) s
/-- INDOUBT_REINSTATEMENT: under a hold the participant is dust-sheeted, reset, given the live state of every group that applied while
it was in doubt, and heard again; pages homed on it are lost and the event is charged to it (R551). -/
def execIndoubtReinstatement (node : Node) (s : State) : Host.Outcome State Fault Refusal :=
  let owed := s.cg.owed.filter (fun p => p.node == node.val)
  if owed.isEmpty then .next s
  else
    let s0 := onCg (fun c => { c with owed := c.owed.filter (fun p => p.node != node.val) }) s
    if node.val < 8064 then
      let qs := sitePipes s0 node
      let ep := epochCopy s0 node + 1
      let s1 := copySet node ep (holdAll qs s0)
      let lost := pageStreams s1 node
      let s2 := tileResetNow node false s1
      let s3 := onLath (fun l => { l with resets := l.resets.filter (· != node.val) }) s2
      let s4 := wordsPut (neighbourCfgs s3 node false) (owed.foldl owedWrite s3)
      let s5 := lathUpd node (fun n => { n with epoch := ep }) s4
      .next (endAll qs (chargeEvent (unitTile node) 0x0E (pagesLost lost s5)).1)
    else .next (owed.foldl owedWrite s0)

end Sys2Proof.Machine
end

