-- ==== Sys2Proof/Machine/MeshOps.lean ====
section
/-! DEFINITION. The meanings of the mesh events: a flit at a router, the write of the ejection buffer, a rim die's
injection, and a credit returned over the lath (R38, R39, R203, R205, R215, R224). -/

namespace Sys2Proof.Machine

/-- Whether a slip poisons what a port receives in this frame; RIM is input 5 of the router and port 4 of CLK_SLIP (R594). -/
def slipped (s : State) (site port : Nat) : Bool := decide (s.frames < sget 0 s.clk.slipPorts (8 * site + if port = 5 then 4 else port))

/-- FLIT_ARRIVAL: the flit on its way to an input in this cycle reaches the router; `crcOk` says whether its sideband CRC
holds after the wire, and a slipped port poisons every word (R198, R205, R594). -/
def execFlitArrival (a : TileAt) (port : Fin 6) (crcOk : Bool) (s : State) : Host.Outcome State Fault Refusal :=
  let x := cycAt s a.k
  let here := fun (f : Flying) => f.site == a.site.val && f.port == port.val && f.cyc == x
  match s.grid.flits.find? here with
  | none => .next s
  | some f =>
    let s1 := onGrid (fun g => { g with flits := g.flits.eraseP here }) s
    let g : Flit := { f.flit with crcOk := f.flit.crcOk && crcOk, words := markIf (port.val != 4 && slipped s a.site port) f.flit.words }
    .next (routerDo s1 a.site (flitArrive a.site x port g))

/-- EJECTION_WRITE: the ejected flits of a bank cycle are written (R34, R203). -/
def execEjectionWrite (a : TileAt) (s : State) : Host.Outcome State Fault Refusal :=
  .next (tileDo s a.site (ejection a.site (cycAt s a.k)))

/-- Take the first line of a list for a destination, with the rest. -/
def takeFor (dst : Nat) : List RimLine → Option (RimLine × List RimLine)
  | [] => none
  | l :: t => if l.site = dst then some (l, t) else (takeFor dst t).map (fun r => (r.1, l :: r.2))

/-- The CRED flit of a line that a rim die injects: SRC is the die's code (R203, R215). -/
def credFlit (code : Nat) (l : RimLine) : Flit :=
  { sid := 0, lane := 0, kind := kCred, line := l.line, wen := 0xFFFF, rel := l.rel, src := BitVec.ofNat 8 code, tag := 0,
    err := false, words := l.words, crcOk := true }

/-- Whether a source agent may write a line: a link die has taken its credit when it received the line (R493); another
rim die holds a credit for the line's window, or the line lies in no window of it and takes none (R38). -/
def mayWrite (s : State) (code : Nat) (l : RimLine) : Bool :=
  code < 16 ||
    match winOf (tileAt s l.site).pad l.line with
    | some w =>
      let v := winGet (tileAt s l.site).pad w
      !(v.typ == 1 && v.source.toNat == code) || decide (0 < sget 0 s.grid.credit (creditKey code l.site w))
    | none => true

/-- Take the credit of a line that is written. -/
def payCredit (s : State) (code : Nat) (l : RimLine) : State :=
  if code < 16 then s else
    match winOf (tileAt s l.site).pad l.line with
    | some w => onGrid (fun g => { g with credit := supd 0 g.credit (creditKey code l.site w) (· - 1) }) s
    | none => s

/-- RIM_INJECTION: in a calendar cycle of a port, the rim die injects the first line it holds for that cycle's
destination (R215). -/
def execRimInjection (rim : BitVec 6) (port : BitVec 3) (k : FrameCycle) (s : State) :
    Host.Outcome State Fault Refusal :=
  let code := rim.toNat
  match rimSite code port.toNat with
  | none => .next s
  | some site =>
    let x := cycAt s k
    let off := x - 2048 * (tileAt s site).mesh.beatAt
    let hit := (sget [] s.grid.cal code).find? (fun e => e.port == port.toNat && e.cyc == off)
    match hit with
    | none => .next s
    | some e =>
      if !(tileAt s site).mesh.run || gridStopped s then .next s
      else
        match takeFor e.dst (sget [] s.grid.rimQ code) with
        | none => .next s
        | some r =>
          if mayWrite s code r.1 then
            let s1 := payCredit s code r.1
            let s2 := onGrid (fun g => { g with rimQ := sset [] g.rimQ code r.2 }) s1
            .next (launch s2 site portRim x (credFlit code r.1))
          else .next s

/-- The oldest CREDIT message of a control core's lath queue that a test accepts is taken out (R284). -/
def dropMsg (p : CcMsg → Bool) (t : Tile) : Tile × List TOut :=
  ({ t with cc := { t.cc with lathQ := t.cc.lathQ.eraseP p } }, [])

/-- CREDIT: the message of a window's return leaves the tile's lath queue and its lines become credits of the source
agent (R39, R224, R284). -/
def execCredit (site : Site) (source : Byte) (win : BitVec 5) (lines : BitVec 16) (s : State) :
    Host.Outcome State Fault Refusal :=
  let s1 := tileRun s site (dropMsg (fun m => m == .credit source win lines))
  .next (if source.toNat ≤ 32 then creditBack s1 source.toNat site win.toNat lines.toNat else s1)

end Sys2Proof.Machine
end

