-- ==== Sys2Proof/Machine/Dispatch.lean ====
section
/-! DEFINITION. The meaning of each command: one arm per constructor, each one direct call of the command's meaning. -/

namespace Sys2Proof.Machine

def exec (i : Instr) (s : State) : Host.Outcome State Fault Refusal :=
  match i with
  | .add h rd ra rb => Sys2Proof.Machine.execAdd h rd ra rb s
  | .sub h rd ra rb => Sys2Proof.Machine.execSub h rd ra rb s
  | .and h rd ra rb => Sys2Proof.Machine.execAnd h rd ra rb s
  | .or h rd ra rb => Sys2Proof.Machine.execOr h rd ra rb s
  | .xor h rd ra rb => Sys2Proof.Machine.execXor h rd ra rb s
  | .shl h rd ra rb => Sys2Proof.Machine.execShl h rd ra rb s
  | .shr h rd ra rb => Sys2Proof.Machine.execShr h rd ra rb s
  | .sar h rd ra rb => Sys2Proof.Machine.execSar h rd ra rb s
  | .mul h rd ra rb => Sys2Proof.Machine.execMul h rd ra rb s
  | .mulhu h rd ra rb => Sys2Proof.Machine.execMulhu h rd ra rb s
  | .mulhs h rd ra rb => Sys2Proof.Machine.execMulhs h rd ra rb s
  | .divu h rd ra rb => Sys2Proof.Machine.execDivu h rd ra rb s
  | .remu h rd ra rb => Sys2Proof.Machine.execRemu h rd ra rb s
  | .divideComplete a => Sys2Proof.Machine.execDivideComplete a s
  | .min h rd ra rb => Sys2Proof.Machine.execMin h rd ra rb s
  | .max h rd ra rb => Sys2Proof.Machine.execMax h rd ra rb s
  | .minu h rd ra rb => Sys2Proof.Machine.execMinu h rd ra rb s
  | .maxu h rd ra rb => Sys2Proof.Machine.execMaxu h rd ra rb s
  | .clz h rd ra => Sys2Proof.Machine.execClz h rd ra s
  | .popc h rd ra => Sys2Proof.Machine.execPopc h rd ra s
  | .addi h rd ra imm => Sys2Proof.Machine.execAddi h rd ra imm s
  | .andi h rd ra imm => Sys2Proof.Machine.execAndi h rd ra imm s
  | .ori h rd ra imm => Sys2Proof.Machine.execOri h rd ra imm s
  | .xori h rd ra imm => Sys2Proof.Machine.execXori h rd ra imm s
  | .shli h rd ra imm => Sys2Proof.Machine.execShli h rd ra imm s
  | .shri h rd ra imm => Sys2Proof.Machine.execShri h rd ra imm s
  | .sari h rd ra imm => Sys2Proof.Machine.execSari h rd ra imm s
  | .lui h rd imm => Sys2Proof.Machine.execLui h rd imm s
  | .cmp h fn pd ra rb => Sys2Proof.Machine.execCmp h fn pd ra rb s
  | .cmpi h fn pd ra imm => Sys2Proof.Machine.execCmpi h fn pd ra imm s
  | .plog h op pd pa pb => Sys2Proof.Machine.execPlog h op pd pa pb s
  | .ld h rd ra imm => Sys2Proof.Machine.execLd h rd ra imm s
  | .ccLoadBankRead a => Sys2Proof.Machine.execCcLoadBankRead a s
  | .st h rs ra imm => Sys2Proof.Machine.execSt h rs ra imm s
  | .storeQueueDrain a => Sys2Proof.Machine.execStoreQueueDrain a s
  | .br h off => Sys2Proof.Machine.execBr h off s
  | .brl h off => Sys2Proof.Machine.execBrl h off s
  | .jr h rd ra imm => Sys2Proof.Machine.execJr h rd ra imm s
  | .desc h ra rb => Sys2Proof.Machine.execDesc h ra rb s
  | .cret h ra win => Sys2Proof.Machine.execCret h ra win s
  | .lsend h n ra name code => Sys2Proof.Machine.execLsend h n ra name code s
  | .rdsr h rd n => Sys2Proof.Machine.execRdsr h rd n s
  | .wrsr h ra n => Sys2Proof.Machine.execWrsr h ra n s
  | .rdlane h rd ra => Sys2Proof.Machine.execRdlane h rd ra s
  | .waitc h ra => Sys2Proof.Machine.execWaitc h ra s
  | .waitcResume a => Sys2Proof.Machine.execWaitcResume a s
  | .halt h => Sys2Proof.Machine.execHalt h s
  | .frameBoundary => Sys2Proof.Machine.execFrameBoundary s
  | .beatBoundary q => Sys2Proof.Machine.execBeatBoundary q s
  | .seqNop h => Sys2Proof.Machine.execSeqNop h s
  | .inj h line dline laneRec dly msel => Sys2Proof.Machine.execInj h line dline laneRec dly msel s
  | .rq h dline sline dly tag => Sys2Proof.Machine.execRq h dline sline dly tag s
  | .srv h w dly => Sys2Proof.Machine.execSrv h w dly s
  | .rel h win count => Sys2Proof.Machine.execRel h win count s
  | .mop h aline sline dline tier lm sel => Sys2Proof.Machine.execMop h aline sline dline tier lm sel s
  | .macroOpComplete a => Sys2Proof.Machine.execMacroOpComplete a s
  | .clipReport site => Sys2Proof.Machine.execClipReport site s
  | .ldw h a => Sys2Proof.Machine.execLdw h a s
  | .ldwComplete a => Sys2Proof.Machine.execLdwComplete a s
  | .lds h sb line gm => Sys2Proof.Machine.execLds h sb line gm s
  | .daMul h a => Sys2Proof.Machine.execDaMul h a s
  | .daMulComplete a => Sys2Proof.Machine.execDaMulComplete a s
  | .sets h pair half line elem => Sys2Proof.Machine.execSets h pair half line elem s
  | .daSt h acc line nl => Sys2Proof.Machine.execDaSt h acc line nl s
  | .fadd h a => Sys2Proof.Machine.execFadd h a s
  | .fsub h a => Sys2Proof.Machine.execFsub h a s
  | .fmul h a => Sys2Proof.Machine.execFmul h a s
  | .fma h a => Sys2Proof.Machine.execFma h a s
  | .fmin h a => Sys2Proof.Machine.execFmin h a s
  | .fmax h a => Sys2Proof.Machine.execFmax h a s
  | .fabs h a => Sys2Proof.Machine.execFabs h a s
  | .fneg h a => Sys2Proof.Machine.execFneg h a s
  | .frcp h a => Sys2Proof.Machine.execFrcp h a s
  | .frsq h a => Sys2Proof.Machine.execFrsq h a s
  | .fexp h a => Sys2Proof.Machine.execFexp h a s
  | .fexp2 h a => Sys2Proof.Machine.execFexp2 h a s
  | .fsig h a => Sys2Proof.Machine.execFsig h a s
  | .ftanh h a => Sys2Proof.Machine.execFtanh h a s
  | .fsilu h a => Sys2Proof.Machine.execFsilu h a s
  | .fgelu h a => Sys2Proof.Machine.execFgelu h a s
  | .frsum h a => Sys2Proof.Machine.execFrsum h a s
  | .frmax h a => Sys2Proof.Machine.execFrmax h a s
  | .fcmp h a => Sys2Proof.Machine.execFcmp h a s
  | .fsel h a => Sys2Proof.Machine.execFsel h a s
  | .fbc h a => Sys2Proof.Machine.execFbc h a s
  | .fcvt h a => Sys2Proof.Machine.execFcvt h a s
  | .vtopm h a => Sys2Proof.Machine.execVtopm h a s
  | .viota h a => Sys2Proof.Machine.execViota h a s
  | .iadd h a => Sys2Proof.Machine.execIadd h a s
  | .isub h a => Sys2Proof.Machine.execIsub h a s
  | .iand h a => Sys2Proof.Machine.execIand h a s
  | .ior h a => Sys2Proof.Machine.execIor h a s
  | .ixor h a => Sys2Proof.Machine.execIxor h a s
  | .ishl h a => Sys2Proof.Machine.execIshl h a s
  | .ishr h a => Sys2Proof.Machine.execIshr h a s
  | .imin h a => Sys2Proof.Machine.execImin h a s
  | .imax h a => Sys2Proof.Machine.execImax h a s
  | .vrng h a => Sys2Proof.Machine.execVrng h a s
  | .vmov h a => Sys2Proof.Machine.execVmov h a s
  | .vld h a => Sys2Proof.Machine.execVld h a s
  | .vst h a => Sys2Proof.Machine.execVst h a s
  | .vldq h a => Sys2Proof.Machine.execVldq h a s
  | .vstq h a => Sys2Proof.Machine.execVstq h a s
  | .vsts h a => Sys2Proof.Machine.execVsts h a s
  | .dtake h n line => Sys2Proof.Machine.execDtake h n line s
  | .bld h n line word half => Sys2Proof.Machine.execBld h n line word half s
  | .msk h mask => Sys2Proof.Machine.execMsk h mask s
  | .rep h nb count step lstep linc => Sys2Proof.Machine.execRep h nb count step lstep linc s
  | .flitArrival a port crcOk => Sys2Proof.Machine.execFlitArrival a port crcOk s
  | .ejectionWrite a => Sys2Proof.Machine.execEjectionWrite a s
  | .rimInjection rim port k => Sys2Proof.Machine.execRimInjection rim port k s
  | .lathMessageReceive sender receiver bytes => Sys2Proof.Machine.execLathMessageReceive sender receiver bytes s
  | .lathAckTimeout sender receiver => Sys2Proof.Machine.execLathAckTimeout sender receiver s
  | .heartbeatSend node => Sys2Proof.Machine.execHeartbeatSend node s
  | .heartbeat sender summary epoch => Sys2Proof.Machine.execHeartbeat sender summary epoch s
  | .hbMiss node => Sys2Proof.Machine.execHbMiss node s
  | .tileResetTimeout site => Sys2Proof.Machine.execTileResetTimeout site s
  | .hubPromotion b => Sys2Proof.Machine.execHubPromotion b s
  | .credit site source win lines => Sys2Proof.Machine.execCredit site source win lines s
  | .cfgWr a => Sys2Proof.Machine.execCfgWr a s
  | .cfgRd node off count tag => Sys2Proof.Machine.execCfgRd node off count tag s
  | .cfgRsp tag status words => Sys2Proof.Machine.execCfgRsp tag status words s
  | .errReport a => Sys2Proof.Machine.execErrReport a s
  | .errorLogEntry => Sys2Proof.Machine.execErrorLogEntry s
  | .cgPrepare node a => Sys2Proof.Machine.execCgPrepare node a s
  | .cgVote at_ sender cgid yes no noNode => Sys2Proof.Machine.execCgVote at_ sender cgid yes no noNode s
  | .hubVoteDeadline b cgid => Sys2Proof.Machine.execHubVoteDeadline b cgid s
  | .cgDecide cgid => Sys2Proof.Machine.execCgDecide cgid s
  | .cgApply node cgid frame => Sys2Proof.Machine.execCgApply node cgid frame s
  | .cgDiscard node cgid reason => Sys2Proof.Machine.execCgDiscard node cgid reason s
  | .indoubtReinstatement node => Sys2Proof.Machine.execIndoubtReinstatement node s
  | .fence node computeOnly epoch => Sys2Proof.Machine.execFence node computeOnly epoch s
  | .rejoin node epoch => Sys2Proof.Machine.execRejoin node epoch s
  | .tileReset site retrain => Sys2Proof.Machine.execTileReset site retrain s
  | .freeze stop cause => Sys2Proof.Machine.execFreeze stop cause s
  | .trimPeriod temps => Sys2Proof.Machine.execTrimPeriod temps s
  | .calStart v => Sys2Proof.Machine.execCalStart v s
  | .converterMeasure site mac group conv codes => Sys2Proof.Machine.execConverterMeasure site mac group conv codes s
  | .referenceScan site mac same => Sys2Proof.Machine.execReferenceScan site mac same s
  | .calRunComplete => Sys2Proof.Machine.execCalRunComplete s
  | .pageProgram host addr line => Sys2Proof.Machine.execPageProgram host addr line s
  | .pageProgramComplete site mac failing => Sys2Proof.Machine.execPageProgramComplete site mac failing s
  | .macroErase host addr line => Sys2Proof.Machine.execMacroErase host addr line s
  | .eraseComplete site mac ok => Sys2Proof.Machine.execEraseComplete site mac ok s
  | .pageRead host addr => Sys2Proof.Machine.execPageRead host addr s
  | .pageStateRead host addr => Sys2Proof.Machine.execPageStateRead host addr s
  | .eraseStatusRead host addr => Sys2Proof.Machine.execEraseStatusRead host addr s
  | .verifyFailRepair site mac failing => Sys2Proof.Machine.execVerifyFailRepair site mac failing s
  | .spareColumnReplacement site mac col => Sys2Proof.Machine.execSpareColumnReplacement site mac col s
  | .retentionTick => Sys2Proof.Machine.execRetentionTick s
  | .refresh m slice => Sys2Proof.Machine.execRefresh m slice s
  | .stagedSwap m group => Sys2Proof.Machine.execStagedSwap m group s
  | .inPlaceSwap m slice => Sys2Proof.Machine.execInPlaceSwap m slice s
  | .modelEviction need => Sys2Proof.Machine.execModelEviction need s
  | .libraryEviction need => Sys2Proof.Machine.execLibraryEviction need s
  | .residentStoreRestore site => Sys2Proof.Machine.execResidentStoreRestore site s
  | .shardCheck => Sys2Proof.Machine.execShardCheck s
  | .imgBegin sess len abort flash drain => Sys2Proof.Machine.execImgBegin sess len abort flash drain s
  | .imgData sess off bytes => Sys2Proof.Machine.execImgData sess off bytes s
  | .imageVerify => Sys2Proof.Machine.execImageVerify s
  | .drainComplete => Sys2Proof.Machine.execDrainComplete s
  | .drainTimeout => Sys2Proof.Machine.execDrainTimeout s
  | .rehome site holdMs => Sys2Proof.Machine.execRehome site holdMs s
  | .courseMove q => Sys2Proof.Machine.execCourseMove q s
  | .pageHome sid => Sys2Proof.Machine.execPageHome sid s
  | .submit sess engine queue records => Sys2Proof.Machine.execSubmit sess engine queue records s
  | .requestIntake engine => Sys2Proof.Machine.execRequestIntake engine s
  | .admitTask engine slot => Sys2Proof.Machine.execAdmitTask engine slot s
  | .adapterLoad engine slot => Sys2Proof.Machine.execAdapterLoad engine slot s
  | .prefill engine slot => Sys2Proof.Machine.execPrefill engine slot s
  | .decode engine slot => Sys2Proof.Machine.execDecode engine slot s
  | .sample engine slot => Sys2Proof.Machine.execSample engine slot s
  | .emit engine slot => Sys2Proof.Machine.execEmit engine slot s
  | .migrate engine slot => Sys2Proof.Machine.execMigrate engine slot s
  | .replay engine slot => Sys2Proof.Machine.execReplay engine slot s
  | .cancel engine tenant sid gen => Sys2Proof.Machine.execCancel engine tenant sid gen s
  | .readyNotice engine => Sys2Proof.Machine.execReadyNotice engine s
  | .dispatchDecision q => Sys2Proof.Machine.execDispatchDecision q s
  | .samplingDelivery q lane => Sys2Proof.Machine.execSamplingDelivery q lane s
  | .stepResult a => Sys2Proof.Machine.execStepResult a s
  | .closingCommit sid => Sys2Proof.Machine.execClosingCommit sid s
  | .ringRecordWrite sid => Sys2Proof.Machine.execRingRecordWrite sid s
  | .batchTimeout sid => Sys2Proof.Machine.execBatchTimeout sid s
  | .rcredit sess arg => Sys2Proof.Machine.execRcredit sess arg s
  | .tmapWrite engine q hi v => Sys2Proof.Machine.execTmapWrite engine q hi v s
  | .sqEnable engine queue v => Sys2Proof.Machine.execSqEnable engine queue v s
  | .pipeEnable engine q v => Sys2Proof.Machine.execPipeEnable engine q v s
  | .acquire agent aepoch lock => Sys2Proof.Machine.execAcquire agent aepoch lock s
  | .release agent aepoch lock => Sys2Proof.Machine.execRelease agent aepoch lock s
  | .fetch w0 w1 => Sys2Proof.Machine.execFetch w0 w1 s
  | .dramAppend die dline tenant mask line => Sys2Proof.Machine.execDramAppend die dline tenant mask line s
  | .scrub die => Sys2Proof.Machine.execScrub die s
  | .bulkPass die => Sys2Proof.Machine.execBulkPass die s
  | .parcelDelivery die r => Sys2Proof.Machine.execParcelDelivery die r s
  | .extentTableWrite die e v => Sys2Proof.Machine.execExtentTableWrite die e v s
  | .libraryCopyMigration m => Sys2Proof.Machine.execLibraryCopyMigration m s
  | .frameReceive die sub kind len tags corrected uncorrected => Sys2Proof.Machine.execFrameReceive die sub kind len tags corrected uncorrected s
  | .modeApply die p => Sys2Proof.Machine.execModeApply die p s
  | .modeChangeComplete die p los => Sys2Proof.Machine.execModeChangeComplete die p los s
  | .pauseFrame die p received fill => Sys2Proof.Machine.execPauseFrame die p received fill s
  | .ecnRateStep sess => Sys2Proof.Machine.execEcnRateStep sess s
  | .klpPacketReceive die a => Sys2Proof.Machine.execKlpPacketReceive die a s
  | .openSession die sub a => Sys2Proof.Machine.execOpenSession die sub a s
  | .closeSession sess => Sys2Proof.Machine.execCloseSession sess s
  | .klpHeartbeat sess => Sys2Proof.Machine.execKlpHeartbeat sess s
  | .klpHeartbeatSend sess => Sys2Proof.Machine.execKlpHeartbeatSend sess s
  | .sessionTimeout sess => Sys2Proof.Machine.execSessionTimeout sess s
  | .ack sess ctrl apsn credit => Sys2Proof.Machine.execAck sess ctrl apsn credit s
  | .nak sess ctrl psn => Sys2Proof.Machine.execNak sess ctrl psn s
  | .retransmitTimeout sess ctrl => Sys2Proof.Machine.execRetransmitTimeout sess ctrl s
  | .subportDown die sub => Sys2Proof.Machine.execSubportDown die sub s
  | .write sess addr data => Sys2Proof.Machine.execWrite sess addr data s
  | .read sess addr len => Sys2Proof.Machine.execRead sess addr len s
  | .histWr sess arg tokens => Sys2Proof.Machine.execHistWr sess arg tokens s
  | .histRd sess arg count => Sys2Proof.Machine.execHistRd sess arg count s
  | .regRd sess addr n => Sys2Proof.Machine.execRegRd sess addr n s
  | .regWr sess addr data => Sys2Proof.Machine.execRegWr sess addr data s
  | .registerWrite addr v => Sys2Proof.Machine.execRegisterWrite addr v s
  | .shardBegin sess manLen shardLen pin dist span => Sys2Proof.Machine.execShardBegin sess manLen shardLen pin dist span s
  | .shardData sess off bytes => Sys2Proof.Machine.execShardData sess off bytes s
  | .shardDistribution span => Sys2Proof.Machine.execShardDistribution span s
  | .resLoad sess m => Sys2Proof.Machine.execResLoad sess m s
  | .resSwap sess m atomic noInPlace ver => Sys2Proof.Machine.execResSwap sess m atomic noInPlace ver s
  | .resEvict sess m => Sys2Proof.Machine.execResEvict sess m s
  | .resRefresh sess m => Sys2Proof.Machine.execResRefresh sess m s
  | .resPin sess m => Sys2Proof.Machine.execResPin sess m s
  | .resUnpin sess m => Sys2Proof.Machine.execResUnpin sess m s
  | .land sess route entries => Sys2Proof.Machine.execLand sess route entries s
  | .spanSend die => Sys2Proof.Machine.execSpanSend die s
  | .ptpMessage die sub t1 t2 t3 t4 locked => Sys2Proof.Machine.execPtpMessage die sub t1 t2 t3 t4 locked s
  | .member sess arg frameBase => Sys2Proof.Machine.execMember sess arg frameBase s
  | .memberTableWrite upper slot w v => Sys2Proof.Machine.execMemberTableWrite upper slot w v s
  | .epochSet sess arg => Sys2Proof.Machine.execEpochSet sess arg s
  | .sync sess epoch members spans => Sys2Proof.Machine.execSync sess epoch members spans s
  | .syncSend => Sys2Proof.Machine.execSyncSend s
  | .takeover sess arg => Sys2Proof.Machine.execTakeover sess arg s
  | .standbyTakeover upper => Sys2Proof.Machine.execStandbyTakeover upper s
  | .orphanTimeout => Sys2Proof.Machine.execOrphanTimeout s
  | .provisionalSessionTimeout sess => Sys2Proof.Machine.execProvisionalSessionTimeout sess s
  | .memberLost upper slot => Sys2Proof.Machine.execMemberLost upper slot s
  | .spanSet sess arg spanId slots => Sys2Proof.Machine.execSpanSet sess arg spanId slots s
  | .spanDown sess span => Sys2Proof.Machine.execSpanDown sess span s
  | .leave sess => Sys2Proof.Machine.execLeave sess s
  | .distress sess arg bytes => Sys2Proof.Machine.execDistress sess arg bytes s
  | .probePush sess off bytes => Sys2Proof.Machine.execProbePush sess off bytes s
  | .freq sess arg => Sys2Proof.Machine.execFreq sess arg s
  | .signedLifecycle => Sys2Proof.Machine.execSignedLifecycle s
  | .signedDebug => Sys2Proof.Machine.execSignedDebug s
  | .signedRevoke => Sys2Proof.Machine.execSignedRevoke s
  | .keyInstall => Sys2Proof.Machine.execKeyInstall s
  | .raiseRollback => Sys2Proof.Machine.execRaiseRollback s
  | .writeOwnerSlot slot => Sys2Proof.Machine.execWriteOwnerSlot slot s
  | .debugLevelRequest req => Sys2Proof.Machine.execDebugLevelRequest req s
  | .probeSetInstall bytes => Sys2Proof.Machine.execProbeSetInstall bytes s
  | .probeSlot site => Sys2Proof.Machine.execProbeSlot site s
  | .probeMismatch site => Sys2Proof.Machine.execProbeMismatch site s
  | .historyEvent kind addr code => Sys2Proof.Machine.execHistoryEvent kind addr code s
  | .optRecord => Sys2Proof.Machine.execOptRecord s
  | .dustSheet site => Sys2Proof.Machine.execDustSheet site s
  | .rimSilent rim => Sys2Proof.Machine.execRimSilent rim s
  | .deputyWatchdog die silence => Sys2Proof.Machine.execDeputyWatchdog die silence s
  | .warmReset a => Sys2Proof.Machine.execWarmReset a s
  | .feedLoss b => Sys2Proof.Machine.execFeedLoss b s
  | .feedReturn b => Sys2Proof.Machine.execFeedReturn b s
  | .lastGasp => Sys2Proof.Machine.execLastGasp s
  | .sensorConversion site mv => Sys2Proof.Machine.execSensorConversion site mv s
  | .zoneRegulation z => Sys2Proof.Machine.execZoneRegulation z s
  | .bond site => Sys2Proof.Machine.execBond site s
  | .supplyFault domain unit kind => Sys2Proof.Machine.execSupplyFault domain unit kind s
  | .softStartRetry ok => Sys2Proof.Machine.execSoftStartRetry ok s
  | .governorStep power => Sys2Proof.Machine.execGovernorStep power s
  | .pstateP0 => Sys2Proof.Machine.execPstateP0 s
  | .pstateP1 => Sys2Proof.Machine.execPstateP1 s
  | .pstateP2 => Sys2Proof.Machine.execPstateP2 s
  | .pstateP3 => Sys2Proof.Machine.execPstateP3 s
  | .gaugeCheck ev eq vstore => Sys2Proof.Machine.execGaugeCheck ev eq vstore s
  | .recal low => Sys2Proof.Machine.execRecal low s
  | .frequencyStep code => Sys2Proof.Machine.execFrequencyStep code s
  | .hazEn on => Sys2Proof.Machine.execHazEn on s
  | .hazard site code => Sys2Proof.Machine.execHazard site code s
  | .podAlignment err => Sys2Proof.Machine.execPodAlignment err s
  | .elasticBufferSlip site port => Sys2Proof.Machine.execElasticBufferSlip site port s
  | .temperatureLimit b temp => Sys2Proof.Machine.execTemperatureLimit b temp s
  | .coldReset a => Sys2Proof.Machine.execColdReset a s
  | .rstN a => Sys2Proof.Machine.execRstN a s
  | .strapCheck pins => Sys2Proof.Machine.execStrapCheck pins s
  | .svcResetCold a => Sys2Proof.Machine.execSvcResetCold a s
  | .svcResetWarm a => Sys2Proof.Machine.execSvcResetWarm a s
  | .svcResetTile site => Sys2Proof.Machine.execSvcResetTile site s
  | .svcResetPort port => Sys2Proof.Machine.execSvcResetPort port s
  | .svcMgmtIp4 v => Sys2Proof.Machine.execSvcMgmtIp4 v s
  | .freezeN us => Sys2Proof.Machine.execFreezeN us s
  | .frzReq => Sys2Proof.Machine.execFrzReq s
  | .freezeStop => Sys2Proof.Machine.execFreezeStop s
  | .idcode => Sys2Proof.Machine.execIdcode s
  | .bypass tdi => Sys2Proof.Machine.execBypass tdi s
  | .samplePreload bits => Sys2Proof.Machine.execSamplePreload bits s
  | .extest => Sys2Proof.Machine.execExtest s
  | .frzSel addr => Sys2Proof.Machine.execFrzSel addr s
  | .frzData => Sys2Proof.Machine.execFrzData s
  | .ledPeriod n current50 atSetting over3 => Sys2Proof.Machine.execLedPeriod n current50 atSetting over3 s
  | .ppsOut => Sys2Proof.Machine.execPpsOut s
  | .subportUp die sub => Sys2Proof.Machine.execSubportUp die sub s
  | .holdupChargeTimeout => Sys2Proof.Machine.execHoldupChargeTimeout s

end Sys2Proof.Machine
end

