-- ==== Sys2Proof/WellFormed.lean ====
section
/-! DEFINITION. Which commands are well formed: the bounds that the specification puts on an operand and that its type does not carry. -/

namespace Sys2Proof

/-- A line has 16 words (R27). -/
def isLine (ws : List Word) : Bool := decide (ws.length = 16)

/-- Whether a rim die with a SOURCE code has a port: link dies 6, memory dies 4, the service die 8 (R15). -/
def rimPort (rim port : Nat) : Bool :=
  if rim < 16 then decide (port < 6) else if rim < 32 then decide (port < 4) else decide (rim = 32) && decide (port < 8)

/-- The well-formedness of a command: message and line lengths, counts, and codes that a row defines. -/
def Instr.wf : Instr → Bool
  | .rimInjection rim port _ => rimPort rim.toNat port.toNat
  | .lathMessageReceive _ _ bytes => decide (10 ≤ bytes.length) && decide (bytes.length ≤ 64)
  | .cfgWr a => decide (1 ≤ a.data.length) && decide (a.data.length ≤ 5) && decide (a.off.toNat % 8 = 0)
  | .cfgRd _ off count _ => decide (off.toNat % 8 = 0) && decide (1 ≤ count.toNat) && decide (count.toNat ≤ 5)
  | .cfgRsp _ status words => decide (status.toNat ≤ 3) && decide (words.length ≤ 5)
  | .errReport a => decide (a.detail.length ≤ 4)
  | .cgPrepare _ a => decide (a.scope.toNat ≤ 2) && decide (a.listed.length ≤ 8)
  | .cgVote _ _ _ _ no _ => decide (no.toNat ≤ 4)
  | .cgDiscard _ _ reason => decide (1 ≤ reason.toNat) && decide (reason.toNat ≤ 5)
  | .trimPeriod temps => decide (temps.length = 56)
  | .converterMeasure _ _ _ conv codes => decide (conv.toNat ≤ 128) && decide (codes.length = 32)
  | .referenceScan _ _ same => decide (same.length = 24)
  | .pageProgram _ _ line => isLine line
  | .macroErase _ _ line => isLine line
  | .submit _ _ _ records => records.all (fun r => decide (r.length = 8))
  | .dramAppend _ _ _ _ line => isLine line
  | .klpPacketReceive _ a => decide (a.payload.length ≤ 4096)
  | .openSession _ _ a => decide (a.epub.length = 97) && decide (a.sig.length = 96)
  | .land _ _ entries => entries.all (fun e => isLine e.2)
  | .sync _ _ members spans => members.all (fun e => decide (e.2.length = 4)) && spans.all (fun e => decide (2 ≤ e.2.length))
  | .rimSilent rim => decide (rim.toNat < 32)
  | .supplyFault domain _ kind => decide (1 ≤ domain.toNat) && decide (domain.toNat ≤ 4) && decide (kind.toNat ≤ 2)
  | .hazard _ code => decide (1 ≤ code.toNat) && decide (code.toNat ≤ 9)
  | .add .. | .sub .. | .and .. | .or .. | .xor .. | .shl .. | .shr .. | .sar .. | .mul .. | .mulhu .. | .mulhs .. | .divu ..
  | .remu .. | .divideComplete .. | .min .. | .max .. | .minu .. | .maxu .. | .clz .. | .popc .. | .addi .. | .andi ..
  | .ori .. | .xori .. | .shli .. | .shri .. | .sari .. | .lui .. | .cmp .. | .cmpi .. | .plog .. | .ld .. | .ccLoadBankRead ..
  | .st .. | .storeQueueDrain .. | .br .. | .brl .. | .jr .. | .desc .. | .cret .. | .lsend .. | .rdsr .. | .wrsr ..
  | .rdlane .. | .waitc .. | .waitcResume .. | .halt .. | .frameBoundary | .beatBoundary .. | .seqNop .. | .inj .. | .rq ..
  | .srv .. | .rel .. | .mop .. | .macroOpComplete .. | .clipReport .. | .ldw .. | .ldwComplete .. | .lds .. | .daMul ..
  | .daMulComplete .. | .sets .. | .daSt .. | .fadd .. | .fsub .. | .fmul .. | .fma .. | .fmin .. | .fmax .. | .fabs ..
  | .fneg .. | .frcp .. | .frsq .. | .fexp .. | .fexp2 .. | .fsig .. | .ftanh .. | .fsilu .. | .fgelu .. | .frsum ..
  | .frmax .. | .fcmp .. | .fsel .. | .fbc .. | .fcvt .. | .vtopm .. | .viota .. | .iadd .. | .isub .. | .iand .. | .ior ..
  | .ixor .. | .ishl .. | .ishr .. | .imin .. | .imax .. | .vrng .. | .vmov .. | .vld .. | .vst .. | .vldq .. | .vstq ..
  | .vsts .. | .dtake .. | .bld .. | .msk .. | .rep .. | .flitArrival .. | .ejectionWrite .. | .lathAckTimeout ..
  | .heartbeatSend .. | .heartbeat .. | .hbMiss .. | .tileResetTimeout .. | .hubPromotion .. | .credit .. | .errorLogEntry
  | .hubVoteDeadline .. | .cgDecide .. | .cgApply .. | .indoubtReinstatement .. | .fence .. | .rejoin .. | .tileReset ..
  | .freeze .. | .calStart .. | .calRunComplete | .pageProgramComplete .. | .eraseComplete .. | .pageRead ..
  | .pageStateRead .. | .eraseStatusRead .. | .verifyFailRepair .. | .spareColumnReplacement .. | .retentionTick | .refresh ..
  | .stagedSwap .. | .inPlaceSwap .. | .modelEviction .. | .libraryEviction .. | .residentStoreRestore .. | .shardCheck
  | .imgBegin .. | .imgData .. | .imageVerify | .drainComplete | .drainTimeout | .rehome .. | .courseMove .. | .pageHome ..
  | .requestIntake .. | .admitTask .. | .adapterLoad .. | .prefill .. | .decode .. | .sample .. | .emit .. | .migrate ..
  | .replay .. | .cancel .. | .readyNotice .. | .dispatchDecision .. | .samplingDelivery .. | .stepResult ..
  | .closingCommit .. | .ringRecordWrite .. | .batchTimeout .. | .rcredit .. | .tmapWrite .. | .sqEnable .. | .pipeEnable ..
  | .acquire .. | .release .. | .fetch .. | .scrub .. | .bulkPass .. | .parcelDelivery .. | .extentTableWrite ..
  | .libraryCopyMigration .. | .frameReceive .. | .modeApply .. | .modeChangeComplete .. | .pauseFrame .. | .ecnRateStep ..
  | .closeSession .. | .klpHeartbeat .. | .klpHeartbeatSend .. | .sessionTimeout .. | .ack .. | .nak .. | .retransmitTimeout ..
  | .subportDown .. | .write .. | .read .. | .histWr .. | .histRd .. | .regRd .. | .regWr .. | .registerWrite ..
  | .shardBegin .. | .shardData .. | .shardDistribution .. | .resLoad .. | .resSwap .. | .resEvict .. | .resRefresh ..
  | .resPin .. | .resUnpin .. | .spanSend .. | .ptpMessage .. | .member .. | .memberTableWrite .. | .epochSet .. | .syncSend
  | .takeover .. | .standbyTakeover .. | .orphanTimeout | .provisionalSessionTimeout .. | .memberLost .. | .spanSet ..
  | .spanDown .. | .leave .. | .distress .. | .probePush .. | .freq .. | .signedLifecycle | .signedDebug | .signedRevoke
  | .keyInstall | .raiseRollback | .writeOwnerSlot .. | .debugLevelRequest .. | .probeSetInstall .. | .probeSlot ..
  | .probeMismatch .. | .historyEvent .. | .optRecord | .dustSheet .. | .deputyWatchdog .. | .warmReset .. | .feedLoss ..
  | .feedReturn .. | .lastGasp | .sensorConversion .. | .zoneRegulation .. | .bond .. | .softStartRetry .. | .governorStep ..
  | .pstateP0 | .pstateP1 | .pstateP2 | .pstateP3 | .gaugeCheck .. | .recal .. | .frequencyStep .. | .hazEn ..
  | .podAlignment .. | .elasticBufferSlip .. | .temperatureLimit .. | .coldReset .. | .rstN .. | .strapCheck ..
  | .svcResetCold .. | .svcResetWarm .. | .svcResetTile .. | .svcResetPort .. | .svcMgmtIp4 .. | .freezeN .. | .frzReq
  | .freezeStop | .idcode | .bypass .. | .samplePreload .. | .extest | .frzSel .. | .frzData | .ledPeriod .. | .ppsOut
  | .subportUp .. | .holdupChargeTimeout => true

end Sys2Proof
end

