-- ==== Sys2Proof/Safety.lean ====
section
/-! DEFINITION. The terms in which claims are made: the canonical form of the memories, the legal modes of the module, and the
commands that wait. -/

namespace Sys2Proof.Machine

/-- A memory in its canonical form: addresses strictly rising, no entry that reads as an unlisted address does. -/
abbrev Memory.wf (m : SMap SWord) : Prop := SWf SWord.zero m

/-- The mode fields hold a value that a rule defines: PSTATE_ACT 0-4 (R582), frequency code 0-8 (R589), FRZ 0-2 (R615), pod state 0-5
(R516). -/
structure Legal (s : State) : Prop where
  power : s.pwr.act.toNat ≤ 4
  clock : s.clk.k.toNat ≤ 8
  freeze : s.svc.frz.toNat ≤ 2
  pod : s.pod.st.toNat ≤ 5

/-- A life-cycle transition that waits goes forward (R534). -/
def Sec.forward (c : Sec) : Prop := c.lcPend = true → c.lc.toNat < c.lcNext.toNat

/-- Every command that waits is well formed. -/
def QueueWf (s : State) : Prop := ∀ c ∈ s.pending, c.wf = true

/-- What every step of the module keeps: the DRAM in its canonical form, the modes legal, a waiting life-cycle transition forward,
and the waiting commands well formed. -/
structure ModuleInv (s : State) : Prop where
  mem : Memory.wf s.dram
  legal : Legal s
  life : s.sec.forward
  queue : QueueWf s

/-- A step of a machine whose queue is `pending` is the command at its front, on the state with the rest of the queue. -/
def queued (c : Instr) (s : State) : State := { s with pending := c :: s.pending }

/-! ### A step of one tile -/

/-- The state after a step of the tile at a site: the tile is stored and what it sends goes out, in order. -/
def tileTo (s : State) (site : Nat) (t : Tile) (outs : List TOut) : State := outs.foldl (putOut site) (tilePut s site t)

/-- A tile brought to a tile cycle of the current frame, with what its engines send on the way. -/
def tileNow (s : State) (site : Site) (k : FrameCycle) : Tile × List TOut := tileSync site (cycAt s k) (tileAt s site)

/-- The state after a step of a tile in a tile cycle. -/
def eventTo (s : State) (a : TileAt) (t : Tile) (outs : List TOut) : State :=
  tileTo s a.site t ((tileNow s a.site a.k).2 ++ outs)

/-- The tile that a control-core instruction finds in its cycle. -/
def ccTile (h : CcHdr) (s : State) : Tile := (tileNow s h.site h.k).1

/-- The state after a control-core instruction that leaves its tile as `t` and sends `outs`. -/
def ccTo (h : CcHdr) (s : State) (t : Tile) (outs : List TOut) : State :=
  tileTo s h.site t ((tileNow s h.site h.k).2 ++ outs)

/-- The state after a control-core instruction that changes its core alone. -/
def ccCore (h : CcHdr) (s : State) (c : CCore) : State := ccTo h s { ccTile h s with cc := c } []

/-- The core after an instruction that takes one cycle: the program counter goes on (R279). -/
def ccStepped (h : CcHdr) (s : State) (c : CCore) : CCore := { c with pc := c.pc + 1, next := cycAt s h.k + 1 }

/-- A control-core instruction may issue in its cycle: its tile's units run and its core is ready (R276, R279). -/
structure CcIssues (h : CcHdr) (s : State) : Prop where
  live : tileLive s h.site = true
  ready : ccReady (ccTile h s).cc (cycAt s h.k) = true

/-- An instruction that issues has its effect: its guard is 1, no result is on its way to a register of it, and no source is
marked (R278, R279, R285). -/
structure CcRuns (h : CcHdr) (srcs dsts : List (BitVec 5)) (s : State) : Prop where
  issues : CcIssues h s
  guard : guardOn (ccTile h s).cc h.g = true
  settled : ∀ r ∈ srcs ++ dsts, regBusy (ccTile h s).cc (cycAt s h.k) r = false
  clean : ∀ r ∈ srcs, (gGet (ccTile h s).cc r).poison = false

/-- A sequencer entry of the program store is performed in the form `e` by a tile whose units run: the tile, brought to the
entry's cycle, is `t` and has sent `outs` (R286-R291). -/
structure SeqRuns (h : SeqHdr) (s : State) (e : SeqRun) (t : Tile) (outs : List TOut) : Prop where
  live : tileLive s h.site = true
  cycle : ∃ e0, hdrRun h (tileAt s h.site) = some e0 ∧ tileSync h.site e0.cyc (tileAt s h.site) = (t, outs)
  form : hdrRun h t = some e

/-- An entry of the dense array is performed: in an even cycle, as the first of its cycle, on a lane that is not idle (R287,
R290). -/
structure DaRuns (h : SeqHdr) (s : State) (e : SeqRun) (t : Tile) (outs : List TOut) : Prop where
  runs : SeqRuns h s e t outs
  even : e.cyc % 2 = 0
  first : t.seq.daUse ≠ some e.cyc
  busy : e.idle = false

/-- An entry of the finish unit is performed: as the first of its cycle, on a lane that is not idle (R290). -/
structure FuRuns (h : SeqHdr) (s : State) (e : SeqRun) (t : Tile) (outs : List TOut) : Prop where
  runs : SeqRuns h s e t outs
  first : t.seq.fuUse ≠ some e.cyc
  busy : e.idle = false

/-- A tile whose dense array has taken its entry of cycle `x` (R290). -/
def daTaken (t : Tile) (x : Nat) : Tile := { t with seq := { t.seq with daUse := some x } }
/-- A tile whose finish unit has taken its entry of cycle `x` (R290). -/
def fuTaken (t : Tile) (x : Nat) : Tile := { t with seq := { t.seq with fuUse := some x } }

/-- The issue of a control-core instruction; none of the other commands has one (R278). -/
def ccHdr : Instr → Option CcHdr
  | .add h _ _ _ => some h
  | .sub h _ _ _ => some h
  | .and h _ _ _ => some h
  | .or h _ _ _ => some h
  | .xor h _ _ _ => some h
  | .shl h _ _ _ => some h
  | .shr h _ _ _ => some h
  | .sar h _ _ _ => some h
  | .mul h _ _ _ => some h
  | .mulhu h _ _ _ => some h
  | .mulhs h _ _ _ => some h
  | .divu h _ _ _ => some h
  | .remu h _ _ _ => some h
  | .min h _ _ _ => some h
  | .max h _ _ _ => some h
  | .minu h _ _ _ => some h
  | .maxu h _ _ _ => some h
  | .clz h _ _ => some h
  | .popc h _ _ => some h
  | .addi h _ _ _ => some h
  | .andi h _ _ _ => some h
  | .ori h _ _ _ => some h
  | .xori h _ _ _ => some h
  | .shli h _ _ _ => some h
  | .shri h _ _ _ => some h
  | .sari h _ _ _ => some h
  | .lui h _ _ => some h
  | .cmp h _ _ _ _ => some h
  | .cmpi h _ _ _ _ => some h
  | .plog h _ _ _ _ => some h
  | .ld h _ _ _ => some h
  | .st h _ _ _ => some h
  | .br h _ => some h
  | .brl h _ => some h
  | .jr h _ _ _ => some h
  | .desc h _ _ => some h
  | .cret h _ _ => some h
  | .lsend h _ _ _ _ => some h
  | .rdsr h _ _ => some h
  | .wrsr h _ _ => some h
  | .rdlane h _ _ => some h
  | .waitc h _ => some h
  | .halt h => some h
  | _ => none

/-! ### Who sends a verb -/

/-- An OPERATOR session sends a verb outside the recovery of a warm reset, and the life cycle is not RETIRED (R487, R496, R536). -/
structure OperatorOpen (s : State) (sess : SessId) : Prop where
  session : ∃ x, sessAt s sess.toNat = some x ∧ x.kind = 1
  awake : s.svc.warming = false
  alive : s.sec.lc ≠ 3

/-- A verb of an operator's session or of the management port is let through to images and residency (R487, R496, R536). -/
def OperatorSends (s : State) (sess : Option SessId) : Prop :=
  (sess = none ∧ s.svc.warming = false ∧ s.sec.lc ≠ 3) ∨ ∃ i, sess = some i ∧ OperatorOpen s i

/-- A HOST session of a tenant sends a verb outside the recovery of a warm reset (R487, R496). -/
structure HostOpen (s : State) (sess : SessId) (x : Session) : Prop where
  session : sessAt s sess.toNat = some x
  kind : x.kind = 0
  awake : s.svc.warming = false

/-- A settled POD session sends a verb (R502, R514). -/
structure PodOpen (s : State) (sess : SessId) (x : Session) : Prop where
  session : sessAt s sess.toNat = some x
  kind : x.kind = 3
  settled : x.prov = false

/-- The hawk sends a verb over the module's POD session to it (R502, R514). -/
structure HawkOpen (s : State) (sess : SessId) (x : Session) : Prop extends PodOpen s sess x where
  hawk : s.pod.hawkSess = some sess.toNat

/-- A slot of an engine's task store holds a task, whose record in DRAM is good (R353, R546). -/
structure TaskHeld (s : State) (engine : Die) (slot : BitVec 18) (t : Task) : Prop where
  task : taskOf (engAt s engine) slot.toNat = some t
  good : ∀ w < 8, (sget SWord.zero s.dram (taskAddr engine slot.toNat / 8 + w)).ecc = .good

end Sys2Proof.Machine
end

