-- ==== Sys2Proof/Certificates/Slice0/Obligations.lean ====
section
/-! DEFINITION. The statements about the module that are to be proved. -/

open Sys2Proof Sys2Proof.Machine

/-- For every command c and state s, a step of s with c at the front of its queue is exec c on s with the rest of the queue; on an empty queue a step
leaves the state (log entry 1: the model's choice). -/
def Obligations.StepRunsFrontCommand : Prop :=
  (∀ (c : Instr) (s : State), step (queued c s) = exec c s) ∧ (∀ s : State, s.pending = [] → step s = .next s)

/-- A control-core instruction that issues with guard 1, settled registers and unmarked sources writes rd with the result its operation defines and
goes on to the next instruction in the next cycle; MUL, MULHU and MULHS make rd readable three cycles later. A write to g0 is discarded by gSet.
Nothing else of the module changes but what the tile's engines do on the way to the cycle. -/
def Obligations.RegisterInstructionsCompute : Prop :=
  ∀ (h : CcHdr) (rd ra rb : BitVec 5) (s : State),
    let c := (ccTile h s).cc
    let a := gVal c ra
    let b := gVal c rb
    let put := fun (v : Word) => Host.Outcome.next (ccCore h s (ccStepped h s (gSet c rd v)))
    let put3 := fun (v : Word) => Host.Outcome.next (ccCore h s (ccStepped h s
      { gSet c rd v with rdy := sset 0 c.rdy rd.toNat (cycAt s h.k + 3) }))
    (CcRuns h [ra, rb] [rd] s →
      exec (.add h rd ra rb) s = put (a + b) ∧
      exec (.sub h rd ra rb) s = put (a - b) ∧
      exec (.and h rd ra rb) s = put (a &&& b) ∧
      exec (.or h rd ra rb) s = put (a ||| b) ∧
      exec (.xor h rd ra rb) s = put (a ^^^ b) ∧
      exec (.shl h rd ra rb) s = put (a <<< (b.toNat % 64)) ∧
      exec (.shr h rd ra rb) s = put (a >>> (b.toNat % 64)) ∧
      exec (.sar h rd ra rb) s = put (a.sshiftRight (b.toNat % 64)) ∧
      exec (.min h rd ra rb) s = put (BitVec.ofInt 64 (min a.toInt b.toInt)) ∧
      exec (.max h rd ra rb) s = put (BitVec.ofInt 64 (max a.toInt b.toInt)) ∧
      exec (.minu h rd ra rb) s = put (BitVec.ofNat 64 (min a.toNat b.toNat)) ∧
      exec (.maxu h rd ra rb) s = put (BitVec.ofNat 64 (max a.toNat b.toNat)) ∧
      exec (.mul h rd ra rb) s = put3 (a * b) ∧
      exec (.mulhu h rd ra rb) s = put3 (((a.setWidth 128 * b.setWidth 128) >>> (64 : Nat)).setWidth 64) ∧
      exec (.mulhs h rd ra rb) s = put3 (((a.signExtend 128 * b.signExtend 128) >>> (64 : Nat)).setWidth 64)) ∧
    (CcRuns h [ra] [rd] s → ∀ imm : BitVec 12,
      let i : Word := imm.signExtend 64
      exec (.addi h rd ra imm) s = put (a + i) ∧
      exec (.andi h rd ra imm) s = put (a &&& i) ∧
      exec (.ori h rd ra imm) s = put (a ||| i) ∧
      exec (.xori h rd ra imm) s = put (a ^^^ i) ∧
      exec (.shli h rd ra imm) s = put (a <<< (imm.toNat % 64)) ∧
      exec (.shri h rd ra imm) s = put (a >>> (imm.toNat % 64)) ∧
      exec (.sari h rd ra imm) s = put (a.sshiftRight (imm.toNat % 64))) ∧
    (CcRuns h [ra] [rd] s →
      exec (.popc h rd ra) s = put (BitVec.ofNat 64 ((List.range 64).filter (fun n => a.getLsbD n)).length) ∧
      ∃ z : Nat, exec (.clz h rd ra) s = put (BitVec.ofNat 64 z) ∧ z ≤ 64 ∧ a.toNat < 2 ^ (64 - z) ∧
        (z < 64 → 2 ^ (63 - z) ≤ a.toNat)) ∧
    (CcRuns h [] [rd] s → ∀ imm : BitVec 17,
      exec (.lui h rd imm) s = put (BitVec.ofInt 64 (imm.toInt * 4096)))

/-- A value written to a general register other than g0 reads back unmarked and every other general register keeps its value and mark; g0 reads as 0
and discards writes. A predicate other than p0 reads back what was written and the others keep theirs; p0 reads as 1 and discards writes. -/
def Obligations.RegisterWritesAreRead : Prop :=
  ∀ (c : CCore) (r q : BitVec 5) (v : Word) (p n : BitVec 3) (b : Bool),
    gGet (gSet c r v) q = (if q = 0 then RWord.zero else if q = r then ⟨v, false⟩ else gGet c q) ∧
    gSet c 0 v = c ∧ gGet c 0 = RWord.zero ∧
    pGet (pSet c p b) n = (if n = 0 then true else if n = p then b else pGet c n) ∧
    pSet c 0 b = c ∧ pGet c 0 = true

/-- DIVU and REMU on a free divider start a division that is due 24 cycles after the issue and go on. When a division is due, its completion writes
the quotient or the remainder; a zero divisor gives all ones or the dividend and raises DZ in the control core's flags at the cycle that it is due. -/
def Obligations.DivisionTakesItsTime : Prop :=
  (∀ (h : CcHdr) (rd ra rb : BitVec 5) (s : State), CcRuns h [ra, rb] [rd] s → (ccTile h s).cc.div = none →
    let c := (ccTile h s).cc
    let start := fun (rem : Bool) => Host.Outcome.next (ccCore h s (ccStepped h s
      { c with div := some ⟨rem, rd, gVal c ra, gVal c rb, cycAt s h.k + 24⟩ }))
    exec (.divu h rd ra rb) s = start false ∧ exec (.remu h rd ra rb) s = start true) ∧
  (∀ (at_ : TileAt) (s : State) (d : DivOp), tileLive s at_.site = true →
    let t := (tileNow s at_.site at_.k).1
    t.cc.div = some d → d.due ≤ cycAt s at_.k →
    let v : Word := if d.b.toNat = 0 then (if d.rem then d.a else BitVec.ofNat 64 (2 ^ 64 - 1))
      else BitVec.ofNat 64 (if d.rem then d.a.toNat % d.b.toNat else d.a.toNat / d.b.toNat)
    let flags := if d.b = 0 then flagRaise t.cc.fcc d.due flDZ else t.cc.fcc
    exec (.divideComplete at_) s = .next (eventTo s at_ { t with cc := { gSet t.cc d.rd v with div := none, fcc := flags } } []))

/-- CMP with a condition 0 to 5 (EQ, NE, LT, GE, LTU, GEU), CMPI with a condition 0 to 3 (EQ, NE, LT, LTU) and PLOG (AND, OR, XOR, ANDN) write their
predicate and go on; p0 discards the write. A jump whose target lies in 0 to 16,383 sets the program counter and takes three cycles; BRL writes g31,
and JR writes rd, with the index after the jump. WAITC goes on where the cycle offset has reached its target and otherwise stalls, and the stall ends
when the offset has reached it. HALT leaves the core idle. -/
def Obligations.PredicatesAndJumpsDecide : Prop :=
  (∀ (h : CcHdr) (pd pa pb : BitVec 3) (ra rb : BitVec 5) (s : State),
    let c := (ccTile h s).cc
    let a := gVal c ra
    let b := gVal c rb
    let put := fun (v : Bool) => Host.Outcome.next (ccCore h s (ccStepped h s (pSet c pd v)))
    (CcRuns h [ra, rb] [] s →
      exec (.cmp h 0 pd ra rb) s = put (decide (a = b)) ∧
      exec (.cmp h 1 pd ra rb) s = put (decide (a ≠ b)) ∧
      exec (.cmp h 2 pd ra rb) s = put (decide (a.toInt < b.toInt)) ∧
      exec (.cmp h 3 pd ra rb) s = put (decide (b.toInt ≤ a.toInt)) ∧
      exec (.cmp h 4 pd ra rb) s = put (decide (a.toNat < b.toNat)) ∧
      exec (.cmp h 5 pd ra rb) s = put (decide (b.toNat ≤ a.toNat))) ∧
    (CcRuns h [ra] [] s → ∀ imm : BitVec 12,
      let i : Word := imm.signExtend 64
      exec (.cmpi h 0 pd ra imm) s = put (decide (a = i)) ∧
      exec (.cmpi h 1 pd ra imm) s = put (decide (a ≠ i)) ∧
      exec (.cmpi h 2 pd ra imm) s = put (decide (a.toInt < imm.toInt)) ∧
      exec (.cmpi h 3 pd ra imm) s = put (decide (a.toNat < i.toNat))) ∧
    (CcRuns h [] [] s →
      let p := pGet c pa
      let q := pGet c pb
      exec (.plog h 0 pd pa pb) s = put (p && q) ∧
      exec (.plog h 1 pd pa pb) s = put (p || q) ∧
      exec (.plog h 2 pd pa pb) s = put (xor p q) ∧
      exec (.plog h 3 pd pa pb) s = put (p && !q))) ∧
  ((∀ (h : CcHdr) (off : BitVec 22) (s : State),
    let c := (ccTile h s).cc
    let target : Int := c.pc.toNat + off.toInt
    let go := fun (c' : CCore) => Host.Outcome.next (ccCore h s { c' with pc := BitVec.ofInt 14 target, next := cycAt s h.k + 3 })
    0 ≤ target → target < 16384 →
      (CcRuns h [] [] s → exec (.br h off) s = go c) ∧
      (CcRuns h [] [31] s → exec (.brl h off) s = go (gSet c 31 (BitVec.ofNat 64 (c.pc.toNat + 1))))) ∧
  (∀ (h : CcHdr) (rd ra : BitVec 5) (imm : BitVec 12) (s : State), CcRuns h [ra] [rd] s →
    let c := (ccTile h s).cc
    let target : Word := gVal c ra + imm.signExtend 64
    target.toNat < 16384 →
      exec (.jr h rd ra imm) s = .next (ccCore h s { gSet c rd (BitVec.ofNat 64 (c.pc.toNat + 1)) with
        pc := target.setWidth 14, next := cycAt s h.k + 3 })) ∧
  (∀ (h : CcHdr) (ra : BitVec 5) (s : State), CcRuns h [ra] [] s →
    let t := ccTile h s
    let g : BitVec 15 := (gVal t.cc ra).setWidth 15
    exec (.waitc h ra) s = .next (ccCore h s (ccStepped h s
      (if g.toNat ≤ beatCyc t (cycAt s h.k) then t.cc else { t.cc with wait := some g })))) ∧
  (∀ (at_ : TileAt) (s : State) (g : BitVec 15), tileLive s at_.site = true →
    let t := (tileNow s at_.site at_.k).1
    t.cc.wait = some g → g.toNat ≤ beatCyc t (cycAt s at_.k) →
      exec (.waitcResume at_) s = .next (eventTo s at_ { t with cc := { t.cc with wait := none } } [])) ∧
  (∀ (h : CcHdr) (s : State), CcRuns h [] [] s →
    exec (.halt h) s = .next (ccCore h s { ccStepped h s (ccTile h s).cc with st := .idle })))

/-- LD at an aligned address below 0x800000 issues a load with the data of the newest queued store of its word and makes rd readable 5 cycles later;
its bank read, in an odd cycle at least 2 after the issue, writes the register with that data, or with the word read and its mark. ST queues its word
while fewer than 8 entries wait; the oldest store drains in an even cycle at least 2 after its issue in which its bank's write port is free, as a
write of that one word. Every other byte of the scratchpad stays. -/
def Obligations.LoadsAndStoresReachTheBank : Prop :=
  (∀ (h : CcHdr) (rd ra : BitVec 5) (imm : BitVec 12) (s : State), CcRuns h [ra] [rd] s →
    let t := ccTile h s
    let a : Word := gVal t.cc ra + imm.signExtend 64 * 8
    a.toNat < 0x800000 → a.toNat % 8 = 0 →
    let ld : LoadOp := ⟨rd, a.toNat / 8, cycAt s h.k, storeMatch t.pad (a.toNat / 8)⟩
    exec (.ld h rd ra imm) s = .next (ccCore h s (ccStepped h s { t.cc with loads := t.cc.loads ++ [ld],
                                                                            rdy := sset 0 t.cc.rdy rd.toNat (cycAt s h.k + 5) }))) ∧
  (∀ (at_ : TileAt) (s : State) (l : LoadOp) (rest : List LoadOp), tileLive s at_.site = true →
    let x := cycAt s at_.k
    let t := (tileNow s at_.site at_.k).1
    t.cc.loads = l :: rest → x % 2 = 1 → l.issued + 2 ≤ x →
    let clash := sameWord t.pad x (BitVec.ofNat 16 (l.word / 16)) (1 <<< (l.word % 16))
    let b := bankRead at_.site (if clash then padHaz t.pad 5 x 0 else t.pad) l.word
    let w := match l.fwd with | some v => (⟨v, false⟩ : RWord) | none => b.2.1
    exec (.ccLoadBankRead at_) s =
      .next (eventTo s at_ { t with pad := b.1, cc := gPut { t.cc with loads := rest } l.rd w } b.2.2)) ∧
  (∀ (h : CcHdr) (rs ra : BitVec 5) (imm : BitVec 12) (s : State), CcRuns h [ra, rs] [] s →
    let t := ccTile h s
    let a : Word := gVal t.cc ra + imm.signExtend 64 * 8
    a.toNat < 0x800000 → a.toNat % 8 = 0 → t.pad.storeQ.length < 8 →
    exec (.st h rs ra imm) s = .next (ccTo h s
      { t with pad := { t.pad with storeQ := t.pad.storeQ ++ [(cycAt s h.k, a.toNat / 8, gVal t.cc rs)] },
               cc := ccStepped h s t.cc } [])) ∧
  (∀ (at_ : TileAt) (s : State) (n w : Nat) (v : Word) (rest : List (Nat × Nat × Word)), tileLive s at_.site = true →
    let x := cycAt s at_.k
    let t := (tileNow s at_.site at_.k).1
    let line := BitVec.ofNat 16 (w / 16)
    t.pad.storeQ = (n, w, v) :: rest → x % 2 = 0 → n + 2 ≤ x → portUsed t.pad (bankOf line) x = false →
    ∃ pw : PWrite, pw.cyc = x ∧ pw.line = line ∧ pw.wen = 1 <<< (w % 16) ∧ lget RWord.zero pw.words (w % 16) = ⟨v, false⟩ ∧
      exec (.storeQueueDrain at_) s =
        .next (eventTo s at_ { t with pad := { t.pad with storeQ := rest, pend := t.pad.pend ++ [pw] } } []))

/-- DESC pushes a descriptor while fewer than 32 wait. CRET on a landing window whose credits are short of its quota adds the lines it may and queues
a CREDIT message while fewer than 4 messages wait; CRET on a window that is none, or that is full, only takes its cycle. LSEND of up to 4 words to a
VALID name queues the report; to another name it sends nothing. RDSR reads FCC, FDA, FFU, CYC, FRAME, DQFREE and SQFREE; WRSR replaces a flag
register, leaving set a flag raised in the same cycle; RDLANE reads the active lane table. -/
def Obligations.MessagesAndSystemRegisters : Prop :=
  (∀ (h : CcHdr) (ra rb : BitVec 5) (s : State), CcRuns h [ra, rb] [] s →
    let c := (ccTile h s).cc
    c.descQ.length < 32 →
      exec (.desc h ra rb) s = .next (ccCore h s (ccStepped h s
        { c with descQ := c.descQ ++ [(cycAt s h.k, gVal c ra, gVal c rb)] }))) ∧
  (∀ (h : CcHdr) (ra win : BitVec 5) (s : State), CcRuns h [ra] [] s →
    let t := ccTile h s
    let w := winGet t.pad win.toNat
    let n := min ((gVal t.cc ra).toNat % 65536) (w.quota.toNat - w.credits.toNat)
    (w.typ = 1 → 0 < n → t.cc.lathQ.length < 4 →
      exec (.cret h ra win) s = .next (ccTo h s
        { t with pad := winPut t.pad win.toNat { w with credits := w.credits + BitVec.ofNat 16 n },
                 cc := ccStepped h s { t.cc with lathQ := t.cc.lathQ ++ [.credit w.source win (BitVec.ofNat 16 n)] } } [])) ∧
    (w.typ ≠ 1 ∨ n = 0 → exec (.cret h ra win) s = .next (ccCore h s (ccStepped h s t.cc)))) ∧
  (∀ (h : CcHdr) (n ra : BitVec 5) (name code : BitVec 6) (s : State), n.toNat ≤ 4 → ra.toNat + n.toNat ≤ 32 →
    let srcs := (List.range n.toNat).map (fun i => ra + BitVec.ofNat 5 i)
    CcRuns h srcs [] s →
    let t := ccTile h s
    (nameValid t name = true → t.cc.lathQ.length < 4 →
      exec (.lsend h n ra name code) s = .next (ccCore h s (ccStepped h s
        { t.cc with lathQ := t.cc.lathQ ++ [.report name code (srcs.map (gVal t.cc))] }))) ∧
    (nameValid t name = false → exec (.lsend h n ra name code) s = .next (ccCore h s (ccStepped h s t.cc)))) ∧
  (∀ (h : CcHdr) (rd : BitVec 5) (s : State), CcRuns h [] [rd] s →
    let t := ccTile h s
    let put := fun (v : Word) => Host.Outcome.next (ccCore h s (ccStepped h s (gSet t.cc rd v)))
    exec (.rdsr h rd 0) s = put (t.cc.fcc.val.setWidth 64) ∧
    exec (.rdsr h rd 1) s = put (t.da.fda.val.setWidth 64) ∧
    exec (.rdsr h rd 2) s = put (t.fu.ffu.val.setWidth 64) ∧
    exec (.rdsr h rd 3) s = put (BitVec.ofNat 64 (beatCyc t (cycAt s h.k))) ∧
    exec (.rdsr h rd 4) s = put (BitVec.ofNat 64 (s.frames % 2 ^ 48)) ∧
    exec (.rdsr h rd 5) s = put (BitVec.ofNat 64 (32 - t.cc.descQ.length)) ∧
    exec (.rdsr h rd 6) s = put (BitVec.ofNat 64 (8 - t.pad.storeQ.length))) ∧
  (∀ (h : CcHdr) (ra : BitVec 5) (s : State), CcRuns h [ra] [] s →
    let t := ccTile h s
    let f : FlagBits := (gVal t.cc ra).setWidth 6
    let c := ccStepped h s t.cc
    exec (.wrsr h ra 0) s = .next (ccCore h s { c with fcc := flagWrite t.cc.fcc (cycAt s h.k) f }) ∧
    exec (.wrsr h ra 1) s = .next (ccTo h s { t with da := { t.da with fda := flagWrite t.da.fda (cycAt s h.k) f }, cc := c } []) ∧
    exec (.wrsr h ra 2) s = .next (ccTo h s { t with fu := { t.fu with ffu := flagWrite t.fu.ffu (cycAt s h.k) f }, cc := c } [])) ∧
  (∀ (h : CcHdr) (rd ra : BitVec 5) (s : State), CcRuns h [ra] [rd] s →
    let c := (ccTile h s).cc
    exec (.rdlane h rd ra) s = .next (ccCore h s (ccStepped h s (gSet c rd (sget 0 (ccTile h s).seq.laneAct ((gVal c ra).toNat % 64))))))

/-- A control-core instruction that issues with guard 1 and settled registers and then meets a fault leaves its registers and its program counter,
stops the core and sends CC_FAULT with the cause: ILLEGAL for a reserved CMP or CMPI condition, a reserved system register or one that WRSR may not
write, and an LSEND of more than 4 words or beyond g31; ADDRESS for an address of 0x800000 or more and for a jump outside 0 to 16,383; MISALIGN for an
address that is not a multiple of 8; POISON for a marked source. Every control-core instruction that issues with guard 0 takes one cycle and has no
other effect, whatever its operands are. -/
def Obligations.FaultsAndGuardsHoldTheCore : Prop :=
  (∀ (h : CcHdr) (s : State), CcIssues h s → guardOn (ccTile h s).cc h.g = true →
    let t := ccTile h s
    let stops := fun (c : Instr) (cause : Word) => exec c s =
      .next (ccTo h s { t with cc := { t.cc with st := .stopped } } [.rpt 0x05 (BitVec.ofNat 64 h.site) [cause]])
    (∀ (fn pd : BitVec 3) (ra rb : BitVec 5), 6 ≤ fn.toNat → stops (.cmp h fn pd ra rb) 1) ∧
    (∀ (fn pd : BitVec 3) (ra : BitVec 5) (imm : BitVec 12), 4 ≤ fn.toNat → stops (.cmpi h fn pd ra imm) 1) ∧
    (∀ (rd : BitVec 5), CcRuns h [] [rd] s → stops (.rdsr h rd 7) 1) ∧
    (∀ (ra : BitVec 5) (n : BitVec 3), 3 ≤ n.toNat → stops (.wrsr h ra n) 1) ∧
    (∀ (n ra : BitVec 5) (name code : BitVec 6), 4 < n.toNat ∨ 32 < ra.toNat + n.toNat → stops (.lsend h n ra name code) 1) ∧
    (∀ (rd ra : BitVec 5) (imm : BitVec 12), CcRuns h [ra] [rd] s →
      let a : Word := gVal t.cc ra + imm.signExtend 64 * 8
      (0x800000 ≤ a.toNat → stops (.ld h rd ra imm) 3) ∧
      (a.toNat < 0x800000 → a.toNat % 8 ≠ 0 → stops (.ld h rd ra imm) 2) ∧
      (16384 ≤ (gVal t.cc ra + imm.signExtend 64 : Word).toNat → stops (.jr h rd ra imm) 3)) ∧
    (∀ (rs ra : BitVec 5) (imm : BitVec 12), CcRuns h [ra, rs] [] s →
      let a : Word := gVal t.cc ra + imm.signExtend 64 * 8
      (0x800000 ≤ a.toNat → stops (.st h rs ra imm) 3) ∧
      (a.toNat < 0x800000 → a.toNat % 8 ≠ 0 → stops (.st h rs ra imm) 2)) ∧
    (∀ (off : BitVec 22), ¬(0 ≤ (t.cc.pc.toNat : Int) + off.toInt ∧ (t.cc.pc.toNat : Int) + off.toInt < 16384) →
      stops (.br h off) 3) ∧
    (∀ (rd ra rb : BitVec 5), (∀ r ∈ [ra, rb, rd], regBusy t.cc (cycAt s h.k) r = false) →
      (gGet t.cc ra).poison = true ∨ (gGet t.cc rb).poison = true →
      stops (.add h rd ra rb) 4 ∧ stops (.mul h rd ra rb) 4 ∧ stops (.divu h rd ra rb) 4)) ∧
  (∀ (c : Instr) (h : CcHdr) (s : State), ccHdr c = some h → CcIssues h s → guardOn (ccTile h s).cc h.g = false →
    exec c s = .next (ccCore h s (ccStepped h s (ccTile h s).cc)))

/-- A NOP entry does nothing. INJ at an even cycle reads its line and sends it through L at CYC + 2 + DLY as a DATA or LANEREC flit of its lane's
stream, under m1 with MSEL; RQ sets a read-return entry and sends an RDREQ; SRV at an even cycle reads the line of the first RDREQ of its window and
sends it with its line and tag, or sends ERR = 1 where the window collected none. These need the L input free in that cycle and, for INJ and RQ, a
lane that is not idle. An idle lane's INJ or RQ sends an IDLE flit. DTAKE writes the descriptors pushed before its cycle, at most N + 1 of them, as
two words each, and removes them. REL clears the arrival counter of its window's next release and advances the release number; with fewer arrivals
than COUNT the release is late: the window's reads are poisoned until its next release, LATE counts and the tile reports LATE_RELEASE with the window.
BLD at an even cycle sends 16 bits of a word, with its mark, to base register b1-b7 for CYC + 4. MSK sets m1. REP outside another REP's entries makes
the NB entries after it COUNT + 1 times performed. -/
def Obligations.SequencerEntriesAct : Prop :=
  (∀ (h : SeqHdr) (s : State) (e : SeqRun) (t : Tile) (outs : List TOut),
    let go := fun (t' : Tile) (o : List TOut) => Host.Outcome.next (tileTo s h.site t' (outs ++ o))
    let flit := fun (kind : BitVec 3) (line wen : BitVec 16) (tag : BitVec 4) (err : Bool) (ws : List RWord) =>
      ({ sid := e.sid, lane := e.lane, kind := kind, line := line, wen := wen, rel := 0, src := 0xFF, tag := tag, err := err,
         words := ws, crcOk := true } : Flit)
    (SeqRuns { h with lg := false } s e t outs → exec (.seqNop h) s = go t []) ∧
    (SeqRuns h s e t outs → ∀ (dly : Bool),
      let c := e.cyc + 2 + dly.toNat
      t.seq.lUse.contains c = false →
      (∀ (line dline : BitVec 16) (laneRec msel : Bool), e.cyc % 2 = 0 →
        (e.idle = false →
          let r := seqRead h.site e.cyc e.taint (BitVec.allOnes 16) (lTake t e.cyc c) (line + e.add)
          exec (.inj h line dline laneRec dly msel) s = go r.1 (r.2.2 ++ [.flit 4 c
            (if laneRec then flit 5 0 0xFFFF 0 false r.2.1 else flit 1 dline (if msel then r.1.seq.m1 else 0xFFFF) 0 false r.2.1)])) ∧
        (e.idle = true → exec (.inj h line dline laneRec dly msel) s =
          go (lTake t e.cyc c) [.flit 4 c (flit 0 0 0 0 false (List.replicate 16 RWord.zero))])) ∧
      (∀ (dline sline : BitVec 16) (tag : BitVec 4), e.idle = false →
        let t1 := lTake t e.cyc c
        exec (.rq h dline sline dly tag) s =
          go { t1 with seq := { t1.seq with retn := sset ⟨0, 0⟩ t1.seq.retn tag.toNat ⟨dline + e.add, sline⟩ } }
            [.flit 4 c (flit 2 sline 0 tag false (List.replicate 16 ⟨0, e.taint⟩))])) ∧
    (SeqRuns { h with lg := false } s e t outs → ∀ (w : BitVec 4) (dly : Bool), e.cyc % 2 = 0 →
      let c := e.cyc + 2 + dly.toNat
      let t1 := lTake (dropReqs e.cyc t) e.cyc c
      let inWin := fun (r : RdReq) => decide (e.cyc - (w.toNat + 1) ≤ r.cyc) && decide (r.cyc < e.cyc)
      t.seq.lUse.contains c = false →
      (t1.seq.reqs.filter inWin = [] →
        exec (.srv h w dly) s = go t1 [.flit 4 c (flit 3 0 0 0 true (List.replicate 16 ⟨0, true⟩))]) ∧
      (∀ q rest, t1.seq.reqs.filter inWin = q :: rest →
        let r := seqRead h.site e.cyc false (BitVec.allOnes 16)
          { t1 with seq := { t1.seq with reqs := t1.seq.reqs.filter (fun r => !inWin r) } } q.line
        exec (.srv h w dly) s = go r.1 (r.2.2 ++ [.flit 4 c (flit 3 q.line 0 q.tag false r.2.1)]))) ∧
    (SeqRuns h s e t outs → ∀ (n : BitVec 3) (line : BitVec 16), e.cyc % 2 = 0 → e.idle = false →
      let got := (t.cc.descQ.takeWhile (fun d => decide (d.1 < e.cyc))).take (n.toNat + 1)
      let r := seqWrite .dtake e.cyc e.taint (BitVec.ofNat 16 (2 ^ (2 * (n.toNat + 1)) - 1))
        { t with cc := { t.cc with descQ := t.cc.descQ.drop got.length } } (line + e.add)
        (got.flatMap (fun d => [(⟨d.2.1, false⟩ : RWord), ⟨d.2.2, false⟩]))
      exec (.dtake h n line) s = go r.1 r.2)) ∧
  (∀ (h : SeqHdr) (s : State) (e : SeqRun) (t : Tile) (outs : List TOut),
    let go := fun (t' : Tile) (o : List TOut) => Host.Outcome.next (tileTo s h.site t' (outs ++ o))
    (SeqRuns { h with lg := false } s e t outs →
      (∀ (win : BitVec 5) (count : BitVec 16),
        let w := winGet t.pad win.toNat
        let nr : BitVec 2 := w.nextRel.setWidth 2
        let late := decide (arrGet w nr < count.toNat)
        let t1 := { t with pad := winPut t.pad win.toNat { arrPut w nr 0 with nextRel := w.nextRel + 1, late := late } }
        (late = false → exec (.rel h win count) s = go t1 []) ∧
        (late = true → exec (.rel h win count) s =
          go (hazAdd { t1 with mesh := { t1.mesh with late := satInc t1.mesh.late } } 7 e.cyc 0)
            [.rpt 0x0B (BitVec.ofNat 64 h.site) [win.setWidth 64]])) ∧
      (∀ mask : BitVec 16, exec (.msk h mask) s = go { t with seq := { t.seq with m1 := mask } } []) ∧
      (∀ (nb : BitVec 6) (count step : BitVec 10) (lstep : BitVec 2) (linc : BitVec 7), nb ≠ 0 → repOf t h.ord.toNat = none →
        exec (.rep h nb count step lstep linc) s = go { t with seq := { t.seq with
          reps := t.seq.reps.filter (fun q => q.ord != h.ord.toNat) ++
            [⟨h.ord.toNat, nb.toNat, count.toNat + 1, step.toNat, lstep.toNat, linc.toNat⟩] } } [])) ∧
    (SeqRuns { h with lg := false, bsel := 0 } s e t outs → e.cyc % 2 = 0 →
      ∀ (n : BitVec 3) (line : BitVec 16) (word : BitVec 4) (half : BitVec 2), n ≠ 0 →
        let r := seqRead h.site e.cyc false (BitVec.ofNat 16 (2 ^ word.toNat)) t line
        let w := lget RWord.zero r.2.1 word.toNat
        let v : BitVec 16 := (w.bits >>> (16 * half.toNat)).setWidth 16
        exec (.bld h n line word half) s =
          go (sendEff r.1 (e.cyc + 4) (.base n.toNat ⟨v.setWidth 64, w.poison⟩)) r.2.2))

/-- MOP at an even cycle on a lane that is not idle reads its activation and scale. On a macro that the map entry names, that is assigned, resident
and not busy, and within the limits of R71, it starts: the operation's outputs are those of the adder tree, OPS_CNT counts it, and its clip and
saturation events are counted. On a macro that is not resident, and beyond the limits, it is refused: its outputs are NaN, NOT_RES or CONC counts it
and the tile reports MACRO_OP_REFUSED. The oldest operation writes its outputs 76 cycles after its start, 32 outputs a line from its destination on.
The clip report of a frame that had clip events is sent when reports are enabled. -/
def Obligations.MacroOperationsStartAndComplete : Prop :=
  (∀ (h : SeqHdr) (s : State) (e : SeqRun) (t : Tile) (outs : List TOut), SeqRuns h s e t outs → e.cyc % 2 = 0 → e.idle = false →
    ∀ (aline sline dline : BitVec 16) (tier : BitVec 3) (lm : BitVec 10) (sel : BitVec 6),
    let r := mopReads h e (aline + e.add) sline sel t
    let f := r.1.fab
    let pois := r.2.2.2.1
    let go := fun (f' : Fabric) (rpt : List TOut) => Host.Outcome.next (tileTo s h.site { r.1 with fab := f' } (outs ++ (r.2.2.2.2 ++ rpt)))
    let refusal := fun (m : Nat) => [TOut.rpt 0x08 (fabAddr h.site m 0 0 false) [BitVec.ofNat 64 h.idx.toNat]]
    ∀ m, macroOf r.1 tier lm = some m →
      (entryRuns (mtGet f m) = true → limitsOk f m e.cyc = true →
        let c := opCompute f m r.2.1 r.2.2.1
        let o : MacroOp := ⟨e.cyc, m, dline, c.outs.map (fun y => ⟨y, pois⟩), c.invScale⟩
        let f1 := { f with ops := f.ops ++ [o], act := f.act.filter (fun z => decide (e.cyc < z.1 + 78)) ++ [(e.cyc, m)],
                           busyFrom := sset 0 f.busyFrom m (gapFree f m e.cyc), opsCnt := f.opsCnt + 1 }
        exec (.mop h aline sline dline tier lm sel) s =
          go (c.sats.foldl (clipEvent h.site m true) (c.clips.foldl (clipEvent h.site m false) f1)) []) ∧
      (r.1.pad.hazOn = false → entryRuns (mtGet f m) = true → limitsOk f m e.cyc = false →
        exec (.mop h aline sline dline tier lm sel) s = go { f with
          conc := satInc f.conc
          ops := f.ops ++ [⟨e.cyc, m, dline, List.replicate (outCount (mtGet f m).fmt) ⟨nan32, pois⟩, 0⟩] } (refusal m)) ∧
      (r.1.pad.hazOn = false → entryRuns (mtGet f m) = false → (mtGet f m).fmt ≠ 0 →
        exec (.mop h aline sline dline tier lm sel) s = go { f with
          notRes := satInc f.notRes
          ops := f.ops ++ [⟨e.cyc, m, dline, List.replicate (outCount (mtGet f m).fmt) ⟨nan32, pois⟩, 0⟩] } (refusal m))) ∧
  (∀ (at_ : TileAt) (s : State) (o : MacroOp) (rest : List MacroOp), tileLive s at_.site = true →
    let t := (tileNow s at_.site at_.k).1
    t.fab.ops = o :: rest → o.t0 + 76 ≤ cycAt s at_.k →
    let t1 := { t with fab := { t.fab with ops := rest, invScale := satAdd t.fab.invScale o.invScale } }
    let w := (List.range (o.outs.length / 32)).foldl (fun acc q =>
      let r := seqWrite .fabric (o.t0 + 76) false (BitVec.allOnes 16) acc.1 (o.dline + BitVec.ofNat 16 q)
        (packLanes (o.outs.drop (32 * q)) 16)
      (r.1, acc.2 ++ r.2)) (t1, ([] : List TOut))
    exec (.macroOpComplete at_) s = .next (eventTo s at_ w.1 w.2)) ∧
  (∀ (site : Site) (s : State) (n : Nat) (first : Word), tileLive s site = true →
    let t := tileAt s site
    t.fab.clipDue = some (n, first) →
    exec (.clipReport site) s = .next (tileTo s site { t with fab := { t.fab with clipDue := none } }
      (if t.fab.clipRptEn then [.rpt 0x07 first [BitVec.ofNat 64 n]] else [])))

/-- LDW clears its buffer, abandons a load in progress and starts reading its NL + 1 lines; a legal load makes its buffer valid two cycles after its
last group of 16 lines, an illegal one leaves it invalid. LDS reads 16 lines of group scales that are valid two cycles later, until when the buffer is
not; SETS widens a BF16 element into c1 or c2 of a scale pair two cycles later, with its flags. MUL reads its activation line and puts its lanes in
flight; a buffer that is not valid, an illegal combination of fields, and a buffer that holds factors of an adapter slot that is not READY for the
lane's pipeline make every lane NaN, and the last is reported as ADAPTER_NOT_READY. Twelve cycles after it, the oldest MUL updates its row and raises
its flags. ST writes the row, with the MULs issued at least ten cycles before it, in bank cycle t + 4 as 16 or 32 lines. -/
def Obligations.DenseArrayEntriesAct : Prop :=
  ((∀ (h : SeqHdr) (s : State) (e : SeqRun) (t : Tile) (outs : List TOut), DaRuns h s e t outs →
    let t0 := daTaken t e.cyc
    let go := fun (t' : Tile) (o : List TOut) => Host.Outcome.next (tileTo s h.site t' (outs ++ o))
    (∀ a : LdwArgs,
      let ln := a.line + e.add
      let b : SBuf := ⟨[], ln, a.nl.toNat + 1, a.ori, a.wl, a.ef, 0, [], false⟩
      let o : LdwOp := ⟨a.sb, ln, a.nl.toNat + 1, e.cyc, 0, !a.ori || (a.ef != 3 && decide (a.wl.toNat ≤ 4)), e.taint, e.lane⟩
      let t1 := sbPut t0 a.sb b
      let r := ldwReads 33 h.site e.cyc { t1 with da := { t1.da with load := some o } }
      exec (.ldw h a) s = go r.1 r.2) ∧
    (∀ (sb : Bool) (line : BitVec 16) (gm : BitVec 2), gm ≠ 3 →
      let r := readRun h.site e.cyc e.taint 16 (line + e.add) t0
      let t1 := { r.1 with da := { r.1.da with load := none } }
      let b := sbGet t1 sb
      exec (.lds h sb line gm) s =
        go (sendEff (sbPut t1 sb { b with valid := false }) (e.cyc + 2) (.ldsDone sb gm r.2.1 b.valid)) r.2.2) ∧
    (∀ (pair : BitVec 2) (half : Bool) (line : BitVec 16) (elem : BitVec 6), pair ≠ 0 →
      let r := seqRead h.site e.cyc e.taint (BitVec.ofNat 16 (2 ^ (elem.toNat / 4))) t0 (line + e.add)
      let w := lget RWord.zero r.2.1 (elem.toNat / 4)
      let v := widenBf16 (halfOf (bitsOf r.2.1) elem.toNat)
      let t1 := sendEff r.1 (e.cyc + 2) (.pair (2 * pair.toNat + half.toNat) ⟨v.1, w.poison⟩)
      exec (.sets h pair half line elem) s = go (if w.poison then t1 else sendEff t1 (e.cyc + 2) (.fda v.2)) r.2.2)) ∧
  (∀ (at_ : TileAt) (s : State) (o : LdwOp), tileLive s at_.site = true →
    let t := (tileNow s at_.site at_.k).1
    t.da.load = some o → o.t + 2 * ((o.nl + 15) / 16) ≤ cycAt s at_.k →
    let t1 := sbPut t o.sb { sbGet t o.sb with valid := o.legal }
    exec (.ldwComplete at_) s = .next (eventTo s at_ { t1 with da := { t1.da with load := none } } []))) ∧
  ((∀ (h : SeqHdr) (s : State) (e : SeqRun) (t : Tile) (outs : List TOut), DaRuns h s e t outs →
    let t0 := daTaken t e.cyc
    let go := fun (t' : Tile) (o : List TOut) => Host.Outcome.next (tileTo s h.site t' (outs ++ o))
    (∀ a : MulArgs, a.af ≠ 3 →
      let r := seqRead h.site e.cyc e.taint (BitVec.allOnes 16) t0 (a.aline + e.add)
      let b := sbGet r.1 a.sb
      let ln := laneGet r.1 e.lane
      let bad := ln.getLsbD 22 && notReady s h.site b ((ln >>> (14 : Nat)).setWidth 8)
      let lanes := (List.range (sbCols b)).map (mulLane r.1 b (b.valid && mulLegal b a && !bad) a (actLine a.af r.2.1))
      exec (.daMul h a) s = go { r.1 with da := { r.1.da with muls := r.1.da.muls ++ [⟨e.cyc, a.acc, a.am, lanes⟩] } }
        (r.2.2 ++ if bad then [.rpt 0x09 (BitVec.ofNat 64 h.site) [ln]] else [])) ∧
    (∀ (acc : BitVec 3) (line : BitVec 16) (nl : Bool),
      let done := t0.da.muls.filter (fun o => o.row == acc && decide (o.t + 10 ≤ e.cyc))
      let row := done.foldl (fun m o => (mulRow m o).1) t0.da.acc
      let n := if nl then 32 else 16
      let lanes := (List.range (32 * n)).map (accGet row acc)
      let w := (List.range n).foldl (fun p q =>
        let r := seqWrite .da (e.cyc + 4) e.taint (BitVec.allOnes 16) p.1 (line + e.add + BitVec.ofNat 16 q)
          (packLanes (lanes.drop (32 * q)) 16)
        (r.1, p.2 ++ r.2)) (t0, ([] : List TOut))
      exec (.daSt h acc line nl) s = go w.1 w.2)) ∧
  (∀ (at_ : TileAt) (s : State) (o : MulOp) (rest : List MulOp), tileLive s at_.site = true →
    let t := (tileNow s at_.site at_.k).1
    t.da.muls = o :: rest → o.t + 12 ≤ cycAt s at_.k →
    let a := mulRow t.da.acc o
    exec (.daMulComplete at_) s = .next (eventTo s at_ { t with da := { t.da with
      acc := a.1, muls := rest, fda := flagRaise t.da.fda (o.t + 12) a.2 } } [])))

/-- A legal FU entry sends its result to the lanes of VD that k(KM) selects after the latency of its operation, each lane marked when an operand lane
is, and the flags of its unmarked lanes: FADD, FSUB, FMUL, FMA and FCVT round by RM in 4 cycles, FMIN, FMAX, FABS and FNEG take 2, the approximations
8 or 12, FRSUM and FRMAX broadcast their result in 8. FCMP writes the selected bits of its mask register. Nothing else changes. -/
def Obligations.FinishUnitArithmetic : Prop :=
  ∀ (h : SeqHdr) (a : FuArgs) (s : State) (e : SeqRun) (t : Tile) (outs : List TOut), FuRuns h s e t outs →
    let t0 := fuTaken t e.cyc
    let sel := (List.range 64).filter (fun i => (kget t0 a.km.toNat).getLsbD i)
    let put := fun (lat : Nat) (lanes : List (Nat × PLane × FlagBits)) => Host.Outcome.next (tileTo s h.site
      (sendEff (sendEff t0 (e.cyc + lat) (.vreg a.vd.toNat (lanes.map (fun x => (x.1, x.2.1))))) (e.cyc + lat)
        (.ffu (flOr (lanes.map (fun x => if x.2.1.poison then flNone else x.2.2))))) outs)
    let elem := fun (lat : Nat) (regs : List (BitVec 5)) (f : List Lane32 → Lane32 × FlagBits) => put lat (sel.map (fun i =>
      let xs := regs.map (fun r => vget t0 r.toNat i)
      (i, ⟨(f (xs.map PLane.bits)).1, xs.any PLane.poison⟩, (f (xs.map PLane.bits)).2)))
    let un := fun (lat : Nat) (f : Lane32 → Lane32 × FlagBits) => elem lat [a.va] (fun l => f (l.getD 0 0))
    let two := fun (lat : Nat) (f : Lane32 → Lane32 → Lane32 × FlagBits) => elem lat [a.va, a.vb] (fun l => f (l.getD 0 0) (l.getD 1 0))
    (∀ rm, rmOf a.rm = some rm →
      exec (.fadd h a) s = two 4 (fadd rm) ∧ exec (.fsub h a) s = two 4 (fsub rm) ∧ exec (.fmul h a) s = two 4 (fmul rm) ∧
      exec (.fma h a) s = elem 4 [a.va, a.vb, a.vc] (fun l => ffma rm (l.getD 0 0) (l.getD 1 0) (l.getD 2 0)) ∧
      ((fcvt a.vc rm a.satb 0).isSome →
        exec (.fcvt h a) s = un 4 (fun x => (fcvt a.vc rm a.satb x).getD (nan32, flNone)))) ∧
    (a.rm = 0 →
      exec (.fmin h a) s = two 2 fmin ∧ exec (.fmax h a) s = two 2 fmax ∧
      exec (.fabs h a) s = un 2 (fsign true) ∧ exec (.fneg h a) s = un 2 (fsign false) ∧
      exec (.frcp h a) s = un 8 frcp ∧ exec (.frsq h a) s = un 8 frsq ∧ exec (.fexp h a) s = un 8 fexp ∧
      exec (.fexp2 h a) s = un 8 fexp2 ∧ exec (.fsig h a) s = un 12 fsig ∧ exec (.ftanh h a) s = un 12 ftanh ∧
      exec (.fsilu h a) s = un 12 fsilu ∧ exec (.fgelu h a) s = un 12 fgelu ∧
      (let v := fun (i : Nat) => (vget t0 a.va.toNat i).bits
       let mark := sel.any (fun i => (vget t0 a.va.toNat i).poison)
       exec (.frsum h a) s = put 8 (sel.map (fun i => (i, ⟨(frsum sel.contains v).1, mark⟩, (frsum sel.contains v).2))) ∧
       exec (.frmax h a) s = put 8 (sel.map (fun i => (i, ⟨(frmax (sel.map v)).1, mark⟩, (frmax (sel.map v)).2)))) ∧
      (a.vd ≠ 0 → a.vd.toNat < 4 →
        let rs := sel.map (fun i => (i, fcmp (a.vc.setWidth 2) (vget t0 a.va.toNat i).bits (vget t0 a.vb.toNat i).bits))
        let m : BitVec 64 := rs.foldl (fun acc r => if r.2.1 then acc ||| (1 <<< r.1) else acc) 0
        exec (.fcmp h a) s = .next (tileTo s h.site (sendEff (sendEff t0 (e.cyc + 2) (.mask a.vd.toNat m (kget t0 a.km.toNat)))
          (e.cyc + 2) (.ffu (flOr (rs.map (fun r => r.2.2))))) outs)))

/-- An INT32 operation, VMOV, FSEL, FBC, VIOTA, VTOPM and VRNG with RM = 0 send their result to the selected lanes after the latency of the operation
and raise no flag: 2 cycles, 8 for VTOPM, 12 for VRNG. A result lane is marked when a lane it is taken from is. VTOPM writes the 64 first pairs of the
sorted 128 to VD and VD + 1 and the others to VA and VB, for an even VD and a VA and VB that are two registers other than VD and VD + 1. -/
def Obligations.FinishUnitIntegersAndMoves : Prop :=
  ∀ (h : SeqHdr) (a : FuArgs) (s : State) (e : SeqRun) (t : Tile) (outs : List TOut), FuRuns h s e t outs → a.rm = 0 →
    let t0 := fuTaken t e.cyc
    let sel := (List.range 64).filter (fun i => (kget t0 a.km.toNat).getLsbD i)
    let put := fun (lat : Nat) (f : Nat → PLane) => Host.Outcome.next (tileTo s h.site
      (sendEff (sendEff t0 (e.cyc + lat) (.vreg a.vd.toNat (sel.map (fun i => (i, f i))))) (e.cyc + lat) (.ffu flNone)) outs)
    let x := fun (i : Nat) => vget t0 a.va.toNat i
    let y := fun (i : Nat) => vget t0 a.vb.toNat i
    let two := fun (f : Lane32 → Lane32 → Lane32) => put 2 (fun i => ⟨f (x i).bits (y i).bits, (x i).poison || (y i).poison⟩)
    exec (.iadd h a) s = two (fun p q => p + q) ∧ exec (.isub h a) s = two (fun p q => p - q) ∧
    exec (.iand h a) s = two (fun p q => p &&& q) ∧ exec (.ior h a) s = two (fun p q => p ||| q) ∧
    exec (.ixor h a) s = two (fun p q => p ^^^ q) ∧ exec (.ishl h a) s = two (fun p q => p <<< (q.toNat % 32)) ∧
    exec (.ishr h a) s = two (fun p q => p.sshiftRight (q.toNat % 32)) ∧
    exec (.imin h a) s = two (fun p q => BitVec.ofInt 32 (min p.toInt q.toInt)) ∧
    exec (.imax h a) s = two (fun p q => BitVec.ofInt 32 (max p.toInt q.toInt)) ∧
    exec (.vmov h a) s = put 2 x ∧
    exec (.fsel h a) s = put 2 (fun i => if (kget t0 (a.vc.toNat % 4)).getLsbD i then x i else y i) ∧
    (let from_ := vget t0 a.va.toNat (a.vb.toNat + 32 * (a.vc.toNat / 16))
     exec (.fbc h a) s = put 2 (fun _ => from_)) ∧
    exec (.viota h a) s = put 2 (fun i => ⟨(x 0).bits + BitVec.ofNat 32 i, (x 0).poison⟩) ∧
    (let key := [x 0, x 1, x 2, x 3]
     exec (.vrng h a) s = put 12 (fun i => ⟨vrngLane (key.map PLane.bits) (y 0).bits (y 1).bits i,
       key.any PLane.poison || (y 0).poison || (y 1).poison⟩)) ∧
    (a.vd.toNat % 2 = 0 → a.va ≠ a.vb → a.va.toNat / 2 ≠ a.vd.toNat / 2 → a.vb.toNat / 2 ≠ a.vd.toNat / 2 →
      let d := a.vd.toNat
      let ps := topSort ((List.range 64).map (fun i => ⟨vget t0 d i, vget t0 (d + 1) i⟩) ++ (List.range 64).map (fun i => ⟨x i, y i⟩))
      let nth := fun (n : Nat) => ps.getD n ⟨PLane.zero, PLane.zero⟩
      let send := fun (u : Tile) (r : Nat) (g : Nat → PLane) => sendEff u (e.cyc + 8) (.vreg r (sel.map (fun i => (i, g i))))
      exec (.vtopm h a) s = .next (tileTo s h.site
        (send (send (send (send t0 d (fun i => (nth i).v)) (d + 1) (fun i => (nth i).i)) a.va.toNat (fun i => (nth (64 + i)).v))
          a.vb.toNat (fun i => (nth (64 + i)).i)) outs))

/-- At an even cycle, VLD of a legal format sends 64 elements to VREG for t + 5 with the marks of their words and the flags of the unmarked; VST
narrows 64 lanes and writes them in bank cycle t + 4; VLDQ dequantises 64 elements with their block's scales for t + 6; VSTQ quantises lanes, writes
their codes in bank cycle t + 10 and sends their scales to the scale buffer; VSTS writes the 128 bytes of the scale buffer in bank cycle t + 2. A
marked lane marks what it is part of and raises no flag. -/
def Obligations.FinishUnitMemory : Prop :=
  ∀ (h : SeqHdr) (a : FumArgs) (s : State) (e : SeqRun) (t : Tile) (outs : List TOut), FuRuns h s e t outs → e.cyc % 2 = 0 →
    let t0 := fuTaken t e.cyc
    let line := a.line + e.add
    let lanes := fun (u : Tile) (lat : Nat) (f : Nat → PLane × FlagBits) =>
      sendEff (sendEff u (e.cyc + lat) (.vreg a.vreg.toNat ((List.range 64).map (fun i => (i, (f i).1))))) (e.cyc + lat)
        (.ffu (flOr ((List.range 64).map (fun i => if (f i).1.poison then flNone else (f i).2))))
    (∀ f, efmtOf a.fmt = some f → hOk (efmtBits f) a.h = true →
      let bits := efmtBits f
      (let r := elemRead h e bits a.h line t0
       exec (.vld h a) s = .next (tileTo s h.site (lanes r.1 5 (fun i =>
         let v := loadElem f (rawElem bits (bitsOf r.2.1) i)
         (⟨v.1, (lget RWord.zero r.2.1 (i / (64 / bits))).poison⟩, v.2))) (outs ++ r.2.2))) ∧
      (∀ rm, rmOf a.rm = some rm → storeRmOk f rm = true →
        let xs := (vlanes t0 a.vreg.toNat).map (fun l => (storeElem f rm a.satb l.bits, l.poison))
        let w := elemWrite e (e.cyc + 4) (elemWords bits a.h).1 (packElems bits (xs.map (fun x => (x.1.1, x.2)))) line t0
        exec (.vst h a) s = .next (tileTo s h.site
          (sendEff w.1 (e.cyc + 4) (.ffu (flOr (xs.map (fun x => if x.2 then flNone else x.1.2))))) (outs ++ w.2)))) ∧
    (∀ f, bfmtOf a.fmt = some f → selOk f a.sel = true →
      let bits := bfmtBits f
      (hOk bits a.h = true →
        let r := elemRead h e bits a.h line t0
        let s0 := if f = .a8 then 2 * a.sel.toNat else a.sel.toNat
        let q := seqRead h.site e.cyc e.taint ((1 <<< (s0 / 8)) ||| (1 <<< ((s0 + 1) / 8))) r.1 a.sline
        let sc := fun (i : Nat) =>
          if f = .a8 then (halfOf (bitsOf q.2.1) a.sel.toNat, (lget RWord.zero q.2.1 (s0 / 8)).poison)
          else ((byteOf (bitsOf q.2.1) (s0 + i / 32)).setWidth 16, (lget RWord.zero q.2.1 ((s0 + i / 32) / 8)).poison)
        exec (.vldq h a) s = .next (tileTo s h.site (lanes q.1 6 (fun i =>
          let v := dequant f (sc i).1 ((rawElem bits (bitsOf r.2.1) i).setWidth 8)
          (⟨v.1, (lget RWord.zero r.2.1 (i / (64 / bits))).poison || (sc i).2⟩, v.2))) (outs ++ (r.2.2 ++ q.2.2)))) ∧
      (f ≠ .a8 → hOk bits a.h = true →
        let ls := vlanes t0 a.vreg.toNat
        let qs := [ls.take 32, ls.drop 32].map (fun g => (quantise f (g.map PLane.bits), g.any PLane.poison))
        let w := elemWrite e (e.cyc + 10) (elemWords bits a.h).1
          (packElems bits (qs.flatMap (fun q => q.1.codes.map (fun c => (c.setWidth 32, q.2))))) line t0
        exec (.vstq h a) s = .next (tileTo s h.site
          (sendEff (sendScales w.1 (e.cyc + 10) a.sel.toNat (qs.map (fun q => (q.1.scale.setWidth 8, q.2)))) (e.cyc + 10)
            (.ffu (flOr (qs.map (fun q => if q.2 then flNone else q.1.flags))))) (outs ++ w.2)))) ∧
    (let bs := (List.range 128).map (fun i => let b := sget (0, false) t0.fu.sbuf i; (b.1.setWidth 32, b.2))
     let w := elemWrite e (e.cyc + 2) 0 (packElems 8 (bs.take 64) ++ packElems 8 (bs.drop 64)) line t0
     exec (.vsts h a) s = .next (tileTo s h.site w.1 (outs ++ w.2)))

/-- An FU entry with a reserved rounding mode, and an entry without rounding that names one, raises NV, sends the canonical NaN, unmarked, to the
lanes that k(KM) selects in the cycle its result would have landed, and is reported as SEQ_ENTRY with its store index (hazards not being compared);
the operands are not read. -/
def Obligations.IllegalFinishEntriesAreReported : Prop :=
  ∀ (h : SeqHdr) (a : FuArgs) (s : State) (e : SeqRun) (t : Tile) (outs : List TOut), FuRuns h s e t outs → t.pad.hazOn = false →
    let t0 := fuTaken t e.cyc
    let sel := (List.range 64).filter (fun i => (kget t0 a.km.toNat).getLsbD i)
    let bad := fun (lat : Nat) => Host.Outcome.next (tileTo s h.site
      (sendEff (sendEff t0 (e.cyc + lat) (.vreg a.vd.toNat (sel.map (fun i => (i, ⟨nan32, false⟩))))) (e.cyc + lat) (.ffu flNV))
      (outs ++ [.rpt 0x06 (BitVec.ofNat 64 h.site) [BitVec.ofNat 64 h.idx.toNat]]))
    (rmOf a.rm = none → exec (.fadd h a) s = bad 4 ∧ exec (.fma h a) s = bad 4 ∧ exec (.fcvt h a) s = bad 4) ∧
    (a.rm ≠ 0 → exec (.fmin h a) s = bad 2 ∧ exec (.frcp h a) s = bad 8 ∧ exec (.fsig h a) s = bad 12 ∧
      exec (.frsum h a) s = bad 8 ∧ exec (.iadd h a) s = bad 2 ∧ exec (.vmov h a) s = bad 2 ∧ exec (.vrng h a) s = bad 12)

/-- A flit on its way to an input leaves the wire. At a router that runs, on a port that receives: at a fenced port it is dropped and FENCE_ERR counts
it; otherwise, where no active entry names its input, it is dropped and DROP counts it; otherwise it is driven onto every output that the active
entries name, an RDREQ for the sink to the read unit and any other flit for the sink to the ejection buffer. A failing sideband CRC marks its words
and LINK_ERR counts it; a slipped port marks its words. In an odd cycle the ejected flits are written by their kinds, after the RDREQs that no window
can cover are dropped. -/
def Obligations.FlitsReachTheirOutputs : Prop :=
  (∀ (at_ : TileAt) (port : Fin 6) (crcOk : Bool) (s : State) (f : Flying),
    let x := cycAt s at_.k
    let here := fun (f : Flying) => f.site == at_.site.val && f.port == port.val && f.cyc == x
    s.grid.flits.find? here = some f → routerLive s at_.site = true →
    let s1 := { s with grid := { s.grid with flits := s.grid.flits.eraseP here } }
    let r := tileNow s at_.site at_.k
    let t := r.1
    let ok := f.flit.crcOk && crcOk
    let ws := markIf (port.val != 4 && slipped s at_.site port) f.flit.words
    let g : Flit := { f.flit with crcOk := true, words := if ok then ws else markAll ws }
    let m1 : Mesh := if ok then t.mesh else { t.mesh with linkErr := satInc t.mesh.linkErr }
    let go := fun (t' : Tile) (o : List TOut) => Host.Outcome.next (tileTo s1 at_.site t' (r.2 ++ o))
    portOn t port = true →
    (portFenced t port = true →
      exec (.flitArrival at_ port crcOk) s = go { t with mesh := { t.mesh with fenceErr := satInc t.mesh.fenceErr } } []) ∧
    (portFenced t port = false → slotOuts m1 x port = [] →
      exec (.flitArrival at_ port crcOk) s = go (hazAdd { t with mesh := { m1 with drop := satInc m1.drop } } 2 x 0) []) ∧
    (portFenced t port = false → slotOuts m1 x port ≠ [] →
      let outs := slotOuts m1 x port
      exec (.flitArrival at_ port crcOk) s =
        go (if outs.contains 4 then ejectFlit x { t with mesh := m1 } g else { t with mesh := m1 })
          ((outs.filter (fun o => o != 4)).map (fun o => .send o x g)))) ∧
  (∀ (at_ : TileAt) (s : State), tileLive s at_.site = true →
    let x := cycAt s at_.k
    let t := (tileNow s at_.site at_.k).1
    x % 2 = 1 →
    let due := t.mesh.eject.filter (fun e => decide (e.cyc ≤ x))
    let t1 := { t with mesh := { t.mesh with eject := t.mesh.eject.filter (fun e => !decide (e.cyc ≤ x)) } }
    let w := due.foldl (fun acc e => ejectWrite at_.site x acc e.flit) (dropReqs x t1, [])
    exec (.ejectionWrite at_) s = .next (eventTo s at_ w.1 w.2))

/-- An ejected CRED flit whose line lies in no window, or in a window that is no landing window or has another SOURCE, is dropped: TILE_LAND_DROP
counts it with the window's number or 31, the drop is reported and no credit goes back. With d = REL - NR modulo 256: 128 and above is late (LATE
counts it), 4 to 127 is early (TILE_LAND_DROP counts it), and both return one credit to SOURCE. For d of 0 to 3 with no credit left the line is
dropped and counted; with a credit it is sent to the scratchpad, CREDITS falls by one and the arrival counter of REL[1:0] rises by one. CREDITS
changes in no other case, and a line that is not accepted is not written. -/
def Obligations.CreditedLinesAreChecked : Prop :=
  ∀ (site x : Nat) (t : Tile) (f : Flit) (outs : List TOut), f.kind = kCred →
    let r := ejectWrite site x (t, outs) f
    let drop := fun (n : Nat) => TOut.rpt 0x0A (BitVec.ofNat 64 site) [BitVec.ofNat 64 n]
    let dropped := fun (n : Nat) => { t with pad := { t.pad with landDrop := satInc t.pad.landDrop, lastWin := BitVec.ofNat 5 n } }
    (winOf t.pad f.line = none → r = (dropped 31, outs ++ [drop 31])) ∧
    (∀ n, winOf t.pad f.line = some n →
      let w := winGet t.pad n
      let d := (f.rel - w.nextRel).toNat
      let back := TOut.credit w.source (BitVec.ofNat 5 n) 1
      (w.typ ≠ 1 ∨ w.source ≠ f.src → r = (dropped n, outs ++ [drop n])) ∧
      (w.typ = 1 → w.source = f.src →
        (128 ≤ d → r = (hazAdd { t with mesh := { t.mesh with late := satInc t.mesh.late } } 7 x 0, outs ++ [back])) ∧
        (4 ≤ d → d < 128 → r = (dropped n, outs ++ [drop n, back])) ∧
        (d < 4 → w.credits = 0 → r = (dropped n, outs ++ [drop n])) ∧
        (d < 4 → w.credits ≠ 0 →
          let w1 := arrPut { w with credits := w.credits - 1 } (f.rel.setWidth 2) (arrGet w (f.rel.setWidth 2) + 1)
          r = ({ t with pad := { winPut t.pad n w1 with
            pend := t.pad.pend ++ [⟨x, .mesh, f.line, f.wen, f.words⟩] } }, outs))))

/-- In a cycle of its calendar, at a tile whose stencil runs and while the tiles are not stopped, a rim die sends the first line it holds for that
entry's destination as a CRED flit with its own code as SRC, and pays for it a credit of the line's window where it must; a link die has paid when it
received the line. A CREDIT message leaves the tile's lath queue, and its lines become credits of the source agent for that window. A requester that
ejects an RDREP whose LINE differs from the source line of its read-return entry TAG writes the reply's words, marked, to that entry's destination
line and counts it in MISS_CNT; with ERR = 1 it makes no comparison, counts nothing and writes the words marked; otherwise it writes them as they are.
-/
def Obligations.LinesComeFromTheRimAndFromReads : Prop :=
  ((∀ (rim : BitVec 6) (port : BitVec 3) (k : FrameCycle) (s : State) (site : Nat) (e : CalEnt) (l : RimLine) (rest : List RimLine),
    rimSite rim.toNat port.toNat = some site →
    let x := cycAt s k
    (sget [] s.grid.cal rim.toNat).find? (fun e => e.port == port.toNat && e.cyc == x - 2048 * (tileAt s site).mesh.beatAt) = some e →
    (tileAt s site).mesh.run = true → gridStopped s = false →
    takeFor e.dst (sget [] s.grid.rimQ rim.toNat) = some (l, rest) → mayWrite s rim.toNat l = true →
    let s1 := payCredit s rim.toNat l
    let f : Flit := { sid := 0, lane := 0, kind := kCred, line := l.line, wen := 0xFFFF, rel := l.rel, src := BitVec.ofNat 8 rim.toNat,
                      tag := 0, err := false, words := l.words, crcOk := true }
    exec (.rimInjection rim port k) s = .next { s1 with grid := { s1.grid with
      rimQ := sset [] s1.grid.rimQ rim.toNat rest
      flits := s1.grid.flits ++ [⟨site, 5, x, f⟩] } }) ∧
  (∀ (site : Site) (source : Byte) (win : BitVec 5) (lines : BitVec 16) (s : State), source.toNat ≤ 32 →
    let t := tileAt s site
    let s1 := tilePut s site { t with cc := { t.cc with lathQ := t.cc.lathQ.eraseP (fun m => m == .credit source win lines) } }
    exec (.credit site source win lines) s = .next { s1 with grid := { s1.grid with
      credit := supd 0 s1.grid.credit ((source.toNat * 8064 + site) * 32 + win.toNat) (· + lines.toNat) } })) ∧
  (∀ (site x : Nat) (t : Tile) (f : Flit) (outs : List TOut), f.kind = kRdRep → t.pad.hazOn = false →
    let r := ejectWrite site x (t, outs) f
    let e := sget ⟨0, 0⟩ t.seq.retn f.tag.toNat
    let written := fun (t' : Tile) (ws : List RWord) =>
      ({ t' with pad := { t'.pad with pend := t'.pad.pend ++ [⟨x, .mesh, e.dest, 0xFFFF, ws⟩] } }, outs)
    (f.err = true → r = written t (f.words.map (fun w => ⟨w.bits, true⟩))) ∧
    (f.err = false → f.line ≠ e.src →
      r = written { t with mesh := { t.mesh with miss := satInc t.mesh.miss } } (f.words.map (fun w => ⟨w.bits, true⟩))) ∧
    (f.err = false → f.line = e.src → r = written t f.words))

/-- A node that receives a message with a failing layout or CRC drops it and counts it, leaving the sender's copy unacknowledged. Another message is
acknowledged: its copy at the sender goes; a reserved type is dropped and counted; a hub drops and counts one from its block with a stale epoch and
reports it as STALE_EPOCH; any other is kept where it is addressed and sent on. A message whose acknowledgement times out is sent again three times;
then it is dropped, the link is reported as LATH_LINK_DOWN and the group whose shadow write it carried has lost a write. A tile or rim die that is no
hub sends its hub a HEARTBEAT with its state, epoch and the frame counter; a hub ends its members' interval and sends the service die its block
summary; the service die ends the hubs' interval and broadcasts. A heartbeat with the epoch of the hub's copy is heard for the interval and ends a
reset that waits for it; one with another epoch is dropped as stale. A block summary is heard by the service die, and the service die's heartbeat by
every deputy. REJOIN gives the node its new epoch. -/
def Obligations.LathMessagesAndHeartbeatsAreHeard : Prop :=
  ((∀ (sender receiver : Node) (bytes : List Byte) (s : State),
    let counted := fun (u : State) => { u with lath := { u.lath with
      nodes := supd LNode.reset u.lath.nodes receiver (fun n => { n with crc := satInc n.crc }) } }
    (msgOk bytes = false → exec (.lathMessageReceive sender receiver bytes) s = .next (counted s)) ∧
    (msgOk bytes = true →
      let s1 := { s with lath := { s.lath with
        sent := s.lath.sent.eraseP (fun m => m.sender == sender.val && m.receiver == receiver.val && m.bytes == bytes) } }
      (msgType bytes ∉ [1, 2, 3, 8, 9, 10, 11, 0x10, 0x11, 0x18, 0x20, 0x21, 0x22, 0x28] →
        exec (.lathMessageReceive sender receiver bytes) s = .next (counted s1)) ∧
      (msgType bytes ∈ [1, 2, 3, 8, 9, 10, 11, 0x10, 0x11, 0x18, 0x20, 0x21, 0x22, 0x28] →
        (heardBy s1 receiver bytes = true →
          exec (.lathMessageReceive sender receiver bytes) s = .next (forward receiver sender bytes s1)) ∧
        (heardBy s1 receiver bytes = false →
          exec (.lathMessageReceive sender receiver bytes) s = .next (sendRpt { s1 with lath := { s1.lath with
            nodes := supd LNode.reset s1.lath.nodes receiver (fun n => { n with stale := satInc n.stale }) } }
            receiver 0x18 (BitVec.ofNat 64 (msgSrc bytes)) []))))) ∧
  (∀ (sender receiver : Node) (s : State) (m : LSent),
    let mine := fun (m : LSent) => m.sender == sender.val && m.receiver == receiver.val
    s.lath.sent.find? mine = some m →
    (m.fails < 3 → exec (.lathAckTimeout sender receiver) s = .next { s with lath := { s.lath with
      sent := s.lath.sent.map (fun n => if n = m then { n with fails := n.fails + 1 } else n) } }) ∧
    (3 ≤ m.fails →
      let s1 := { s with lath := { s.lath with sent := s.lath.sent.eraseP mine } }
      let lose := fun (c : BitVec 16) => { s1 with cg := { s1.cg with
        groups := s1.cg.groups.map (fun g => if g.cgid = c then { g with lost := true } else g) } }
      exec (.lathAckTimeout sender receiver) s = .next (sendRpt
        (match msgGroup m.bytes with | some c => lose c | none => s1)
        sender 0x0C (BitVec.ofNat 64 sender) [BitVec.ofNat 64 receiver])))) ∧
  ((∀ (node : Node) (s : State) (b : Nat), nodeBlock node = some b → node.val ≠ 8096 →
    let ep := (lathNode s node).epoch
    let frame := leBytes 6 (s.frames % 2 ^ 48)
    (node.val ≠ hubOf s b →
      let t := tileAt s node
      let st := if node.val < 8064 then ccCode t.cc.st + 4 * t.imageLoaded.toNat else 0
      exec (.heartbeatSend node) s =
        .next (lathSend node (lathMsg (hubOf s b) 0 node 2 0x11 ep ([BitVec.ofNat 8 st, 0] ++ frame)) s)) ∧
    (node.val = hubOf s b → exec (.heartbeatSend node) s =
      .next (lathSend node (lathMsg 8096 0 node 2 0x11 ep (leBytes 18 (summaryBits s b) ++ frame)) (hubInterval b s)))) ∧
  (∀ (s : State) (node : Node), node.val = 8096 →
    exec (.heartbeatSend node) s = .next (lathSend 8096
      (lathMsg 0 2 8096 2 0x11 (lathNode s 8096).epoch (leBytes 6 (s.frames % 2 ^ 48) ++ [if s.svc.warming then 1 else 0]))
      { s with lath := { s.lath with blocks := (List.range 56).foldl (fun m b =>
        sset Heard.fresh m b (endInterval (sget Heard.fresh m b))) s.lath.blocks } })) ∧
  (∀ (sender : Node) (epoch : BitVec 16) (s0 : State) (b : Nat), nodeBlock sender = some b → sender.val ≠ 8096 →
    let s := lathDone sender 0x11 s0
    (∀ bits, exec (.heartbeat sender (some bits) epoch) s0 =
      .next { s with lath := { s.lath with blocks := sset Heard.fresh s.lath.blocks b ⟨true, 0⟩ } }) ∧
    (epoch = epochCopy s sender → exec (.heartbeat sender none epoch) s0 =
      .next (resetHeard sender { s with lath := { s.lath with
        heard := sset Heard.fresh s.lath.heard sender { sget Heard.fresh s.lath.heard sender with now := true } } })) ∧
    (epoch ≠ epochCopy s sender → exec (.heartbeat sender none epoch) s0 = .next (dropStale (hubOf s b) sender s))) ∧
  (∀ (sender : Node) (sum : Option (BitVec 144)) (epoch : BitVec 16) (s0 : State), sender.val = 8096 →
    let s := lathDone sender 0x11 s0
    exec (.heartbeat sender sum epoch) s0 =
      .next { s with md := stab MemDie.reset 16 (fun n => { mdAt s n with svcHeard := s.frames }) }) ∧
  (∀ (node : Node) (epoch : BitVec 16) (s0 : State),
    let s := lathDone 8096 0x03 s0
    exec (.rejoin node epoch) s0 = .next { s with lath := { s.lath with
      nodes := supd LNode.reset s.lath.nodes node (fun n => { n with epoch := epoch }) } }))

/-- A FENCE sets the hub's copy of the node's epoch at once. Of a tile that is not fenced and that no open group fences, it also opens a group, where
one may be opened, with the neighbours' FENCE bits (unless compute-only or rim-attached) and the tile's own gate as shadow writes; the tile itself is
not fenced before that group applies. Of another node the epoch is all that changes. -/
def Obligations.FencesTakeEffectByGroup : Prop :=
  ∀ (node : Node) (only : Bool) (epoch : BitVec 16) (s0 : State),
    let s := lathDone 8096 0x02 s0
    let s1 := { s with lath := { s.lath with copies := sset 0 s.lath.copies node epoch } }
    let open_ := s.cg.parts.any (fun p => p.items.any (fun i => match i with | .fence z _ => z == node.val | _ => false))
    (node.val < 8064 → isFenced s node = false → open_ = false →
      exec (.fence node only epoch) s0 = .next (cgTry (fenceItems s node (!only)) s1) ∧
      isFenced (cgTry (fenceItems s node (!only)) s1) node = false) ∧
    ((8064 ≤ node.val ∨ isFenced s node = true ∨ open_ = true) → exec (.fence node only epoch) s0 = .next s1)

/-- A PREPARE fills its group once. A participant that receives it is prepared for its frame and answers with its vote: 0 YES, the reason of a refused
write, or 4 while it is stopped on a fault. A vote that reaches the service die adds its YES count to its group, and the first NO stays. A vote that
reaches the hub of its block is added once to the combined vote, which is sent when every participant of the block has voted and otherwise at the
deadline; a hub sends one. The service die decides a prepared group without a decision once. With every participant's YES and no NO, not withdrawn and
with no write lost, it applies: the group stays open with its decision, and the record names it with reason 0. Otherwise it is discarded with reason
3, 4, 1 or 2: the group, its hubs' votes and the service die's shadow state go, and the record counts it. A prepared participant holds a CG_APPLY that
comes before its frame, and drops its shadow state at a CG_DISCARD unless it holds a CG_APPLY; a node outside the scope drops its writes and reports.
-/
def Obligations.CommitGroupsAreVotedAndDecided : Prop :=
  ((∀ (node : Node) (a : PrepArgs) (s : State) (g : CgGroup) (p : CgPart),
    let s1 := cgSent a s
    groupAt s1.cg a.cgid = some g → node.val ∈ g.parts → partAt s1.cg node a.cgid = some p →
    let s2 := { s1 with cg := { s1.cg with parts := s1.cg.parts.map (fun q =>
      if q.node = node.val ∧ q.cgid = a.cgid then { q with prepared := true, frame := a.frame } else q) } }
    let vote := if p.refused ≠ 0 then p.refused.toNat else if nodeStopped s2 node then 4 else 0
    exec (.cgPrepare node a) s = .next { s2 with reply := some ⟨vote, [], []⟩ }) ∧
  (∀ (sender : Node) (at_ : Node) (cgid yes : BitVec 16) (no : Byte) (noNode : BitVec 16) (s : State),
    (at_.val = 8096 → exec (.cgVote at_ sender cgid yes no noNode) s = .next { s with cg := { s.cg with
      groups := s.cg.groups.map (fun g => if g.cgid = cgid then
        (if g.no = 0 ∧ no ≠ 0 then { g with yes := g.yes + yes, no := no, noNode := noNode } else { g with yes := g.yes + yes })
        else g) } }) ∧
    (∀ b, at_.val ≠ 8096 → nodeBlock at_ = some b → at_.val = hubOf s b →
      let v := hubVote s.cg at_ cgid
      v.sent = false → sender.val ∉ v.voted →
      let w := { v with
        yes := v.yes + yes
        voted := v.voted ++ [sender.val]
        no := if v.no = 0 ∧ no ≠ 0 then no else v.no
        noNode := if v.no = 0 ∧ no ≠ 0 then noNode else v.noNode }
      let s1 := { s with cg := hubPut w s.cg }
      ((∀ n ∈ blockParts s.cg cgid b, n ∈ w.voted) → exec (.cgVote at_ sender cgid yes no noNode) s = .next (sendVote w s1)) ∧
      ((∃ n ∈ blockParts s.cg cgid b, n ∉ w.voted) → exec (.cgVote at_ sender cgid yes no noNode) s = .next s1))) ∧
  (∀ (b : Block) (cgid : BitVec 16) (s : State),
    let v := hubVote s.cg (hubOf s b) cgid
    (v.sent = false → exec (.hubVoteDeadline b cgid) s = .next { s with
      cg := hubPut { v with sent := true } s.cg
      reply := some ⟨0, [⟨v.yes.setWidth 64, false⟩, ⟨v.no.setWidth 64, false⟩, ⟨v.noNode.setWidth 64, false⟩], []⟩ }) ∧
    (v.sent = true → exec (.hubVoteDeadline b cgid) s = .next s))) ∧
  ((∀ (cgid : BitVec 16) (s : State) (g : CgGroup), groupAt s.cg cgid = some g → g.decision = .none → g.prepared = true →
    (decisionOf g = 0 ↔ (g.withdrawn = false ∧ g.lost = false ∧ g.no = 0 ∧ g.yes.toNat = g.parts.length)) ∧
    (decisionOf g = 0 → exec (.cgDecide cgid) s = .next { s with cg := { s.cg with
      lastCgid := cgid
      lastReason := 0
      groups := s.cg.groups.map (fun h => if h.cgid = cgid then { h with decision := .apply } else h)
      parts := s.cg.parts.map (fun p => if p.node = 8096 ∧ p.cgid = cgid then { p with decision := .apply } else p) } }) ∧
    (decisionOf g ≠ 0 → exec (.cgDecide cgid) s = .next { s with cg :=
      let c := recordDecision cgid (decisionOf g) g.no g.noNode s.cg
      { c with
        groups := s.cg.groups.filter (fun h => h.cgid != cgid)
        hubs := s.cg.hubs.filter (fun v => v.cgid != cgid)
        parts := s.cg.parts.filter (fun p => !(p.node == 8096 && p.cgid == cgid)) } })) ∧
  (∀ (node : Node) (cgid : BitVec 16) (s : State) (p : CgPart), partAt s.cg node cgid = some p →
    let gone := { s with cg := { s.cg with parts := s.cg.parts.filter (fun q => !(q.node == node.val && q.cgid == cgid)) } }
    let report := sendRpt gone node 0x0E (BitVec.ofNat 64 node) [cgid.setWidth 64]
    (∀ frame : BitVec 48, p.prepared = true → (frameCtr s).toNat + 1 ≤ frame.toNat →
      exec (.cgApply node cgid frame) s = .next { s with cg := { s.cg with
        parts := s.cg.parts.map (fun q => if q.node = node.val ∧ q.cgid = cgid then { q with decision := .apply } else q) } }) ∧
    (∀ frame : BitVec 48, p.prepared = false → exec (.cgApply node cgid frame) s = .next report) ∧
    (∀ reason : Byte, (p.decision ≠ .apply ∨ reason = 5) →
      exec (.cgDiscard node cgid reason) s = .next (if p.prepared then gone else report))))

/-- A report in flight that reaches the service die leaves the flight and enters the intake queue, or is counted as an overflow while 64 reports wait.
ERROR_LOG_ENTRY drains the oldest report: one that coalesces with one of the latest 64 entries updates that entry's last time and count; another takes
the next entry of the log, unless the log is full of unread entries, when it is counted as lost. A new entry leaves every other entry of the log as it
was. -/
def Obligations.ReportsAreLogged : Prop :=
  (∀ (a : RptArgs) (s : State),
    let r := rptOf a
    r ∈ s.flt.flight →
    (s.flt.intake.length < 64 → exec (.errReport a) s = .next { s with flt := { s.flt with
      flight := s.flt.flight.erase r
      intake := s.flt.intake ++ [r] } }) ∧
    (64 ≤ s.flt.intake.length → exec (.errReport a) s = .next { s with flt := { s.flt with
      flight := s.flt.flight.erase r
      inOvf := satInc s.flt.inOvf } })) ∧
  (∀ (s : State) (r : Rpt) (rest : List Rpt), s.flt.intake = r :: rest →
    let f := { s.flt with intake := rest }
    let now := moduleNs s
    let back := (List.range (min 64 f.wr.toNat)).map (fun i => f.wr.toNat - 1 - i)
    let hit := back.find? (fun i => coalesces r now (logAt f i))
    (∀ i, hit = some i →
      let e := logAt f i
      exec .errorLogEntry s = .next { s with flt := logPut f i { e with
        lastDt := (now - e.first).setWidth 32
        count := if e.count = 0xFFFF then 0xFFFF else e.count + 1 } }) ∧
    (hit = none → (f.wr - f.rd).toNat = 4096 → exec .errorLogEntry s = .next { s with flt := { f with lost := satInc f.lost } }) ∧
    (hit = none → (f.wr - f.rd).toNat ≠ 4096 → ∃ g : Flt, exec .errorLogEntry s = .next { s with flt := g } ∧
      g = { f with log := g.log, wr := f.wr + 1 } ∧
      (∀ j, logAt g j = if j % 4096 = f.wr.toNat % 4096 then
        ⟨now, 0, 1, r.code, r.detail.length, BitVec.ofNat 16 r.src, r.unit, r.detail⟩ else logAt f j)))

/-- From the management port or an OPERATOR session, outside recovery, on an aligned range of 1 to 512 words that the security state lets through:
REG_RD reads the words in order, answers them with status 0, or 1 where one of them lies on no register, and records those as address errors; REG_WR
writes the words in address order, as the session's agent, and answers 0. A word written at an address acts by the register's access types; off the
8-byte grid, or where nothing is mapped, it is discarded and recorded. A node whose select tag matches takes the 1 to 5 words of a CFG_WR at an
aligned offset of its window: into the shadow state of the group under SHADOW, and at once, in order, otherwise; one off the form is discarded and
recorded, one that does not select the node has no effect. A CFG_RD answers with status 0, 1 or 3 and, unless the status is 1, the words, in a CFG_RSP
to the service die; one off the form answers 1, one that the security state refuses answers 2, without data. A CFG_RSP gives its requester the status
and the words. -/
def Obligations.WordsAreReadAndWrittenByAddress : Prop :=
  ((∀ (sess : Option SessId) (ag ep : BitVec 16) (addr : BitVec 48) (s : State),
    ((sess = none ∧ ag = 0 ∧ ep = 0) ∨
      ∃ i x, sess = some i ∧ sessAt s i.toNat = some x ∧ x.kind = 1 ∧ x.agent = ag ∧ x.aepoch = ep) →
    addr.toNat % 8 = 0 → s.svc.warming = false →
    (∀ n : BitVec 32, 1 ≤ n.toNat → n.toNat ≤ 512 → addr.toNat + 8 * n.toNat ≤ 2 ^ 48 →
      (∀ i < n.toNat, mayRead s (addr.toNat + 8 * i) = true) →
      let r := regReads addr.toNat n.toNat s
      exec (.regRd sess addr n) s = .next (latch (readErrs addr.toNat r.1 r.2)
        ⟨if r.1.any (fun x => !x.2.2) then 1 else 0, r.1.map Prod.fst, tagsOf s r.1⟩)) ∧
    (∀ data : List Word, 1 ≤ data.length → data.length ≤ 512 → addr.toNat + 8 * data.length ≤ 2 ^ 48 →
      (∀ i < data.length, regMayWrite s (addr.toNat + 8 * i) = true) →
      exec (.regWr sess addr data) s = .next (latch (((List.range data.length).zip data).foldl (fun acc iv =>
        regPut (s.sec.level == 3) ag ep (addr.toNat + 8 * iv.1) iv.2 acc) s) ⟨0, [], []⟩))) ∧
  (∀ (addr : BitVec 48) (v : Word) (s : State),
    (addr.toNat % 8 = 0 → exec (.registerWrite addr v) s = .next (regPut (s.sec.level == 3) 0 0 addr.toNat v s)) ∧
    ((addr.toNat % 8 ≠ 0 ∨ 0x240000000000 ≤ addr.toNat) →
      exec (.registerWrite addr v) s = .next (sendRpt s 8096 0x16 (BitVec.ofNat 64 addr.toNat) [])))) ∧
  ((∀ (a : CfgArgs) (s0 : State),
    let s := lathDone 8096 0x20 s0
    let n := a.node.val
    let words := (List.range a.data.length).zip a.data
    let form := a.off.toNat % 8 = 0 ∧ 1 ≤ a.data.length ∧ a.data.length ≤ 5 ∧ a.off.toNat + 8 * a.data.length ≤ 2 ^ 24
    (selects s n a.sel = false → exec (.cfgWr a) s0 = .next s) ∧
    (selects s n a.sel = true → ¬ form → exec (.cfgWr a) s0 =
      .next (sendRpt s n 0x16 (BitVec.ofNat 64 (nodeWindow n + a.off.toNat)) [])) ∧
    (selects s n a.sel = true → form → a.shadow = true → exec (.cfgWr a) s0 = .next { s with
      cg := words.foldl (fun acc iv => shadowWrite n a.cgid (.word n (a.off.toNat + 8 * iv.1) iv.2) acc) s.cg }) ∧
    (selects s n a.sel = true → form → a.shadow = false → exec (.cfgWr a) s0 = .next (words.foldl (fun acc iv =>
      regPut (s.sec.level == 3) 0 0 (nodeWindow n + a.off.toNat + 8 * iv.1) iv.2 acc) s))) ∧
  (∀ (node : Node) (off : BitVec 24) (count : Byte) (tag : BitVec 16) (s0 : State),
    let s := lathDone 8096 0x21 s0
    let a := nodeWindow node + off.toNat
    let form := off.toNat % 8 = 0 ∧ 1 ≤ count.toNat ∧ count.toNat ≤ 5 ∧ off.toNat + 8 * count.toNat ≤ 2 ^ 24
    let rsp := fun (st : Nat) (ws : List Word) (u : State) => lathSend node (lathMsg 8096 0 node 3 0x22 (lathNode s node).epoch
      (leBytes 2 tag.toNat ++ [BitVec.ofNat 8 st, 0, 0, 0, 0, 0] ++ wordBytes ws)) u
    (¬ form → exec (.cfgRd node off count tag) s0 =
      .next (latch (rsp 1 [] (sendRpt s node 0x16 (BitVec.ofNat 64 a) [])) ⟨1, [], []⟩)) ∧
    (form → (∃ i < count.toNat, mayRead s (a + 8 * i) = false) →
      exec (.cfgRd node off count tag) s0 = .next (latch (rsp 2 [] s) ⟨2, [], []⟩)) ∧
    (form → (∀ i < count.toNat, mayRead s (a + 8 * i) = true) →
      let r := regReads a count.toNat s
      let u := readErrs a r.1 r.2
      ((∃ x ∈ r.1, x.2.2 = false) → exec (.cfgRd node off count tag) s0 = .next (latch (rsp 1 [] u) ⟨1, [], []⟩)) ∧
      ((∀ x ∈ r.1, x.2.2 = true) →
        let ws := r.1.map Prod.fst
        let st := if r.1.any (fun x => x.1.poison) then 3 else 0
        exec (.cfgRd node off count tag) s0 = .next (latch (rsp st (bitsOf ws) u) ⟨st, ws, tagsOf s r.1⟩)))) ∧
  (∀ (tag : BitVec 16) (status : Byte) (words : List Word) (s : State), ∃ l : Lath,
    exec (.cfgRsp tag status words) s = .next { s with
      lath := l
      reply := some ⟨status.toNat, words.map (fun w => ⟨w, status == 3⟩), []⟩ } ∧
    l = { s.lath with
      sent := l.sent
      inbox := l.inbox }))

/-- A RW field takes its bits of the word and reads back as written, an RO field keeps its value, a W1C bit goes where the word has a 1: shown for
PLC_CTRL, the re-homing counters, FLT_CTRL, FLT_ERR_RD (ignored beyond the write pointer), the words of the signed-command inbox, SVC_LEDn, a
scratchpad word of a tile whose window answers and a word of module DRAM. Nothing else changes, and no other word of the inbox, scratchpad or DRAM. -/
def Obligations.RegisterWritesTakeEffect : Prop :=
  (∀ (v : Word) (s : State),
    let t := { s with plc := { s.plc with
      rehomeEn := v.getLsbD 0
      wearRotEn := v.getLsbD 1
      rotThresh := v.extractLsb' 16 16 } }
    exec (.registerWrite 0x200000030000 v) s = .next t ∧
    (regGet 0x200000030000 t).1 = some ⟨v &&& 0xFFFF0003, false⟩) ∧
  (∀ (v : Word) (s : State), exec (.registerWrite 0x200000030010 v) s = .next { s with plc := { s.plc with
    rehome := { s.plc.rehome with ovf := s.plc.rehome.ovf && !v.getLsbD 16 }
    fail := { s.plc.fail with ovf := s.plc.fail.ovf && !v.getLsbD 48 } } }) ∧
  (∀ (v : Word) (s : State),
    let t := { s with flt := { s.flt with
      probeEn := v.getLsbD 0
      probeDiv := v.extractLsb' 1 3
      remapEn := v.getLsbD 4
      warmEn := v.getLsbD 5 } }
    exec (.registerWrite 0x200000060000 v) s = .next t ∧ (regGet 0x200000060000 t).1 = some ⟨v &&& 0x3F, false⟩) ∧
  (∀ (v : Word) (s : State), exec (.registerWrite 0x200000060018 v) s = .next { s with flt :=
    if (s.flt.wr - v.setWidth 16).toNat ≤ 4096 then { s.flt with rd := v.setWidth 16 } else s.flt }) ∧
  (∀ (i : Fin 32) (v : Word) (s : State),
    let t := { s with sec := { s.sec with inbox := sset 0 s.sec.inbox i v } }
    exec (.registerWrite (BitVec.ofNat 48 (0x200000050100 + 8 * i)) v) s = .next t ∧
    ∀ j : Fin 32, (regGet (0x200000050100 + 8 * j) t).1 =
      if j = i then some ⟨v, false⟩ else (regGet (0x200000050100 + 8 * j) s).1) ∧
  (∀ (i : Fin 4) (v : Word) (s : State),
    let l := sget Led.reset s.svc.leds i
    exec (.registerWrite (BitVec.ofNat 48 (0x200000000040 + 8 * i)) v) s = .next { s with svc := { s.svc with
      leds := sset Led.reset s.svc.leds i { l with
        duty := v.setWidth 8
        fn := v.getLsbD 8
        stretch := v.getLsbD 9
        iset := v.extractLsb' 10 4 } } }) ∧
  (∀ (z : Site) (i : Fin 0x100000) (v : Word) (s : State), tileThere s z = true → gridStopped s = false →
    let t := tileAt s z
    exec (.registerWrite (BitVec.ofNat 48 (0x100000000000 + 0x1000000 * z + 8 * i)) v) s =
      .next (tilePut s z { t with pad := padPut t.pad i ⟨v, false⟩ }) ∧
    ∀ j : Nat, sget SWord.zero (padPut t.pad i ⟨v, false⟩).words j =
      if j = i.val then { bits := v, ecc := .good } else sget SWord.zero t.pad.words j) ∧
  (∀ (w : Fin (2 ^ 40)) (v : Word) (s : State),
    exec (.registerWrite (BitVec.ofNat 48 (8 * w)) v) s = .next (dramWrite s w v) ∧
    dramWrite s w v = { s with
      dram := (dramWrite s w v).dram
      md := (dramWrite s w v).md } ∧
    ∀ j : Nat, sget SWord.zero (dramWrite s w v).dram j =
      if j = w.val then { bits := v, ecc := .good } else sget SWord.zero s.dram j)

/-- While the tile clock is stopped (frozen, stopping at or after the stop frame, or P4) a frame boundary changes nothing. Otherwise the frame counter
goes up by one, module time by the frame of the current frequency code and the operating time by the seconds that this passes; a pod member joins the
pod's grid where it waits to; then, in this order: cancellations, lost rings, commits and queue entries of each open stream; the groups whose apply
boundary this is; pod epochs; what waited for a group that is gone; unused CACHE granules; sampled registers; loads that end; a warm reset's end, a
power state and a boot that wait for the boundary. -/
def Obligations.FrameBoundariesDoWhatIsDue : Prop :=
  ∀ s : State,
    ((s.svc.frz = 2 ∨ (s.svc.frz = 1 ∧ s.svc.stopFrame.toNat ≤ s.frames % 2 ^ 48) ∨ s.pwr.act = 4) →
      exec .frameBoundary s = .next s) ∧
    (s.svc.frz ≠ 2 → (s.svc.frz ≠ 1 ∨ s.frames % 2 ^ 48 < s.svc.stopFrame.toNat) → s.pwr.act ≠ 4 →
      let time := s.time + 327680 * 720720 / (16 - s.clk.k.toNat)
      let s1 := frameAlign { s with
        frames := s.frames + 1
        time := time
        flt := { s.flt with opt := s.flt.opt + BitVec.ofNat 40 (time / 7927920000000000 - s.time / 7927920000000000) } }
      let s2 := epochsDue (groupsDue ((busySids s1).foldl streamDue s1))
      let s3 := tilesDue (sweepCache (dropLost ((busySids s2).foldl (fun u sid => ctxFinish sid (streamRetry sid u)) s2)))
      exec .frameBoundary s =
        .next (bootDue (pstateDue (warmDue ((s3.resid.map Prod.fst).foldl (fun u m => loadDone m u) (loadReady s3))))) ∧
      (s.pod.align = false → s1.frames = s.frames + 1 ∧ s1.time = time))

/-- At a frame boundary that is the apply boundary of one group alone, with no items of an ended admission or migration: where the service die decided
to apply it and every participant is prepared, holds the decision and is not dust-sheeted, the items of every participant become live in order, the
group is counted as applied, and it is gone; where it is undecided, nothing becomes live, it is recorded as discarded by timeout, and every prepared
tile is in doubt. -/
def Obligations.ApplyBoundariesAreAtomic : Prop :=
  ∀ (cgid : BitVec 16) (s : State) (g : CgGroup), groupAt s.cg cgid = some g →
    let ps := s.cg.parts.filter (fun p => p.cgid == cgid)
    let gone := { s.cg with
      groups := s.cg.groups.filter (fun h => h.cgid != cgid)
      parts := s.cg.parts.filter (fun p => p.cgid != cgid)
      hubs := s.cg.hubs.filter (fun v => v.cgid != cgid) }
    (∀ p ∈ ps, ∀ i ∈ p.items, itemVoid s i = false) →
    (g.decision = .apply → (∀ p ∈ ps, p.prepared = true ∧ p.decision = .apply ∧ dusted s p.node = false) →
      groupDue cgid s = ps.foldl (fun u p => p.items.foldl (itemPut [] p.node) u)
        { s with cg := { gone with applied := s.cg.applied + 1 } }) ∧
    (g.decision = .none → (∀ p ∈ ps, p.prepared = true ∧ p.decision = .none ∧ p.node ≠ 8096 ∧ dusted s p.node = false) →
      let t := groupDue cgid s
      t = { s with
        cg := t.cg
        flt := t.flt } ∧
      t.cg.groups = gone.groups ∧ t.cg.parts = gone.parts ∧ t.cg.applied = s.cg.applied ∧ t.cg.owed = s.cg.owed ∧
      t.cg.lastReason = 2 ∧ t.cg.lastCgid = cgid ∧ t.cg.discarded = (if s.cg.discarded = 0xFFFF then 0xFFFF else s.cg.discarded + 1) ∧
      t.flt.flight.length = s.flt.flight.length + ps.length)

/-- Outside a beat boundary of the pipeline, without placed tiles, during the recovery of a warm reset or while the tiles stand still, it changes
nothing. At one, a hold that was requested begins, and one that runs loses a beat and ends with its last; then every live tile of the pipeline starts
an invocation (in P2 its stencil stops instead; of a tile fenced compute-only the router's part alone), the READY adapter slots of the model are taken
over, and the neighbours' FENCE of a tile heard after its reset is cleared. -/
def Obligations.BeatBoundariesRunThePipelines : Prop :=
  (∀ (q : Byte) (s : State),
    let sites := pipeSites s q.toNat
    let beat := beatOf s q.toNat
    ((sites = [] ∨ s.svc.warming = true ∨ gridStopped s = true ∨ s.frames < beat.2 ∨ (s.frames - beat.2) % beat.1 ≠ 0) →
      exec (.beatBoundary q) s = .next s) ∧
    (sites ≠ [] → s.svc.warming = false → gridStopped s = false → beat.2 ≤ s.frames → (s.frames - beat.2) % beat.1 = 0 →
      let s1 := { s with grid := holdBeat q.toNat s.grid }
      let s2 := sites.foldl (siteBeat (s1.grid.held.contains q.toNat) (s1.grid.handover.contains q.toNat)) s1
      let s3 := { s2 with grid := { s2.grid with ready := sset [] s2.grid.ready q.toNat (readySlots s2 (pipeModel s2 q.toNat)) } }
      let s4 := (s3.lath.lifts.filter (fun z => sites.contains z)).foldl (fun u z =>
        if isFenced u z then u else wordsPut (neighbourCfgs u z false) u) s3
      exec (.beatBoundary q) s = .next { s4 with
        lath := { s4.lath with lifts := s4.lath.lifts.filter (fun z => !sites.contains z) } })) ∧
  (∀ (q : Nat) (g : Grid),
    (q ∉ g.held → holdBeat q g = g) ∧
    (q ∈ g.held → q ∉ g.begun → holdBeat q g = { g with begun := g.begun ++ [q] }) ∧
    (q ∈ g.held → q ∈ g.begun → sget 0 g.release q = 0 → holdBeat q g = g) ∧
    (∀ n, q ∈ g.held → q ∈ g.begun → sget 0 g.release q = n + 2 → holdBeat q g = { g with release := sset 0 g.release q (n + 1) }) ∧
    (q ∈ g.held → q ∈ g.begun → sget 0 g.release q = 1 → q ∉ (holdBeat q g).held ∧ q ∉ (holdBeat q g).begun)) ∧
  (∀ (hold hand : Bool) (s : State) (z : Nat), tileLive s z = true → s.pwr.act ≠ 2 →
    siteBeat hold hand s z = tilePut s z { tileBeat s.frames hold (tileAt s z) with
      mesh := { (tileBeat s.frames hold (tileAt s z)).mesh with set := hold && hand } })

/-- A tile of which three heartbeats were missed has its pipelines held and is sent TILE_RESET; a tile of which fewer were missed, and no tile, is
left alone. TILE_RESET halts an exposed tile that is not under reset, clears its scratchpad and what waits for it, fences it off at its neighbours
where it works, writes its stores and resident windows again, and waits for its heartbeat. A tile not heard in time fails: it is charged, dust-sheeted
and re-homed, and the hold ends. A hub of which three summaries were missed is replaced by the alternate, once, and treated as silent.
RESIDENT_STORE_RESTORE zeroes the resident windows, then writes the lines of resident slices and of adapters. DUST_SHEET of a tile that is not fenced
nor about to be sends FENCE to its hub and opens the group that fences it at its boundary. REHOME dust-sheets the tile; where it works for a placed
region whose model is on the wafer and re-homing is on, its row is shifted over it when the row has no shift and the course still fits, and the course
is moved otherwise; with re-homing off the failure is counted. COURSE_MOVE places the course again with the failed tile held out; without an origin
its models are DEGRADED and it stays held. An in-doubt tile to which applied groups are owed is reset under a hold, given those groups' state, raised
in epoch and charged; one to which nothing is owed is left alone. -/
def Obligations.SilentAndFailedTilesAreRecovered : Prop :=
  ((∀ (node : Node) (s : State),
    (node.val < 8064 → 3 ≤ (sget Heard.fresh s.lath.heard node).missed →
      exec (.hbMiss node) s = .next (sendTileReset node false (holdAll (sitePipes s node) s))) ∧
    ((8064 ≤ node.val ∨ (sget Heard.fresh s.lath.heard node).missed < 3) → exec (.hbMiss node) s = .next s)) ∧
  (∀ (site : Site) (s : State),
    (site.val ∈ s.lath.resets → exec (.tileResetTimeout site) s = .next (endAll (sitePipes s site) (tileFailed site 0x0D
      { s with lath := { s.lath with resets := s.lath.resets.filter (fun z => z != site.val) } }))) ∧
    (site.val ∉ s.lath.resets → exec (.tileResetTimeout site) s = .next s)) ∧
  (∀ (b : Block) (s : State),
    (3 ≤ (sget Heard.fresh s.lath.blocks b).missed → s.lath.promoted.getLsbD b = false →
      let s1 := { s with lath := { s.lath with
        promoted := s.lath.promoted ||| (1 <<< b.val)
        blocks := sset Heard.fresh s.lath.blocks b Heard.fresh } }
      exec (.hubPromotion b) s = .next (sendTileReset (hubOf s b) false (holdAll (sitePipes s1 (hubOf s b)) s1)) ∧
      s1.lath.promoted.getLsbD b = true) ∧
    (((sget Heard.fresh s.lath.blocks b).missed < 3 ∨ s.lath.promoted.getLsbD b = true) → exec (.hubPromotion b) s = .next s)) ∧
  (∀ (site : Site) (retrain : Bool) (s0 : State),
    let s := lathDone 8096 0x28 s0
    ((s.grid.exposed.getLsbD site = false ∨ site.val ∈ s.lath.resets) → exec (.tileReset site retrain) s0 = .next s) ∧
    (s.grid.exposed.getLsbD site = true → site.val ∉ s.lath.resets →
      let h := tileHalt (tileAt s site)
      let s1 := lathDrop (· == site) (flitsDrop (· == site) (tilePut s site { h with pad := padZero (fun _ => false) h.pad }))
      let s2 := if sitePlaced s.plc.courses site ∧ !isFenced s site then wordsPut (neighbourCfgs s1 site true) s1 else s1
      let s3 := restoreSite site (storesAgain [site] s2)
      let s4 := if retrain then { s3 with clk := { s3.clk with
        slipPorts := skeep s3.clk.slipPorts (fun k _ => k / 8 != site) } } else s3
      exec (.tileReset site retrain) s0 = .next { s4 with lath := { s4.lath with resets := s4.lath.resets ++ [site.val] } })) ∧
  (∀ (site : Site) (s : State),
    let t := tileAt s site
    let s1 := tilePut s site { t with pad := { t.pad with words := skeep t.pad.words (fun k _ => !inResidentWin t.pad (k / 16)) } }
    exec (.residentStoreRestore site) s = .next (adRestores (fun z => z == site) (s1.resid.foldl (fun u e =>
      (e.2.slices.filter Slice.resident).foldl (fun v sl => restoreTile sl site v) u) s1)))) ∧
  ((∀ (site : Site) (s : State),
    let full := (rimOf site).isNone
    let off := isFenced s site = true ∨ site.val ∈ s.grid.gated ∨ (groupWith s (isFenceOf site)).isSome = true
    (off → exec (.dustSheet site) s = .next s) ∧
    (¬ off → exec (.dustSheet site) s = .next (cgTry (fenceItems s site full) (lathSend 8096
      (lathMsg (hubOf s (blockOf site)) 0 8096 0 0x02 (lathNode s 8096).epoch
        (leBytes 2 site ++ [if full then 0 else 1] ++ leBytes 2 (epochCopy s site + 1).toNat)) s)))) ∧
  (∀ (site : Site) (holdMs : BitVec 16) (s0 : State),
    let s := dustNow site s0
    (s.load.img = none → exec (.rehome site holdMs) s0 = .next s) ∧
    (∀ i, s.load.img = some i →
      (tileOf i s.plc.courses site = none → exec (.rehome site holdMs) s0 = .next s) ∧
      (∀ c p lx ly g, tileOf i s.plc.courses site = some (c, p, lx, ly) → regAt i p.reg = some g →
        (g.model = 0xFF ∨ (residAt s g.model).slices ≠ []) →
        let others := s.plc.courses.filter (fun e => e.pipe != c.pipe)
        (s.plc.rehomeEn = false →
          exec (.rehome site holdMs) s0 = .next { s with plc := { s.plc with fail := satInc s.plc.fail } }) ∧
        (s.plc.rehomeEn = true → (∃ h ∈ p.shifts, h.ly = ly) →
          let s1 := moveCourse c.pipe site s
          exec (.rehome site holdMs) s0 = .next (rehomeRec site g.id holdMs (if s1.plc.lastRes = 1 then 1 else 4) s1)) ∧
        (s.plc.rehomeEn = true → (∀ h ∈ p.shifts, h.ly ≠ ly) →
          (∀ d, courseAt s (fencedFor s) i s.load.activeProf.toNat c.pipe others c.x0 c.y0 = some d →
            exec (.rehome site holdMs) s0 = .next (shiftCourse i c d g site holdMs s)) ∧
          (courseAt s (fencedFor s) i s.load.activeProf.toNat c.pipe others c.x0 c.y0 = none →
            let s1 := moveCourse c.pipe site s
            exec (.rehome site holdMs) s0 = .next (rehomeRec site g.id holdMs (if s1.plc.lastRes = 1 then 1 else 2) s1)))))) ∧
  (∀ (q : Byte) (s : State) (i : Image) (c : Course), s.load.img = some i →
    s.plc.courses.find? (fun c => c.pipe == q.toNat) = some c →
    let failed := (((s.plc.courses.filter (fun c => c.pipe == q.toNat)).flatMap courseSites).find? (fencedFor s)).getD 8064
    let qs := (q.toNat :: (pipeModels s q.toNat).flatMap (modelPipes s)).eraseDups
    (∀ d, searchCourse s (fencedFor s) i s.load.activeProf.toNat q.toNat s.plc.courses = some d →
      let s1 := moveWork i (movedSites i c d) failed (s.plc.courses.map (fun e => if e.pipe = q.toNat then d else e)) (holdAll qs s)
      let s2 := (pipeModels s1 q.toNat).foldl (fun u m => settleModel m u) s1
      exec (.courseMove q) s = .next (plcOp 4 0 (endAll qs (pagesLost (pageStreams s failed) s2)))) ∧
    (searchCourse s (fencedFor s) i s.load.activeProf.toNat q.toNat s.plc.courses = none →
      let s1 := (pipeModels s q.toNat).foldl (fun u m => residUpd m (fun r => { r with st := .degraded }) u) s
      exec (.courseMove q) s = .next (plcOp 4 1 (holdAll qs { s1 with plc := { s1.plc with fail := satInc s1.plc.fail } })))) ∧
  (∀ (node : Node) (s : State),
    let owed := s.cg.owed.filter (fun p => p.node == node.val)
    (owed = [] → exec (.indoubtReinstatement node) s = .next s) ∧
    (owed ≠ [] →
      let s0 := { s with cg := { s.cg with owed := s.cg.owed.filter (fun p => p.node != node.val) } }
      (8064 ≤ node.val → exec (.indoubtReinstatement node) s =
        .next (owed.foldl (fun u p => p.items.foldl (itemPut [] p.node) u) s0)) ∧
      (node.val < 8064 →
        let qs := sitePipes s0 node
        let ep := epochCopy s0 node + 1
        let s1 := copySet node ep (holdAll qs s0)
        let s2 := tileResetNow node false s1
        let s3 := { s2 with lath := { s2.lath with resets := s2.lath.resets.filter (fun z => z != node.val) } }
        let s4 := wordsPut (neighbourCfgs s3 node false) (owed.foldl (fun u p => p.items.foldl (itemPut [] p.node) u) s3)
        let s5 := { s4 with lath := { s4.lath with
          nodes := supd LNode.reset s4.lath.nodes node (fun n => { n with epoch := ep }) } }
        exec (.indoubtReinstatement node) s =
          .next (endAll qs (chargeEvent (unitTile node) 0x0E (pagesLost (pageStreams s1 node) s5)).1)))))

/-- At a boundary whose frame counter is a multiple of 64, with the tiles running, a trim period settles the steps that waited, takes the 56
temperatures, drops what a run measured outside its band, sets the targets and steps the applied values by one LSB towards them, and reports adjacent
blocks more than 12 degrees apart; elsewhere it changes nothing. The target at a calibrated temperature is the value of its set, below the lowest and
above the highest that of the lowest and the highest. CAL_START with START = 1 starts a run with cleared results, or is refused with LAST 3 where one
is busy, WHAT is 0 or SET above 4; without START it sets the fields. A run that completes counts what it has not measured as skipped, and LAST is 1
with no failure and no skip and 2 otherwise. In a run whose scope holds the macro and still asks for its converters, the next converter of a group is
fitted, both its trims are judged and the measurement is counted; with the spare of the group in permanent use it waits for an idle macro. A fenced,
WORN, busy or out-of-band macro is skipped once for all its kinds. A reference scan of an assigned macro that is idle and within the limits begins, to
end 55,296 tile cycles later; under HOLD its model is held from then on, and without HOLD a macro that finds no quiet frame within 65,536 frames is
skipped. A run that does not ask for it, or a grid that stands still, leaves all as it is. -/
def Obligations.CalibrationMeasuresAndSteps : Prop :=
  ((∀ (temps : List (BitVec 12)) (s : State),
    ((s.frames % 64 ≠ 0 ∨ gridStopped s = true) → exec (.trimPeriod temps) s = .next s) ∧
    (s.frames % 64 = 0 → gridStopped s = false →
      let s0 := settleTrims s
      exec (.trimPeriod temps) s = .next (tempPairs (retarget (discardOut { s0 with cal := { s0.cal with
        temps := stab 0 56 (fun b => (lget 0 temps b).toInt)
        tempValid := true } }))))) ∧
  (∀ (t : TrimVal) (x : Int), (∀ i : Fin 5, x = 560 + 240 * i.val → trimTarget t x = lget 0 t.sets i) ∧
    (x ≤ 560 → trimTarget t x = lget 0 t.sets 0) ∧ (1520 ≤ x → trimTarget t x = lget 0 t.sets 4)) ∧
  (∀ t : TrimVal, (t.applied = t.target → stepTrim t = t) ∧
    (t.applied < t.target → stepTrim t = { t with applied := t.applied + 1 }) ∧
    (t.target < t.applied → stepTrim t = { t with applied := t.applied - 1 })) ∧
  (∀ (v : Word) (s : State),
    let c := { s.cal with
      what := v.extractLsb' 1 2
      set := v.extractLsb' 3 3
      scope := v.extractLsb' 6 2
      model := v.extractLsb' 8 8
      site := v.extractLsb' 16 13
      macroIx := v.extractLsb' 29 13
      hold := v.getLsbD 42 }
    (v.getLsbD 0 = false → exec (.calStart v) s = .next { s with cal := c }) ∧
    (v.getLsbD 0 = true → (s.cal.busy = true ∨ c.what = 0 ∨ 4 < c.set.toNat) →
      exec (.calStart v) s = .next { s with cal := { c with last := 3 } }) ∧
    (v.getLsbD 0 = true → s.cal.busy = false → c.what ≠ 0 → c.set.toNat ≤ 4 → exec (.calStart v) s = .next { s with cal := { c with
      busy := true
      run := some v
      since := s.frames
      pass := 0
      fail := 0
      skip := 0
      failAddr := 0
      failGroup := 0
      failReason := 0
      failValid := false
      marAddr := 0
      marMin := 0
      marValid := false
      conv := []
      vals := []
      bad := []
      convDone := []
      refDone := []
      skips := []
      startTemps := c.temps } })) ∧
  (∀ s : State,
    let c := s.cal
    let all := (c.convDone ++ c.refDone).eraseDups
    let skip := sat16Add c.skip (runSize s - (all.filter (fun mk => !kindOpen c 0 mk && !kindOpen c 1 mk)).length)
    (c.busy = false → exec .calRunComplete s = .next s) ∧
    (c.busy = true → exec .calRunComplete s = .next { s with cal := { c with
      skip := skip
      busy := false
      run := none
      conv := []
      vals := []
      last := if c.fail = 0 ∧ skip = 0 then 1 else 2 } }))) ∧
  ((∀ (site : Site) (mac : MacroIx) (group : BitVec 3) (conv : BitVec 8) (codes : List (BitVec 6)) (s : State),
    let m := mac.toNat
    let g := group.toNat
    let v := conv.toNat
    let mk := macKey site m
    let asked := s.cal.busy = true ∧ inRun s site m = true ∧ kindOpen s.cal 0 mk = true ∧ gridStopped s = false
    (¬ asked → exec (.converterMeasure site mac group conv codes) s = .next s) ∧
    (asked → runSkips s site m = true →
      exec (.converterMeasure site mac group conv codes) s = .next { s with cal := skipKinds [0, 1] mk s.cal }) ∧
    (asked → runSkips s site m = false → v = s.cal.conv.count (8 * mk + g) →
      (spareUsed (mtGet (fabAt s site) m) g = false ∨ macroIdle (fabAt s site) m (cycAt s 0) = true) →
      let n := newConv s.cal site m g v codes
      let s2 := judgeConv site m g v (trimKey site m (ixGain g v)) 12 n.2.1 n.2.2
        (judgeConv site m g v (trimKey site m (ixOfs g v)) 8 n.1 n.2.2 s)
      exec (.converterMeasure site mac group conv codes) s =
        .next { s2 with cal := convEnd mk { s2.cal with conv := s2.cal.conv ++ [8 * mk + g] } })) ∧
  (∀ (site : Site) (mac : MacroIx) (same : List (BitVec 64)) (s : State),
    let m := mac.toNat
    let mk := macKey site m
    let now := cycAt s 0
    let f := fabAt s site
    let asked := s.cal.busy = true ∧ inRun s site m = true ∧ kindOpen s.cal 1 mk = true ∧ underScan f m now = false ∧
      gridStopped s = false
    (¬ asked → exec (.referenceScan site mac same) s = .next s) ∧
    (asked → runSkips s site m = true →
      exec (.referenceScan site mac same) s = .next { s with cal := skipKinds [0, 1] mk s.cal }) ∧
    (asked → runSkips s site m = false → (mtGet f m).fmt = 0 →
      exec (.referenceScan site mac same) s = .next { s with cal := skipKinds [1] mk s.cal }) ∧
    (asked → runSkips s site m = false → (mtGet f m).fmt ≠ 0 →
      let s1 := if runHold s.cal then holdAll (macroPipes s site m) s else s
      (macroIdle f m now = true → limitsOk f m now = true → exec (.referenceScan site mac same) s =
        .next (onFab s1 site (fun f => { f with scans := f.scans ++ [(now + 55296, m, same)] }))) ∧
      ((macroIdle f m now = false ∨ limitsOk f m now = false) → runHold s.cal = false → 65536 < s.frames - s.cal.since →
        exec (.referenceScan site mac same) s = .next { s1 with cal := skipKinds [1] mk s1.cal }) ∧
      ((macroIdle f m now = false ∨ limitsOk f m now = false) → (runHold s.cal = true ∨ s.frames - s.cal.since ≤ 65536) →
        exec (.referenceScan site mac same) s = .next s1))))

/-- A window write of a page (or of an erase address with a line of zeros) at a site that exists and is not fenced, from an agent that the security
state lets in, begins: the macro is busy and, for a page, its BEGIN marker is programmed; on an assigned, WORN or busy macro, in a tile with 64
operations, or on a page that is not ERASED, it answers 3. An agent that is not let in gets 2, a fenced site 4; a site that does not exist and a wrong
form are discarded; all but the first are logged. A program ends VALID and answers 0, or without DONE, reported with up to four failed columns,
answering 1; an erase ends with every page ERASED and answers 0, WORN from the 100,000th on, or leaves the macro WORN and answers 2. Of an operation
that is not in progress nothing ends. -/
def Obligations.WindowWritesProgramAndErase : Prop :=
  (∀ (host : Bool) (addr : BitVec 44) (line : List Word) (s : State),
    let l := fabLoc addr
    let log := sendRpt s 8096 0x16 (addr.setWidth 64) []
    let f := fabAt s l.site
    let pg := l.col = 0 ∧ locIsPage l = true
    let er := l.col = 0x3FF ∧ l.strip = false ∧ l.row = 0 ∧ ∀ w ∈ line, w = 0
    (windowOpen s host true = false → exec (.pageProgram host addr line) s = .next (answer s 2 []) ∧
      exec (.macroErase host addr line) s = .next (answer s 2 [])) ∧
    (windowOpen s host true = true → 8064 ≤ l.site → exec (.pageProgram host addr line) s = .next log ∧
      exec (.macroErase host addr line) s = .next log) ∧
    (windowOpen s host true = true → l.site < 8064 → isFenced s l.site = true →
      exec (.pageProgram host addr line) s = .next (answer log 4 []) ∧
      exec (.macroErase host addr line) s = .next (answer log 4 [])) ∧
    (windowOpen s host true = true → l.site < 8064 → isFenced s l.site = false →
      (¬ pg → exec (.pageProgram host addr line) s = .next log) ∧
      (¬ er → exec (.macroErase host addr line) s = .next log) ∧
      (pg → peRefused f l.mac (cycAt s 0) = false → pageState (pageGet f l.mac (locPage l)) = 0 →
        exec (.pageProgram host addr line) s = .next (onFab s l.site (fun _ =>
          let f1 := mtPut { f with peOps := f.peOps ++ [⟨l.mac, some (locPage l), line⟩] } l.mac { mtGet f l.mac with busyPe := true }
          pagePut f1 l.mac (locPage l) { pageGet f1 l.mac (locPage l) with begin_ := 3 }))) ∧
      (pg → (peRefused f l.mac (cycAt s 0) = true ∨ pageState (pageGet f l.mac (locPage l)) ≠ 0) →
        exec (.pageProgram host addr line) s = .next (answer s 3 [])) ∧
      (er → peRefused f l.mac (cycAt s 0) = false →
        exec (.macroErase host addr line) s = .next (onFab s l.site (eraseStart l.mac (!host)))) ∧
      (er → peRefused f l.mac (cycAt s 0) = true → exec (.macroErase host addr line) s = .next (answer s 3 [])))) ∧
  (∀ (site : Site) (mac : MacroIx) (s : State),
    let m := mac.toNat
    let f := fabAt s site
    (peOf f m = none → (∀ failing, exec (.pageProgramComplete site mac failing) s = .next s) ∧
      ∀ ok, exec (.eraseComplete site mac ok) s = .next s) ∧
    (∀ o p, peOf f m = some o → o.page = some p →
      let cells := pageCells (mtGet f m) p (lineBits o.image)
      exec (.pageProgramComplete site mac 0) s = .next (answer (onFab s site (fun _ => pagePut (peEnd m f) m p ⟨cells, 3, 3⟩)) 0 []) ∧
      (∀ failing, failing ≠ 0 → exec (.pageProgramComplete site mac failing) s =
        .next (answer (sendRpt (onFab s site (fun _ => pagePut (peEnd m f) m p ⟨cells, 3, 0⟩)) site 0x10
          (fabAddr site m (if p < 128 then p else p - 128) 0 (decide (128 ≤ p)))
          (((List.range 528).filter (fun c => failing.getLsbD c)).take 4 |>.map (fun c => BitVec.ofNat 64 c))) 1 [])) ∧
      ∀ ok, exec (.eraseComplete site mac ok) s = .next s) ∧
    (∀ o, peOf f m = some o → o.page = none →
      let f1 := pagesErase (peEnd m f) m
      let e := mtGet f1 m
      exec (.eraseComplete site mac true) s = .next (answer (onFab s site (fun _ => mtPut f1 m { e with
        erases := e.erases + 1
        erasePending := false
        worn := e.worn || decide (100000 ≤ e.erases + 1) })) 0 []) ∧
      exec (.eraseComplete site mac false) s =
        .next (answer (onFab s site (fun _ => mtPut (peEnd m f) m { mtGet (peEnd m f) m with worn := true })) 2 []) ∧
      ∀ failing, exec (.pageProgramComplete site mac failing) s = .next s))

/-- A read that the window lets through answers 0 with the levels of an ERASED or VALID page as sensed (bytes of another page are free values), the
state code, or whether the macro is being erased; one that the security state refuses answers 2 and any other 1 with zeros and a log entry. A macro
whose failing columns each have the free spare of their span records the spares and is erased, once nothing is in progress; another becomes WORN and
its image moves. A data column whose spare is free is replaced by it in every programmed page under a hold; one whose spare is in use makes the macro
WORN. -/
def Obligations.WindowReadsAndRepairs : Prop :=
  (∀ (host : Bool) (addr : BitVec 44) (s : State),
    let l := fabLoc addr
    let zeros := List.replicate 16 RWord.zero
    let log := answer (sendRpt s 8096 0x16 (addr.setWidth 64) []) 1 zeros
    let f := fabAt s l.site
    let p := pageGet f l.mac (locPage l)
    let byte0 := fun (n : Nat) => answer s 0 ((⟨BitVec.ofNat 64 n, false⟩ : RWord) :: List.replicate 15 RWord.zero)
    (windowOpen s host false = false → exec (.pageRead host addr) s = .next (answer s 2 zeros) ∧
      exec (.pageStateRead host addr) s = .next (answer s 2 zeros) ∧ exec (.eraseStatusRead host addr) s = .next (answer s 2 zeros)) ∧
    (windowOpen s host false = true → (8064 ≤ l.site ∨ isFenced s l.site = true) → exec (.pageRead host addr) s = .next log ∧
      exec (.pageStateRead host addr) s = .next log ∧ exec (.eraseStatusRead host addr) s = .next log) ∧
    (windowOpen s host false = true → l.site < 8064 → isFenced s l.site = false →
      (¬ (l.col = 0 ∧ locIsPage l = true) → exec (.pageRead host addr) s = .next log) ∧
      (¬ (l.col = 0x3FC ∧ locIsPage l = true) → exec (.pageStateRead host addr) s = .next log) ∧
      (¬ (l.col = 0x3FF ∧ l.strip = false ∧ l.row = 0) → exec (.eraseStatusRead host addr) s = .next log) ∧
      (l.col = 0 → locIsPage l = true → (pageState p = 0 ∨ pageState p = 2) → exec (.pageRead host addr) s =
        .next (answer s 0 ((bitsLine (pageImage (mtGet f l.mac) (locPage l) p)).map (fun w => ⟨w, false⟩)))) ∧
      (l.col = 0 → locIsPage l = true → (pageState p = 1 ∨ pageState p = 3) → ∃ ws : List RWord,
        exec (.pageRead host addr) s = .next (answer { s with draws := s.draws + 1 } 0 ws)) ∧
      (l.col = 0x3FC → locIsPage l = true → exec (.pageStateRead host addr) s = .next (byte0 (pageState p))) ∧
      (l.col = 0x3FF → l.strip = false → l.row = 0 → exec (.eraseStatusRead host addr) s =
        .next (byte0 (if (peOf f l.mac).any (fun o => o.page.isNone) then 1 else 0))))) ∧
  (∀ (site : Site) (mac : MacroIx) (failing : BitVec 528) (s : State),
    let m := mac.toNat
    let f := fabAt s site
    (∀ e, repairCols (mtGet f m) failing = some e → peFull f m (cycAt s 0) = false → exec (.verifyFailRepair site mac failing) s =
      .next (onFab s site (fun _ => eraseStart m true (mtPut f m e)))) ∧
    (∀ e, repairCols (mtGet f m) failing = some e → peFull f m (cycAt s 0) = true → exec (.verifyFailRepair site mac failing) s = .next s) ∧
    (repairCols (mtGet f m) failing = none → exec (.verifyFailRepair site mac failing) s =
      .next (moveMacro site m (onFab s site (fun _ => mtPut f m { mtGet f m with worn := true }))))) ∧
  (∀ (site : Site) (mac : MacroIx) (col : BitVec 9) (s : State),
    let m := mac.toNat
    let k := col.toNat / 32
    let e := mtGet (fabAt s site) m
    let worn := onFab s site (wornPut m)
    (e.spareValid.getLsbD k = true → e.fmt = 0 → exec (.spareColumnReplacement site mac col) s = .next (moveMacro site m worn)) ∧
    (e.spareValid.getLsbD k = true → e.fmt ≠ 0 →
      (sliceOf s site m = none → exec (.spareColumnReplacement site mac col) s = .next worn) ∧
      (∀ mi, sliceOf s site m = some mi → exec (.spareColumnReplacement site mac col) s =
        .next (residUpd mi.1 (sliceUpd mi.2 (fun sl => { sl with due := true })) worn))) ∧
    (e.spareValid.getLsbD k = false → spareReady s site m = false → exec (.spareColumnReplacement site mac col) s = .next s) ∧
    (e.spareValid.getLsbD k = false → spareReady s site m = true →
      let pipes := match sliceOf s site m with
        | some mi => if e.fmt = 0 then [] else modelPipes s mi.1
        | none => []
      exec (.spareColumnReplacement site mac col) s = .next (pipes.foldl (fun u q => endHold q u)
        (cgWhole (onFab (pipes.foldl (fun u q => holdPipe q u) s) site (fun f =>
          let g := spareProgram m k (col.toNat % 32) f
          mtPut g m (spareMap (mtGet g m) k (col.toNat % 32))))))))

/-- An operator opens a delivery, one at a time, for a span that exists where it names one, and its bytes are kept at their offset, manifest first;
bytes of no delivery or of another session's answer STATE, bytes beyond the end BAD. A complete delivery is checked: one that passes becomes the
model's library copy, one that fails leaves its reason in LAST_ERR, and its sender is told; an incomplete one, and one for a span, waits. A complete
package for a span is distributed by the hawk when its manifest holds. A library copy is copied to the dies that the active image asks for and its old
extents are freed, or LAST_ERR is LIBRARY_FULL. -/
def Obligations.DeliveriesAreTakenAndChecked : Prop :=
  (∀ (sess : SessId) (manLen : BitVec 32) (shardLen : Word) (pin dist : Bool) (span : Byte) (s : State), OperatorOpen s sess →
    (s.delivery ≠ none → exec (.shardBegin sess manLen shardLen pin dist span) s = .next (answer s 3 [])) ∧
    (s.delivery = none → dist = true → sget none s.pod.spans span.toNat = none →
      exec (.shardBegin sess manLen shardLen pin dist span) s = .next (answer s 1 [])) ∧
    (s.delivery = none → (dist = false ∨ sget none s.pod.spans span.toNat ≠ none) →
      exec (.shardBegin sess manLen shardLen pin dist span) s = .next (answer { s with
        delivery := some ⟨sess.toNat, pin, if dist then some span.toNat else none, manLen.toNat, shardLen.toNat, [], [], 0⟩ } 0 []))) ∧
  (∀ (sess : SessId) (off : Word) (bytes : List Byte) (s : State), OperatorOpen s sess →
    ((∀ d, s.delivery = some d → d.sess ≠ sess.toNat) → exec (.shardData sess off bytes) s = .next (answer s 5 [])) ∧
    (∀ d, s.delivery = some d → d.sess = sess.toNat →
      (d.manLen + d.shardLen < off.toNat + bytes.length → exec (.shardData sess off bytes) s = .next (answer s 1 [])) ∧
      (off.toNat + bytes.length ≤ d.manLen + d.shardLen → exec (.shardData sess off bytes) s = .next (answer { s with
        delivery := some { d with
          manifest := bytesPut d.manifest off.toNat (bytes.take (d.manLen - off.toNat))
          shard := bytesPut d.shard (off.toNat - d.manLen) (bytes.drop (d.manLen - off.toNat))
          got := d.got + bytes.length } } 0 [])))) ∧
  (∀ s : State,
    (s.delivery = none → exec .shardCheck s = .next s) ∧
    (∀ d, s.delivery = some d →
      let v := shardVerdict s d
      let s1 := { s with delivery := none }
      ((d.got < d.manLen + d.shardLen ∨ d.span ≠ none) → exec .shardCheck s = .next s) ∧
      (d.manLen + d.shardLen ≤ d.got → d.span = none →
        (v.2.1 = none → exec .shardCheck s =
          .next (klpSend d.sess true 0x33 (fields [(12, v.1), (16, s.frames % 2 ^ 48)]) [] s1)) ∧
        (∀ x, v.2.1 = some x → v.1 = 0 →
          exec .shardCheck s = .next (resCpl x.m 0 d.sess (cgWhole (acceptShard x.m x d v.2.2 s1)))) ∧
        (∀ x, v.2.1 = some x → v.1 ≠ 0 → exec .shardCheck s = .next (resCpl x.m 0 d.sess (resFail x.m v.1 s1)))))) ∧
  (∀ (span : Byte) (s : State) (d : Delivery) (x : Span), s.delivery = some d → sget none s.pod.spans span.toNat = some x →
    ((d.span ≠ some span.toNat ∨ d.got < d.manLen + d.shardLen ∨ s.pod.st ≠ 3) → exec (.shardDistribution span) s = .next s) ∧
    (d.span = some span.toNat → d.manLen + d.shardLen ≤ d.got → s.pod.st = 3 →
      let mr : Rd := fun o => sget 0 d.manifest o
      ((manifestOk mr d.manLen = false ∨ manifestSigned s mr d.manLen = false) → exec (.shardDistribution span) s = .next
        (klpSend d.sess true 0x33 (fields [(12, 1), (16, s.frames % 2 ^ 48)]) [] { s with delivery := none })) ∧
      (manifestOk mr d.manLen = true → manifestSigned s mr d.manLen = true →
        (∀ e, s.pod.dist = some e → exec (.shardDistribution span) s = .next (distNext d x s)) ∧
        (s.pod.dist = none → exec (.shardDistribution span) s = .next (distNext d x { s with pod := { s.pod with
          dist := some ⟨d.sess, [], (List.range x.size).filter (fun p => (lget 0 x.slots p).toNat ≠ s.pod.slot.toNat), 0⟩ } }))))) ∧
  (∀ (m : Byte) (s : State),
    let r := residAt s m.toNat
    (r.lib = [] → exec (.libraryCopyMigration m) s = .next s) ∧
    (r.lib ≠ [] → allocCopies m.toNat r.shardLen s = none → exec (.libraryCopyMigration m) s = .next (resFail m.toNat 7 s)) ∧
    (∀ es t, r.lib ≠ [] → allocCopies m.toNat r.shardLen s = some (es, t) → exec (.libraryCopyMigration m) s =
      .next (residUpd m.toNat (fun e => { e with lib := es }) (r.lib.foldl (fun u e => extFree e u)
        (es.foldl (fun u e => copyWrite (libRd s r) r.shardLen e u) t)))))

/-- An operator's request for a model in one of the states that it applies to is answered 0, noted with LAST_ERR 0, and acts: RES_LOAD starts the load
of a LIBRARY model; RES_SWAP of a RESIDENT model swaps all groups at once under ATOMIC and otherwise makes every slice due, or fails with BAD_SHARD
without that version in the library and with NO_SPACE where NO_INPLACE finds a group without an alternate; RES_EVICT of a model without streams that
is not pinned takes it off the fabric or out of the library; RES_REFRESH makes every slice due, blocked without a library copy; RES_PIN and RES_UNPIN
set PIN. Of a model in another state each answers STATE. -/
def Obligations.ResidencyRequestsAct : Prop :=
  ∀ (sess : SessId) (m : Byte) (s : State), OperatorOpen s sess →
    let r := residAt s m.toNat
    let start := fun (op : Nat) => answer (residUpd m.toNat (fun r => { r with
      req := some (sess.toNat, op)
      lastErr := 0 }) s) 0 []
    let state := answer s 5 []
    (r.st = .library →
      let t := loadModel m.toNat (start 1)
      exec (.resLoad sess m) s = .next (if (residAt t m.toNat).st = .loading then t else resEnd m.toNat t)) ∧
    (r.st ≠ .library → exec (.resLoad sess m) s = .next state) ∧
    (∀ (atomic noInPlace : Bool) (ver : BitVec 32),
      (r.st ≠ .resident → exec (.resSwap sess m atomic noInPlace ver) s = .next state) ∧
      (r.st = .resident → ∀ i x, imgModel (start 2) m.toNat = some (i, x) →
        let q := residAt (start 2) m.toNat
        ((q.lib = [] ∨ q.ver ≠ ver) → exec (.resSwap sess m atomic noInPlace ver) s = .next (resEnd m.toNat (resFail m.toNat 3 (start 2)))) ∧
        (q.lib ≠ [] → q.ver = ver →
          let t := stagedSwap i m.toNat x.groups (start 2)
          (atomic = true → exec (.resSwap sess m atomic noInPlace ver) s =
            .next (if (residAt t m.toNat).lastErr = 0 then t else resEnd m.toNat t)) ∧
          (atomic = false → noInPlace = true → stagedSel (start 2) i m.toNat x.groups = none →
            exec (.resSwap sess m atomic noInPlace ver) s = .next (resEnd m.toNat (resFail m.toNat 6 (start 2)))) ∧
          (atomic = false → (noInPlace = false ∨ stagedSel (start 2) i m.toNat x.groups ≠ none) →
            exec (.resSwap sess m atomic noInPlace ver) s = .next (residUpd m.toNat (fun r => { r with
              st := .swapping
              slices := r.slices.map (fun o => { o with due := true }) }) (start 2)))))) ∧
    ((r.st = .resident ∨ r.st = .library) → r.pin = false → modelStreams s m.toNat = 0 →
      let s1 := residUpd m.toNat (fun r => { r with req := none }) (start 3)
      exec (.resEvict sess m) s = .next (resCpl m.toNat 3 sess.toNat
        (if (residAt s1 m.toNat).st = .resident then evictModel m.toNat s1 else cgWhole (dropLibrary m.toNat s1)))) ∧
    (((r.st ≠ .resident ∧ r.st ≠ .library) ∨ r.pin = true ∨ modelStreams s m.toNat ≠ 0) → exec (.resEvict sess m) s = .next state) ∧
    ((r.st = .resident ∨ r.st = .degraded) →
      let q := residAt (start 4) m.toNat
      let t := q.slices.foldl (fun u o => refreshDue m.toNat o.id u) (start 4)
      (q.lib = [] → exec (.resRefresh sess m) s = .next (resEnd m.toNat t)) ∧
      (q.lib ≠ [] → exec (.resRefresh sess m) s = .next (residUpd m.toNat (fun r => { r with
        st := if r.st = .resident then .swapping else r.st }) t))) ∧
    (r.st ≠ .resident → r.st ≠ .degraded → exec (.resRefresh sess m) s = .next state) ∧
    (r.st ≠ .free → exec (.resPin sess m) s = .next (resEnd m.toNat (residUpd m.toNat (fun r => { r with pin := true }) (start 5))) ∧
      exec (.resUnpin sess m) s = .next (resEnd m.toNat (residUpd m.toNat (fun r => { r with pin := false }) (start 6)))) ∧
    (r.st = .free → exec (.resPin sess m) s = .next state ∧ exec (.resUnpin sess m) s = .next state)

/-- A second ages every resident slice by a step of its temperature; a refresh falls due at 30 days and at 45 the slice is lost. A due refresh of a
slice with a library copy is done by a staged swap where its group has a free alternate and in place otherwise; a refresh that is not due does
nothing. STAGED_SWAP and IN_PLACE_SWAP swap a group or a slice of a resident model with a library copy, and nothing of another. An eviction takes
copies or models, one at a time, until the named space is free or none is left. -/
def Obligations.SlicesAgeAndAreSwapped : Prop :=
  (∀ s : State, exec .retentionTick s = .next (markWear (s.resid.foldl (fun u e =>
    e.2.slices.foldl (fun v o => ageSlice e.1 o.id v) u) s))) ∧
  (∀ (m id : Nat) (s : State) (o : Slice), (residAt s m).slices.find? (fun o => o.id == id) = some o →
    let a := o.age + ageStep (sliceTemp s o)
    let s1 := residUpd m (sliceUpd id (fun o => { o with age := a })) s
    (o.resident = false → ageSlice m id s = s) ∧
    (o.resident = true → a < 30 * 86400 * 2 ^ 20 → ageSlice m id s = s1) ∧
    (o.resident = true → 30 * 86400 * 2 ^ 20 ≤ a → a < 45 * 86400 * 2 ^ 20 → o.due = false → ageSlice m id s = refreshDue m id s1) ∧
    (o.resident = true → 45 * 86400 * 2 ^ 20 ≤ a → o.due = true → ageSlice m id s = degradeSlice m id s1)) ∧
  (∀ (m : Byte) (group : Byte) (s : State),
    (∀ i x g, imgModel s m.toNat = some (i, x) → x.groups[group.toNat]? = some g → canSwap (residAt s m.toNat) = true →
      exec (.stagedSwap m group) s = .next (stagedSwap i m.toNat [g] s)) ∧
    (canSwap (residAt s m.toNat) = false → exec (.stagedSwap m group) s = .next s)) ∧
  (∀ (m : Byte) (slice : BitVec 16) (s : State),
    (∀ i x, imgModel s m.toNat = some (i, x) → canSwap (residAt s m.toNat) = true →
      exec (.inPlaceSwap m slice) s = .next (inPlaceSwap i m.toNat slice.toNat s)) ∧
    (canSwap (residAt s m.toNat) = false → exec (.inPlaceSwap m slice) s = .next s) ∧
    (∀ i x o, imgModel s m.toNat = some (i, x) → (residAt s m.toNat).slices.find? (fun o => o.id == slice.toNat) = some o →
      (o.due = false → exec (.refresh m slice) s = .next s) ∧
      (o.due = true → (residAt s m.toNat).lib = [] → exec (.refresh m slice) s = .next (refreshDue m.toNat slice.toNat s)) ∧
      (∀ g, o.due = true → (residAt s m.toNat).lib ≠ [] → groupOf x slice.toNat = some g →
        exec (.refresh m slice) s = .next (if (stagedSel s i m.toNat [g]).isSome then stagedSwap i m.toNat [g] s
          else inPlaceSwap i m.toNat slice.toNat s)))) ∧
  (∀ (need : BitVec 32) (s : State),
    (need.toNat ≤ libSpace s → exec (.libraryEviction need) s = .next s) ∧
    (libSpace s < need.toNat → nextEvict s .library [] = none → exec (.libraryEviction need) s = .next s) ∧
    (∀ m, libSpace s < need.toNat → nextEvict s .library [] = some m → exec (.libraryEviction need) s =
      .next (evictLibrary (fun u => decide (need.toNat ≤ libSpace u)) [] 255 (cgWhole (dropLibrary m s))))) ∧
  (∀ (need : BitVec 13) (s : State),
    (need.toNat ≤ freeSites s → exec (.modelEviction need) s = .next s) ∧
    (freeSites s < need.toNat → nextEvict s .resident [] = none → exec (.modelEviction need) s = .next s) ∧
    (∀ m, freeSites s < need.toNat → nextEvict s .resident [] = some m → exec (.modelEviction need) s =
      .next (evictUntil (fun u => decide (need.toNat ≤ freeSites u)) 255 (evictModel m s))))

/-- An operator's IMG_BEGIN starts a load at RECEIVE, or is answered BUSY with code 22 while one runs and BAD for a flash slot 3. IMG_DATA of the
load's sender in RECEIVE writes the staging copy and notes the bytes, BAD beyond the length; otherwise it answers STATE. A load that has received
every byte is verified, checked and placed: the first failure ends it with its code, otherwise its group is opened and it quiesces. It goes on to
COMMIT once no stream is open (or at once under ABORT) and no swap, refresh or calibration run is in progress; a drain that times out with streams
open ends it with code 23. -/
def Obligations.ImagesAreReceivedVerifiedAndDrained : Prop :=
  (∀ (sess : Option SessId) (len : Word) (abort : Bool) (flash : BitVec 2) (drain : BitVec 16) (s : State), OperatorSends s sess →
    (s.load.st ≠ 0 → exec (.imgBegin sess len abort flash drain) s = .next (answer s 3 [⟨22, false⟩])) ∧
    (s.load.st = 0 → flash = 3 → exec (.imgBegin sess len abort flash drain) s = .next (answer s 1 [])) ∧
    (s.load.st = 0 → flash ≠ 3 → exec (.imgBegin sess len abort flash drain) s = .next (answer { s with load := { s.load with
      st := 1
      total := len.toNat
      parts := []
      abort := abort
      flash := flash.toNat
      drainLimit := drain.toNat
      sess := sess.map BitVec.toNat
      cgid := none } } 0 []))) ∧
  (∀ (sess : Option SessId) (off : BitVec 32) (bytes : List Byte) (s : State), OperatorSends s sess →
    ((s.load.st ≠ 1 ∨ s.load.sess ≠ sess.map BitVec.toNat) → exec (.imgData sess off bytes) s = .next (answer s 5 [])) ∧
    (s.load.st = 1 → s.load.sess = sess.map BitVec.toNat →
      (min s.load.total (2 ^ 32) < off.toNat + bytes.length → exec (.imgData sess off bytes) s = .next (answer s 1 [])) ∧
      (off.toNat + bytes.length ≤ min s.load.total (2 ^ 32) →
        let t := dramStore s (0x1080000000 + off.toNat) bytes
        exec (.imgData sess off bytes) s = .next (answer { t with load := { t.load with
          parts := t.load.parts ++ [(off.toNat, off.toNat + bytes.length)] } } 0 [])))) ∧
  (∀ s : State,
    let r := imageRd s stagingAddr
    let i := parseImage r
    let place := loadPlace s i
    ((s.load.st ≠ 1 ∨ received s.load < s.load.total) → exec .imageVerify s = .next s) ∧
    (s.load.st = 1 → s.load.total ≤ received s.load →
      (∀ f, firstFail i (verifyChecks s r s.load.total) = some f → exec .imageVerify s = .next (loadEnd f.1 f.2.1 f.2.2 s)) ∧
      (firstFail i (verifyChecks s r s.load.total) = none →
        (∀ f, firstFail i (structChecks s r i place) = some f → exec .imageVerify s = .next (loadEnd f.1 f.2.1 f.2.2 s)) ∧
        (∀ p c t, firstFail i (structChecks s r i place) = none → place = some p →
          cgStart [(8096, .image)] (plcOp 1 0 s) = some (c, t) → exec .imageVerify s = .next (loadReady { t with load := { t.load with
            st := 6
            stagedImg := some i
            stagedProf := p.1
            stagedPlace := p.2
            cgid := some c } })) ∧
        (∀ p, firstFail i (structChecks s r i place) = none → place = some p →
          cgStart [(8096, .image)] (plcOp 1 0 s) = none → exec .imageVerify s = .next (loadEnd 24 0xFF 0 s))))) ∧
  (∀ s : State,
    let go := s.load.st = 6 ∧ s.cal.busy = false ∧ (∀ e ∈ s.resid, e.2.st ≠ .swapping) ∧ (s.load.abort = true ∨ openStreams s = 0)
    (go → exec .drainComplete s = .next { s with load := { s.load with st := 7 } }) ∧
    (¬ go → exec .drainComplete s = .next s)) ∧
  (∀ s : State,
    let out := s.load.st = 6 ∧ s.load.abort = false ∧ 0 < openStreams s
    (out → exec .drainTimeout s = .next (loadEnd 23 0xFF 0 s)) ∧ (¬ out → exec .drainTimeout s = .next s))

/-- A write of a queue's configuration clears EN; with EN set it enables a queue of at most 65,536 entries that lies in HOST extents of its tenant,
and its waiting CANCEL records act; one outside them stays disabled as a violation. SUBMIT of whole requests by the queue's tenant writes the records
from TAIL on, notes their session and moves TAIL past them, answering 0; BAD for records that are not whole requests, FULL where they would pass HEAD,
DENIED for another tenant's queue. REQUEST_INTAKE takes one whole request of the next enabled queue in round robin for which the store has room; a
stopped engine, recovery, and no such request leave all as it is. -/
def Obligations.RequestsAreSubmittedAndTakenIn : Prop :=
  (∀ (engine : Die) (queue : BitVec 6) (v : Word) (s : State),
    let n := engine.val
    let q := queue.toNat
    let x := sqAt (engAt s n) q
    let y := if x.en then x else { x with
      log2size := v.extractLsb' 1 4
      tenant := v.extractLsb' 16 12 }
    (v.getLsbD 0 = false → exec (.sqEnable engine queue v) s = .next (engUpd n (sqPut q { y with en := false }) s)) ∧
    (v.getLsbD 0 = true → x.en = true → exec (.sqEnable engine queue v) s = .next s) ∧
    (v.getLsbD 0 = true → x.en = false → 10 < y.log2size.toNat → exec (.sqEnable engine queue v) s = .next (engUpd n (sqPut q y) s)) ∧
    (v.getLsbD 0 = true → x.en = false → y.log2size.toNat ≤ 10 → hostOwned s y.tenant y.base.toNat (64 * sqSize y) = true →
      exec (.sqEnable engine queue v) s =
        .next (cancelScan y y.head.toNat (sqUsed y) (engUpd n (sqPut q { y with en := true }) s))) ∧
    (v.getLsbD 0 = true → x.en = false → y.log2size.toNat ≤ 10 → hostOwned s y.tenant y.base.toNat (64 * sqSize y) = false →
      exec (.sqEnable engine queue v) s = .next (tenantViol (engUpd n (sqPut q y) s) 3 y.tenant 0 (8080 + n)))) ∧
  (∀ (sess : SessId) (engine : Die) (queue : BitVec 6) (records : List (List Word)) (s : State) (h : Session), HostOpen s sess h →
    let n := engine.val
    let q := queue.toNat
    let x := sqAt (engAt s n) q
    let at_ := fun (k : Nat) => (x.tail.toNat + k) % sqSize x
    (h.tenant ≠ x.tenant → exec (.submit sess engine queue records) s =
      .next (answer (tenantViol s 4 h.tenant x.tenant (8080 + n)) 2 [])) ∧
    (h.tenant = x.tenant → wholeRequests records = false → exec (.submit sess engine queue records) s = .next (answer s 1 [])) ∧
    (h.tenant = x.tenant → wholeRequests records = true → sqSize x ≤ sqUsed x + records.length →
      exec (.submit sess engine queue records) s = .next (answer s 4 [])) ∧
    (h.tenant = x.tenant → wholeRequests records = true → sqUsed x + records.length < sqSize x →
      let s1 := ((List.range records.length).zip records).foldl (fun u kr => dramStore u (sqEntry x (at_ kr.1)) (wordBytes kr.2)) s
      let s2 := engUpd n (sqPut q { x with
        sess := (List.range records.length).foldl (fun m k => sset 0 m (at_ k) (sess.toNat + 1)) x.sess }) s1
      exec (.submit sess engine queue records) s = .next (answer (tailPut n q (at_ records.length) s2) 0 []))) ∧
  (∀ (engine : Die) (s : State),
    let e := engAt s engine
    let fits := fun (q n : Nat) => (sqAt e q).en = true ∧ requestLen s (sqAt e q) = some n ∧ e.tasks.length + n ≤ 262144
    ((e.stopped = true ∨ s.svc.warming = true) → exec (.requestIntake engine) s = .next s) ∧
    ((∀ k < 64, ∀ n, ¬ fits ((e.rr + k) % 64) n) → exec (.requestIntake engine) s = .next s) ∧
    (∀ k n, k < 64 → fits ((e.rr + k) % 64) n → (∀ j < k, ∀ m, ¬ fits ((e.rr + j) % 64) m) → e.stopped = false →
      s.svc.warming = false → exec (.requestIntake engine) s =
        .next (engUpd engine (fun e' => { e' with rr := ((e.rr + k) % 64 + 1) % 64 }) (takeRequest engine ((e.rr + k) % 64) n s))))

/-- A READY task whose record is good runs: ADMIT with every check passed takes its context and goes on once the tier-1 count allows, fails with
NO_LANE under its flag where it does not, and fails with the code of the first failed check otherwise; ADAPTER_LOAD takes a slot and, active, verifies
the package, writes the slot and its DRAM copy and is DONE, or fails; SAMPLE of a good block copies it into the stream's record; EMIT enqueues USAGE
and, with CLOSE, closes the stream; MIGRATE copies the stream's pages into new homes and opens the group that switches them, or fails with NO_PAGES.
PAGE_HOME opens the group that homes the pages a stream lacks, or ends the stream where no tier has a home. -/
def Obligations.TasksOfTheEngineRun : Prop :=
  (∀ (engine : Die) (slot : BitVec 18) (s : State) (t : Task), TaskHeld s engine slot t →
    let n := engine.val
    (t.kind = 1 → t.st = .ready →
      (∀ sid, admitCode s n t = 0 → admitCtx s n t = some sid →
        (capFree s (taskPar t 19 1) = false → t.flags.getLsbD 2 = true → exec (.admitTask engine slot) s = .next (taskFail n t 6 7 s)) ∧
        ((capFree s (taskPar t 19 1) = true ∨ t.flags.getLsbD 2 = false) →
          let t1 := { t with
            st := .active
            stream := some sid }
          exec (.admitTask engine slot) s =
            .next (admitGo n sid t1 (engEdit n (taskSet t1) (ctxUpd sid (fun c => { c with st := .admitting }) s))))) ∧
      (3 ≤ admitCode s n t → exec (.admitTask engine slot) s = .next (taskFail n t (admitCode s n t) 7 s))) ∧
    (t.kind = 1 → t.st = .active → t.sent = 0 → ∀ sid, t.stream = some sid →
      exec (.admitTask engine slot) s = .next (admitGo n sid t s)) ∧
    (t.kind = 2 →
      let m := taskPar t 28 1
      let id := BitVec.ofNat 32 (taskPar t 24 4)
      let pkg := taskPar t 16 8
      let r : Rd := fun o => dramByte s (pkg + o)
      let len := rdLe r 0x20 8
      (t.st = .ready → (hostOwned s t.tenant pkg 0x40 = false ∨ hostOwned s t.tenant pkg len = false) →
        exec (.adapterLoad engine slot) s = .next (taskFail n t 2 7 (tenantViol s 3 t.tenant 0 (8080 + n)))) ∧
      (t.st = .ready → hostOwned s t.tenant pkg 0x40 = true → hostOwned s t.tenant pkg len = true →
        (adFind s m id ≠ none → exec (.adapterLoad engine slot) s = .next (taskDone n t s)) ∧
        (adFind s m id = none → adChoose s m = none → exec (.adapterLoad engine slot) s = .next s) ∧
        (∀ a, adFind s m id = none → adChoose s m = some a →
          let s2 := adFree m a s
          let ws := adWaiters s2 m id
          let s3 := ws.foldl (fun u sid => ctxUpd sid (fun c => { c with aslot := BitVec.ofNat 8 a }) u) (cgWhole (adPut m a
            ⟨id, t.tenant, 1, BitVec.ofNat 3 (rdLe r 6 1), BitVec.ofNat 15 ws.length, 0, [], none, some (n, t.slot)⟩ s2))
          exec (.adapterLoad engine slot) s = .next (engEdit n (taskSet { t with st := .active }) s3))) ∧
      (∀ a, t.st = .active → (List.range (adSlots s m)).find? (fun a => (adAt s m a).task == some (n, t.slot)) = some a →
        ((∃ o < len, dramBad s (pkg + o) = true) → exec (.adapterLoad engine slot) s = .next (adFail n m a t s)) ∧
        ((∀ o < len, dramBad s (pkg + o) = false) → adVerify s m a t.tenant id r = none →
          exec (.adapterLoad engine slot) s = .next (adFail n m a t s)) ∧
        (∀ ls g u, (∀ o < len, dramBad s (pkg + o) = false) → adVerify s m a t.tenant id r = some ls →
          cacheTake (m % 16) ((ls.length + 511) / 512) t.tenant s = some (g, u) →
          exec (.adapterLoad engine slot) s = .next (adReady n m a t ls g u)))) ∧
    (∀ sid, t.stream = some sid → t.st = .ready → ctxOpen (ctxAt s sid) = true →
      (t.kind = 5 →
        let a := taskPar t 16 8
        let c := (ctxAt s sid).tenant
        (blockCode s c a = 0 → exec (.sample engine slot) s =
          .next (taskDone n t (ctxUpd sid (fun c => { c with paramPtr := BitVec.ofNat 48 a }) (blockCopy sid a s)))) ∧
        (blockCode s c a = 2 → exec (.sample engine slot) s = .next (taskFail n t 2 7 (tenantViol s 3 c 0 (8080 + n)))) ∧
        (3 ≤ blockCode s c a ∨ blockCode s c a = 1 → exec (.sample engine slot) s = .next (taskFail n t (blockCode s c a) 7 s))) ∧
      (t.kind = 6 →
        let s2 := taskDone n t (ctxUpd sid (usageRec s) s)
        (taskPar t 16 1 = 1 → exec (.emit engine slot) s = .next (streamClose sid 0 (endRec s2 0) s2)) ∧
        (taskPar t 16 1 ≠ 1 → exec (.emit engine slot) s = .next s2)) ∧
      (t.kind = 7 →
        let c := ctxAt s sid
        let q := c.pipe.toNat
        let dram := taskPar t 16 1 == 1
        let start := homeStart s q
        let homes := planHomes q start dram c.tenant (List.range (pagesNeeded (geomAt s q) dram c.len.toNat (chunkOf s q))) s
        (homes = none → exec (.migrate engine slot) s = .next (taskFail n t 8 7 s)) ∧
        (∀ hs u g w, homes = some (hs, u) → cgStart ((8080 + n, CgItem.migrate sid (hs.map (fun h => (h.page, h.entry)))) ::
            ownItems c.tenant hs) u = some (g, w) → exec (.migrate engine slot) s = .next (engEdit n (taskSet { t with
              st := .active
              done := start }) (copyPages sid dram hs (zeroHomes hs w))))))) ∧
  (∀ (sid : Sid) (s : State),
    let x := sid.toNat
    let c := ctxAt s x
    let q := c.pipe.toNat
    let need := pagesNeeded (geomAt s q) c.tier c.len.toNat (chunkOf s q)
    let pend := (groupWith s (isPageHome x)).isSome
    ((ctxOpen c = false ∨ pend = true ∨ need ≤ pagesHomed s x) → exec (.pageHome sid) s = .next s) ∧
    (ctxOpen c = true → pend = false → pagesHomed s x < need →
      let homes := planHomes q c.start c.tier c.tenant ((List.range need).drop (pagesHomed s x)) s
      (homes = none → exec (.pageHome sid) s = .next (streamFault x 8 Config.noHomeCause s)) ∧
      (∀ hs u g w, homes = some (hs, u) → cgStart (homeItems s x hs ++ ownItems c.tenant hs) u = some (g, w) →
        exec (.pageHome sid) s = .next (zeroHomes hs w))))

/-- A READY lane task of an open stream that has not ended, has fewer than six records pending and no earlier unfinished task sends its ready notice
to its pipeline's home engine, once; of a stream that has reached an end it fails with LENGTH. CANCEL of an open stream of the tenant with the right
generation takes effect at the next frame boundary, answering 0; otherwise it answers NOT_FOUND. A task whose record is uncorrectable fails with
FAULT, whichever command reads it. -/
def Obligations.LaneTasksAskForStepsAndCancelsAct : Prop :=
  (∀ (engine : Die) (slot : BitVec 18) (s : State) (t : Task) (sid : Nat), TaskHeld s engine slot t → t.stream = some sid →
    t.st = .ready → ctxOpen (ctxAt s sid) = true →
    let n := engine.val
    let c := ctxAt s sid
    let fail := Host.Outcome.next (taskFail n t 7 7 s)
    let ask := Host.Outcome.next (notify sid slot.toNat (t.kind != 4) false (engEdit n (taskSet { t with noticed := true }) s))
    (c.final = true → (t.kind = 3 → exec (.prefill engine slot) s = fail) ∧ (t.kind = 4 → exec (.decode engine slot) s = fail) ∧
      (t.kind = 8 → exec (.replay engine slot) s = fail)) ∧
    (c.final = false → t.noticed = false → c.fin = 0 → c.cancelAt = none → pendPlaces c < 6 → hasEarlier (engAt s n) t = false →
      (t.kind = 3 → exec (.prefill engine slot) s = ask) ∧ (t.kind = 4 → exec (.decode engine slot) s = ask) ∧
      (t.kind = 8 → exec (.replay engine slot) s = ask)) ∧
    (c.final = false → t.noticed = true → exec (.prefill engine slot) s = .next s ∧ exec (.decode engine slot) s = .next s ∧
      exec (.replay engine slot) s = .next s)) ∧
  (∀ (engine : Die) (tenant : BitVec 12) (sid : Sid) (gen : BitVec 16) (s : State), (engAt s engine).stopped = false →
    let x := sid.toNat
    let c := ctxAt s x
    (ctxOpen c = true → c.fin = 0 → c.gen = gen → c.cancelAt = none →
      (c.tenant = tenant → exec (.cancel engine tenant sid gen) s =
        .next (answer (ctxUpd x (fun c => { c with cancelAt := some (s.frames + 1) }) s) 0 [])) ∧
      (c.tenant ≠ tenant → exec (.cancel engine tenant sid gen) s =
        .next (answer (tenantViol s 8 tenant c.tenant (8080 + x / 1024)) 10 []))) ∧
    (ctxOpen c = true → (c.fin ≠ 0 ∨ c.gen ≠ gen ∨ c.cancelAt ≠ none) → exec (.cancel engine tenant sid gen) s = .next (answer s 10 [])) ∧
    (c.st = .free ∨ c.st = .closing → exec (.cancel engine tenant sid gen) s = .next (answer s 10 []))) ∧
  (∀ (engine : Die) (slot : BitVec 18) (s : State) (t : Task), taskOf (engAt s engine) slot.toNat = some t →
    let r := dramReads s (taskAddr engine slot.toNat / 8) 8
    anyPoison r.1 = true →
    ∀ c ∈ [Instr.admitTask engine slot, .adapterLoad engine slot, .sample engine slot, .emit engine slot, .migrate engine slot,
        .prefill engine slot, .decode engine slot, .replay engine slot],
      exec c s = .next (taskFail engine t 12 7 r.2))

/-- TMAP_WRITE sets a tempo map in the pipeline's home engine alone; every lane whose tempo changes drains until the last stream that entered it has
left, and the other lanes keep theirs; in a bulk pipeline another tempo than T1 is ignored. The oldest READY_NOTICE makes its task eligible from the
next frame, or takes a cancelled one out from then on. DISPATCH_DECISION decides in the frame that lies the landing offset before a beat, and at no
other; a lane takes the first decode of its class that has waited long enough, else the first prefill, else the first decode. SAMPLING_DELIVERY
releases 130 lines for its lane: the parameter copy and the count table of the lane's stream, or zeros. STEP_RESULT waits at its step for the commit
boundary. -/
def Obligations.LanesAreFilledAndDelivered : Prop :=
  (∀ (engine : Die) (q : Byte) (hi : Bool) (v : Word) (s : State),
    (homeEng s q.toNat = some engine.val → (v = 0 ∨ bulkReg s q.toNat = none) → exec (.tmapWrite engine q hi v) s =
      .next (pipeUpd q.toNat (fun p => drainLanes p (if hi then { p with tmap1 := v } else { p with tmap0 := v })) s)) ∧
    ((homeEng s q.toNat ≠ some engine.val ∨ (v ≠ 0 ∧ bulkReg s q.toNat ≠ none)) → exec (.tmapWrite engine q hi v) s = .next s)) ∧
  (∀ (old new : Pipe) (k : Nat), k < 64 →
    sget 0 (drainLanes old new).drain k =
      if tempoCode old k = tempoCode new k then sget 0 new.drain k else max (sget 0 new.drain k) (sget 0 new.lastEntry k)) ∧
  (∀ (engine : Die) (s : State) (x : Notice) (rest : List Notice), (engAt s engine).notices = x :: rest →
    let s1 := engUpd engine (fun e => { e with notices := rest }) s
    (x.cancel = false → exec (.readyNotice engine) s = .next (pipeUpd x.pipe (fun p =>
      { p with queue := p.queue ++ [⟨x.sid, x.slot, x.pf, s.frames + 1, none, none, 0⟩] }) s1)) ∧
    (x.cancel = true → exec (.readyNotice engine) s = .next (pipeUpd x.pipe (fun p =>
      { p with queue := p.queue.map (fun t =>
          if t.sid = x.sid ∧ t.slot = x.slot then { t with gone := some (s.frames + 1) } else t) }) s1))) ∧
  (∀ (q : Byte) (s : State) (h : Nat), homeEng s q.toNat = some h →
    let f := s.frames + landOffset s q.toNat 0
    let bp := beatOf s q.toNat
    ((engAt s h).stopped = false → s.svc.warming = false → gridStopped s = false → bp.2 ≤ f → (f - bp.2) % bp.1 = 0 →
      beatHeld s q.toNat f = false → exec (.dispatchDecision q) s = .next (decide1 q.toNat h ((f - bp.2) / bp.1) f s)) ∧
    (((engAt s h).stopped = true ∨ s.svc.warming = true ∨ f < bp.2 ∨ (f - bp.2) % bp.1 ≠ 0 ∨ beatHeld s q.toNat f = true) →
      exec (.dispatchDecision q) s = .next s)) ∧
  (∀ (preempt n : Nat) (l : List Cand) (c : Cand),
    let dc := l.filter (fun c => c.cls == n && !c.t.pf)
    let pf := l.filter (fun c => c.cls == n && c.t.pf)
    (dc.find? (fun c => decide (preempt ≤ c.t.wait)) = some c → (laneTask preempt n l).1 = some c) ∧
    ((∀ d ∈ dc, d.t.wait < preempt) → pf.head? = some c → (laneTask preempt n l).1 = some c) ∧
    ((∀ d ∈ dc, d.t.wait < preempt) → pf = [] → (laneTask preempt n l).1 = dc.head?)) ∧
  (∀ (q : Byte) (lane : BitVec 6) (s : State) (r : Nat × ImgRegion) (z : Nat) (w : Win) (ws : List Win),
    sampleReg s q.toNat = some r → originSite s r.1 = some z → landWins s z r.2.anchor = w :: ws →
    let f := s.frames + landOffset s q.toNat 1
    let put := fun (j : Nat) (ws : List RWord) => (⟨z, lineAdd w.base (130 * lane.toNat + j), BitVec.ofNat 8 f, ws⟩ : RimLine)
    (sampleFlight s q.toNat lane.toNat f = none → exec (.samplingDelivery q lane) s =
      .next (rimPush r.2.anchor ((List.range 130).map (fun j => put j (List.replicate 16 RWord.zero))) s)) ∧
    (∀ sid x, sampleFlight s q.toNat lane.toNat f = some (sid, x) →
      let rd := dramReads s (streamRec sid / 8) 2080
      exec (.samplingDelivery q lane) s =
        .next (ctxUpd sid (fun c => { c with flights := c.flights.map (fun y =>
          if y = x then { y with params := bitsOf (rd.1.take 16) } else y) })
          (rimPush r.2.anchor ((List.range 130).map (fun j => put j ((rd.1.drop (16 * j)).take 16))) rd.2)))) ∧
  (∀ (a : StepArgs) (s : State) (x : Flight),
    (ctxAt s a.sid.toNat).flights.find?
      (fun x => x.lane == a.lane.toNat && x.pos == a.pos.toNat && x.ntok == a.ntok.toNat && x.res.isNone) = some x →
    exec (.stepResult a) s = .next (ctxUpd a.sid.toNat (fun c => { c with flights := c.flights.map (fun y => if y = x then
      { y with res := some ⟨a.sid.toNat, a.lane.toNat, a.status, a.last, a.prefill, a.token, a.pos.toNat, a.ntok.toNat, a.logp⟩ }
      else y) }) s))

/-- CLOSING_COMMIT of a closing stream whose lanes have all passed opens the group that releases its pages, once. The oldest pending record is written
while SEQ minus HEAD is below the size of the ring, to the session's address for its slot, and not before; a closed context whose records are all gone
becomes FREE. A batch whose frames have passed is enqueued. A ring credit of the stream's tenant and generation moves HEAD to a value from HEAD to
SEQ; another value or generation changes nothing, and another tenant's is a violation. A free lock is granted to the agent that asks, with its epoch
and the next lock epoch; the holder's RELEASE frees it and clears ABANDONED; any other ACQUIRE or RELEASE changes nothing. -/
def Obligations.RingsAndLocksAreKept : Prop :=
  (∀ (sid : Sid) (s : State),
    let x := sid.toNat
    let c := ctxAt s x
    let own := ((List.range 1024).map (pteAt s x)).flatMap (pteGranules s c.pipe.toNat)
    ((c.st ≠ .closing ∨ c.closing = true ∨ c.flights ≠ []) → exec (.closingCommit sid) s = .next s) ∧
    (c.st = .closing → c.closing = false → c.flights = [] →
      ∀ g u, cgStart ((engNode (sidEng x), CgItem.closing x) :: own.map (fun sg => (sg.1, CgItem.pageOwn sg.1 sg.2 0))) s = some (g, u) →
        exec (.closingCommit sid) s = .next (ctxUpd x (fun c => { c with closing := true }) u))) ∧
  (∀ (sid : Sid) (s : State) (r : RingRec) (rest : List RingRec),
    let x := sid.toNat
    let c := ctxAt s x
    c.recs = r :: rest →
      ((r.seq - c.head).toNat < 2 ^ c.log2n.toNat → exec (.ringRecordWrite sid) s =
        .next (ctxFinish x (ctxUpd x (fun c => { c with recs := rest, written := c.written ++ [r] })
          (ledPulse (klpSend c.session.toNat false 0x12
            (c.raddr + BitVec.ofNat 64 (64 * (r.seq.toNat % 2 ^ c.log2n.toNat))) (recBytes s x c r) s))))) ∧
      (2 ^ c.log2n.toNat ≤ (r.seq - c.head).toNat → exec (.ringRecordWrite sid) s = .next s)) ∧
  (∀ (sid : Sid) (s : State),
    let c := ctxAt s sid.toNat
    (c.batch ≠ [] → c.batchAt + c.batchFr.toNat ≤ s.frames → exec (.batchTimeout sid) s = .next (ctxPut s sid.toNat (batchFlush c))) ∧
    ((c.batch = [] ∨ s.frames < c.batchAt + c.batchFr.toNat) → exec (.batchTimeout sid) s = .next s)) ∧
  (∀ (sess : SessId) (arg : Word) (s : State) (h : Session), HostOpen s sess h →
    let x := bitsAt arg 0 14
    let c := ctxAt s x
    let head := BitVec.ofNat 32 (bitsAt arg 32 32)
    (ctxOpen c = true ∨ c.st = .closing) →
      (c.gen.toNat ≠ bitsAt arg 14 16 → exec (.rcredit sess arg) s = .next (answer s 0 [])) ∧
      (c.gen.toNat = bitsAt arg 14 16 → c.tenant ≠ h.tenant →
        exec (.rcredit sess arg) s = .next (answer (tenantViol s 6 h.tenant c.tenant (engNode (sidEng x))) 0 [])) ∧
      (c.gen.toNat = bitsAt arg 14 16 → c.tenant = h.tenant → (head - c.head).toNat ≤ (c.seq - c.head).toNat →
        exec (.rcredit sess arg) s = .next (answer (ctxPut s x { c with
          head := head
          written := c.written.filter (fun r => decide ((head - c.head).toNat ≤ (r.seq - c.head).toNat)) }) 0 [])) ∧
      (c.gen.toNat = bitsAt arg 14 16 → c.tenant = h.tenant → (c.seq - c.head).toNat < (head - c.head).toNat →
        exec (.rcredit sess arg) s = .next (answer s 0 []))) ∧
  (∀ (agent aepoch : BitVec 16) (lock : Byte) (s : State),
    let n := lock.toNat
    let l := lockAt s n
    (l.held = false → exec (.acquire agent aepoch lock) s =
      .next (lockPut n ⟨true, l.abandoned, agent, aepoch, l.lepoch + 1⟩ s)) ∧
    (l.held = true → exec (.acquire agent aepoch lock) s = .next s) ∧
    (l.held = true → l.holder = agent → l.aepoch = aepoch → exec (.release agent aepoch lock) s =
      .next (lockPut n ⟨false, false, agent, aepoch, l.lepoch⟩ s)) ∧
    ((l.held = false ∨ l.holder ≠ agent ∨ l.aepoch ≠ aepoch) → exec (.release agent aepoch lock) s = .next s) ∧
    (∀ v m, lockAt (lockPut n v s) m = if m = n then v else lockAt s m))

/-- DRAM_APPEND of a line of the die's own DRAM whose granule is the tenant's writes the enabled bytes and no other byte of module DRAM; another
tenant's is a violation and writes nothing; a line of another die is left. FETCH of a block releases its lines to the tile it names: zeros with NULL
set, zeros marked poisoned with a violation where a line's granule is not the tenant's, and otherwise the lines as they stand, memory unchanged where
no word read has an error. A scrub reads the die's words with errors when it is enabled, and changes nothing otherwise. A write of an extent entry
changes FREE to HOST with its tenant below HOST_MAX, or HOST to FREE where no enabled queue lies in it, and is otherwise ignored. -/
def Obligations.MemoryDiesServeTheirDram : Prop :=
  (∀ (die : Die) (dline : BitVec 38) (tenant : BitVec 12) (mask : BitVec 128) (line : List Word) (s : State),
    let a := 128 * dline.toNat
    (dramDie a = die.val → granOwner s a = some tenant → ∃ t, exec (.dramAppend die dline tenant mask line) s = .next t ∧
      ∀ b, dramByte t b = if a ≤ b ∧ b < a + 128 ∧ mask.getLsbD (b - a) = true then byteOf line (b - a) else dramByte s b) ∧
    (dramDie a = die.val → granOwner s a ≠ some tenant → exec (.dramAppend die dline tenant mask line) s =
      .next (tenantViol s 2 tenant ((granOwner s a).getD 0) (8080 + die.val))) ∧
    (dramDie a ≠ die.val → exec (.dramAppend die dline tenant mask line) s = .next s)) ∧
  (∀ (w0 w1 : Word) (s : State) (z q : Nat),
    let die := bitsAt w0 5 4
    let line := BitVec.ofNat 16 (bitsAt w0 15 16)
    fetchTile s die (bitsAt w0 9 6) (bitsAt w0 15 16) = some (z, q) →
    let g := geomAt s q
    let ls := blockLines (geomKv4 g) (geomNpl g) (pageSize (min 8 (bitsAt w0 39 4))) (bitsAt w0 43 5)
    let dline := bitsAt w1 0 38
    let tenant := BitVec.ofNat 12 (bitsAt w1 38 12)
    let put := fun (j : Nat) (ws : List RWord) => (⟨z, lineAdd line j, BitVec.ofNat 8 (bitsAt w0 31 8), ws⟩ : RimLine)
    let zero := List.replicate 16 RWord.zero
    (w0.getLsbD 4 = true → exec (.fetch w0 w1) s = .next (rimPush (16 + die) ((List.range ls.length).map (fun j => put j zero)) s)) ∧
    (w0.getLsbD 4 = false → linesOwned s tenant dline ls = false → exec (.fetch w0 w1) s =
      .next (rimPush (16 + die) ((List.range ls.length).map (fun j => put j (markAll zero)))
        (tenantViol s 2 tenant ((granOwner s (128 * dline)).getD 0) (8080 + die)))) ∧
    (w0.getLsbD 4 = false → linesOwned s tenant dline ls = true →
      (∀ k, some k ∈ ls → ∀ i < 16, (sget SWord.zero s.dram (16 * (dline + k) + i)).ecc = .good) →
      exec (.fetch w0 w1) s = .next (rimPush (16 + die) (((List.range ls.length).zip ls).map (fun jl => put jl.1 (match jl.2 with
        | none => zero
        | some k => (List.range 16).map (fun i => ⟨(sget SWord.zero s.dram (16 * (dline + k) + i)).bits, false⟩)))) s))) ∧
  (∀ (die : Die) (s : State),
    ((mdAt s die).scrubEn = true → exec (.scrub die) s =
      .next ((s.dram.filter (fun e => dramDie (8 * e.1) == die.val && e.2.ecc != .good)).foldl (fun acc e => (dramRead acc e.1).2) s)) ∧
    ((mdAt s die).scrubEn = false → exec (.scrub die) s = .next s)) ∧
  (∀ (die : Die) (e : BitVec 16) (v : BitVec 32) (s : State),
    let d := mdAt s die
    let old := extClass (extAt d e.toNat)
    (old = 0 → extClass v = 4 → classCount d 4 < d.hostMax.toNat → exec (.extentTableWrite die e v) s =
      .next (mdPut s die (extPut d e.toNat (extEntry 4 (extTenant v) 0)))) ∧
    (old = 4 → extClass v = 0 → extentQueue s die e.toNat = false → exec (.extentTableWrite die e v) s =
      .next (mdPut s die (extPut d e.toNat 0))) ∧
    ((old ≠ 0 ∧ old ≠ 4) ∨ (old = 0 ∧ (extClass v ≠ 4 ∨ d.hostMax.toNat ≤ classCount d 4)) ∨
      (old = 4 ∧ (extClass v ≠ 0 ∨ extentQueue s die e.toNat = true)) → exec (.extentTableWrite die e v) s = .next s))

/-- PIPE_ENABLE sets PREEMPT_MAX and EN in the pipeline's home engine and in no other; when it newly enables a bulk pipeline, the BULK region's die
computes the stream: ERR is NO_COPY without a library copy on the die, ITEM_TOO_LONG for an item beyond CHT - 1 lines or the budget, and otherwise NCH
is the number of beats. BULK_PASS at a beat index that is a multiple of NCH notes whether a lane was filled; at another, or without a stream, nothing
changes. PARCEL_DELIVERY releases CHT lines to every weight tile at the region's next beat, all of them zero, and without a read, in a pass without
lanes or without a library copy. -/
def Obligations.BulkStreamsAreDelivered : Prop :=
  (∀ (engine : Die) (q : Byte) (v : Word) (s : State),
    let s1 := pipeUpd q.toNat (fun p => { p with
      preempt := BitVec.ofNat 12 (bitsAt v 0 12)
      en := v.getLsbD 12 }) s
    (homeEng s q.toNat ≠ some engine.val → exec (.pipeEnable engine q v) s = .next s) ∧
    (homeEng s q.toNat = some engine.val → (v.getLsbD 12 = false ∨ (homePipe s q.toNat).en = true ∨ bulkReg s1 q.toNat = none) →
      exec (.pipeEnable engine q v) s = .next s1) ∧
    (homeEng s q.toNat = some engine.val → v.getLsbD 12 = true → (homePipe s q.toNat).en = false → ∀ r, bulkReg s1 q.toNat = some r →
      exec (.pipeEnable engine q v) s = .next (bulkCompute (r.2.anchor - 16) s1))) ∧
  (∀ (die : Nat) (s : State) (reg : Nat × ImgRegion), dieBulk s die = some reg →
    let d := { mdAt s die with
      bulkPipe := BitVec.ofNat 8 reg.2.pipe
      bulkM := BitVec.ofNat 8 reg.2.model }
    let cht := bulkCht (bulkTiles s reg.1 (16 + die))
    (dieCopy s reg.2.model die = none → bulkCompute die s = mdPut s die { d with
      bulkErr := 1
      bulkValid := false }) ∧
    (∀ es, dieCopy s reg.2.model die = some es →
      let xs := bulkItems s (fun o => dramByte s (copyAddr es o)) reg.2.model reg.2.firstSlice
      let long := fun (x : BulkItem) => cht < x.lines + 2 ∨ bulkBudget d (max 1 reg.2.b) < x.bytes
      ((∃ x ∈ xs, long x) → bulkCompute die s = mdPut s die { d with
        bulkErr := 2
        bulkValid := false }) ∧
      ((∀ x ∈ xs, ¬ long x) → bulkCompute die s = mdPut s die { d with
        bulkErr := 0
        bulkValid := true
        nch := BitVec.ofNat 32 (dieBeats s die reg es).length }))) ∧
  (∀ (die : Die) (s : State) (reg : Nat × ImgRegion), dieBulk s die = some reg →
    let d := mdAt s die
    let b := (s.frames - reg.2.p) / max 1 reg.2.b
    (d.bulkValid = true → d.nch ≠ 0 → b % d.nch.toNat = 0 → exec (.bulkPass die) s =
      .next (mdPut s die { d with passEmpty := !(sget false (homePipe s reg.2.pipe).passFilled b) })) ∧
    ((d.bulkValid = false ∨ d.nch = 0 ∨ b % d.nch.toNat ≠ 0) → exec (.bulkPass die) s = .next s)) ∧
  (∀ (die : Die) (r : BitVec 32) (s : State) (reg : Nat × ImgRegion), dieBulk s die = some reg →
    let ts := bulkTiles s reg.1 (16 + die.val)
    let cht := bulkCht ts
    let b := max 1 reg.2.b
    let rel := BitVec.ofNat 8 (b * ((s.frames - reg.2.p) / b + 1) + reg.2.p)
    let at_ := fun (t : Nat × Win) (j : Nat) (ws : List RWord) =>
      (⟨t.1, lineAdd t.2.base (j + cht * (r.toNat % 2)), rel, ws⟩ : RimLine)
    (((mdAt s die).passEmpty = true ∨ dieCopy s reg.2.model die = none) → exec (.parcelDelivery die r) s =
      .next (rimPush (16 + die.val) (ts.flatMap (fun t => (List.range cht).map (fun j => at_ t j (List.replicate 16 RWord.zero)))) s)) ∧
    (∃ ls u, exec (.parcelDelivery die r) s = .next (rimPush (16 + die.val) ls u) ∧ ls.length = ts.length * cht ∧
      ∀ x ∈ ls, ∃ t ∈ ts, ∃ j < cht, ∃ ws, x = at_ t j ws)) ∧
  (∀ (die : Die) (r : BitVec 32) (s : State), dieBulk s die = none →
    exec (.bulkPass die) s = .next s ∧ exec (.parcelDelivery die r) s = .next s)

/-- A frame at a sub-port that is down has no effect; an uncorrectable one counts its FEC codewords and goes; another passes to its protocol where the
sub-port has an address for it and its length and tags fit, and is counted otherwise. A mode change takes every sub-port of its port down once and
ends with MODE_ACT = MODE; a sub-port that loses its signal goes down, and a session whose sub-port is down moves to ALT where that is up; a signal
brings up a sub-port of the mode in force on an enabled port outside a mode change. A pause frame sets the paused priorities under PFC_EN and none
otherwise. An ECN rate step raises the rate by 5 % up to the full rate. A follower's IEEE 1588 exchange sets its offset, and module time follows where
the die is its source. -/
def Obligations.PortsCarryFrames : Prop :=
  (∀ (die : Die) (sub : SubPort) (kind : FrameKind) (len : BitVec 16) (tags : BitVec 2) (corrected uncorrected : Bool) (s : State),
    let p := sub.val / 8
    let s1 := portUpd die p (fun x => { x with
      corr := if corrected then x.corr + 1 else x.corr
      uncorr := if uncorrected then satInc x.uncorr else x.uncorr }) s
    let d := linkAt s1 die
    let other := Host.Outcome.next (linkPut s1 die { d with other := satInc d.other })
    let v4 := (subAt d sub).ip4 ≠ 0
    let v6 := (subAt d sub).ip6h ≠ 0 ∨ (subAt d sub).ip6l ≠ 0
    let fits := len.toNat ≤ 9216 ∧ tags.toNat ≤ 1
    let c := Instr.frameReceive die sub kind len tags corrected uncorrected
    (subUp (linkAt s die) sub = false → exec c s = .next s) ∧
    (subUp (linkAt s die) sub = true → uncorrected = true → exec c s = .next s1) ∧
    (subUp (linkAt s die) sub = true → uncorrected = false →
      (fits → ((kind = .arp ∧ v4) ∨ (kind = .nd ∧ v6) ∨ (kind = .echo ∧ (v4 ∨ v6))) → exec c s = .next (answer s1 0 [])) ∧
      (fits → (kind = .ptp ∨ (kind = .klp ∧ (v4 ∨ v6))) → exec c s = .next s1) ∧
      ((¬ fits ∨ kind = .other ∨ (kind = .arp ∧ ¬ v4) ∨ (kind = .nd ∧ ¬ v6) ∨ ((kind = .echo ∨ kind = .klp) ∧ ¬ v4 ∧ ¬ v6)) →
        exec c s = other))) ∧
  (∀ (die : Die) (p : LocalPort) (los : Byte) (s : State),
    let x := portAt (linkAt s die) p
    (x.modeSt = true → exec (.modeApply die p) s = .next s ∧ exec (.modeChangeComplete die p los) s =
      .next (portUpd die p (fun x => { x with
        modeSt := false
        modeAct := x.mode
        los := los &&& BitVec.ofNat 8 (2 ^ modeSubs x.mode - 1) }) s)) ∧
    (x.modeSt = false → exec (.modeChangeComplete die p los) s = .next s ∧ exec (.modeApply die p) s =
      .next (portsDown die (fun d => let e := portDown p d; portPut p { portAt e p with modeSt := true } e) s))) ∧
  (∀ (d : LinkDie) (x : Session),
    (subUp d x.sub = true → (sessMove d x).1 = x) ∧
    (subUp d x.sub = false → x.alt < 24 → subUp d x.alt = true → (sessMove d x).1.sub = x.alt ∧ (sessMove d x).1.alt = x.sub) ∧
    (subUp d x.sub = false → (24 ≤ x.alt ∨ subUp d x.alt = false) → (sessMove d x).1 = x)) ∧
  (∀ (die : Die) (sub : SubPort) (s : State),
    let bit : Byte := (1 : Byte) <<< (sub.val % 8)
    let x := portAt (linkAt s die) (sub.val / 8)
    exec (.subportDown die sub) s = .next (portsDown die (fun d => portPut (sub.val / 8) { portAt d (sub.val / 8) with
      up := (portAt d (sub.val / 8)).up &&& ~~~bit
      los := (portAt d (sub.val / 8)).los ||| bit } d) s) ∧
    (x.en = true → x.modeSt = false → sub.val % 8 < modeSubs x.modeAct → exec (.subportUp die sub) s =
      .next (portUpd die (sub.val / 8) (fun x => { x with
        up := x.up ||| bit
        los := x.los &&& ~~~bit }) s)) ∧
    ((x.en = false ∨ x.modeSt = true ∨ modeSubs x.modeAct ≤ sub.val % 8) → exec (.subportUp die sub) s = .next s)) ∧
  (∀ (die : Die) (p : LocalPort) (received : Option Byte) (fill : Byte) (s : State),
    let x := portAt (linkAt s die) p
    exec (.pauseFrame die p received fill) s = .next (portUpd die p (fun _ => { x with
      paused := if x.pfcEn then received.getD x.paused else 0
      pausing := x.pfcEn && decide (75 < fill.toNat) }) s)) ∧
  (∀ (sess : SessId) (s : State),
    (∀ x, sessAt s sess.toNat = some x → (ecnOn s sess.toNat x = true → exec (.ecnRateStep sess) s =
      .next (sessPut s sess.toNat (some { x with rate := min 1000 (x.rate + 50) }))) ∧
      (ecnOn s sess.toNat x = false → exec (.ecnRateStep sess) s = .next s)) ∧
    (sessAt s sess.toNat = none → exec (.ecnRateStep sess) s = .next s)) ∧
  (∀ (die : Die) (sub : SubPort) (t1 t2 t3 t4 : Word) (locked : Bool) (s : State),
    let d := linkAt s die
    let off := if d.ptpP2p then (t2 - t1 - (t4 - t3)).toInt else (t2 - t1 - (t4 - t3)).toInt / 2
    let s1 := linkPut s die { d with
      ptpOffset := BitVec.ofInt 32 off
      ptpLocked := locked }
    ((d.ptpEn = false ∨ d.ptpGm = true ∨ d.ptpSub.toNat ≠ sub.val) → exec (.ptpMessage die sub t1 t2 t3 t4 locked) s = .next s) ∧
    (d.ptpEn = true → d.ptpGm = false → d.ptpSub.toNat = sub.val →
      (locked = true → ptpSource s1 = some die.val → exec (.ptpMessage die sub t1 t2 t3 t4 locked) s = .next (timeShift (-off) s1)) ∧
      ((locked = false ∨ ptpSource s1 ≠ some die.val) → exec (.ptpMessage die sub t1 t2 t3 t4 locked) s = .next s1)))

/-- A packet of another version or with a payload above 4,096 bytes is counted; one that names no open session of its die, or whose tag fails, is
dropped and counted in AUTH; one of a SPAN or POD session with another epoch is dropped and counted in STALE, except MEMBER and TAKEOVER, which bring
the epoch. A packet whose PSN is not the one expected only ends the session's silence, answered with an ACK below and a NAK above; the one expected is
taken, with its APSN, CREDIT and ECE, and answered with an ACK. ACK removes the packets below APSN; NAK and a timeout send again what is in flight,
counted. A heartbeat ends the silence; sending one counts an interval. -/
def Obligations.PacketsAreCheckedAndOrdered : Prop :=
  (∀ (die : Die) (a : KlpArgs) (s : State),
    let n := die.val
    let id := a.session.toNat
    let c := Instr.klpPacketReceive die a
    let tagOk := fun (x : Session) => Config.cmac x.key (klpHeader a ++ a.payload) = a.tag
    ((a.ver ≠ 1 ∨ 4096 < a.payload.length) → exec c s = .next (linkUpd n (fun d => { d with other := satInc d.other }) s)) ∧
    (a.ver = 1 → a.payload.length ≤ 4096 → a.op = 1 → a.session = 0xFFFF → exec c s = .next s) ∧
    (a.ver = 1 → a.payload.length ≤ 4096 → ¬ (a.op = 1 ∧ a.session = 0xFFFF) →
      ((id / 256 ≠ n ∨ sessAt s id = none) → exec c s = .next (linkUpd n (fun d => { d with auth := satInc d.auth }) s)) ∧
      (∀ x, id / 256 = n → sessAt s id = some x →
        let ctrl := a.flags.getLsbD 0
        let e := (chanAt ctrl x).expect
        (¬ tagOk x → exec c s = .next (linkUpd n (fun d => { d with auth := satInc d.auth }) s)) ∧
        (tagOk x → (x.kind = 2 ∨ x.kind = 3) → a.op ≠ 0x40 → a.op ≠ 0x43 → a.epoch ≠ sessEpoch s x →
          exec c s = .next (linkUpd n (fun d => { d with stale := satInc d.stale }) s)) ∧
        (tagOk x → klpStale s x a = false →
          (a.op = 4 → exec c s = .next (sessPut s id (some (klpTake s id x ctrl a e)))) ∧
          (a.op = 5 → exec c s = .next (retxRound id ctrl
            (sessPut s id (some (klpTake s id x ctrl { a with apsn := a.arg.setWidth 32 } e))))) ∧
          (a.op ≠ 4 → a.op ≠ 5 → a.psn ≠ e → exec c s = .next (answer (sessPut s id (some { x with silent := 0 })) 0
            [⟨if a.psn.toNat < e.toNat then 4 else 5, false⟩, ⟨e.setWidth 64, false⟩])) ∧
          (a.op ∈ klpOps.map (BitVec.ofNat 8) → a.op ≠ 4 → a.op ≠ 5 → a.op ≠ 0x40 → a.op ≠ 0x33 → a.psn = e → exec c s =
            .next (psnEnd id (answer (sessPut s id (some (klpTake s id x ctrl a (e + 1)))) 0
              [⟨4, false⟩, ⟨(e + 1).setWidth 64, false⟩]))))))) ∧
  (∀ (sess : SessId) (ctrl : Bool) (apsn credit psn : BitVec 32) (s : State),
    let id := sess.toNat
    exec (.ack sess ctrl apsn credit) s = .next (sessUpd id (chanUpd ctrl (fun c => { c with
      unacked := c.unacked.filter (fun k => decide (apsn.toNat ≤ k.psn.toNat))
      credit := credit
      retx := c.retx && !(c.unacked.filter (fun k => decide (apsn.toNat ≤ k.psn.toNat))).isEmpty })) s) ∧
    exec (.nak sess ctrl psn) s = .next (retxRound id ctrl (sessUpd id (chanUpd ctrl (fun c => { c with
      unacked := c.unacked.filter (fun k => decide (psn.toNat ≤ k.psn.toNat)) })) s)) ∧
    exec (.retransmitTimeout sess ctrl) s = .next (retxRound id ctrl s) ∧
    (∀ x, sessAt s id = some x →
      (chanFlight x.window.toNat (chanAt ctrl x) ≠ [] → retxRound id ctrl s =
        linkUpd (id / 256) (fun d => { d with retx := satAdd d.retx 1 }) (sessUpd id (chanUpd ctrl (fun _ =>
          { chanAt ctrl x with retx := true })) s)) ∧
      (chanFlight x.window.toNat (chanAt ctrl x) = [] → retxRound id ctrl s =
        linkUpd (id / 256) (fun d => { d with retx := satAdd d.retx 0 }) (sessUpd id (chanUpd ctrl (fun _ => chanAt ctrl x)) s)))) ∧
  (∀ (sess : SessId) (s : State),
    exec (.klpHeartbeat sess) s = .next (sessUpd sess.toNat (fun x => { x with silent := 0 }) s) ∧
    exec (.klpHeartbeatSend sess) s = .next (psnEnd sess.toNat (sessUpd sess.toNat (fun x => { x with silent := x.silent + 1 })
      (klpSend sess.toNat true 0x03 0 [] s))))

/-- An OPEN that is refused opens nothing: BAD for agent 0, a KIND above 3, a WINDOW outside 16 to 1,024 or a TENANT it may not name, DENIED where its
signature fails or the life cycle forbids it, STATE for an older agent epoch or a POD OPEN that the role does not take. Another closes the agent's
sessions of other epochs as if they had timed out and opens the free session of the die with the lowest number, with that number in the answer, or
answers FULL where the die has none. A session that closes is gone. A timeout after three silent intervals also abandons every lock its agent holds
under its epoch, and is counted; a CLOSE leaves every lock as it is, as does a timeout when fewer intervals were silent. -/
def Obligations.SessionsOpenAndClose : Prop :=
  (∀ (die : Die) (sub : SubPort) (a : OpenArgs) (s : State),
    let old := agentSess s a.agent
    let s1 := old.foldl (fun acc e => if e.2.aepoch = a.aepoch then acc else sessClose true e.1 acc) s
    let signed := sigHolds s.sec (.session (a.kind == 1)) a.keyId.toNat (openBytes a) a.sig = true
    (∀ r, openRefusal s a = some r → exec (.openSession die sub a) s = .next (answer s r [])) ∧
    ((a.agent = 0 ∨ 4 ≤ a.kind.toNat ∨ a.window.toNat < 16 ∨ 1024 < a.window.toNat ∨ 4096 ≤ a.tenant.toNat ∨
      (a.kind ≠ 0 ∧ a.tenant ≠ 0)) → openRefusal s a = some 1) ∧
    (openRefusal s a = none → signed ∧ ∀ e ∈ old, (a.aepoch - e.2.aepoch).toNat < 32768) ∧
    (openRefusal s a = none → freeSess (linkAt s1 die) = none → exec (.openSession die sub a) s = .next (answer s 4 [])) ∧
    (∀ i, openRefusal s a = none → freeSess (linkAt s1 die) = some i →
      let id := 256 * die.val + i
      let x := openSess s id sub a
      let t := sessOpened a.kind id x s1
      sessAt t id = some x ∧ exec (.openSession die sub a) s = .next (answer t 0
        (⟨BitVec.ofNat 64 id, false⟩ :: clean (packBytes (Config.openResponse s.draws (openBytes a)) 26))))) ∧
  (∀ (sess : SessId) (s : State),
    (sessAt s sess.toNat = none → exec (.closeSession sess) s = .next s ∧ exec (.sessionTimeout sess) s = .next s) ∧
    (∀ x, sessAt s sess.toNat = some x →
      (∃ t, exec (.closeSession sess) s = .next t ∧ sessAt t sess.toNat = none ∧ t.locks = s.locks) ∧
      (x.silent < 3 → exec (.sessionTimeout sess) s = .next s) ∧
      (3 ≤ x.silent → ∃ t, exec (.sessionTimeout sess) s = .next t ∧ sessAt t sess.toNat = none ∧
        (linkAt t (sess.toNat / 256)).timeout = satInc (linkAt s (sess.toNat / 256)).timeout ∧
        ∀ n < 256, lockAt t n = if (lockAt s n).held = true ∧ x.agent ≠ 0 ∧ (lockAt s n).holder = x.agent ∧ (lockAt s n).aepoch = x.aepoch then
          { lockAt s n with
            held := false
            abandoned := true } else lockAt s n)))

/-- WRITE of an aligned range of at most 4,096 bytes of module DRAM, by a HOST session on its tenant's extents or by an operator outside PRODUCTION
and RETIRED, writes its bytes and no other; READ answers the words there. A HOST session's access outside its extents is DENIED and a violation.
HIST_WR writes tokens below 2^18 at or above the committed length of an open stream of its tenant and generation; HIST_RD answers them; a range
outside the history is BAD and another tenant's stream DENIED, with a violation. A LAND line of a SPAN session is held for its release with a credit
taken, and dropped and counted when it is late or without credit. SPAN_SEND empties a die's gateway lines. -/
def Obligations.VerbsReachMemoryHistoryAndSpan : Prop :=
  (∀ (sess : SessId) (addr : Word) (data : List Word) (len : BitVec 32) (s : State) (x : Session),
    sessAt s sess.toNat = some x → s.svc.warming = false →
    (addr.toNat % 8 = 0 → data.length ≤ 512 → addr.toNat + 8 * data.length ≤ 2 ^ 43 →
      ((x.kind = 0 ∧ hostOwned s x.tenant addr.toNat (8 * data.length) = true) ∨ (x.kind = 1 ∧ s.sec.lc.toNat < 2)) →
      ∃ t, exec (.write sess addr data) s = .next (answer t 0 []) ∧ ∀ b, dramByte t b =
        if addr.toNat ≤ b ∧ b < addr.toNat + 8 * data.length then byteOf data (b - addr.toNat) else dramByte s b) ∧
    (addr.toNat % 8 = 0 → len.toNat % 8 = 0 → len.toNat ≤ 4096 → addr.toNat + len.toNat ≤ 2 ^ 43 →
      ((x.kind = 0 ∧ hostOwned s x.tenant addr.toNat len.toNat = true) ∨ (x.kind = 1 ∧ s.sec.lc.toNat < 2)) →
      let r := dramReads s (addr.toNat / 8) (len.toNat / 8)
      exec (.read sess addr len) s = .next (answer r.2 0 r.1)) ∧
    (addr.toNat % 8 = 0 → len.toNat % 8 = 0 → len.toNat ≤ 4096 → addr.toNat + len.toNat ≤ 2 ^ 43 →
      x.kind = 0 → hostOwned s x.tenant addr.toNat len.toNat = false → exec (.read sess addr len) s = .next (answer
        (tenantViol s 3 x.tenant (extTenant (extAt (mdAt s (dramDie addr.toNat)) (dramExt addr.toNat)))
          (8080 + dramDie addr.toNat)) 2 []))) ∧
  (∀ (sess : SessId) (arg : Word) (tokens : List (BitVec 32)) (count : BitVec 32) (s : State) (x : Session), HostOpen s sess x →
    let sid := bitsAt arg 0 14
    let first := bitsAt arg 32 21
    let c := ctxAt s sid
    let viol := tenantViol s 5 x.tenant c.tenant (engNode (sidEng sid))
    let a := histAddr sid + 4 * first
    let r := dramReads s (a / 8) ((a % 8 + 4 * count.toNat + 7) / 8)
    (c.tenant ≠ x.tenant → exec (.histWr sess arg tokens) s = .next (answer viol 2 []) ∧
      exec (.histRd sess arg count) s = .next (answer viol 2 [])) ∧
    (c.tenant = x.tenant → (c.gen.toNat ≠ bitsAt arg 14 16 ∨ 2 ^ 20 < first + tokens.length ∨ ctxOpen c = false ∨
      first < c.len.toNat ∨ ∃ k ∈ tokens, 2 ^ 18 ≤ k.toNat) → exec (.histWr sess arg tokens) s = .next (answer s 1 [])) ∧
    (c.tenant = x.tenant → c.gen.toNat = bitsAt arg 14 16 → 0 < tokens.length → tokens.length ≤ 1024 → first + tokens.length ≤ 2 ^ 20 →
      ctxOpen c = true → c.len.toNat ≤ first → (∀ k ∈ tokens, k.toNat < 2 ^ 18) → exec (.histWr sess arg tokens) s =
        .next (answer (dramStore s a (tokens.flatMap (fun k => leBytes 4 k.toNat))) 0 [])) ∧
    (c.tenant = x.tenant → c.gen.toNat = bitsAt arg 14 16 → 0 < count.toNat → count.toNat ≤ 1024 → first + count.toNat ≤ 2 ^ 20 →
      exec (.histRd sess arg count) s = .next (answer r.2 0 (markIf (anyPoison r.1)
        (clean (packBytes (((dramBytes r.1).drop (a % 8)).take (4 * count.toNat)) ((4 * count.toNat + 7) / 8))))))) ∧
  (∀ (sess : SessId) (route : Word) (entries : List (BitVec 16 × List Word)) (s : State),
    (∀ x, sessAt s sess.toNat = some x → x.kind = 2 → entries.length ≤ 30 → exec (.land sess route entries) s =
      .next (answer (entries.foldl (fun acc e => landEntry (sess.toNat / 256) route e acc) s) 0 [])) ∧
    (∀ x, sessAt s sess.toNat = some x → x.kind = 2 → 30 < entries.length → exec (.land sess route entries) s = .next (answer s 1 [])) ∧
    ((∀ x, sessAt s sess.toNat = some x → x.kind ≠ 2) → exec (.land sess route entries) s = .next (answer s 2 []))) ∧
  (∀ (n : Nat) (route : Word) (e : BitVec 16 × List Word) (s : State),
    (∀ site, routeSite s route = some site → landEntry n route e s =
      landLine n site (bitsAt route 38 5) (BitVec.ofNat 8 (bitsAt route 43 8)) e s) ∧
    (routeSite s route = none → landEntry n route e s = linkUpd n (fun d => { d with nocred := satInc d.nocred }) s)) ∧
  (∀ (n site win : Nat) (rel : Byte) (e : BitVec 16 × List Word) (s : State),
    let late := 128 ≤ (rel - BitVec.ofNat 8 s.frames).toNat
    let k := creditKey n site win
    (late → landLine n site win rel e s = linkUpd n (fun d => { d with late := satInc d.late }) s) ∧
    (¬ late → sget 0 s.grid.credit k = 0 → landLine n site win rel e s = linkUpd n (fun d => { d with nocred := satInc d.nocred }) s) ∧
    (¬ late → sget 0 s.grid.credit k ≠ 0 → ∃ t, landLine n site win rel e s = t ∧ sget 0 t.grid.credit k = sget 0 s.grid.credit k - 1 ∧
      sget [] t.grid.rimQ n = sget [] s.grid.rimQ n ++ [⟨site, e.1, rel, clean ((List.range 16).map (lget 0 e.2))⟩])) ∧
  (∀ (die : Die) (s : State),
    let d := linkAt s die
    ((linkAt s die).gate = [] → ∃ t, exec (.spanSend die) s = .next t ∧ linkAt t die = d) ∧
    (∀ r, (∀ l ∈ d.gate, l.route = r) → d.gate ≠ [] → d.gate.length ≤ 30 → ∀ i, spanSess d (bitsAt r 0 6) = some i →
      exec (.spanSend die) s = .next (klpSend (256 * die.val + i) false 0x38 r (landBytes d.gate) (linkPut s die { d with gate := [] }))))

/-- A pod verb from no POD session is DENIED, from a provisional one, or one that is not the hawk's where it must be, STATE. MEMBER gives the module
its epoch, slot and FRAME_BASE while no stencil runs. EPOCH_SET switches the epoch at its apply frame, at once where that has come. SYNC is kept by a
standby. A TAKEOVER with an epoch ahead makes its sender the hawk, and is STALE otherwise; the standby whose hawk was lost becomes hawk with the
synced epoch plus 16, a member without one becomes an orphan, and a provisional session closes in time. A write of the member table acts on a hawk
alone. A hawk fences a member that was lost or that leaves, and counts it; a member that leaves is fenced itself. -/
def Obligations.PodsFormAndSwitch : Prop :=
  (∀ (sess : SessId) (v w : Word) (e : BitVec 16) (ms : List (BitVec 7 × List Word)) (ss : List (Byte × List Word)) (bs : List Byte) (n : Byte)
      (s : State),
    let hawkVerbs := [Instr.member sess v w, .epochSet sess v, .sync sess e ms ss, .spanSet sess v w bs, .spanDown sess n, .probePush sess v bs,
      .freq sess v]
    ((∀ x, sessAt s sess.toNat = some x → x.kind ≠ 3) →
      ∀ c ∈ hawkVerbs ++ [.leave sess, .distress sess v bs], exec c s = .next (answer s 2 [])) ∧
    (∀ x, sessAt s sess.toNat = some x → x.kind = 3 →
      (x.prov = true → ∀ c ∈ hawkVerbs ++ [.leave sess, .distress sess v bs], exec c s = .next (answer s 5 [])) ∧
      (s.pod.hawkSess ≠ some sess.toNat → ∀ c ∈ hawkVerbs, exec c s = .next (answer s 5 [])))) ∧
  (∀ (sess : SessId) (arg base : Word) (s : State) (x : Session), HawkOpen s sess x →
    ((∃ e ∈ s.grid.tiles, e.2.mesh.run = true) → exec (.member sess arg base) s = .next (answer s 5 [])) ∧
    ((∀ e ∈ s.grid.tiles, e.2.mesh.run = false) → ∃ t, exec (.member sess arg base) s = .next (answer t 0 []) ∧
      t.pod.frameBase = base ∧ t.pod.baseFrame = 0 ∧ t.pod.align = true ∧ t.clk.offGrid = false ∧
      (x.upper = false → t.pod.st = 2 ∧ t.pod.slot = BitVec.ofNat 7 (bitsAt arg 0 7) ∧ t.pod.epoch = BitVec.ofNat 16 (bitsAt arg 7 16)) ∧
      (x.upper = true → t.pod.st = s.pod.st ∧ t.pod.upper = true ∧ t.pod.uslot = BitVec.ofNat 7 (bitsAt arg 0 7) ∧
        t.pod.uepoch = BitVec.ofNat 16 (bitsAt arg 7 16)))) ∧
  (∀ (sess : SessId) (arg : Word) (s : State) (x : Session), HawkOpen s sess x →
    exec (.epochSet sess arg) s = .next (answer (epochSched x.upper (BitVec.ofNat 16 (bitsAt arg 0 16)) (bitsAt arg 16 48) s) 0 [])) ∧
  (∀ (e : BitVec 16) (f : Nat) (s : State),
    (f ≤ (frameCtr s).toNat → (epochSched false e f s).pod.epoch = e ∧ (epochSched true e f s).pod.uepoch = e) ∧
    ((frameCtr s).toNat < f → (epochSched false e f s).pod.epoch = s.pod.epoch ∧
      (s.pod.pendEpoch = none → (epochSched false e f s).pod.pendEpoch = some (e, f)) ∧
      ∀ x, s.pod.pendEpoch = some x → (epochSched false e f s).pod.pendEpoch = if epochAhead e x.1 then some (e, f) else some x)) ∧
  (∀ (sess : SessId) (e : BitVec 16) (ms : List (BitVec 7 × List Word)) (ss : List (Byte × List Word)) (s : State) (x : Session),
    HawkOpen s sess x →
    ((podRole s = 3 ∨ x.upper = true) → exec (.sync sess e ms ss) s = .next (answer (onPod (fun p => { p with
      synced := some (e, ms.foldl (fun m e => sset Member.none m e.1.toNat (memberOfWords e.2)) [],
        ss.foldl (fun m e => sset none m e.1.toNat (some (spanOfWords e.2))) []) }) s) 0 [])) ∧
    (podRole s ≠ 3 → x.upper = false → exec (.sync sess e ms ss) s = .next (answer s 5 []))) ∧
  (∀ (s : State), exec .syncSend s = .next (hawkInterval true (hawkInterval false s)) ∧
    (∀ upper, leads upper s = false → hawkInterval upper s = s)) ∧
  (∀ (upper : Bool) (slot : BitVec 7) (w : BitVec 2) (v : Word) (s : State),
    let m := memberWrite w.toNat v (memberAt upper s slot.toNat)
    (s.pod.st ≠ 3 → exec (.memberTableWrite upper slot w v) s = .next s) ∧
    (s.pod.st = 3 → exec (.memberTableWrite upper slot w v) s = .next (tendMember upper slot.toNat (memberPut upper slot.toNat
      (if w = 0 ∧ m.valid = true ∧ m.fenced = true then { m with
        fenced := false
        session := none } else m) s)))) ∧
  (∀ (sess : SessId) (arg : Word) (s : State) (x : Session), sessAt s sess.toNat = some x → x.kind = 3 →
    let e := BitVec.ofNat 16 (bitsAt arg 0 16)
    let ref := epochRef x.upper s
    let may := s.pod.st = 2 ∨ s.pod.st = 4 ∨ (s.pod.st = 3 ∧ x.upper = true ∧ s.pod.upper = true)
    (¬ may → exec (.takeover sess arg) s = .next (answer s 5 [])) ∧
    (may → epochAhead e ref = false → exec (.takeover sess arg) s = .next (answer s 6 [])) ∧
    (may → epochAhead e ref = true → ∃ t, exec (.takeover sess arg) s = .next (answer t 0 []) ∧
      t.pod.hawkSess = some sess.toNat ∧ t.pod.hawkLost = false ∧ t.pod.st = if s.pod.st = 4 then 2 else s.pod.st)) ∧
  (∀ (upper : Bool) (s : State),
    let able := s.pod.hawkLost = true ∧ ((upper = true ∧ s.pod.st = 3 ∧ s.pod.upper = true) ∨
      (upper = false ∧ podRole s = 3 ∧ (s.pod.st = 2 ∨ s.pod.st = 4)))
    ((¬ able ∨ s.pod.synced = none) → exec (.standbyTakeover upper) s = .next s) ∧
    (∀ c, able → s.pod.synced = some c → ∃ t, exec (.standbyTakeover upper) s = .next t ∧ t.pod.st = 3 ∧ t.pod.hawkLost = false ∧
      t.pod.takeovers = satInc s.pod.takeovers ∧ podEpoch upper t = c.1 + 16)) ∧
  (∀ (s : State),
    (s.pod.hawkLost = true → s.pod.st = 2 → exec .orphanTimeout s = .next (onPod (fun p => { p with st := 4 }) s)) ∧
    ((s.pod.hawkLost = false ∨ s.pod.st ≠ 2) → exec .orphanTimeout s = .next s)) ∧
  (∀ (sess : SessId) (s : State),
    (∀ x, sessAt s sess.toNat = some x → x.prov = true → exec (.provisionalSessionTimeout sess) s = .next (sessClose false sess.toNat s)) ∧
    ((∀ x, sessAt s sess.toNat = some x → x.prov = false) → exec (.provisionalSessionTimeout sess) s = .next s)) ∧
  (∀ (upper : Bool) (slot : BitVec 7) (s : State),
    let m := memberAt upper s slot.toNat
    let lost := leads upper s = true ∧ m.valid = true ∧ m.fenced = false ∧ ∃ i, m.session = some i ∧ sessAt s i = none
    (lost → exec (.memberLost upper slot) s = .next (loseMember upper slot.toNat s)) ∧
    (¬ lost → exec (.memberLost upper slot) s = .next s) ∧
    memberAt upper (loseMember upper slot.toNat s) slot.toNat = { m with
      fenced := true
      live := false
      session := none } ∧
    (loseMember upper slot.toNat s).pod.fences = satInc s.pod.fences) ∧
  (∀ (sess : SessId) (s : State) (x : Session), PodOpen s sess x →
    let from_ := (memberTab x.upper s).find? (fun e => e.2.session == some sess.toNat)
    let t := sessClose false sess.toNat (answer s 0 [])
    (∀ e, from_ = some e → exec (.leave sess) s = .next (loseMember x.upper e.1 t)) ∧
    (from_ = none → s.pod.hawkSess = some sess.toNat → exec (.leave sess) s =
      .next (onPod (fun p => if x.upper then { p with upper := false } else { p with st := 5 }) t)) ∧
    (from_ = none → s.pod.hawkSess ≠ some sess.toNat → exec (.leave sess) s = .next (answer s 5 [])))

/-- SPAN_SET stores the module's position and the slots of its span, answering BAD where they do not match; SPAN_DOWN marks a span down. DISTRESS is
kept by die. PROBE_PUSH gathers the 768 bytes of a set, which a hawk forwards; at the last byte the set is installed or refused. FREQ and a
FREQUENCY_STEP outside MEMBER state request code 0 to 8 and open the group of the step, unless one is in progress or the code is in force; a hawk's
FREQUENCY_STEP also sends FREQ to its members. A reserved code, and a FREQUENCY_STEP of a member, change nothing. -/
def Obligations.SpansProbesAndFrequenciesFollowTheHawk : Prop :=
  (∀ (sess : SessId) (arg id : Word) (slots : List Byte) (span : Byte) (s : State) (x : Session), HawkOpen s sess x →
    let pos := bitsAt arg 8 6
    let size := bitsAt arg 14 6
    ((slots.length < size ∨ size ≤ pos) → exec (.spanSet sess arg id slots) s = .next (answer s 1 [])) ∧
    (size ≤ slots.length → pos < size → exec (.spanSet sess arg id slots) s = .next (answer (openSpans (onPod (fun p =>
      { p with spans := sset none p.spans (bitsAt arg 0 8) (some ⟨id, pos, size, slots.take size, false⟩) }) s)) 0 [])) ∧
    (∀ y, sget none s.pod.spans span.toNat = some y → exec (.spanDown sess span) s = .next (answer (onPod (fun p =>
      { p with spans := sset none p.spans span.toNat (some { y with down := true }) }) s) 0 [])) ∧
    (sget none s.pod.spans span.toNat = none → exec (.spanDown sess span) s = .next (answer s 0 []))) ∧
  (∀ (sess : SessId) (arg : Word) (bytes : List Byte) (s : State) (x : Session), PodOpen s sess x →
    exec (.distress sess arg bytes) s = .next (answer (onPod (fun p => { p with
      distress := sset [] p.distress (16 * sess.toNat + bitsAt arg 0 4) bytes }) s) 0 [])) ∧
  (∀ (sess : SessId) (off : Word) (bytes : List Byte) (s : State) (x : Session), HawkOpen s sess x →
    let s1 := probeForward off.toNat bytes s
    let got := (if off = 0 then 0 else s1.pod.probeGot) + bytes.length
    let mem := bytesPut s1.pod.probe off.toNat bytes
    let s2 := onPod (fun p => { p with
      probe := []
      probeGot := 0 }) s1
    (768 < off.toNat + bytes.length → exec (.probePush sess off bytes) s = .next (answer s 1 [])) ∧
    (off.toNat + bytes.length ≤ 768 → got < 768 → exec (.probePush sess off bytes) s = .next (answer (onPod (fun p => { p with
      probe := mem
      probeGot := got }) s1) 0 [])) ∧
    (off.toNat + bytes.length ≤ 768 → 768 ≤ got →
      (∀ r, probeRefusal s2 (bytesAt mem 0 768) = some r → exec (.probePush sess off bytes) s = .next (answer s2 r [])) ∧
      (probeRefusal s2 (bytesAt mem 0 768) = none → exec (.probePush sess off bytes) s =
        .next (answer (probeInstall (bytesAt mem 0 768) s2) 0 [])))) ∧
  (∀ (sess : SessId) (arg : Word) (s : State) (x : Session), HawkOpen s sess x →
    let k := bitsAt arg 0 8
    (k ≤ 8 → exec (.freq sess arg) s = .next (answer (freqStep k (kreqPut k s)) 0 [])) ∧
    (8 < k → exec (.freq sess arg) s = .next (answer s 0 []))) ∧
  (∀ (code : BitVec 4) (s : State),
    let k := code.toNat
    let s1 := kreqPut k s
    (k ≤ 8 → s.pod.st ≠ 2 → s.pod.st ≠ 3 → exec (.frequencyStep code) s = .next (freqStep k s1)) ∧
    (k ≤ 8 → s.pod.st = 3 → exec (.frequencyStep code) s = .next (freqStep k
      (sendMembers false 0x49 (fields [(0, k), (16, (s.frames + 16) % 2 ^ 48)]) [] s1))) ∧
    ((8 < k ∨ s.pod.st = 2) → exec (.frequencyStep code) s = .next s)) ∧
  (∀ (k : Nat) (s : State), (k = s.clk.k.toNat ∨ (freqPending s).isSome = true) → freqStep k s = s)

/-- Every GO leaves its OP and RESULT in SEC_CMD and a new challenge, and acts only where its result is OK. A signed command is BAD off its layout,
CHAL under another challenge and SIG under a signature that fails. LIFECYCLE notes the target for the next cold reset, refused with STATE off the
transitions or while one waits; DEBUG sets TOKEN_MAX; REVOKE revokes an owner key and closes the sessions opened under it, but not the last key with
LC. KEY_INSTALL sets the seal key of a tenant or a weight key, or erases both. OP 3 raises MIN to NEW, up to the SEC_VER of the active image; OP 4
writes an owner slot once. The debug level granted is the highest one that the state and the token allow up to the request; a lower request ends the
token. -/
def Obligations.SecurityCommandsAct : Prop :=
  (∀ (op : BitVec 3) (r : SecResult) (f : State → State) (s : State),
    let t := secAct op r f s
    t.sec.op = op ∧ t.sec.result = r.code ∧
    (r ≠ .ok → t = { s with
      draws := s.draws + 1
      sec := { s.sec with
        op := op
        result := r.code
        chal := Config.challenge s.draws } })) ∧
  (∀ (c : Sec) (cmd : Byte) (o : Signed),
    let laid := inboxLe c 0 4 = 0x53434D31 ∧ inboxLe c 4 8 = Config.stackSn.toNat ∧ inboxLe c 20 1 = cmd.toNat ∧ inboxLe c 24 8 = 0
    let signed := sigHolds c o (inboxLe c 22 2) (inboxBytes c 0 32) (inboxBytes c 32 96)
    (¬ laid → signedCheck c cmd o = .bad) ∧
    (laid → inboxLe c 12 8 ≠ c.chal.toNat → signedCheck c cmd o = .chal) ∧
    (laid → inboxLe c 12 8 = c.chal.toNat → signed = false → signedCheck c cmd o = .sig) ∧
    (laid → inboxLe c 12 8 = c.chal.toNat → signed = true → signedCheck c cmd o = .ok)) ∧
  (∀ (s : State),
    let c := s.sec
    let n := inboxLe c 21 1
    (exec .signedLifecycle s = .next (secAct 1 (lifecycleCheck c) (onSec (fun c => { c with
      lcPend := true
      lcNext := BitVec.ofNat 2 n })) s)) ∧
    (signedCheck c 1 .lifecycle = .ok →
      lifecycleCheck c = if c.lcPend = true ∨ lcMay c n = false then .state else .ok) ∧
    (signedCheck c 1 .lifecycle ≠ .ok → lifecycleCheck c = signedCheck c 1 .lifecycle) ∧
    (exec .signedDebug s = .next (secAct 1 (debugCheck c) (onSec (fun c => { c with tokenMax := BitVec.ofNat 2 n })) s)) ∧
    (signedCheck c 2 .debug = .ok → debugCheck c = if 3 < n then .bad else .ok) ∧
    (signedCheck c 2 .debug ≠ .ok → debugCheck c = signedCheck c 2 .debug) ∧
    (exec .signedRevoke s = .next (secAct 1 (revokeCheck c) (revokeSlot n) s)) ∧
    (signedCheck c 3 .lifecycle = .ok → revokeCheck c = if 8 ≤ n ∨ (ownerKey c n).written = false then .bad
      else if ownerAccepted c.lc = false ∨ lcSlots c = [n] then .state else .ok) ∧
    (signedCheck c 3 .lifecycle ≠ .ok → revokeCheck c = signedCheck c 3 .lifecycle)) ∧
  (∀ (n : Nat) (s : State), n < 8 → (ownerKey (revokeSlot n s).sec n).revoked = true) ∧
  (∀ (s : State),
    let c := s.sec
    let kind := inboxLe c 97 1
    let ix := inboxLe c 98 2
    exec .keyInstall s = .next (secAct 2 (installCheck s) installKey s) ∧
    (installCheck s = .ok → inboxLe c 104 8 = c.chal.toNat ∧
      sigHolds c .keywrap (inboxLe c 100 2) (inboxBytes c 0 152) (inboxBytes c 152 96) = true ∧ (kind ≠ 3 → (wrappedKey c).isSome = true) ∧
      (kind = 1 → sealInUse s ix = false) ∧ (kind = 2 → deliveryNames s ix = false) ∧ 1 ≤ kind ∧ kind ≤ 3) ∧
    (kind = 1 → installKey s = onSec (fun c => { c with seals := sset none c.seals ix (wrappedKey c) }) s) ∧
    (kind = 2 → installKey s = onSec (fun c => { c with weights := sset none c.weights ix (wrappedKey c) }) s) ∧
    (kind = 3 → installKey s = onSec (fun c => { c with
      seals := sset none c.seals ix none
      weights := sset none c.weights ix none }) s)) ∧
  (∀ (s : State),
    exec .raiseRollback s = .next (secAct 3 (rollbackCheck s) (onSec (fun c => { c with rbMin := c.rbNew })) s) ∧
    ∀ i, s.load.img = some i → rollbackCheck s = if ownerAccepted s.sec.lc = true ∧ s.sec.rbMin.toNat < s.sec.rbNew.toNat ∧
      s.sec.rbNew.toNat ≤ i.hdr.secVer then .ok else .bad) ∧
  (∀ (slot : BitVec 3) (s : State),
    exec (.writeOwnerSlot slot) s = .next (secAct 4
      (if s.sec.ownLock = true ∨ 2 ≤ s.sec.lc.toNat ∨ (ownerKey s.sec slot.toNat).written = true then .state else .ok)
      (onSec (fun c => { c with owners := sset OwnerKey.none c.owners slot.toNat (ownerOf c) })) (onSec (fun c => { c with slot := slot }) s))) ∧
  (∀ (req : BitVec 2) (s : State),
    exec (.debugLevelRequest req) s = .next (hazRefresh (onSec (debugRequest req) s)) ∧
    ∀ c : Sec, let d := debugRequest req c
      d.req = req ∧ d.tokenMax = (if req.toNat < c.req.toNat then 0 else c.tokenMax) ∧
      d.level.toNat ≤ req.toNat ∧ levelMay c.lc d.tokenMax d.level.toNat = true ∧
      ∀ l, l ≤ req.toNat → levelMay c.lc d.tokenMax l = true → l ≤ d.level.toNat)

/-- A probe set that arrives whole is forwarded by a hawk, and refused with its code or installed. A probe slot runs in the frames that PROBE_DIV
divides, while probes are on and a set is there: a probe whose outputs have the reference passes, a first mismatch is repeated, a confirmed one waits
for the service die; with every candidate busy the slot is skipped and counted. A history event is charged once; a unit that its third recent event
makes permanent is recorded and, with remapping on, repaired. OPT is recorded in the band. A silent link die's sessions close and its ports go down; a
silent memory die is class X and its engine stops. A deputy acts once, on full silence: its engine stops and its streams end. A warm reset does
nothing after a deputy or a class X event, and without WARM_EN an event stops admission; a second event during recovery is class X. -/
def Obligations.ProbesAndHistoryAct : Prop :=
  (∀ (bytes : List Byte) (s : State),
    let s1 := probeForward 0 bytes s
    (∀ r, probeRefusal s1 bytes = some r → exec (.probeSetInstall bytes) s = .next (answer s1 r [])) ∧
    (probeRefusal s1 bytes = none → exec (.probeSetInstall bytes) s = .next (answer (probeInstall bytes s1) 0 []))) ∧
  (∀ (bytes : List Byte) (s : State),
    (probeSetOk bytes = false → probeRefusal s bytes = some 1) ∧
    (probeSetOk bytes = true → probeSetSigned s bytes = false → probeRefusal s bytes = some 2) ∧
    (probeRefusal s bytes = none → probeSetOk bytes = true ∧ probeSetSigned s bytes = true ∧
      s.hist.setId.toNat < (probeSetId bytes).toNat ∧ s.flt.setPending = false)) ∧
  (∀ (site : Site) (s : State),
    let on := s.flt.probeEn = true ∧ s.hist.setId ≠ 0 ∧ s.frames % 2 ^ min 6 s.flt.probeDiv.toNat = 0
    (on → exec (.probeSlot site) s = .next (tileDo s site (probeSlot s site))) ∧ (¬ on → exec (.probeSlot site) s = .next s)) ∧
  (∀ (site frame m l : Nat) (outs : List Lane32) (p : Probe),
    let crc := crc32c (outs.flatMap (fun y => leBytes 4 y.toNat))
    let r := probeJudge site frame m l outs p
    (crc = sget 0 p.refs (4 * m + l) → r.2 = [] ∧ r.1.again = none ∧ r.1.conf = p.conf ∧
      r.1.soft = (if p.again.isSome then satInc p.soft else p.soft) ∧ sget 0 r.1.passAt m = frame) ∧
    (crc ≠ sget 0 p.refs (4 * m + l) →
      (p.again = none → r.1.again = some (m, l) ∧ r.1.conf = p.conf ∧
        r.2 = [.rpt 0x12 (fabAddr site m 0 0 false) [BitVec.ofNat 64 l]]) ∧
      (p.again.isSome = true → r.1.again = some (m, l + 4) ∧ r.1.conf = satInc p.conf ∧
        r.2 = [.rpt 0x13 (fabAddr site m 0 0 false) [BitVec.ofNat 64 l]]))) ∧
  (∀ (site : Site) (s : State) (m l : Nat),
    let p := (tileAt s site).probe
    let cols := diffCols s site m (l - 4)
    let detail := [BitVec.ofNat 64 (sget 0 p.passAt m), BitVec.ofNat 64 p.missAt]
    let s2 := onFlt (fun f => { f with confirmed := if f.confirmed = 0xFFFF then 0xFFFF else f.confirmed + 1 })
      (tilePut s site { tileAt s site with probe := { p with again := none } })
    (p.again = none → exec (.probeMismatch site) s = .next s) ∧
    (p.again = some (m, l) → l < 4 → exec (.probeMismatch site) s = .next s) ∧
    (p.again = some (m, l) → 4 ≤ l → cols ≠ [] → cols.length ≤ 4 → exec (.probeMismatch site) s =
      .next (cols.foldl (fun acc c => probeCharge site m (some c) detail acc) s2)) ∧
    (p.again = some (m, l) → 4 ≤ l → (cols = [] ∨ 4 < cols.length) → exec (.probeMismatch site) s =
      .next (probeCharge site m none detail s2))) ∧
  (∀ (kind : BitVec 4) (addr : Word) (code : BitVec 6) (s : State),
    let u : UnitId := ⟨kind, addr⟩
    let r := chargeEvent u code s
    let n := recentEvents r.1.hist u r.1.flt.opt
    (r.2 = false → exec (.historyEvent kind addr code) s = .next r.1) ∧
    (r.2 = true → r.1.flt.remapEn = true → exec (.historyEvent kind addr code) s =
      .next (sigWrite code u true n (permAction kind.toNat addr.toNat r.1).2 [] (permAction kind.toNat addr.toNat r.1).1)) ∧
    (r.2 = true → r.1.flt.remapEn = false → exec (.historyEvent kind addr code) s = .next (sigWrite code u true n 0 [] r.1)) ∧
    (repeats s.hist ⟨u, code, s.flt.opt⟩ = true → r = (s, false)) ∧
    (repeats s.hist ⟨u, code, s.flt.opt⟩ = false → r.1.hist.events = s.hist.events ++ [⟨u, code, s.flt.opt⟩] ∧
      (r.2 = true ↔ 3 ≤ recentEvents r.1.hist u s.flt.opt ∧ u ∉ s.hist.permanent) ∧ (r.2 = true → u ∈ r.1.hist.permanent))) ∧
  (∀ (s : State), exec .optRecord s = .next { s with hist := { s.hist with opt := s.flt.opt } }) ∧
  (∀ (rim : BitVec 6) (s : State), exec (.rimSilent rim) s = .next (rimSilent rim.toNat s) ∧
    (32 ≤ rim.toNat → rimSilent rim.toNat s = s) ∧
    (16 ≤ rim.toNat → rim.toNat < 32 → (rimSilent rim.toNat s).flt.fatal = true ∧
      (engAt (rimSilent rim.toNat s) (rim.toNat - 16)).stopped = true)) ∧
  (∀ (die : Die) (silence : BitVec 2) (s : State),
    ((silence ≠ 3 ∨ (mdAt s die).deputyActed = true) → exec (.deputyWatchdog die silence) s = .next s) ∧
    (silence = 3 → (mdAt s die).deputyActed = false →
      let mine := (openSids s).filter (fun sid => sidEng sid == die.val && !(ctxAt s sid).final)
      let s1 := mine.foldl (fun acc sid => streamFault sid 12 4 acc) (engUpd die (fun e => { e with stopped := true }) s)
      let s2 := onFlt (fun f => { f with
        alertN := true
        deputy := true }) (mdPut s1 die { mdAt s1 die with deputyActed := true })
      (s.pod.hawkSess = none → exec (.deputyWatchdog die silence) s =
        .next (sieEvent (sigWrite 0x0D (unitRim (16 + die.val)) false 0 9 [] s2))) ∧
      (∀ id, s.pod.hawkSess = some id → exec (.deputyWatchdog die silence) s =
        .next (sieEvent (sigWrite 0x0D (unitRim (16 + die.val)) false 0 9 []
          (klpSend id true 0x47 (BitVec.ofNat 64 die.val) (distressBytes s die mine.length silence) s2)))))) ∧
  (∀ (a : WarmArgs) (s : State),
    let n := a.again + if s.svc.warming = true ∧ a.asked = false then s.svc.warmN + 1 else 0
    ((s.flt.deputy = true ∨ s.flt.fatal = true) → exec (.warmReset a) s = .next s) ∧
    (s.flt.deputy = false → s.flt.fatal = false →
      (a.asked = false → s.flt.warmEn = false → exec (.warmReset a) s = .next
        (onFlt (fun f => { f with alertN := true }) { s with svc := { s.svc with admitStop := true } })) ∧
      ((a.asked = true ∨ s.flt.warmEn = true) → 2 ≤ n → exec (.warmReset a) s = .next (classX a.cause s)) ∧
      ((a.asked = true ∨ s.flt.warmEn = true) → n < 2 → exec (.warmReset a) s =
        .next (warmNow a.cause a.asked a.ms.toNat { s with svc := { s.svc with warmN := n } }))))

/-- A conversion whose reading is valid, of MUX 0, on an exposed tile still in the minimum, is taken by its tile's zone: where VALID is 0, or the
reading is strictly lower than the held one, the zone records the reading, its site and the module time of the conversion and sets VALID; otherwise
the held record stays. Any other reading leaves the record. Of a sequence of readings taken since VALID was 0, the record is the lowest, with the site
and time of one that had it. A write of 1 to PWR_ZONEz_MIN.VALID clears VALID, so that the next reading is captured. A reading of 1,023 mV or more is
held as 1,023, the most that the field can hold. -/
def Obligations.ZoneMinimumIsKept : Prop :=
  (∀ (site : Site) (mv : BitVec 11) (s : State),
    let z := senseStep mv.toNat (tileAt s site).sense
    let s1 := tilePut s site { tileAt s site with sense := z }
    let counts := z.valid = true ∧ z.mux = 0 ∧ z.out = false ∧ s.grid.exposed.getLsbD site = true
    ∃ t, exec (.sensorConversion site mv) s = .next t ∧ t.pending = s.pending ∧ t.dram = s.dram ∧
      (∀ n, n ≠ zoneOf site → zoneAt t n = zoneAt s n) ∧
      (¬ counts → t = s1) ∧
      (counts →
        ((zoneAt s (zoneOf site)).minValid = false ∨ z.value.toNat < (zoneAt s (zoneOf site)).min.toNat →
          zoneAt t (zoneOf site) = { zoneAt s (zoneOf site) with
            min := BitVec.ofNat 10 (min 1023 z.value.toNat)
            minSite := BitVec.ofNat 13 site.val
            minValid := true
            minTime := moduleNs s }) ∧
        ((zoneAt s (zoneOf site)).minValid = true → (zoneAt s (zoneOf site)).min.toNat ≤ z.value.toNat →
          zoneAt t (zoneOf site) = zoneAt s (zoneOf site)))) ∧
  (∀ (z : Zone) (rs : List (Nat × Nat × Word)), z.minValid = false → rs ≠ [] →
    let t := rs.foldl (fun a r => zoneCapture r.1 r.2.1 r.2.2 a) z
    t.minValid = true ∧ (∀ r ∈ rs, t.min.toNat ≤ r.2.1) ∧
    (∃ r ∈ rs, t.min.toNat = min 1023 r.2.1 ∧ t.minSite = BitVec.ofNat 13 r.1 ∧ t.minTime = r.2.2)) ∧
  (∀ (n : Nat) (v : Word) (s : State), n < 48 → v.getLsbD 23 = true →
    (zoneAt (pwrBlockPut (0x100 + 32 * n + 8) v s) n).minValid = false)

/-- A sensor reports the mean of its latest 2^FILT conversions (7 taken as 6), and is not VALID for the first two conversions after a change of MUX or
the first 2^FILT after a change of FILT. A zone whose sensors give no valid reading keeps its setpoint. Otherwise its regulator moves by at most 5 mV
toward V(k): it raises the setpoint while the lowest reading is more than 5 mV low and lowers it while more than 5 mV high, and holds what it got
within 0.62 to 0.80 V; LIMITED says that a bound stopped it; where the neighbours' setpoints are all within 40 mV of each other the result stays
within 40 mV of each. BOND flags the zone and the sensor and reports POWER; only where the zone is at 0.80 V and a valid VLOG reading is more than 20
mV below V(k) does the tile fail and its sensor leave the minimum. -/
def Obligations.SensorsAverageAndRegulatorsStep : Prop :=
  (∀ (mv : Nat) (z : Sense), (senseStep mv z).value =
      BitVec.ofNat 11 (((((mv :: z.hist).take 64).take (2 ^ min 6 z.filt.toNat)).sum) / (((mv :: z.hist).take 64).take (2 ^ min 6 z.filt.toNat)).length) ∧
    (z.sinceMux ≤ 1 → (senseStep mv z).valid = false) ∧ (z.sinceFilt < filtLen z → (senseStep mv z).valid = false) ∧
    (2 ≤ z.sinceMux → filtLen z ≤ z.sinceFilt → z.mux.toNat < 2 → (senseStep mv z).valid = true)) ∧
  (∀ (z : Fin 48) (s : State),
    (lowest (zoneReadings s z) = none → exec (.zoneRegulation z) s = .next s) ∧
    (∀ v, lowest (zoneReadings s z) = some v →
      let want := wantSet (zoneAt s z).setpt.toNat (2 * v) (vTarget2 (vCode s))
      let got := boundSet ((zoneNear z).map (fun n => (zoneAt s n).setpt.toNat)) want
      ∃ t, exec (.zoneRegulation z) s = .next t ∧ t.grid = s.grid ∧ (∀ n, n ≠ z.val → zoneAt t n = zoneAt s n) ∧
        zoneAt t z = { zoneAt s z with
          setpt := BitVec.ofNat 10 got
          limited := got != want })) ∧
  (∀ setpt low2 target2 : Nat, wantSet setpt low2 target2 ≤ setpt + 5 ∧ setpt ≤ wantSet setpt low2 target2 + 5 ∧
    (low2 ≤ target2 + 10 → target2 ≤ low2 + 10 → wantSet setpt low2 target2 = setpt)) ∧
  (∀ (near : List Nat) (v : Nat), (∀ n ∈ near, 620 ≤ n ∧ n ≤ 800) →
    620 ≤ boundSet near v ∧ boundSet near v ≤ 800 ∧
    ((∀ n ∈ near, ∀ m ∈ near, n ≤ m + 40) → ∀ n ∈ near, n ≤ boundSet near v + 40 ∧ boundSet near v ≤ n + 40)) ∧
  (∀ (site : Site) (s : State),
    let t := tileAt s site
    let s1 := zoneUpd (zoneOf site) (fun x => { x with bond := true, bondSite := BitVec.ofNat 13 site.val })
      (tilePut s site { t with sense := { t.sense with bond := true } })
    let s2 := svcRpt s1 codePower (BitVec.ofNat 64 site.val) []
    let weak := 800 ≤ (zoneAt s (zoneOf site)).setpt.toNat ∧ t.sense.valid = true ∧ t.sense.mux = 0 ∧
      2 * t.sense.value.toNat + 40 < vTarget2 (vCode s)
    (weak → exec (.bond site) s = .next (tileFailed site codePower
      (tilePut s2 site { tileAt s2 site with sense := { (tileAt s2 site).sense with out := true } }))) ∧
    (¬ weak → exec (.bond site) s = .next s2))

/-- A lost feed clears its flag, is reported while the other feed is there, and ALERT_N is asserted while one feed alone is present; a returned feed
sets it again. A unit that fails its soft start folds back; one at its limit in service latches off; the third failed retry latches off; a latch-off
drops PWR_OK and is class X, and after it nothing more happens. The gauge's estimates are taken; a disagreement above 1.5 J sets GAUGE_BAD and Q_OFF
once; a recalibration clears them and copies E_V. A store short of 10 J is reported. Pod alignment runs on a member or hawk on the grid: the error is
recorded, the trim is within 30 ppm, POD_LOCK sets after 1,024 frames within 200 ns and clears after 16 outside. A slip is recorded, reported and
charged to its tile. A block above 95 °C is reported, above 100 °C asserts ALERT_N, above 105 °C is class X. -/
def Obligations.SupplyFollowsItsRules : Prop :=
  (∀ (b : Bool) (s : State), ∃ t, exec (.feedLoss b) s = .next t ∧
    t.pwr = (if b then { s.pwr with feedB := false } else { s.pwr with feedA := false }) ∧
    ((if b then s.pwr.feedA else s.pwr.feedB) = true → alertOn t = true) ∧
    ((if b then s.pwr.feedB else s.pwr.feedA) = true → (if b then s.pwr.feedA else s.pwr.feedB) = true →
      t = svcRpt (feedPut b false s) codePower (if b then 1 else 0) [])) ∧
  (∀ (b : Bool) (s : State), ∃ t, exec (.feedReturn b) s = .next t ∧
    t = { s with pwr := if b then { s.pwr with feedB := true } else { s.pwr with feedA := true } }) ∧
  (∀ (d : BitVec 4) (u : BitVec 6) (k : BitVec 2) (s : State),
    let on := 1 ≤ d.toNat ∧ d.toNat ≤ 4 ∧ s.pwr.latched = false
    (¬ on → exec (.supplyFault d u k) s = .next s) ∧
    (on → k = 0 → exec (.supplyFault d u k) s = .next { s with pwr := { s.pwr with
      fDomain := d
      fUnit := u
      retries := 0
      fKind := false
      foldback := true } }) ∧
    (on → k = 1 → exec (.supplyFault d u k) s = .next (latchOff { s with pwr := { s.pwr with
      fDomain := d
      fUnit := u
      retries := 0
      fKind := true
      foldback := false } })) ∧
    (on → k = 2 → d.toNat ≤ 2 → exec (.supplyFault d u k) s =
      .next (svcRpt s codePower (BitVec.ofNat 64 u.toNat) [BitVec.ofNat 64 d.toNat])) ∧
    (on → k = 2 → 3 ≤ d.toNat → u.toNat < 16 → exec (.supplyFault d u k) s =
      .next (rimSilent (if d = 3 then u.toNat else 16 + u.toNat) s)) ∧
    (on → k = 2 → 3 ≤ d.toNat → 16 ≤ u.toNat → exec (.supplyFault d u k) s = .next s) ∧
    (k = 3 → exec (.supplyFault d u k) s = .next s)) ∧
  (∀ (ok : Bool) (s : State),
    let s1 : State := { s with pwr := { s.pwr with
      retries := s.pwr.retries + 1
      foldback := !ok } }
    (s.pwr.foldback = false → exec (.softStartRetry ok) s = .next s) ∧
    (s.pwr.foldback = true → ok = true ∨ s.pwr.retries ≠ 2 → exec (.softStartRetry ok) s = .next s1) ∧
    (s.pwr.foldback = true → ok = false → s.pwr.retries = 2 → exec (.softStartRetry ok) s = .next (latchOff s1))) ∧
  (∀ s : State, (latchOff s).pwr = { s.pwr with
      latched := true
      foldback := false
      pwrOk := false } ∧
    (latchOff s).flt.fatal = true ∧ alertOn (latchOff s) = true ∧ (latchOff s).svc.admitStop = true) ∧
  (∀ (ev eq vs : BitVec 16) (s : State),
    let bad := ev.toNat + 1500 < eq.toNat ∨ eq.toNat + 1500 < ev.toNat
    let s1 : State := { s with pwr := { s.pwr with
      ev := ev
      eq := eq
      vstore := vs } }
    (bad ∧ s.pwr.qOff = false → exec (.gaugeCheck ev eq vs) s = .next (svcRpt { s1 with pwr := { s1.pwr with
      gaugeBad := true
      qOff := true } } codePower 0 [])) ∧
    (¬ (bad ∧ s.pwr.qOff = false) → exec (.gaugeCheck ev eq vs) s = .next s1)) ∧
  (∀ s : State, exec (.recal true) s = .next { s with pwr := { s.pwr with
      recal := false
      eq := s.pwr.ev
      gaugeBad := false
      qOff := false } } ∧ exec (.recal false) s = .next { s with pwr := { s.pwr with recal := true } }) ∧
  (∀ s : State,
    let short := s.pwr.pwrOk = false ∧ s.pwr.ev.toNat < 10000 ∧ (s.pwr.feedA = true ∨ s.pwr.feedB = true)
    (short → exec .holdupChargeTimeout s = .next (svcRpt s codePower 0 [])) ∧ (¬ short → exec .holdupChargeTimeout s = .next s)) ∧
  (∀ (err : BitVec 32) (s : State),
    let on := (s.pod.st = 2 ∨ s.pod.st = 3) ∧ s.clk.offGrid = false
    (¬ on → exec (.podAlignment err) s = .next s) ∧
    (on → ∃ t, exec (.podAlignment err) s = .next t ∧ t.clk = alignStep err (Config.pllTrim s.draws) s.clk ∧ t.pod = s.pod ∧
      (s.clk.podLock = true → t.clk.podLock = false →
        t = svcRpt { s with draws := s.draws + 1, clk := t.clk } 0x19 (BitVec.ofNat 64 svcNode) [BitVec.ofInt 64 err.toInt]))) ∧
  (∀ (err : BitVec 32) (trim : Int) (c : Clk),
    let d := alignStep err trim c
    d.err = err ∧ -30000 ≤ d.adj.toInt ∧ d.adj.toInt ≤ 30000 ∧
    (-200 ≤ err.toInt → err.toInt ≤ 200 → d.outRun = 0 ∧ (1023 ≤ c.inRun → d.podLock = true) ∧ (c.inRun < 1023 → d.podLock = c.podLock)) ∧
    ((err.toInt < -200 ∨ 200 < err.toInt) → d.inRun = 0 ∧ (15 ≤ c.outRun → d.podLock = false) ∧ (c.outRun < 15 → d.podLock = c.podLock))) ∧
  (∀ (site : Site) (port : Fin 5) (s : State),
    let last := sget 0 s.clk.slipTimes (8 * site.val + port.val)
    let again := 0 < last ∧ s.time + 1 < last + 1000000000 * 7927920
    let s1 : State := { s with clk := slipNote site port s.frames s.time s.clk }
    (again → exec (.elasticBufferSlip site port) s = .next (svcRpt (chargeEvent (unitTile site) 0x19 s1).1 0x19
      (BitVec.ofNat 64 site.val) [BitVec.ofNat 64 port.val, 1])) ∧
    (¬ again → exec (.elasticBufferSlip site port) s = .next (svcRpt (chargeEvent (unitTile site) 0x19 s1).1 0x19
      (BitVec.ofNat 64 site.val) [BitVec.ofNat 64 port.val, 0]))) ∧
  (∀ (b : Block) (temp : BitVec 12) (s : State), ∃ t, exec (.temperatureLimit b temp) s = .next t ∧
    (temp.toInt ≤ 1520 → b.val ∉ t.pwr.overTemp ∧ t.flt = s.flt ∧ (t.pwr.overTemp = [] → t.pwr.tempAlert = false)) ∧
    (1520 < temp.toInt → b.val ∈ t.pwr.overTemp) ∧
    (1600 < temp.toInt → t.pwr.tempAlert = true ∧ alertOn t = true) ∧
    (1520 < temp.toInt → temp.toInt ≤ 1600 → t.pwr.tempAlert = s.pwr.tempAlert ∧ t.pwr.hot = s.pwr.hot) ∧
    (1680 < temp.toInt → t.flt.fatal = true ∧ t.pwr.hot = true ∧ t.pwr.pwrOk = s.pwr.pwrOk) ∧
    (1520 < temp.toInt → temp.toInt ≤ 1680 → ∃ p, t = svcRpt { s with pwr := p } codePower (BitVec.ofNat 64 b.val) []))

/-- P0 and P1 are reached from each other at once, from P2 at the frame boundary and from P3 by a recovery that stops admission until it ends; P2 is
reached from P0 or P1 only while every stream context is FREE, stops admission and asks for code 8; P3 is reached from P2 alone, and the tiles keep
their weight fabric only. Every other request, and every request during a warm reset, changes nothing but PSTATE and sets PSTATE_ERR. A governor step
with the 64-frame average over the cap, k below 8, no step in progress and 128 frames past asks for one code more and counts it; with the average
1,500 W under the cap for 4,096 frames and k above kreq it asks for one less; otherwise the code stays. The cap is 30,000 W in P0 and CAP_W in P1; the
model holds the other states to none. -/
def Obligations.PowerStatesChangeAsAllowed : Prop :=
  (∀ (s : State) (n : Nat) (f : State → Option State), pstateWrite n f s =
    (let s1 : State := { s with pwr := { s.pwr with pstate := BitVec.ofNat 3 n } }
     let err : State := { s1 with pwr := { s1.pwr with pstateErr := true } }
     if s.svc.warming = true then err else (f s1).getD err)) ∧
  (∀ s : State, s.svc.warming = true →
    (∃ t, exec .pstateP0 s = .next t ∧ t.pwr.act = s.pwr.act ∧ t.pwr.pstateErr = true ∧ t.grid = s.grid) ∧
    (∃ t, exec .pstateP1 s = .next t ∧ t.pwr.act = s.pwr.act ∧ t.pwr.pstateErr = true ∧ t.grid = s.grid) ∧
    (∃ t, exec .pstateP2 s = .next t ∧ t.pwr.act = s.pwr.act ∧ t.pwr.pstateErr = true ∧ t.grid = s.grid) ∧
    (∃ t, exec .pstateP3 s = .next t ∧ t.pwr.act = s.pwr.act ∧ t.pwr.pstateErr = true ∧ t.grid = s.grid)) ∧
  (∀ s : State, s.svc.warming = false →
    let p (n : BitVec 3) : State := { s with pwr := { s.pwr with pstate := n } }
    let bad (n : BitVec 3) : State := { s with pwr := { s.pwr with pstate := n, pstateErr := true } }
    let at' (n a : BitVec 3) : State := { s with pwr := { s.pwr with pstate := n, act := a } }
    (s.pwr.act = 0 ∨ s.pwr.act = 2 → exec .pstateP0 s = .next (p 0)) ∧
    (s.pwr.act = 1 → exec .pstateP0 s = .next (at' 0 0)) ∧
    (s.pwr.act = 3 → exec .pstateP0 s = .next (standbyWake 0 (p 0))) ∧
    (4 ≤ s.pwr.act.toNat → exec .pstateP0 s = .next (bad 0)) ∧
    (s.pwr.act = 1 ∨ s.pwr.act = 2 → exec .pstateP1 s = .next (p 1)) ∧
    (s.pwr.act = 0 → exec .pstateP1 s = .next (at' 1 1)) ∧
    (s.pwr.act = 3 → exec .pstateP1 s = .next (standbyWake 1 (p 1))) ∧
    (4 ≤ s.pwr.act.toNat → exec .pstateP1 s = .next (bad 1)) ∧
    (s.pwr.act = 2 → exec .pstateP2 s = .next (p 2)) ∧
    (s.pwr.act.toNat ≤ 1 → busySids s = [] → exec .pstateP2 s = .next (freqStep 8
      { at' 2 2 with svc := { s.svc with admitStop := true } })) ∧
    (s.pwr.act.toNat ≤ 1 → busySids s ≠ [] → exec .pstateP2 s = .next (bad 2)) ∧
    (3 ≤ s.pwr.act.toNat → exec .pstateP2 s = .next (bad 2)) ∧
    (s.pwr.act = 3 → exec .pstateP3 s = .next (p 3)) ∧
    (s.pwr.act = 2 → exec .pstateP3 s = .next (tilesLost (at' 3 3))) ∧
    (s.pwr.act ≠ 2 → s.pwr.act ≠ 3 → exec .pstateP3 s = .next (bad 3))) ∧
  (∀ (s : State) (site : Nat), (tilesLost s).pwr = s.pwr ∧ (tilesLost s).resid = s.resid ∧ (tilesLost s).cal = s.cal ∧
    (tileAt (tilesLost s) site).fab.pages = (tileAt s site).fab.pages ∧ (tileAt (tilesLost s) site).pad = Tile.reset.pad) ∧
  (∀ s : State, s.pwr.act = 2 → s.pwr.pstate.toNat < 2 → s.flt.fatal = false →
    (pstateDue s) = freqStep s.clk.kreq.toNat { s with
      pwr := { s.pwr with act := s.pwr.pstate }
      svc := { s.svc with admitStop := false } }) ∧
  (∀ (power : BitVec 16) (s : State),
    let s1 := prePosition { s with pwr := meter power.toNat s.pwr }
    let k := s1.clk.k.toNat
    (powerCap s1.pwr = none → exec (.governorStep power) s = .next s1) ∧
    (∀ cap, powerCap s1.pwr = some cap →
      let up := cap < s1.pwr.pin.toNat ∧ k < 8 ∧ freqPending s1 = none ∧ 128 ≤ s1.pwr.sinceStep
      let down := 4096 ≤ s1.pwr.belowFr ∧ s1.clk.kreq.toNat < k ∧ freqPending s1 = none
      (up → exec (.governorStep power) s = .next (govStep (k + 1) { s1 with pwr := { s1.pwr with down := satInc s1.pwr.down } })) ∧
      (¬ up → down → exec (.governorStep power) s = .next (govStep (k - 1) s1)) ∧
      (¬ up → ¬ down → exec (.governorStep power) s = .next s1))) ∧
  (∀ (p : Pwr) (w : Nat), w < 65536 → powerCap p = (if p.act = 0 then some 30000 else if p.act = 1 then some p.capW.toNat else none) ∧
    (meter w p).pin = BitVec.ofNat 16 (((w :: p.hist).take 64).sum / ((w :: p.hist).take 64).length)) ∧
  (∀ (k : Nat) (s : State), govStep k s =
    (if s.pod.st = 2 then { freqStep k s with clk := { (freqStep k s).clk with offGrid := true } } else freqLead k s))

/-- A last gasp comes only when both feeds are gone and the module is not yet in P4: PWR_OK falls, the state is P4, and a journal is written exactly
where E_V is 2.0 J or more. Every kind of cold reset keeps the weight fabric, the history band's events, the calibration sets and the queue, and
clears DRAM, tile state, locks, sessions, module time and the freeze; where PWR_OK rises the straps are sampled, a pending life-cycle change takes
effect where FUSES completes, and a halted boot stands in stage 15 with its code, while any other comes to IMAGE or READY. An operator reset is no
interrupting event. A strap that changes is noted and has no other effect. A port or tile reset that a warm reset covers does nothing. The management
address is replaced at once. A freeze trigger starts a freeze four frames on at D2 or D3 outside a warm reset, is counted below that, and is ignored
while a freeze stands; the stop frame stops every domain; a warm reset that is performed ends it and a member must rejoin. -/
def Obligations.ResetsAndFreezesAct : Prop :=
  (∀ s : State,
    let on := s.pwr.feedA = false ∧ s.pwr.feedB = false ∧ s.pwr.act ≠ 4
    (¬ on → exec .lastGasp s = .next s) ∧
    (on → ∃ t, exec .lastGasp s = .next t ∧ t.pwr.act = 4 ∧ t.pwr.pwrOk = false ∧ t.pwr.lastGasp = true ∧
      (t.pwr.journal = true ↔ 2000 ≤ s.pwr.ev.toNat) ∧ t.hist.events = s.hist.events ∧
      (2000 ≤ s.pwr.ev.toNat → t.hist.opt = s.flt.opt) ∧ (s.pwr.ev.toNat < 2000 → t.hist = s.hist) ∧
      t.dram = [] ∧ t.locks = [] ∧ t.eng = [] ∧ t.resid = s.resid ∧ t.pending = s.pending ∧
      ∀ site, (tileAt t site).fab.pages = (tileAt s site).fab.pages ∧ (tileAt t site).pad = Tile.reset.pad)) ∧
  (∀ (s : State) (site : Nat),
    let t := coldClear s
    t.frames = 0 ∧ t.time = 0 ∧ t.dram = [] ∧ t.locks = [] ∧ t.ld = [] ∧ t.eng = [] ∧ t.load.img = none ∧ t.svc.frz = 0 ∧
    t.svc.warming = false ∧ t.pod = Pod.reset ∧ t.clk = Clk.reset ∧ t.sec.level = 0 ∧ t.sec.lc = s.sec.lc ∧ t.sec.lcPend = s.sec.lcPend ∧
    t.sec.seals = s.sec.seals ∧ t.hist = s.hist ∧ t.cal.trims = s.cal.trims ∧ t.resid = s.resid ∧ t.pwr = s.pwr ∧
    t.pending = s.pending ∧ t.grid.exposed = s.grid.exposed ∧ (tileAt t site).fab.pages = (tileAt s site).fab.pages) ∧
  (∀ (a : BootArgs) (s : State),
    (pwrRises s.pwr = false → exec (.coldReset a) s = .next s) ∧
    (pwrRises s.pwr = true → exec (.coldReset a) s = .next (sieEvent (coldBoot a (if s.pwr.lastGasp then 3 else 0) s))) ∧
    (s.pwr.act = 4 → exec (.rstN a) s = .next s) ∧
    (s.pwr.act ≠ 4 → pwrRises s.pwr = true → exec (.rstN a) s = .next (sieEvent (coldBoot a 1 s))) ∧
    (pwrRises s.pwr = true → exec (.svcResetCold a) s = .next (coldBoot a 2 s)) ∧
    (pwrRises s.pwr = false →
      (∃ t, exec (.svcResetCold a) s = .next t ∧ t.pwr.pwrOk = false ∧ t.svc.stage = 0 ∧ t.svc.lastCold = 2 ∧ t.dram = []) ∧
      (s.pwr.act ≠ 4 → ∃ t, exec (.rstN a) s = .next t ∧ t.pwr.pwrOk = false ∧ t.svc.stage = 0 ∧ t.svc.lastCold = 1 ∧ t.dram = []))) ∧
  (∀ (a : BootArgs) (h : Nat) (c : BitVec 2) (s : State), haltStage a.halt = some h →
    let t := coldBoot a c s
    t.svc.stage = 15 ∧ t.svc.haltStage = BitVec.ofNat 4 h ∧ t.svc.halt = a.halt ∧ t.svc.mgmtUp = true ∧ t.svc.straps = s.svc.pins ∧
    t.svc.lastCold = c ∧ alertOn t = true) ∧
  (∀ (a : BootArgs) (c : BitVec 2) (s : State), haltStage a.halt = none →
    (coldBoot a c s).svc.stage = 9 ∨ (coldBoot a c s).svc.stage = 10) ∧
  (∀ s : State, (s.sec.lcPend = false → (bootFuses s).sec.lc = s.sec.lc) ∧
    (s.sec.lcPend = true → (bootFuses s).sec.lc = s.sec.lcNext ∧ (bootFuses s).sec.lcPend = false ∧
      (s.sec.lcNext = 2 → (bootFuses s).sec.ownLock = true) ∧
      (s.sec.lcNext = 3 ∨ (s.sec.lc = 1 ∧ s.sec.lcNext = 2) → (bootFuses s).sec.seals = [] ∧ (bootFuses s).sec.weights = []))) ∧
  (∀ s : State, (bootStraps s).svc.straps = s.svc.pins ∧
    (bootStraps s).svc.mgmtIp4.toNat = 169 * 2 ^ 24 + 254 * 2 ^ 16 + (1 + strapSlot (bootStraps s)) * 2 ^ 8 + (16 + strapMaddr (bootStraps s))) ∧
  (∀ (pins : BitVec 18) (s : State), exec (.strapCheck pins) s = .next { s with svc := { s.svc with
    pins := pins
    strapChg := s.svc.strapChg || pins != s.svc.straps } }) ∧
  (∀ (a : WarmArgs) (s : State),
    let t := warmReset { a with asked := true } s
    (t.svc.frz ≠ 0 → exec (.svcResetWarm a) s = .next t) ∧
    (t.svc.frz = 0 → exec (.svcResetWarm a) s = .next (freezeEnd (s.svc.frz != 0) t)) ∧
    (freezeEnd true t).svc.freezePin = true ∧ (t.pod.st = 2 → (freezeEnd true t).pod.st = 1)) ∧
  (∀ (site : BitVec 13) (s : State),
    (s.svc.warming = true ∨ 8064 ≤ site.toNat → exec (.svcResetTile site) s = .next s) ∧
    (s.svc.warming = false → site.toNat < 8064 → exec (.svcResetTile site) s = .next (tileResetNow site.toNat true s))) ∧
  (∀ (port : BitVec 6) (s : State),
    (s.svc.warming = true ∨ 48 ≤ port.toNat → exec (.svcResetPort port) s = .next s) ∧
    (s.svc.warming = false → port.toNat < 48 → exec (.svcResetPort port) s = .next (portsDown (port.toNat / 3) (fun d =>
      portPut (port.toNat % 3) { portAt (portDown (port.toNat % 3) d) (port.toNat % 3) with
        en := (portAt (portDown (port.toNat % 3) d) (port.toNat % 3)).en && !(portAt (portDown (port.toNat % 3) d) (port.toNat % 3)).modeSt }
        (portDown (port.toNat % 3) d)) s))) ∧
  (∀ (v : Word) (s : State), exec (.svcMgmtIp4 v) s = .next { s with svc := { s.svc with mgmtIp4 := v.setWidth 32 } }) ∧
  (∀ (us : BitVec 16) (s : State),
    (s.svc.pinEn = true → 1 ≤ us.toNat → exec (.freezeN us) s = .next (freezeStart 1 s)) ∧
    (s.svc.pinEn = false ∨ us = 0 → exec (.freezeN us) s = .next s) ∧ exec .frzReq s = .next (freezeStart 2 s)) ∧
  (∀ (c : BitVec 2) (s : State),
    (s.svc.frz ≠ 0 → freezeStart c s = s) ∧
    (s.svc.frz = 0 → (s.sec.level.toNat < 2 ∨ s.svc.warming = true) → freezeStart c s = { s with svc := { s.svc with
      ign := if s.svc.ign = 0xFFF then 0xFFF else s.svc.ign + 1 } }) ∧
    (s.svc.frz = 0 → 2 ≤ s.sec.level.toNat → s.svc.warming = false → freezeStart c s = { s with svc := { s.svc with
      frz := 1
      frzCause := c
      stopFrame := BitVec.ofNat 48 (s.frames + 4)
      freezePin := false } })) ∧
  (∀ (stop : BitVec 48) (c : BitVec 2) (s : State),
    (s.svc.frz ≠ 0 ∨ s.sec.level.toNat < 2 → exec (.freeze stop c) s = .next s) ∧
    (s.svc.frz = 0 → 2 ≤ s.sec.level.toNat → exec (.freeze stop c) s = .next { s with svc := { s.svc with
      frz := 1
      frzCause := c
      stopFrame := stop
      freezePin := false } })) ∧
  (∀ s : State,
    let due := s.svc.frz = 1 ∧ s.svc.stopFrame.toNat ≤ s.frames % 2 ^ 48
    (due → exec .freezeStop s = .next { s with svc := { s.svc with frz := 2 } }) ∧ (¬ due → exec .freezeStop s = .next s))

/-- The detector's enable is ignored below D2 and where it does not change; enabling asks for code 8 and remembers the code in force, disabling asks
for that code again, on a hawk for every member and on a member not at all. Hazards of one code in one frame on one tile make one report with their
count, and under stop-on-hazard that report triggers a freeze; with none, or with the detector not comparing, nothing happens. The test access port
performs nothing while TEST_EN is 0; else IDCODE gives 0x1009_64B7 lowest bit first, BYPASS one 0 and then its input, FRZ_SEL takes an address,
FRZ_DATA gives the word in bits 63 to 0 and the tag in 65 and 64 and advances the address by 8, and EXTEST is performed only in FACTORY, OPEN or at
D3. What BYPASS shifts and what the boundary cells capture are PRESUMED from IEEE 1149.1 (log entry 42). An LED's diagnosis follows two pulses that
agree and is UNKNOWN once 256 periods pass without one. The pulse per second follows module time. -/
def Obligations.DetectorTestPortAndBoardAct : Prop :=
  (∀ (on : Bool) (s : State),
    ((s.sec.level.toNat < 2 ∨ on = s.svc.hazEn) → exec (.hazEn on) s = .next s) ∧
    (2 ≤ s.sec.level.toNat → on = true → s.svc.hazEn = false → exec (.hazEn on) s = .next (hazRefresh (hazFreq 8
      { s with svc := { s.svc with hazEn := true, hazPrev := s.clk.k } }))) ∧
    (2 ≤ s.sec.level.toNat → on = false → s.svc.hazEn = true → exec (.hazEn on) s = .next (hazRefresh (hazFreq s.svc.hazPrev.toNat
      { s with svc := { s.svc with hazEn := false } })))) ∧
  (∀ (k : Nat) (s : State), (s.pod.st = 2 → hazFreq k s = s) ∧ (s.pod.st ≠ 2 → s.pod.st ≠ 3 → hazFreq k s = freqStep k s) ∧
    (s.pod.st = 3 → hazFreq k s = freqStep k (sendMembers false 0x49 (fields [(0, k), (16, (s.frames + 16) % 2 ^ 48)]) [] s))) ∧
  (∀ (site : Site) (code : BitVec 4) (s : State),
    let t := tileAt s site
    let e := sget (0, 0, 0) t.pad.haz code.toNat
    let ix := if code = 3 ∨ code = 4 then e.2.2 else 0
    let s2 := sendRpt (tilePut s site { t with pad := { t.pad with haz := sdel t.pad.haz code.toNat } }) site 0x14 (BitVec.ofNat 64 site.val)
      [BitVec.ofNat 64 code.toNat, BitVec.ofNat 64 (e.2.1 % 2048), BitVec.ofNat 64 ix, BitVec.ofNat 64 e.1]
    ((hazLive s = false ∨ e.1 = 0) → exec (.hazard site code) s = .next s) ∧
    (hazLive s = true → e.1 ≠ 0 → s.svc.hazStop = false → exec (.hazard site code) s = .next s2) ∧
    (hazLive s = true → e.1 ≠ 0 → s.svc.hazStop = true → exec (.hazard site code) s = .next (freezeStart 3 s2))) ∧
  (∀ s : State, hazLive s = true ↔ s.svc.hazEn = true ∧ 2 ≤ s.sec.level.toNat ∧ s.clk.k = 8) ∧
  (∀ (tdi : Bool) (bits : List Bool) (addr : BitVec 48) (s : State), strapTest s = false →
    exec .idcode s = .next s ∧ exec (.bypass tdi) s = .next s ∧ exec (.samplePreload bits) s = .next s ∧ exec .extest s = .next s ∧
    exec (.frzSel addr) s = .next s ∧ exec .frzData s = .next s) ∧
  (∀ (tdi : Bool) (bits : List Bool) (addr : BitVec 48) (s : State), strapTest s = true →
    (∃ t, exec .idcode s = .next t ∧ t = { s with svc := { s.svc with tapIr := .idcode, tapOut := t.svc.tapOut } } ∧
      t.svc.tapOut.length = 32 ∧ ∀ i, i < 32 → t.svc.tapOut[i]? = some ((0x100964B7 : BitVec 32).getLsbD i)) ∧
    exec (.bypass tdi) s = .next { s with svc := { s.svc with tapIr := .bypass, tapOut := [false, tdi] } } ∧
    exec (.samplePreload bits) s = .next { s with
      draws := s.draws + 1
      svc := { s.svc with bsr := bits, tapIr := .samplePreload, tapOut := captured s bits.length } } ∧
    (s.sec.lc.toNat ≤ 1 ∨ s.sec.level = 3 → exec .extest s = .next { s with
      draws := s.draws + 1
      svc := { s.svc with tapIr := .extest, tapOut := captured s s.svc.bsr.length } }) ∧
    (2 ≤ s.sec.lc.toNat → s.sec.level ≠ 3 → exec .extest s = .next s) ∧
    exec (.frzSel addr) s = .next { s with svc := { s.svc with tapSel := addr, tapIr := .frzSel, tapOut := [] } } ∧
    (∃ t, exec .frzData s = .next t ∧ t.svc.tapSel = s.svc.tapSel + 8 ∧ t.svc.tapOut.length = 66 ∧ t.svc.tapIr = .frzData ∧
      (∀ i, i < 64 → t.svc.tapOut[i]? = some ((frzWord s).1.getLsbD i)) ∧
      t.svc.tapOut[64]? = some ((frzWord s).2.testBit 0) ∧ t.svc.tapOut[65]? = some ((frzWord s).2.testBit 1))) ∧
  (∀ s : State, (s.svc.frz ≠ 2 ∨ s.svc.tapSel.toNat % 8 ≠ 0 → frzWord s = (0, 3)) ∧
    (s.svc.frz = 2 → s.svc.tapSel.toNat % 8 = 0 → mayRead s s.svc.tapSel.toNat = false → frzWord s = (0, 2))) ∧
  (∀ (n : Fin 4) (c a o : Bool) (s : State), ∃ t, exec (.ledPeriod n c a o) s = .next t ∧
    ledAt t n = ledStep (!(ledAt s n).fn || ledFn s n) c a o (ledAt s n) ∧ (∀ m, m ≠ n.val → ledAt t m = ledAt s m) ∧ t.grid = s.grid) ∧
  (∀ (lit c a o : Bool) (l : Led),
    let r : BitVec 2 := if c = true then 1 else if a = true ∧ o = true then 2 else 0
    let d := ledStep lit c a o l
    let judged := lit = true ∧ (3 ≤ l.duty.toNat ∨ (l.stretch = true ∧ (l.phase + 1) % 256 = 0))
    (judged → d.lastDiag = some r ∧ d.since = 0 ∧ d.diag = (if l.lastDiag = some r then r else l.diag)) ∧
    (¬ judged → d.lastDiag = l.lastDiag ∧ (255 ≤ l.since → d.diag = 3) ∧ (l.since < 255 → d.diag = l.diag))) ∧
  (∀ s : State, exec .ppsOut s = .next { s with svc := { s.svc with pps := (moduleNs s).toNat / 1000000000 } })

/-- Whatever the state and the operands, exec of a command answers a next state: no command is refused and none faults, and ordinary data ends no run.
A command that is turned away, or that finds nothing to act on, completes too. The queue of waiting commands, which is the model's own (log entry 1),
is left as it was. -/
def Obligations.EveryCommandCompletes : Prop :=
  ∀ (c : Instr) (s : State), ∃ t, exec c s = .next t ∧ t.pending = s.pending

/-- Where the DRAM is in its canonical form, PSTATE_ACT is one of 0 to 4, the frequency code in force one of 0 to 8, the freeze state one of 0 to 2
and the pod state one of 0 to 5, where a life-cycle transition that waits goes forward and every waiting command is well formed, a step of the module,
whichever command is at the front of the queue and whatever its operands, answers a next state in which all of that holds again. -/
def Obligations.StepsKeepTheInvariant : Prop :=
  ∀ s, ModuleInv s → ∃ t, step s = .next t ∧ ModuleInv t

/-- After reset no command waits and the invariant holds. Every scratchpad word of every tile and every word of DRAM is 0 with good check bits, every
register of every control core is 0, predicate p0 is 1 and the other predicates are 0, every lock is free and abandoned, every stream context is FREE
and every engine has ADMIT_EN set, the module is in P0 under a cap of 30,000 W with every zone at 720 mV, and no freeze is under way. No step has
happened, no image is loaded, no link die has a session. The life cycle after reset, OPEN, and the state of the supply are the model's choice (log
entry 3). -/
def Obligations.ResetStandsAsTheRulesSay : Prop :=
  ModuleInv State.reset ∧ State.reset.pending = [] ∧
  (∀ site i : Nat, padGet (tileAt State.reset site).pad i = SWord.zero) ∧
  (∀ a : Nat, sget SWord.zero State.reset.dram a = SWord.zero) ∧
  (∀ (site : Nat) (r : BitVec 5), gGet (tileAt State.reset site).cc r = RWord.zero) ∧
  (∀ (site : Nat) (p : BitVec 3), pGet (tileAt State.reset site).cc p = decide (p = 0)) ∧
  (∀ n : Nat, (lockAt State.reset n).held = false ∧ (lockAt State.reset n).abandoned = true) ∧
  (∀ sid : Nat, ctxAt State.reset sid = Ctx.free ∧ (engAt State.reset sid).admitEn = true) ∧
  (∀ z : Nat, (zoneAt State.reset z).setpt = 720 ∧ (zoneAt State.reset z).limited = false) ∧
  State.reset.pwr.act = 0 ∧ State.reset.pwr.capW = 30000 ∧ State.reset.svc.frz = 0 ∧ State.reset.load.img = none ∧ State.reset.ld = []

/-- Whatever command the module performs, in any state in which a waiting life-cycle transition goes forward: the life cycle afterwards is the same
state or a later one, OWN_LOCK stays set once it is set, SEC_RB.MIN does not fall, and a transition that then waits goes forward again. This holds for
register writes, signed commands, every kind of reset and every boot alike, and so for every run of the module. -/
def Obligations.BurntStateNeverGoesBack : Prop :=
  ∀ (c : Instr) (s : State), s.sec.forward → ∃ t, exec c s = .next t ∧ t.sec.forward ∧
    s.sec.lc.toNat ≤ t.sec.lc.toNat ∧ (s.sec.ownLock = true → t.sec.ownLock = true) ∧ s.sec.rbMin.toNat ≤ t.sec.rbMin.toNat
end

