-- ==== Sys2Proof/Laws/Sparse.lean ====
section
/-! SUPPORT. The laws of the sparse stores: a read after a write gives the value written, a write leaves every other key, and every
operation keeps the canonical form. -/

namespace Sys2Proof.Machine

variable {α : Type}

/-- A read after dropping a key. -/
theorem sget_sdel (d : α) (m : SMap α) (k k' : Nat) : sget d (sdel m k) k' = if k' = k then d else sget d m k' := by
  induction m with
  | nil => simp [sdel, sget]
  | cons e t ih =>
    simp only [sdel, List.filter] at *
    by_cases h : e.1 = k
    · simp only [h, bne_self_eq_false, sget]; rw [ih]
      by_cases h2 : k' = k
      · simp [h2]
      · rw [if_neg h2, if_neg h2, if_neg (fun hh => h2 hh.symm)]
    · have hb : (e.1 != k) = true := by simp [h]
      simp only [hb, sget]
      rw [ih]
      by_cases h2 : e.1 = k'
      · subst h2; simp [h]
      · simp [h2]

/-- A read after inserting a key that is not listed. -/
theorem sget_sins (d : α) (m : SMap α) (k k' : Nat) (v : α) (hm : ∀ e ∈ m, e.1 ≠ k) :
    sget d (sins k v m) k' = if k' = k then v else sget d m k' := by
  induction m with
  | nil => simp only [sins, sget]; by_cases h : k = k' <;> simp [h, eq_comm]
  | cons e t ih =>
    obtain ⟨a, b⟩ := e
    have ha : a ≠ k := hm (a, b) (by simp)
    have ht : ∀ e ∈ t, e.1 ≠ k := fun e he => hm e (by simp [he])
    simp only [sins]
    split
    · simp only [sget]; by_cases h : k = k'
      · simp [h]
      · rw [if_neg h, if_neg (fun hh : k' = k => h hh.symm)]
    · simp only [sget, ih ht]
      by_cases h : a = k'
      · rw [if_pos h, if_neg (fun hh => ha (h.trans hh)), if_pos h]
      · rw [if_neg h, if_neg h]

/-- Dropping a key leaves it out. -/
theorem not_mem_sdel (m : SMap α) (k : Nat) : ∀ e ∈ sdel m k, e.1 ≠ k := by
  intro e he; simpa [sdel] using (List.mem_filter.1 he).2

/-- A read after a write: the value written at its key, every other key as before. -/
theorem sget_sset [DecidableEq α] (d : α) (m : SMap α) (k k' : Nat) (v : α) :
    sget d (sset d m k v) k' = if k' = k then v else sget d m k' := by
  unfold sset
  split
  · rename_i h; rw [sget_sdel, h]
  · rw [sget_sins _ _ _ _ _ (not_mem_sdel m k), sget_sdel]; split <;> rfl

@[simp] theorem sget_sset_same [DecidableEq α] (d : α) (m : SMap α) (k : Nat) (v : α) : sget d (sset d m k v) k = v := by
  simp [sget_sset]

@[simp] theorem sget_sset_other [DecidableEq α] (d : α) (m : SMap α) {k k' : Nat} (h : k' ≠ k) (v : α) :
    sget d (sset d m k v) k' = sget d m k' := by
  simp [sget_sset, h]

/-- Dropping a key keeps the canonical form. -/
theorem SWf.sdel [DecidableEq α] {d : α} {m : SMap α} (h : SWf d m) (k : Nat) : SWf d (sdel m k) :=
  ⟨h.1.filter _, fun e he => h.2 e (List.mem_filter.1 he).1⟩

/-- Keeping the entries that a test accepts keeps the canonical form. -/
theorem SWf.skeep [DecidableEq α] {d : α} {m : SMap α} (h : SWf d m) (p : Nat → α → Bool) : SWf d (skeep m p) :=
  ⟨h.1.filter _, fun e he => h.2 e (List.mem_filter.1 he).1⟩

/-- The entries after an insertion. -/
theorem mem_sins {m : SMap α} {k : Nat} {v : α} {e : Nat × α} (he : e ∈ sins k v m) : e = (k, v) ∨ e ∈ m := by
  induction m with
  | nil => left; simpa [sins] using he
  | cons x t ih =>
    simp only [sins] at he
    split at he
    · simpa using he
    · rcases List.mem_cons.1 he with h | h
      · right; simp [h]
      · rcases ih h with h | h
        · left; exact h
        · right; simp [h]

/-- Inserting a key that is not listed keeps the keys rising. -/
theorem sins_rising {m : SMap α} (hm : m.Pairwise (fun a b => a.1 < b.1)) (k : Nat) (v : α) (hk : ∀ e ∈ m, e.1 ≠ k) :
    (sins k v m).Pairwise (fun a b => a.1 < b.1) := by
  induction m with
  | nil => simp [sins]
  | cons x t ih =>
    have hx := List.pairwise_cons.1 hm
    simp only [sins]
    split
    · rename_i hlt
      refine List.pairwise_cons.2 ⟨fun e he => ?_, hm⟩
      rcases List.mem_cons.1 he with h | h
      · subst h; exact hlt
      · exact lt_trans hlt (hx.1 e h)
    · rename_i hlt
      refine List.pairwise_cons.2 ⟨fun e he => ?_, ih hx.2 (fun e he => hk e (by simp [he]))⟩
      rcases mem_sins he with h | h
      · subst h; have := hk x (by simp); simp only at this ⊢; omega
      · exact hx.1 e h

/-- A write keeps the canonical form. -/
theorem SWf.sset [DecidableEq α] {d : α} {m : SMap α} (h : SWf d m) (k : Nat) (v : α) : SWf d (sset d m k v) := by
  unfold Machine.sset
  split
  · exact h.sdel k
  · rename_i hv
    refine ⟨sins_rising (h.sdel k).1 k v (not_mem_sdel m k), fun e he => ?_⟩
    rcases mem_sins he with rfl | he
    · exact hv
    · exact (h.sdel k).2 e he

/-- A read, change and write keeps the canonical form. -/
theorem SWf.supd [DecidableEq α] {d : α} {m : SMap α} (h : SWf d m) (k : Nat) (f : α → α) : SWf d (supd d m k f) := h.sset k _

/-- Every key of a changed store is a key of the store. -/
theorem mem_smap [DecidableEq α] (d : α) (m : SMap α) (f : Nat → α → α) : ∀ e ∈ smap d m f, ∃ e0 ∈ m, e0.1 = e.1 := by
  induction m with
  | nil => intro e he; cases he
  | cons a t ih =>
    intro e he
    unfold smap at he
    split at he
    · obtain ⟨e0, h, h2⟩ := ih e (List.mem_filter.1 he).1
      exact ⟨e0, List.mem_cons_of_mem _ h, h2⟩
    · rcases List.mem_cons.1 he with rfl | he
      · exact ⟨a, List.mem_cons_self, rfl⟩
      · obtain ⟨e0, h, h2⟩ := ih e he
        exact ⟨e0, List.mem_cons_of_mem _ h, h2⟩

/-- Changing every listed entry keeps the canonical form. -/
theorem SWf.smap [DecidableEq α] {d : α} {m : SMap α} (h : SWf d m) (f : Nat → α → α) : SWf d (smap d m f) := by
  induction m with
  | nil => exact ⟨List.Pairwise.nil, by intro e he; cases he⟩
  | cons a t ih =>
    have ht : SWf d t := ⟨(List.pairwise_cons.1 h.1).2, fun e he => h.2 e (List.mem_cons_of_mem _ he)⟩
    have hi := ih ht
    unfold Machine.smap
    split
    · exact hi.sdel _
    · rename_i hn
      refine ⟨List.pairwise_cons.2 ⟨fun e he => ?_, hi.1⟩, fun e he => ?_⟩
      · obtain ⟨e0, h0, h1⟩ := mem_smap d t f e he
        rw [← h1]; exact (List.pairwise_cons.1 h.1).1 e0 h0
      · rcases List.mem_cons.1 he with rfl | he
        · exact hn
        · exact hi.2 e he

/-- Reading a changed store, where the change keeps the default. -/
theorem sget_smap [DecidableEq α] (d : α) (m : SMap α) (f : Nat → α → α) (k : Nat) (h : f k d = d) :
    sget d (smap d m f) k = f k (sget d m k) := by
  induction m with
  | nil => exact h.symm
  | cons a t ih =>
    unfold smap
    split
    · rename_i hd
      rw [sget_sdel]
      by_cases hk : k = a.1
      · subst hk; rw [if_pos rfl]; simp only [sget, if_true]; exact hd.symm
      · rw [if_neg hk, ih]
        simp only [sget]; rw [if_neg (fun e => hk e.symm)]
    · by_cases hk : a.1 = k
      · subst hk; simp [sget]
      · simp only [sget, if_neg hk]; exact ih

/-- A table of a function is in the canonical form. -/
theorem SWf.stab [DecidableEq α] (d : α) (n : Nat) (f : Nat → α) : SWf d (stab d n f) := by
  refine ⟨?_, fun e he => ?_⟩
  · unfold Machine.stab
    refine List.Pairwise.filterMap _ (S := fun (a b : Nat × α) => a.1 < b.1) ?_ List.pairwise_lt_range
    intro a b hab a' ha b' hb
    split at ha <;> split at hb <;> simp_all
    subst ha; subst hb; exact hab
  · obtain ⟨a, -, ha⟩ := List.mem_filterMap.1 he
    split at ha
    · cases ha
    · rename_i hn; cases ha; exact hn

/-- The empty store is in the canonical form. -/
theorem SWf.nil [DecidableEq α] (d : α) : SWf d ([] : SMap α) := ⟨List.Pairwise.nil, by simp⟩

/-- A read of a store made of two. -/
theorem sget_append (d : α) (a b : SMap α) (k : Nat) :
    sget d (a ++ b) k = if (a.any (fun e => e.1 == k)) = true then sget d a k else sget d b k := by
  induction a with
  | nil => simp
  | cons e t ih =>
    rw [List.cons_append, List.any_cons]
    show (if e.1 = k then e.2 else sget d (t ++ b) k) = if _ then (if e.1 = k then e.2 else sget d t k) else _
    by_cases h : e.1 = k
    · rw [if_pos h, if_pos (by simp [h]), if_pos h]
    · have : (e.1 == k) = false := by simpa using h
      rw [if_neg h, if_neg h, ih, this, Bool.false_or]

/-- The keys of a tabulated store. -/
theorem any_stab [DecidableEq α] (d : α) (n : Nat) (f : Nat → α) (k : Nat) :
    ((stab d n f).any (fun e => e.1 == k)) = true ↔ k < n ∧ f k ≠ d := by
  unfold stab
  rw [List.any_eq_true]
  constructor
  · rintro ⟨e, he, hk⟩
    obtain ⟨i, hi, hx⟩ := List.mem_filterMap.1 he
    split at hx
    · cases hx
    · rename_i hf
      cases hx
      have : i = k := by simpa using hk
      subst this
      exact ⟨List.mem_range.1 hi, hf⟩
  · rintro ⟨h1, h2⟩
    exact ⟨(k, f k), List.mem_filterMap.2 ⟨k, List.mem_range.2 h1, by simp [h2]⟩, by simp⟩

/-- A read of a tabulated store. -/
theorem sget_stab [DecidableEq α] (d : α) (n : Nat) (f : Nat → α) (k : Nat) : sget d (stab d n f) k = if k < n then f k else d := by
  induction n with
  | zero => simp [stab, sget]
  | succ n ih =>
    have hs : stab d (n + 1) f = stab d n f ++ (if f n = d then [] else [(n, f n)]) := by
      unfold stab
      rw [List.range_succ, List.filterMap_append]
      congr 1
      by_cases h : f n = d <;> simp [h]
    rw [hs, sget_append]
    by_cases ha : (stab d n f).any (fun e => e.1 == k) = true
    · have := (any_stab d n f k).1 ha
      rw [if_pos ha, ih, if_pos this.1, if_pos (by omega)]
    · rw [if_neg ha]
      have hn : ¬ (k < n ∧ f k ≠ d) := fun h => ha ((any_stab d n f k).2 h)
      by_cases hk : k = n
      · subst hk
        rw [if_pos (Nat.lt_succ_self k)]
        by_cases hf : f k = d
        · rw [if_pos hf, hf]; rfl
        · rw [if_neg hf]; simp [sget]
      · have h0 : sget d (if f n = d then [] else [(n, f n)]) k = d := by
          by_cases hf : f n = d <;> simp [hf, sget]
          intro h; omega
        rw [h0]
        by_cases hlt : k < n + 1
        · rw [if_pos hlt]
          by_contra hc
          exact hn ⟨by omega, fun h => hc h.symm⟩
        · rw [if_neg hlt]

end Sys2Proof.Machine
end

