-- ==== Sys2Proof/Laws/State.lean ====
section
/-! SUPPORT. One lemma per field of State for each named update: what the update does to the field. -/

namespace Sys2Proof.Machine

/-! `onGrid` changes `grid` alone. -/
section
variable (s : State) (f : Grid → Grid)
@[simp] theorem onGrid_pending : (onGrid f s).pending = s.pending := rfl
@[simp] theorem onGrid_frames : (onGrid f s).frames = s.frames := rfl
@[simp] theorem onGrid_time : (onGrid f s).time = s.time := rfl
@[simp] theorem onGrid_draws : (onGrid f s).draws = s.draws := rfl
@[simp] theorem onGrid_grid : (onGrid f s).grid = f s.grid := rfl
@[simp] theorem onGrid_dram : (onGrid f s).dram = s.dram := rfl
@[simp] theorem onGrid_lath : (onGrid f s).lath = s.lath := rfl
@[simp] theorem onGrid_cg : (onGrid f s).cg = s.cg := rfl
@[simp] theorem onGrid_locks : (onGrid f s).locks = s.locks := rfl
@[simp] theorem onGrid_hist : (onGrid f s).hist = s.hist := rfl
@[simp] theorem onGrid_cal : (onGrid f s).cal = s.cal := rfl
@[simp] theorem onGrid_plc : (onGrid f s).plc = s.plc := rfl
@[simp] theorem onGrid_load : (onGrid f s).load = s.load := rfl
@[simp] theorem onGrid_resid : (onGrid f s).resid = s.resid := rfl
@[simp] theorem onGrid_delivery : (onGrid f s).delivery = s.delivery := rfl
@[simp] theorem onGrid_adapters : (onGrid f s).adapters = s.adapters := rfl
@[simp] theorem onGrid_geom : (onGrid f s).geom = s.geom := rfl
@[simp] theorem onGrid_eng : (onGrid f s).eng = s.eng := rfl
@[simp] theorem onGrid_md : (onGrid f s).md = s.md := rfl
@[simp] theorem onGrid_ld : (onGrid f s).ld = s.ld := rfl
@[simp] theorem onGrid_pod : (onGrid f s).pod = s.pod := rfl
@[simp] theorem onGrid_sec : (onGrid f s).sec = s.sec := rfl
@[simp] theorem onGrid_flt : (onGrid f s).flt = s.flt := rfl
@[simp] theorem onGrid_pwr : (onGrid f s).pwr = s.pwr := rfl
@[simp] theorem onGrid_clk : (onGrid f s).clk = s.clk := rfl
@[simp] theorem onGrid_svc : (onGrid f s).svc = s.svc := rfl
@[simp] theorem onGrid_reply : (onGrid f s).reply = s.reply := rfl
end

/-! `onLath` changes `lath` alone. -/
section
variable (s : State) (f : Lath → Lath)
@[simp] theorem onLath_pending : (onLath f s).pending = s.pending := rfl
@[simp] theorem onLath_frames : (onLath f s).frames = s.frames := rfl
@[simp] theorem onLath_time : (onLath f s).time = s.time := rfl
@[simp] theorem onLath_draws : (onLath f s).draws = s.draws := rfl
@[simp] theorem onLath_grid : (onLath f s).grid = s.grid := rfl
@[simp] theorem onLath_dram : (onLath f s).dram = s.dram := rfl
@[simp] theorem onLath_lath : (onLath f s).lath = f s.lath := rfl
@[simp] theorem onLath_cg : (onLath f s).cg = s.cg := rfl
@[simp] theorem onLath_locks : (onLath f s).locks = s.locks := rfl
@[simp] theorem onLath_hist : (onLath f s).hist = s.hist := rfl
@[simp] theorem onLath_cal : (onLath f s).cal = s.cal := rfl
@[simp] theorem onLath_plc : (onLath f s).plc = s.plc := rfl
@[simp] theorem onLath_load : (onLath f s).load = s.load := rfl
@[simp] theorem onLath_resid : (onLath f s).resid = s.resid := rfl
@[simp] theorem onLath_delivery : (onLath f s).delivery = s.delivery := rfl
@[simp] theorem onLath_adapters : (onLath f s).adapters = s.adapters := rfl
@[simp] theorem onLath_geom : (onLath f s).geom = s.geom := rfl
@[simp] theorem onLath_eng : (onLath f s).eng = s.eng := rfl
@[simp] theorem onLath_md : (onLath f s).md = s.md := rfl
@[simp] theorem onLath_ld : (onLath f s).ld = s.ld := rfl
@[simp] theorem onLath_pod : (onLath f s).pod = s.pod := rfl
@[simp] theorem onLath_sec : (onLath f s).sec = s.sec := rfl
@[simp] theorem onLath_flt : (onLath f s).flt = s.flt := rfl
@[simp] theorem onLath_pwr : (onLath f s).pwr = s.pwr := rfl
@[simp] theorem onLath_clk : (onLath f s).clk = s.clk := rfl
@[simp] theorem onLath_svc : (onLath f s).svc = s.svc := rfl
@[simp] theorem onLath_reply : (onLath f s).reply = s.reply := rfl
end

/-! `onCg` changes `cg` alone. -/
section
variable (s : State) (f : Cg → Cg)
@[simp] theorem onCg_pending : (onCg f s).pending = s.pending := rfl
@[simp] theorem onCg_frames : (onCg f s).frames = s.frames := rfl
@[simp] theorem onCg_time : (onCg f s).time = s.time := rfl
@[simp] theorem onCg_draws : (onCg f s).draws = s.draws := rfl
@[simp] theorem onCg_grid : (onCg f s).grid = s.grid := rfl
@[simp] theorem onCg_dram : (onCg f s).dram = s.dram := rfl
@[simp] theorem onCg_lath : (onCg f s).lath = s.lath := rfl
@[simp] theorem onCg_cg : (onCg f s).cg = f s.cg := rfl
@[simp] theorem onCg_locks : (onCg f s).locks = s.locks := rfl
@[simp] theorem onCg_hist : (onCg f s).hist = s.hist := rfl
@[simp] theorem onCg_cal : (onCg f s).cal = s.cal := rfl
@[simp] theorem onCg_plc : (onCg f s).plc = s.plc := rfl
@[simp] theorem onCg_load : (onCg f s).load = s.load := rfl
@[simp] theorem onCg_resid : (onCg f s).resid = s.resid := rfl
@[simp] theorem onCg_delivery : (onCg f s).delivery = s.delivery := rfl
@[simp] theorem onCg_adapters : (onCg f s).adapters = s.adapters := rfl
@[simp] theorem onCg_geom : (onCg f s).geom = s.geom := rfl
@[simp] theorem onCg_eng : (onCg f s).eng = s.eng := rfl
@[simp] theorem onCg_md : (onCg f s).md = s.md := rfl
@[simp] theorem onCg_ld : (onCg f s).ld = s.ld := rfl
@[simp] theorem onCg_pod : (onCg f s).pod = s.pod := rfl
@[simp] theorem onCg_sec : (onCg f s).sec = s.sec := rfl
@[simp] theorem onCg_flt : (onCg f s).flt = s.flt := rfl
@[simp] theorem onCg_pwr : (onCg f s).pwr = s.pwr := rfl
@[simp] theorem onCg_clk : (onCg f s).clk = s.clk := rfl
@[simp] theorem onCg_svc : (onCg f s).svc = s.svc := rfl
@[simp] theorem onCg_reply : (onCg f s).reply = s.reply := rfl
end

/-! `onHist` changes `hist` alone. -/
section
variable (s : State) (f : Hist → Hist)
@[simp] theorem onHist_pending : (onHist f s).pending = s.pending := rfl
@[simp] theorem onHist_frames : (onHist f s).frames = s.frames := rfl
@[simp] theorem onHist_time : (onHist f s).time = s.time := rfl
@[simp] theorem onHist_draws : (onHist f s).draws = s.draws := rfl
@[simp] theorem onHist_grid : (onHist f s).grid = s.grid := rfl
@[simp] theorem onHist_dram : (onHist f s).dram = s.dram := rfl
@[simp] theorem onHist_lath : (onHist f s).lath = s.lath := rfl
@[simp] theorem onHist_cg : (onHist f s).cg = s.cg := rfl
@[simp] theorem onHist_locks : (onHist f s).locks = s.locks := rfl
@[simp] theorem onHist_hist : (onHist f s).hist = f s.hist := rfl
@[simp] theorem onHist_cal : (onHist f s).cal = s.cal := rfl
@[simp] theorem onHist_plc : (onHist f s).plc = s.plc := rfl
@[simp] theorem onHist_load : (onHist f s).load = s.load := rfl
@[simp] theorem onHist_resid : (onHist f s).resid = s.resid := rfl
@[simp] theorem onHist_delivery : (onHist f s).delivery = s.delivery := rfl
@[simp] theorem onHist_adapters : (onHist f s).adapters = s.adapters := rfl
@[simp] theorem onHist_geom : (onHist f s).geom = s.geom := rfl
@[simp] theorem onHist_eng : (onHist f s).eng = s.eng := rfl
@[simp] theorem onHist_md : (onHist f s).md = s.md := rfl
@[simp] theorem onHist_ld : (onHist f s).ld = s.ld := rfl
@[simp] theorem onHist_pod : (onHist f s).pod = s.pod := rfl
@[simp] theorem onHist_sec : (onHist f s).sec = s.sec := rfl
@[simp] theorem onHist_flt : (onHist f s).flt = s.flt := rfl
@[simp] theorem onHist_pwr : (onHist f s).pwr = s.pwr := rfl
@[simp] theorem onHist_clk : (onHist f s).clk = s.clk := rfl
@[simp] theorem onHist_svc : (onHist f s).svc = s.svc := rfl
@[simp] theorem onHist_reply : (onHist f s).reply = s.reply := rfl
end

/-! `onCal` changes `cal` alone. -/
section
variable (s : State) (f : Cal → Cal)
@[simp] theorem onCal_pending : (onCal f s).pending = s.pending := rfl
@[simp] theorem onCal_frames : (onCal f s).frames = s.frames := rfl
@[simp] theorem onCal_time : (onCal f s).time = s.time := rfl
@[simp] theorem onCal_draws : (onCal f s).draws = s.draws := rfl
@[simp] theorem onCal_grid : (onCal f s).grid = s.grid := rfl
@[simp] theorem onCal_dram : (onCal f s).dram = s.dram := rfl
@[simp] theorem onCal_lath : (onCal f s).lath = s.lath := rfl
@[simp] theorem onCal_cg : (onCal f s).cg = s.cg := rfl
@[simp] theorem onCal_locks : (onCal f s).locks = s.locks := rfl
@[simp] theorem onCal_hist : (onCal f s).hist = s.hist := rfl
@[simp] theorem onCal_cal : (onCal f s).cal = f s.cal := rfl
@[simp] theorem onCal_plc : (onCal f s).plc = s.plc := rfl
@[simp] theorem onCal_load : (onCal f s).load = s.load := rfl
@[simp] theorem onCal_resid : (onCal f s).resid = s.resid := rfl
@[simp] theorem onCal_delivery : (onCal f s).delivery = s.delivery := rfl
@[simp] theorem onCal_adapters : (onCal f s).adapters = s.adapters := rfl
@[simp] theorem onCal_geom : (onCal f s).geom = s.geom := rfl
@[simp] theorem onCal_eng : (onCal f s).eng = s.eng := rfl
@[simp] theorem onCal_md : (onCal f s).md = s.md := rfl
@[simp] theorem onCal_ld : (onCal f s).ld = s.ld := rfl
@[simp] theorem onCal_pod : (onCal f s).pod = s.pod := rfl
@[simp] theorem onCal_sec : (onCal f s).sec = s.sec := rfl
@[simp] theorem onCal_flt : (onCal f s).flt = s.flt := rfl
@[simp] theorem onCal_pwr : (onCal f s).pwr = s.pwr := rfl
@[simp] theorem onCal_clk : (onCal f s).clk = s.clk := rfl
@[simp] theorem onCal_svc : (onCal f s).svc = s.svc := rfl
@[simp] theorem onCal_reply : (onCal f s).reply = s.reply := rfl
end

/-! `onLoad` changes `load` alone. -/
section
variable (s : State) (f : Load → Load)
@[simp] theorem onLoad_pending : (onLoad f s).pending = s.pending := rfl
@[simp] theorem onLoad_frames : (onLoad f s).frames = s.frames := rfl
@[simp] theorem onLoad_time : (onLoad f s).time = s.time := rfl
@[simp] theorem onLoad_draws : (onLoad f s).draws = s.draws := rfl
@[simp] theorem onLoad_grid : (onLoad f s).grid = s.grid := rfl
@[simp] theorem onLoad_dram : (onLoad f s).dram = s.dram := rfl
@[simp] theorem onLoad_lath : (onLoad f s).lath = s.lath := rfl
@[simp] theorem onLoad_cg : (onLoad f s).cg = s.cg := rfl
@[simp] theorem onLoad_locks : (onLoad f s).locks = s.locks := rfl
@[simp] theorem onLoad_hist : (onLoad f s).hist = s.hist := rfl
@[simp] theorem onLoad_cal : (onLoad f s).cal = s.cal := rfl
@[simp] theorem onLoad_plc : (onLoad f s).plc = s.plc := rfl
@[simp] theorem onLoad_load : (onLoad f s).load = f s.load := rfl
@[simp] theorem onLoad_resid : (onLoad f s).resid = s.resid := rfl
@[simp] theorem onLoad_delivery : (onLoad f s).delivery = s.delivery := rfl
@[simp] theorem onLoad_adapters : (onLoad f s).adapters = s.adapters := rfl
@[simp] theorem onLoad_geom : (onLoad f s).geom = s.geom := rfl
@[simp] theorem onLoad_eng : (onLoad f s).eng = s.eng := rfl
@[simp] theorem onLoad_md : (onLoad f s).md = s.md := rfl
@[simp] theorem onLoad_ld : (onLoad f s).ld = s.ld := rfl
@[simp] theorem onLoad_pod : (onLoad f s).pod = s.pod := rfl
@[simp] theorem onLoad_sec : (onLoad f s).sec = s.sec := rfl
@[simp] theorem onLoad_flt : (onLoad f s).flt = s.flt := rfl
@[simp] theorem onLoad_pwr : (onLoad f s).pwr = s.pwr := rfl
@[simp] theorem onLoad_clk : (onLoad f s).clk = s.clk := rfl
@[simp] theorem onLoad_svc : (onLoad f s).svc = s.svc := rfl
@[simp] theorem onLoad_reply : (onLoad f s).reply = s.reply := rfl
end

/-! `onPod` changes `pod` alone. -/
section
variable (s : State) (f : Pod → Pod)
@[simp] theorem onPod_pending : (onPod f s).pending = s.pending := rfl
@[simp] theorem onPod_frames : (onPod f s).frames = s.frames := rfl
@[simp] theorem onPod_time : (onPod f s).time = s.time := rfl
@[simp] theorem onPod_draws : (onPod f s).draws = s.draws := rfl
@[simp] theorem onPod_grid : (onPod f s).grid = s.grid := rfl
@[simp] theorem onPod_dram : (onPod f s).dram = s.dram := rfl
@[simp] theorem onPod_lath : (onPod f s).lath = s.lath := rfl
@[simp] theorem onPod_cg : (onPod f s).cg = s.cg := rfl
@[simp] theorem onPod_locks : (onPod f s).locks = s.locks := rfl
@[simp] theorem onPod_hist : (onPod f s).hist = s.hist := rfl
@[simp] theorem onPod_cal : (onPod f s).cal = s.cal := rfl
@[simp] theorem onPod_plc : (onPod f s).plc = s.plc := rfl
@[simp] theorem onPod_load : (onPod f s).load = s.load := rfl
@[simp] theorem onPod_resid : (onPod f s).resid = s.resid := rfl
@[simp] theorem onPod_delivery : (onPod f s).delivery = s.delivery := rfl
@[simp] theorem onPod_adapters : (onPod f s).adapters = s.adapters := rfl
@[simp] theorem onPod_geom : (onPod f s).geom = s.geom := rfl
@[simp] theorem onPod_eng : (onPod f s).eng = s.eng := rfl
@[simp] theorem onPod_md : (onPod f s).md = s.md := rfl
@[simp] theorem onPod_ld : (onPod f s).ld = s.ld := rfl
@[simp] theorem onPod_pod : (onPod f s).pod = f s.pod := rfl
@[simp] theorem onPod_sec : (onPod f s).sec = s.sec := rfl
@[simp] theorem onPod_flt : (onPod f s).flt = s.flt := rfl
@[simp] theorem onPod_pwr : (onPod f s).pwr = s.pwr := rfl
@[simp] theorem onPod_clk : (onPod f s).clk = s.clk := rfl
@[simp] theorem onPod_svc : (onPod f s).svc = s.svc := rfl
@[simp] theorem onPod_reply : (onPod f s).reply = s.reply := rfl
end

/-! `onSec` changes `sec` alone. -/
section
variable (s : State) (f : Sec → Sec)
@[simp] theorem onSec_pending : (onSec f s).pending = s.pending := rfl
@[simp] theorem onSec_frames : (onSec f s).frames = s.frames := rfl
@[simp] theorem onSec_time : (onSec f s).time = s.time := rfl
@[simp] theorem onSec_draws : (onSec f s).draws = s.draws := rfl
@[simp] theorem onSec_grid : (onSec f s).grid = s.grid := rfl
@[simp] theorem onSec_dram : (onSec f s).dram = s.dram := rfl
@[simp] theorem onSec_lath : (onSec f s).lath = s.lath := rfl
@[simp] theorem onSec_cg : (onSec f s).cg = s.cg := rfl
@[simp] theorem onSec_locks : (onSec f s).locks = s.locks := rfl
@[simp] theorem onSec_hist : (onSec f s).hist = s.hist := rfl
@[simp] theorem onSec_cal : (onSec f s).cal = s.cal := rfl
@[simp] theorem onSec_plc : (onSec f s).plc = s.plc := rfl
@[simp] theorem onSec_load : (onSec f s).load = s.load := rfl
@[simp] theorem onSec_resid : (onSec f s).resid = s.resid := rfl
@[simp] theorem onSec_delivery : (onSec f s).delivery = s.delivery := rfl
@[simp] theorem onSec_adapters : (onSec f s).adapters = s.adapters := rfl
@[simp] theorem onSec_geom : (onSec f s).geom = s.geom := rfl
@[simp] theorem onSec_eng : (onSec f s).eng = s.eng := rfl
@[simp] theorem onSec_md : (onSec f s).md = s.md := rfl
@[simp] theorem onSec_ld : (onSec f s).ld = s.ld := rfl
@[simp] theorem onSec_pod : (onSec f s).pod = s.pod := rfl
@[simp] theorem onSec_sec : (onSec f s).sec = f s.sec := rfl
@[simp] theorem onSec_flt : (onSec f s).flt = s.flt := rfl
@[simp] theorem onSec_pwr : (onSec f s).pwr = s.pwr := rfl
@[simp] theorem onSec_clk : (onSec f s).clk = s.clk := rfl
@[simp] theorem onSec_svc : (onSec f s).svc = s.svc := rfl
@[simp] theorem onSec_reply : (onSec f s).reply = s.reply := rfl
end

/-! `onFlt` changes `flt` alone. -/
section
variable (s : State) (f : Flt → Flt)
@[simp] theorem onFlt_pending : (onFlt f s).pending = s.pending := rfl
@[simp] theorem onFlt_frames : (onFlt f s).frames = s.frames := rfl
@[simp] theorem onFlt_time : (onFlt f s).time = s.time := rfl
@[simp] theorem onFlt_draws : (onFlt f s).draws = s.draws := rfl
@[simp] theorem onFlt_grid : (onFlt f s).grid = s.grid := rfl
@[simp] theorem onFlt_dram : (onFlt f s).dram = s.dram := rfl
@[simp] theorem onFlt_lath : (onFlt f s).lath = s.lath := rfl
@[simp] theorem onFlt_cg : (onFlt f s).cg = s.cg := rfl
@[simp] theorem onFlt_locks : (onFlt f s).locks = s.locks := rfl
@[simp] theorem onFlt_hist : (onFlt f s).hist = s.hist := rfl
@[simp] theorem onFlt_cal : (onFlt f s).cal = s.cal := rfl
@[simp] theorem onFlt_plc : (onFlt f s).plc = s.plc := rfl
@[simp] theorem onFlt_load : (onFlt f s).load = s.load := rfl
@[simp] theorem onFlt_resid : (onFlt f s).resid = s.resid := rfl
@[simp] theorem onFlt_delivery : (onFlt f s).delivery = s.delivery := rfl
@[simp] theorem onFlt_adapters : (onFlt f s).adapters = s.adapters := rfl
@[simp] theorem onFlt_geom : (onFlt f s).geom = s.geom := rfl
@[simp] theorem onFlt_eng : (onFlt f s).eng = s.eng := rfl
@[simp] theorem onFlt_md : (onFlt f s).md = s.md := rfl
@[simp] theorem onFlt_ld : (onFlt f s).ld = s.ld := rfl
@[simp] theorem onFlt_pod : (onFlt f s).pod = s.pod := rfl
@[simp] theorem onFlt_sec : (onFlt f s).sec = s.sec := rfl
@[simp] theorem onFlt_flt : (onFlt f s).flt = f s.flt := rfl
@[simp] theorem onFlt_pwr : (onFlt f s).pwr = s.pwr := rfl
@[simp] theorem onFlt_clk : (onFlt f s).clk = s.clk := rfl
@[simp] theorem onFlt_svc : (onFlt f s).svc = s.svc := rfl
@[simp] theorem onFlt_reply : (onFlt f s).reply = s.reply := rfl
end

/-! `onPwr` changes `pwr` alone. -/
section
variable (s : State) (f : Pwr → Pwr)
@[simp] theorem onPwr_pending : (onPwr f s).pending = s.pending := rfl
@[simp] theorem onPwr_frames : (onPwr f s).frames = s.frames := rfl
@[simp] theorem onPwr_time : (onPwr f s).time = s.time := rfl
@[simp] theorem onPwr_draws : (onPwr f s).draws = s.draws := rfl
@[simp] theorem onPwr_grid : (onPwr f s).grid = s.grid := rfl
@[simp] theorem onPwr_dram : (onPwr f s).dram = s.dram := rfl
@[simp] theorem onPwr_lath : (onPwr f s).lath = s.lath := rfl
@[simp] theorem onPwr_cg : (onPwr f s).cg = s.cg := rfl
@[simp] theorem onPwr_locks : (onPwr f s).locks = s.locks := rfl
@[simp] theorem onPwr_hist : (onPwr f s).hist = s.hist := rfl
@[simp] theorem onPwr_cal : (onPwr f s).cal = s.cal := rfl
@[simp] theorem onPwr_plc : (onPwr f s).plc = s.plc := rfl
@[simp] theorem onPwr_load : (onPwr f s).load = s.load := rfl
@[simp] theorem onPwr_resid : (onPwr f s).resid = s.resid := rfl
@[simp] theorem onPwr_delivery : (onPwr f s).delivery = s.delivery := rfl
@[simp] theorem onPwr_adapters : (onPwr f s).adapters = s.adapters := rfl
@[simp] theorem onPwr_geom : (onPwr f s).geom = s.geom := rfl
@[simp] theorem onPwr_eng : (onPwr f s).eng = s.eng := rfl
@[simp] theorem onPwr_md : (onPwr f s).md = s.md := rfl
@[simp] theorem onPwr_ld : (onPwr f s).ld = s.ld := rfl
@[simp] theorem onPwr_pod : (onPwr f s).pod = s.pod := rfl
@[simp] theorem onPwr_sec : (onPwr f s).sec = s.sec := rfl
@[simp] theorem onPwr_flt : (onPwr f s).flt = s.flt := rfl
@[simp] theorem onPwr_pwr : (onPwr f s).pwr = f s.pwr := rfl
@[simp] theorem onPwr_clk : (onPwr f s).clk = s.clk := rfl
@[simp] theorem onPwr_svc : (onPwr f s).svc = s.svc := rfl
@[simp] theorem onPwr_reply : (onPwr f s).reply = s.reply := rfl
end

/-! `onClk` changes `clk` alone. -/
section
variable (s : State) (f : Clk → Clk)
@[simp] theorem onClk_pending : (onClk f s).pending = s.pending := rfl
@[simp] theorem onClk_frames : (onClk f s).frames = s.frames := rfl
@[simp] theorem onClk_time : (onClk f s).time = s.time := rfl
@[simp] theorem onClk_draws : (onClk f s).draws = s.draws := rfl
@[simp] theorem onClk_grid : (onClk f s).grid = s.grid := rfl
@[simp] theorem onClk_dram : (onClk f s).dram = s.dram := rfl
@[simp] theorem onClk_lath : (onClk f s).lath = s.lath := rfl
@[simp] theorem onClk_cg : (onClk f s).cg = s.cg := rfl
@[simp] theorem onClk_locks : (onClk f s).locks = s.locks := rfl
@[simp] theorem onClk_hist : (onClk f s).hist = s.hist := rfl
@[simp] theorem onClk_cal : (onClk f s).cal = s.cal := rfl
@[simp] theorem onClk_plc : (onClk f s).plc = s.plc := rfl
@[simp] theorem onClk_load : (onClk f s).load = s.load := rfl
@[simp] theorem onClk_resid : (onClk f s).resid = s.resid := rfl
@[simp] theorem onClk_delivery : (onClk f s).delivery = s.delivery := rfl
@[simp] theorem onClk_adapters : (onClk f s).adapters = s.adapters := rfl
@[simp] theorem onClk_geom : (onClk f s).geom = s.geom := rfl
@[simp] theorem onClk_eng : (onClk f s).eng = s.eng := rfl
@[simp] theorem onClk_md : (onClk f s).md = s.md := rfl
@[simp] theorem onClk_ld : (onClk f s).ld = s.ld := rfl
@[simp] theorem onClk_pod : (onClk f s).pod = s.pod := rfl
@[simp] theorem onClk_sec : (onClk f s).sec = s.sec := rfl
@[simp] theorem onClk_flt : (onClk f s).flt = s.flt := rfl
@[simp] theorem onClk_pwr : (onClk f s).pwr = s.pwr := rfl
@[simp] theorem onClk_clk : (onClk f s).clk = f s.clk := rfl
@[simp] theorem onClk_svc : (onClk f s).svc = s.svc := rfl
@[simp] theorem onClk_reply : (onClk f s).reply = s.reply := rfl
end

/-! `onSvc` changes `svc` alone. -/
section
variable (s : State) (f : Svc → Svc)
@[simp] theorem onSvc_pending : (onSvc f s).pending = s.pending := rfl
@[simp] theorem onSvc_frames : (onSvc f s).frames = s.frames := rfl
@[simp] theorem onSvc_time : (onSvc f s).time = s.time := rfl
@[simp] theorem onSvc_draws : (onSvc f s).draws = s.draws := rfl
@[simp] theorem onSvc_grid : (onSvc f s).grid = s.grid := rfl
@[simp] theorem onSvc_dram : (onSvc f s).dram = s.dram := rfl
@[simp] theorem onSvc_lath : (onSvc f s).lath = s.lath := rfl
@[simp] theorem onSvc_cg : (onSvc f s).cg = s.cg := rfl
@[simp] theorem onSvc_locks : (onSvc f s).locks = s.locks := rfl
@[simp] theorem onSvc_hist : (onSvc f s).hist = s.hist := rfl
@[simp] theorem onSvc_cal : (onSvc f s).cal = s.cal := rfl
@[simp] theorem onSvc_plc : (onSvc f s).plc = s.plc := rfl
@[simp] theorem onSvc_load : (onSvc f s).load = s.load := rfl
@[simp] theorem onSvc_resid : (onSvc f s).resid = s.resid := rfl
@[simp] theorem onSvc_delivery : (onSvc f s).delivery = s.delivery := rfl
@[simp] theorem onSvc_adapters : (onSvc f s).adapters = s.adapters := rfl
@[simp] theorem onSvc_geom : (onSvc f s).geom = s.geom := rfl
@[simp] theorem onSvc_eng : (onSvc f s).eng = s.eng := rfl
@[simp] theorem onSvc_md : (onSvc f s).md = s.md := rfl
@[simp] theorem onSvc_ld : (onSvc f s).ld = s.ld := rfl
@[simp] theorem onSvc_pod : (onSvc f s).pod = s.pod := rfl
@[simp] theorem onSvc_sec : (onSvc f s).sec = s.sec := rfl
@[simp] theorem onSvc_flt : (onSvc f s).flt = s.flt := rfl
@[simp] theorem onSvc_pwr : (onSvc f s).pwr = s.pwr := rfl
@[simp] theorem onSvc_clk : (onSvc f s).clk = s.clk := rfl
@[simp] theorem onSvc_svc : (onSvc f s).svc = f s.svc := rfl
@[simp] theorem onSvc_reply : (onSvc f s).reply = s.reply := rfl
end

/-! `latch` changes `reply` alone. -/
section
variable (s : State) (r : Reply)
@[simp] theorem latch_pending : (latch s r).pending = s.pending := rfl
@[simp] theorem latch_frames : (latch s r).frames = s.frames := rfl
@[simp] theorem latch_time : (latch s r).time = s.time := rfl
@[simp] theorem latch_draws : (latch s r).draws = s.draws := rfl
@[simp] theorem latch_grid : (latch s r).grid = s.grid := rfl
@[simp] theorem latch_dram : (latch s r).dram = s.dram := rfl
@[simp] theorem latch_lath : (latch s r).lath = s.lath := rfl
@[simp] theorem latch_cg : (latch s r).cg = s.cg := rfl
@[simp] theorem latch_locks : (latch s r).locks = s.locks := rfl
@[simp] theorem latch_hist : (latch s r).hist = s.hist := rfl
@[simp] theorem latch_cal : (latch s r).cal = s.cal := rfl
@[simp] theorem latch_plc : (latch s r).plc = s.plc := rfl
@[simp] theorem latch_load : (latch s r).load = s.load := rfl
@[simp] theorem latch_resid : (latch s r).resid = s.resid := rfl
@[simp] theorem latch_delivery : (latch s r).delivery = s.delivery := rfl
@[simp] theorem latch_adapters : (latch s r).adapters = s.adapters := rfl
@[simp] theorem latch_geom : (latch s r).geom = s.geom := rfl
@[simp] theorem latch_eng : (latch s r).eng = s.eng := rfl
@[simp] theorem latch_md : (latch s r).md = s.md := rfl
@[simp] theorem latch_ld : (latch s r).ld = s.ld := rfl
@[simp] theorem latch_pod : (latch s r).pod = s.pod := rfl
@[simp] theorem latch_sec : (latch s r).sec = s.sec := rfl
@[simp] theorem latch_flt : (latch s r).flt = s.flt := rfl
@[simp] theorem latch_pwr : (latch s r).pwr = s.pwr := rfl
@[simp] theorem latch_clk : (latch s r).clk = s.clk := rfl
@[simp] theorem latch_svc : (latch s r).svc = s.svc := rfl
@[simp] theorem latch_reply : (latch s r).reply = some r := rfl
end

/-! `answer` changes `reply` alone. -/
section
variable (s : State) (c : Nat) (w : List RWord)
@[simp] theorem answer_pending : (answer s c w).pending = s.pending := rfl
@[simp] theorem answer_frames : (answer s c w).frames = s.frames := rfl
@[simp] theorem answer_time : (answer s c w).time = s.time := rfl
@[simp] theorem answer_draws : (answer s c w).draws = s.draws := rfl
@[simp] theorem answer_grid : (answer s c w).grid = s.grid := rfl
@[simp] theorem answer_dram : (answer s c w).dram = s.dram := rfl
@[simp] theorem answer_lath : (answer s c w).lath = s.lath := rfl
@[simp] theorem answer_cg : (answer s c w).cg = s.cg := rfl
@[simp] theorem answer_locks : (answer s c w).locks = s.locks := rfl
@[simp] theorem answer_hist : (answer s c w).hist = s.hist := rfl
@[simp] theorem answer_cal : (answer s c w).cal = s.cal := rfl
@[simp] theorem answer_plc : (answer s c w).plc = s.plc := rfl
@[simp] theorem answer_load : (answer s c w).load = s.load := rfl
@[simp] theorem answer_resid : (answer s c w).resid = s.resid := rfl
@[simp] theorem answer_delivery : (answer s c w).delivery = s.delivery := rfl
@[simp] theorem answer_adapters : (answer s c w).adapters = s.adapters := rfl
@[simp] theorem answer_geom : (answer s c w).geom = s.geom := rfl
@[simp] theorem answer_eng : (answer s c w).eng = s.eng := rfl
@[simp] theorem answer_md : (answer s c w).md = s.md := rfl
@[simp] theorem answer_ld : (answer s c w).ld = s.ld := rfl
@[simp] theorem answer_pod : (answer s c w).pod = s.pod := rfl
@[simp] theorem answer_sec : (answer s c w).sec = s.sec := rfl
@[simp] theorem answer_flt : (answer s c w).flt = s.flt := rfl
@[simp] theorem answer_pwr : (answer s c w).pwr = s.pwr := rfl
@[simp] theorem answer_clk : (answer s c w).clk = s.clk := rfl
@[simp] theorem answer_svc : (answer s c w).svc = s.svc := rfl
@[simp] theorem answer_reply : (answer s c w).reply = some ⟨c, w, []⟩ := rfl
end

/-! `answerCode` changes `reply` alone. -/
section
variable (s : State) (c : Nat)
@[simp] theorem answerCode_pending : (answerCode s c).pending = s.pending := rfl
@[simp] theorem answerCode_frames : (answerCode s c).frames = s.frames := rfl
@[simp] theorem answerCode_time : (answerCode s c).time = s.time := rfl
@[simp] theorem answerCode_draws : (answerCode s c).draws = s.draws := rfl
@[simp] theorem answerCode_grid : (answerCode s c).grid = s.grid := rfl
@[simp] theorem answerCode_dram : (answerCode s c).dram = s.dram := rfl
@[simp] theorem answerCode_lath : (answerCode s c).lath = s.lath := rfl
@[simp] theorem answerCode_cg : (answerCode s c).cg = s.cg := rfl
@[simp] theorem answerCode_locks : (answerCode s c).locks = s.locks := rfl
@[simp] theorem answerCode_hist : (answerCode s c).hist = s.hist := rfl
@[simp] theorem answerCode_cal : (answerCode s c).cal = s.cal := rfl
@[simp] theorem answerCode_plc : (answerCode s c).plc = s.plc := rfl
@[simp] theorem answerCode_load : (answerCode s c).load = s.load := rfl
@[simp] theorem answerCode_resid : (answerCode s c).resid = s.resid := rfl
@[simp] theorem answerCode_delivery : (answerCode s c).delivery = s.delivery := rfl
@[simp] theorem answerCode_adapters : (answerCode s c).adapters = s.adapters := rfl
@[simp] theorem answerCode_geom : (answerCode s c).geom = s.geom := rfl
@[simp] theorem answerCode_eng : (answerCode s c).eng = s.eng := rfl
@[simp] theorem answerCode_md : (answerCode s c).md = s.md := rfl
@[simp] theorem answerCode_ld : (answerCode s c).ld = s.ld := rfl
@[simp] theorem answerCode_pod : (answerCode s c).pod = s.pod := rfl
@[simp] theorem answerCode_sec : (answerCode s c).sec = s.sec := rfl
@[simp] theorem answerCode_flt : (answerCode s c).flt = s.flt := rfl
@[simp] theorem answerCode_pwr : (answerCode s c).pwr = s.pwr := rfl
@[simp] theorem answerCode_clk : (answerCode s c).clk = s.clk := rfl
@[simp] theorem answerCode_svc : (answerCode s c).svc = s.svc := rfl
@[simp] theorem answerCode_reply : (answerCode s c).reply = some ⟨c, [], []⟩ := rfl
end

/-! `tilePut` changes `grid` alone. -/
section
variable (s : State) (z : Nat) (t : Tile)
@[simp] theorem tilePut_pending : (tilePut s z t).pending = s.pending := rfl
@[simp] theorem tilePut_frames : (tilePut s z t).frames = s.frames := rfl
@[simp] theorem tilePut_time : (tilePut s z t).time = s.time := rfl
@[simp] theorem tilePut_draws : (tilePut s z t).draws = s.draws := rfl
@[simp] theorem tilePut_grid : (tilePut s z t).grid = { s.grid with tiles := sset Tile.reset s.grid.tiles z t } := rfl
@[simp] theorem tilePut_dram : (tilePut s z t).dram = s.dram := rfl
@[simp] theorem tilePut_lath : (tilePut s z t).lath = s.lath := rfl
@[simp] theorem tilePut_cg : (tilePut s z t).cg = s.cg := rfl
@[simp] theorem tilePut_locks : (tilePut s z t).locks = s.locks := rfl
@[simp] theorem tilePut_hist : (tilePut s z t).hist = s.hist := rfl
@[simp] theorem tilePut_cal : (tilePut s z t).cal = s.cal := rfl
@[simp] theorem tilePut_plc : (tilePut s z t).plc = s.plc := rfl
@[simp] theorem tilePut_load : (tilePut s z t).load = s.load := rfl
@[simp] theorem tilePut_resid : (tilePut s z t).resid = s.resid := rfl
@[simp] theorem tilePut_delivery : (tilePut s z t).delivery = s.delivery := rfl
@[simp] theorem tilePut_adapters : (tilePut s z t).adapters = s.adapters := rfl
@[simp] theorem tilePut_geom : (tilePut s z t).geom = s.geom := rfl
@[simp] theorem tilePut_eng : (tilePut s z t).eng = s.eng := rfl
@[simp] theorem tilePut_md : (tilePut s z t).md = s.md := rfl
@[simp] theorem tilePut_ld : (tilePut s z t).ld = s.ld := rfl
@[simp] theorem tilePut_pod : (tilePut s z t).pod = s.pod := rfl
@[simp] theorem tilePut_sec : (tilePut s z t).sec = s.sec := rfl
@[simp] theorem tilePut_flt : (tilePut s z t).flt = s.flt := rfl
@[simp] theorem tilePut_pwr : (tilePut s z t).pwr = s.pwr := rfl
@[simp] theorem tilePut_clk : (tilePut s z t).clk = s.clk := rfl
@[simp] theorem tilePut_svc : (tilePut s z t).svc = s.svc := rfl
@[simp] theorem tilePut_reply : (tilePut s z t).reply = s.reply := rfl
end

/-! `linkPut` changes `ld` alone. -/
section
variable (s : State) (n : Nat) (d : LinkDie)
@[simp] theorem linkPut_pending : (linkPut s n d).pending = s.pending := rfl
@[simp] theorem linkPut_frames : (linkPut s n d).frames = s.frames := rfl
@[simp] theorem linkPut_time : (linkPut s n d).time = s.time := rfl
@[simp] theorem linkPut_draws : (linkPut s n d).draws = s.draws := rfl
@[simp] theorem linkPut_grid : (linkPut s n d).grid = s.grid := rfl
@[simp] theorem linkPut_dram : (linkPut s n d).dram = s.dram := rfl
@[simp] theorem linkPut_lath : (linkPut s n d).lath = s.lath := rfl
@[simp] theorem linkPut_cg : (linkPut s n d).cg = s.cg := rfl
@[simp] theorem linkPut_locks : (linkPut s n d).locks = s.locks := rfl
@[simp] theorem linkPut_hist : (linkPut s n d).hist = s.hist := rfl
@[simp] theorem linkPut_cal : (linkPut s n d).cal = s.cal := rfl
@[simp] theorem linkPut_plc : (linkPut s n d).plc = s.plc := rfl
@[simp] theorem linkPut_load : (linkPut s n d).load = s.load := rfl
@[simp] theorem linkPut_resid : (linkPut s n d).resid = s.resid := rfl
@[simp] theorem linkPut_delivery : (linkPut s n d).delivery = s.delivery := rfl
@[simp] theorem linkPut_adapters : (linkPut s n d).adapters = s.adapters := rfl
@[simp] theorem linkPut_geom : (linkPut s n d).geom = s.geom := rfl
@[simp] theorem linkPut_eng : (linkPut s n d).eng = s.eng := rfl
@[simp] theorem linkPut_md : (linkPut s n d).md = s.md := rfl
@[simp] theorem linkPut_ld : (linkPut s n d).ld = sset LinkDie.reset s.ld n d := rfl
@[simp] theorem linkPut_pod : (linkPut s n d).pod = s.pod := rfl
@[simp] theorem linkPut_sec : (linkPut s n d).sec = s.sec := rfl
@[simp] theorem linkPut_flt : (linkPut s n d).flt = s.flt := rfl
@[simp] theorem linkPut_pwr : (linkPut s n d).pwr = s.pwr := rfl
@[simp] theorem linkPut_clk : (linkPut s n d).clk = s.clk := rfl
@[simp] theorem linkPut_svc : (linkPut s n d).svc = s.svc := rfl
@[simp] theorem linkPut_reply : (linkPut s n d).reply = s.reply := rfl
end

/-! `mdPut` changes `md` alone. -/
section
variable (s : State) (n : Nat) (d : MemDie)
@[simp] theorem mdPut_pending : (mdPut s n d).pending = s.pending := rfl
@[simp] theorem mdPut_frames : (mdPut s n d).frames = s.frames := rfl
@[simp] theorem mdPut_time : (mdPut s n d).time = s.time := rfl
@[simp] theorem mdPut_draws : (mdPut s n d).draws = s.draws := rfl
@[simp] theorem mdPut_grid : (mdPut s n d).grid = s.grid := rfl
@[simp] theorem mdPut_dram : (mdPut s n d).dram = s.dram := rfl
@[simp] theorem mdPut_lath : (mdPut s n d).lath = s.lath := rfl
@[simp] theorem mdPut_cg : (mdPut s n d).cg = s.cg := rfl
@[simp] theorem mdPut_locks : (mdPut s n d).locks = s.locks := rfl
@[simp] theorem mdPut_hist : (mdPut s n d).hist = s.hist := rfl
@[simp] theorem mdPut_cal : (mdPut s n d).cal = s.cal := rfl
@[simp] theorem mdPut_plc : (mdPut s n d).plc = s.plc := rfl
@[simp] theorem mdPut_load : (mdPut s n d).load = s.load := rfl
@[simp] theorem mdPut_resid : (mdPut s n d).resid = s.resid := rfl
@[simp] theorem mdPut_delivery : (mdPut s n d).delivery = s.delivery := rfl
@[simp] theorem mdPut_adapters : (mdPut s n d).adapters = s.adapters := rfl
@[simp] theorem mdPut_geom : (mdPut s n d).geom = s.geom := rfl
@[simp] theorem mdPut_eng : (mdPut s n d).eng = s.eng := rfl
@[simp] theorem mdPut_md : (mdPut s n d).md = sset MemDie.reset s.md n d := rfl
@[simp] theorem mdPut_ld : (mdPut s n d).ld = s.ld := rfl
@[simp] theorem mdPut_pod : (mdPut s n d).pod = s.pod := rfl
@[simp] theorem mdPut_sec : (mdPut s n d).sec = s.sec := rfl
@[simp] theorem mdPut_flt : (mdPut s n d).flt = s.flt := rfl
@[simp] theorem mdPut_pwr : (mdPut s n d).pwr = s.pwr := rfl
@[simp] theorem mdPut_clk : (mdPut s n d).clk = s.clk := rfl
@[simp] theorem mdPut_svc : (mdPut s n d).svc = s.svc := rfl
@[simp] theorem mdPut_reply : (mdPut s n d).reply = s.reply := rfl
end

/-! `engPut` changes `eng` alone. -/
section
variable (s : State) (n : Nat) (e : Engine)
@[simp] theorem engPut_pending : (engPut s n e).pending = s.pending := rfl
@[simp] theorem engPut_frames : (engPut s n e).frames = s.frames := rfl
@[simp] theorem engPut_time : (engPut s n e).time = s.time := rfl
@[simp] theorem engPut_draws : (engPut s n e).draws = s.draws := rfl
@[simp] theorem engPut_grid : (engPut s n e).grid = s.grid := rfl
@[simp] theorem engPut_dram : (engPut s n e).dram = s.dram := rfl
@[simp] theorem engPut_lath : (engPut s n e).lath = s.lath := rfl
@[simp] theorem engPut_cg : (engPut s n e).cg = s.cg := rfl
@[simp] theorem engPut_locks : (engPut s n e).locks = s.locks := rfl
@[simp] theorem engPut_hist : (engPut s n e).hist = s.hist := rfl
@[simp] theorem engPut_cal : (engPut s n e).cal = s.cal := rfl
@[simp] theorem engPut_plc : (engPut s n e).plc = s.plc := rfl
@[simp] theorem engPut_load : (engPut s n e).load = s.load := rfl
@[simp] theorem engPut_resid : (engPut s n e).resid = s.resid := rfl
@[simp] theorem engPut_delivery : (engPut s n e).delivery = s.delivery := rfl
@[simp] theorem engPut_adapters : (engPut s n e).adapters = s.adapters := rfl
@[simp] theorem engPut_geom : (engPut s n e).geom = s.geom := rfl
@[simp] theorem engPut_eng : (engPut s n e).eng = sset Engine.reset s.eng n e := rfl
@[simp] theorem engPut_md : (engPut s n e).md = s.md := rfl
@[simp] theorem engPut_ld : (engPut s n e).ld = s.ld := rfl
@[simp] theorem engPut_pod : (engPut s n e).pod = s.pod := rfl
@[simp] theorem engPut_sec : (engPut s n e).sec = s.sec := rfl
@[simp] theorem engPut_flt : (engPut s n e).flt = s.flt := rfl
@[simp] theorem engPut_pwr : (engPut s n e).pwr = s.pwr := rfl
@[simp] theorem engPut_clk : (engPut s n e).clk = s.clk := rfl
@[simp] theorem engPut_svc : (engPut s n e).svc = s.svc := rfl
@[simp] theorem engPut_reply : (engPut s n e).reply = s.reply := rfl
end

/-! `residUpd` changes `resid` alone. -/
section
variable (s : State) (m : Nat) (f : Resid → Resid)
@[simp] theorem residUpd_pending : (residUpd m f s).pending = s.pending := rfl
@[simp] theorem residUpd_frames : (residUpd m f s).frames = s.frames := rfl
@[simp] theorem residUpd_time : (residUpd m f s).time = s.time := rfl
@[simp] theorem residUpd_draws : (residUpd m f s).draws = s.draws := rfl
@[simp] theorem residUpd_grid : (residUpd m f s).grid = s.grid := rfl
@[simp] theorem residUpd_dram : (residUpd m f s).dram = s.dram := rfl
@[simp] theorem residUpd_lath : (residUpd m f s).lath = s.lath := rfl
@[simp] theorem residUpd_cg : (residUpd m f s).cg = s.cg := rfl
@[simp] theorem residUpd_locks : (residUpd m f s).locks = s.locks := rfl
@[simp] theorem residUpd_hist : (residUpd m f s).hist = s.hist := rfl
@[simp] theorem residUpd_cal : (residUpd m f s).cal = s.cal := rfl
@[simp] theorem residUpd_plc : (residUpd m f s).plc = s.plc := rfl
@[simp] theorem residUpd_load : (residUpd m f s).load = s.load := rfl
@[simp] theorem residUpd_resid : (residUpd m f s).resid = supd Resid.free s.resid m f := rfl
@[simp] theorem residUpd_delivery : (residUpd m f s).delivery = s.delivery := rfl
@[simp] theorem residUpd_adapters : (residUpd m f s).adapters = s.adapters := rfl
@[simp] theorem residUpd_geom : (residUpd m f s).geom = s.geom := rfl
@[simp] theorem residUpd_eng : (residUpd m f s).eng = s.eng := rfl
@[simp] theorem residUpd_md : (residUpd m f s).md = s.md := rfl
@[simp] theorem residUpd_ld : (residUpd m f s).ld = s.ld := rfl
@[simp] theorem residUpd_pod : (residUpd m f s).pod = s.pod := rfl
@[simp] theorem residUpd_sec : (residUpd m f s).sec = s.sec := rfl
@[simp] theorem residUpd_flt : (residUpd m f s).flt = s.flt := rfl
@[simp] theorem residUpd_pwr : (residUpd m f s).pwr = s.pwr := rfl
@[simp] theorem residUpd_clk : (residUpd m f s).clk = s.clk := rfl
@[simp] theorem residUpd_svc : (residUpd m f s).svc = s.svc := rfl
@[simp] theorem residUpd_reply : (residUpd m f s).reply = s.reply := rfl
end

/-! `zoneUpd` changes `pwr` alone. -/
section
variable (s : State) (z : Nat) (f : Zone → Zone)
@[simp] theorem zoneUpd_pending : (zoneUpd z f s).pending = s.pending := rfl
@[simp] theorem zoneUpd_frames : (zoneUpd z f s).frames = s.frames := rfl
@[simp] theorem zoneUpd_time : (zoneUpd z f s).time = s.time := rfl
@[simp] theorem zoneUpd_draws : (zoneUpd z f s).draws = s.draws := rfl
@[simp] theorem zoneUpd_grid : (zoneUpd z f s).grid = s.grid := rfl
@[simp] theorem zoneUpd_dram : (zoneUpd z f s).dram = s.dram := rfl
@[simp] theorem zoneUpd_lath : (zoneUpd z f s).lath = s.lath := rfl
@[simp] theorem zoneUpd_cg : (zoneUpd z f s).cg = s.cg := rfl
@[simp] theorem zoneUpd_locks : (zoneUpd z f s).locks = s.locks := rfl
@[simp] theorem zoneUpd_hist : (zoneUpd z f s).hist = s.hist := rfl
@[simp] theorem zoneUpd_cal : (zoneUpd z f s).cal = s.cal := rfl
@[simp] theorem zoneUpd_plc : (zoneUpd z f s).plc = s.plc := rfl
@[simp] theorem zoneUpd_load : (zoneUpd z f s).load = s.load := rfl
@[simp] theorem zoneUpd_resid : (zoneUpd z f s).resid = s.resid := rfl
@[simp] theorem zoneUpd_delivery : (zoneUpd z f s).delivery = s.delivery := rfl
@[simp] theorem zoneUpd_adapters : (zoneUpd z f s).adapters = s.adapters := rfl
@[simp] theorem zoneUpd_geom : (zoneUpd z f s).geom = s.geom := rfl
@[simp] theorem zoneUpd_eng : (zoneUpd z f s).eng = s.eng := rfl
@[simp] theorem zoneUpd_md : (zoneUpd z f s).md = s.md := rfl
@[simp] theorem zoneUpd_ld : (zoneUpd z f s).ld = s.ld := rfl
@[simp] theorem zoneUpd_pod : (zoneUpd z f s).pod = s.pod := rfl
@[simp] theorem zoneUpd_sec : (zoneUpd z f s).sec = s.sec := rfl
@[simp] theorem zoneUpd_flt : (zoneUpd z f s).flt = s.flt := rfl
@[simp] theorem zoneUpd_pwr : (zoneUpd z f s).pwr = { s.pwr with zones := supd Zone.reset s.pwr.zones z f } := rfl
@[simp] theorem zoneUpd_clk : (zoneUpd z f s).clk = s.clk := rfl
@[simp] theorem zoneUpd_svc : (zoneUpd z f s).svc = s.svc := rfl
@[simp] theorem zoneUpd_reply : (zoneUpd z f s).reply = s.reply := rfl
end

/-! `queued` changes `pending` alone. -/
section
variable (s : State) (c : Instr)
@[simp] theorem queued_pending : (queued c s).pending = c :: s.pending := rfl
@[simp] theorem queued_frames : (queued c s).frames = s.frames := rfl
@[simp] theorem queued_time : (queued c s).time = s.time := rfl
@[simp] theorem queued_draws : (queued c s).draws = s.draws := rfl
@[simp] theorem queued_grid : (queued c s).grid = s.grid := rfl
@[simp] theorem queued_dram : (queued c s).dram = s.dram := rfl
@[simp] theorem queued_lath : (queued c s).lath = s.lath := rfl
@[simp] theorem queued_cg : (queued c s).cg = s.cg := rfl
@[simp] theorem queued_locks : (queued c s).locks = s.locks := rfl
@[simp] theorem queued_hist : (queued c s).hist = s.hist := rfl
@[simp] theorem queued_cal : (queued c s).cal = s.cal := rfl
@[simp] theorem queued_plc : (queued c s).plc = s.plc := rfl
@[simp] theorem queued_load : (queued c s).load = s.load := rfl
@[simp] theorem queued_resid : (queued c s).resid = s.resid := rfl
@[simp] theorem queued_delivery : (queued c s).delivery = s.delivery := rfl
@[simp] theorem queued_adapters : (queued c s).adapters = s.adapters := rfl
@[simp] theorem queued_geom : (queued c s).geom = s.geom := rfl
@[simp] theorem queued_eng : (queued c s).eng = s.eng := rfl
@[simp] theorem queued_md : (queued c s).md = s.md := rfl
@[simp] theorem queued_ld : (queued c s).ld = s.ld := rfl
@[simp] theorem queued_pod : (queued c s).pod = s.pod := rfl
@[simp] theorem queued_sec : (queued c s).sec = s.sec := rfl
@[simp] theorem queued_flt : (queued c s).flt = s.flt := rfl
@[simp] theorem queued_pwr : (queued c s).pwr = s.pwr := rfl
@[simp] theorem queued_clk : (queued c s).clk = s.clk := rfl
@[simp] theorem queued_svc : (queued c s).svc = s.svc := rfl
@[simp] theorem queued_reply : (queued c s).reply = s.reply := rfl
end

end Sys2Proof.Machine
end

