-- ==== Sys2Proof/Laws/Memory.lean ====
section
/-! SUPPORT. Module DRAM: what a read, a write and a masked write do to its bytes, and that every operation keeps its canonical
form. -/

namespace Sys2Proof.Machine

/-! ### Bytes of words -/

/-- Two bytes are equal when their bits are. -/
theorem byte_ext {x y : Byte} (h : ∀ i < 8, x.getLsbD i = y.getLsbD i) : x = y := BitVec.eq_of_getLsbD_eq (fun i hi => h i hi)

/-- A bit of the byte that lies at a byte offset of a word. -/
theorem byte_bit (w : Word) (j i : Nat) (hi : i < 8) : ((w >>> (8 * j)).setWidth 8 : Byte).getLsbD i = w.getLsbD (8 * j + i) := by
  simp [hi]

/-- A bit of a byte mask moved to its place. -/
theorem ff_bit (b n : Nat) (hn : n < 64) : ((0xFF : Word) <<< (8 * b)).getLsbD n = decide (8 * b ≤ n ∧ n < 8 * b + 8) := by
  have h : ∀ m, (0xFF : Word).getLsbD m = decide (m < 8) := by
    intro m
    by_cases hm : m < 64
    · have : ∀ m : Fin 64, (0xFF : Word).getLsbD m.val = decide (m.val < 8) := by decide
      exact this ⟨m, hm⟩
    · rw [BitVec.getLsbD_of_ge _ _ (by omega)]; simp; omega
  rw [BitVec.getLsbD_shiftLeft, h]
  by_cases h1 : 8 * b ≤ n
  · have : (n - 8 * b < 8) = (n < 8 * b + 8) := by simp; omega
    simp [hn, h1, this]
  · have : n < 8 * b := by omega
    simp [hn, h1, this]

/-- Bits of the merge of a masked write (R451). -/
theorem merge_bit (m : Byte) (v x : Word) (k n : Nat) (hn : n < 64) :
    ((List.range k).foldl (fun (acc : Word) b =>
      if m.getLsbD b then (acc &&& ~~~((0xFF : Word) <<< (8 * b))) ||| (v &&& ((0xFF : Word) <<< (8 * b))) else acc) x).getLsbD n =
    if n / 8 < k ∧ m.getLsbD (n / 8) = true then v.getLsbD n else x.getLsbD n := by
  induction k with
  | zero => simp
  | succ k ih =>
    rw [List.range_succ, List.foldl_append, List.foldl_cons, List.foldl_nil]
    by_cases hk : m.getLsbD k = true
    · rw [if_pos hk, BitVec.getLsbD_or, BitVec.getLsbD_and, BitVec.getLsbD_and, BitVec.getLsbD_not, ff_bit _ _ hn, ih]
      by_cases h8 : n / 8 = k
      · have h1 : 8 * k ≤ n ∧ n < 8 * k + 8 := by omega
        simp [h1, hn, h8, hk]
      · have h1 : ¬ (8 * k ≤ n ∧ n < 8 * k + 8) := by omega
        have h2 : (n / 8 < k + 1) = (n / 8 < k) := by simp; omega
        simp [h1, hn, h2]
    · rw [if_neg hk, ih]
      by_cases h8 : n / 8 = k
      · simp [h8, hk]
      · have h2 : (n / 8 < k + 1) = (n / 8 < k) := by simp; omega
        simp [h2]

/-! ### The word that a read, a write and a masked write leave -/

/-- A report leaves module DRAM. -/
@[simp] theorem sendRpt_dram (s : State) (n : Nat) (code : BitVec 6) (loc : Word) (xs : List Word) : (sendRpt s n code loc xs).dram = s.dram := rfl

/-- A read leaves the bits of every word (R451). -/
@[simp] theorem dramRead_bits (s : State) (w k : Nat) :
    (sget SWord.zero (dramRead s w).2.dram k).bits = (sget SWord.zero s.dram k).bits := by
  unfold dramRead
  simp only
  split
  · rfl
  · simp only [mdPut_dram, sget_sset]; split <;> simp_all
  · rw [sendRpt_dram]; rfl

/-- A read answers the bits of its word. -/
@[simp] theorem dramRead_val (s : State) (w : Nat) : (dramRead s w).1.bits = (sget SWord.zero s.dram w).bits := by
  unfold dramRead; simp only; split <;> rfl

/-- A read of a word without an error has no effect. -/
theorem dramRead_good {s : State} {w : Nat} (h : (sget SWord.zero s.dram w).ecc = .good) :
    dramRead s w = (⟨(sget SWord.zero s.dram w).bits, false⟩, s) := by
  unfold dramRead; simp only [h]

/-- A whole-word write: the word holds the value without an error, and no other word changes. -/
@[simp] theorem dramWrite_word (s : State) (w k : Nat) (v : Word) :
    sget SWord.zero (dramWrite s w v).dram k = if k = w then ⟨v, .good⟩ else sget SWord.zero s.dram k := by
  unfold dramWrite; simp only; split <;> simp [sget_sset]

/-- Bits of a word after a masked write: those of the enabled bytes come from the value. -/
theorem dramMask_bit (s : State) (w k n : Nat) (m : Byte) (v : Word) (hn : n < 64) :
    (sget SWord.zero (dramMask s w m v).dram k).bits.getLsbD n =
      if k = w ∧ m.getLsbD (n / 8) = true then v.getLsbD n else (sget SWord.zero s.dram k).bits.getLsbD n := by
  have h8 : n / 8 < 8 := by omega
  unfold dramMask
  split
  · rename_i h
    subst h
    have : (0xFF : Byte).getLsbD (n / 8) = true := by
      have : ∀ i : Fin 8, (0xFF : Byte).getLsbD i.val = true := by decide
      exact this ⟨n / 8, h8⟩
    rw [dramWrite_word]
    by_cases hk : k = w
    · rw [if_pos hk, if_pos ⟨hk, this⟩]
    · rw [if_neg hk, if_neg (fun hc => hk hc.1)]
  · split
    · rename_i h; subst h; simp
    · simp only
      split
      · simp only [sget_sset]
        by_cases hk : k = w
        · subst hk; simp only [if_true, true_and]; rw [merge_bit _ _ _ _ _ hn]; simp [h8]
        · simp [hk]
      · rw [dramWrite_word]
        by_cases hk : k = w
        · subst hk; simp only [if_true, true_and]; rw [merge_bit _ _ _ _ _ hn]; simp [h8]
        · simp [hk]

/-- A byte of module DRAM after a masked write of a word. -/
theorem dramMask_byte (s : State) (w b : Nat) (m : Byte) (v : Word) :
    dramByte (dramMask s w m v) b =
      if b / 8 = w ∧ m.getLsbD (b % 8) = true then (v >>> (8 * (b % 8))).setWidth 8 else dramByte s b := by
  have h64 : ∀ i < 8, 8 * (b % 8) + i < 64 := by intro i hi; omega
  have hd : ∀ i < 8, (8 * (b % 8) + i) / 8 = b % 8 := by intro i hi; omega
  apply byte_ext
  intro i hi
  rw [show dramByte (dramMask s w m v) b = (((sget SWord.zero (dramMask s w m v).dram (b / 8)).bits >>> (8 * (b % 8))).setWidth 8) from rfl,
    byte_bit _ _ _ hi, dramMask_bit _ _ _ _ _ _ (h64 i hi), hd i hi]
  by_cases h : b / 8 = w ∧ m.getLsbD (b % 8) = true
  · rw [if_pos h, if_pos h, byte_bit _ _ _ hi]
  · rw [if_neg h, if_neg h]
    show _ = (((sget SWord.zero s.dram (b / 8)).bits >>> (8 * (b % 8))).setWidth 8 : Byte).getLsbD i
    rw [byte_bit _ _ _ hi]

/-- A byte of module DRAM after a whole-word write. -/
theorem dramWrite_byte (s : State) (w b : Nat) (v : Word) :
    dramByte (dramWrite s w v) b = if b / 8 = w then (v >>> (8 * (b % 8))).setWidth 8 else dramByte s b := by
  unfold dramByte
  rw [dramWrite_word]
  split <;> rfl

/-- A read leaves every byte of module DRAM. -/
@[simp] theorem dramRead_byte (s : State) (w b : Nat) : dramByte (dramRead s w).2 b = dramByte s b := by
  unfold dramByte; rw [dramRead_bits]

/-- A byte of module DRAM after masked writes of the words of a run, in order. -/
theorem dramMasks_byte (s : State) (w n b : Nat) (m : Nat → Byte) (v : Nat → Word) :
    dramByte ((List.range n).foldl (fun acc k => dramMask acc (w + k) (m k) (v k)) s) b =
      if w ≤ b / 8 ∧ b / 8 < w + n ∧ (m (b / 8 - w)).getLsbD (b % 8) = true then
        (v (b / 8 - w) >>> (8 * (b % 8))).setWidth 8 else dramByte s b := by
  induction n with
  | zero => rw [if_neg (by omega)]; rfl
  | succ n ih =>
    rw [List.range_succ, List.foldl_append, List.foldl_cons, List.foldl_nil, dramMask_byte, ih]
    by_cases h : b / 8 = w + n
    · have h1 : b / 8 - w = n := by omega
      rw [h1]
      by_cases hm : (m n).getLsbD (b % 8) = true
      · rw [if_pos ⟨h, hm⟩, if_pos ⟨by omega, by omega, hm⟩]
      · rw [if_neg (fun hc => hm hc.2), if_neg (fun hc => hm hc.2.2), if_neg (fun hc => hm hc.2.2)]
    · rw [if_neg (fun hc => h hc.1)]
      by_cases h2 : w ≤ b / 8 ∧ b / 8 < w + n ∧ (m (b / 8 - w)).getLsbD (b % 8) = true
      · rw [if_pos h2, if_pos ⟨h2.1, by omega, h2.2.2⟩]
      · rw [if_neg h2, if_neg (fun hc => h2 ⟨hc.1, by omega, hc.2.2⟩)]

/-- Reading a run of words without errors has no effect. -/
theorem dramReads_good (s : State) (w n : Nat) (h : ∀ i < n, (sget SWord.zero s.dram (w + i)).ecc = .good) :
    dramReads s w n = ((List.range n).map (fun i => (⟨(sget SWord.zero s.dram (w + i)).bits, false⟩ : RWord)), s) := by
  unfold dramReads
  induction n with
  | zero => rfl
  | succ n ih =>
    rw [List.range_succ, List.foldl_append, ih (fun i hi => h i (by omega))]
    simp only [List.foldl_cons, List.foldl_nil, List.map_append, List.map_cons, List.map_nil]
    rw [dramRead_good (h n (by omega))]

/-! ### The canonical form (MEMORY) -/

/-- A fold of operations that keep the canonical form keeps it. -/
theorem foldl_wf {β : Type} (f : State → β → State) (h : ∀ s x, Memory.wf s.dram → Memory.wf (f s x).dram) (l : List β) (s : State)
    (hs : Memory.wf s.dram) : Memory.wf (l.foldl f s).dram := by
  induction l generalizing s with
  | nil => exact hs
  | cons x l ih => exact ih _ (h s x hs)

theorem dramRead_wf (s : State) (w : Nat) (h : Memory.wf s.dram) : Memory.wf (dramRead s w).2.dram := by
  unfold dramRead
  simp only
  split
  · exact h
  · exact SWf.sset h _ _
  · exact h

theorem dramWrite_wf (s : State) (w : Nat) (v : Word) (h : Memory.wf s.dram) : Memory.wf (dramWrite s w v).dram := by
  unfold dramWrite
  simp only
  split
  · exact SWf.sset (by exact h) _ _
  · exact SWf.sset h _ _

theorem dramMask_wf (s : State) (w : Nat) (m : Byte) (v : Word) (h : Memory.wf s.dram) : Memory.wf (dramMask s w m v).dram := by
  unfold dramMask
  split
  · exact dramWrite_wf _ _ _ h
  · split
    · exact h
    · simp only
      split
      · exact SWf.sset (dramRead_wf _ _ h) _ _
      · exact dramWrite_wf _ _ _ (dramRead_wf _ _ h)

theorem dramReads_wf (s : State) (w n : Nat) (h : Memory.wf s.dram) : Memory.wf (dramReads s w n).2.dram := by
  unfold dramReads
  induction n with
  | zero => exact h
  | succ n ih => rw [List.range_succ, List.foldl_append]; exact dramRead_wf _ _ ih

theorem dramWrites_wf (s : State) (w : Nat) (vs : List Word) (h : Memory.wf s.dram) : Memory.wf (dramWrites s w vs).dram :=
  foldl_wf _ (fun s _ hs => dramWrite_wf s _ _ hs) _ s h

theorem dramZero_wf (s : State) (w n : Nat) (h : Memory.wf s.dram) : Memory.wf (dramZero s w n).dram := by
  unfold dramZero
  simp only
  exact SWf.skeep h _

theorem dramStore_wf (s : State) (a : Nat) (bs : List Byte) (h : Memory.wf s.dram) : Memory.wf (dramStore s a bs).dram := by
  unfold dramStore
  split
  · exact h
  · exact foldl_wf _ (fun s _ hs => dramMask_wf s _ _ _ hs) _ s h

end Sys2Proof.Machine
end

