-- ==== Sys2Proof/Laws/Access.lean ====
section
/-! SUPPORT. Laws of the accessors of the state: what is stored is read back, who is let through by a gate, what a register or a run of
words holds after a write. -/

namespace Sys2Proof.Machine

/-! ### Sessions, link dies and zones -/

/-- A link die after another one was stored. -/
theorem linkAt_linkPut (s : State) (n m : Nat) (d : LinkDie) : linkAt (linkPut s n d) m = if m = n then d else linkAt s m := by
  unfold linkAt linkPut; simp only; rw [sget_sset]

theorem linkAt_of_ld {s t : State} (h : t.ld = s.ld) (id : Nat) : linkAt t id = linkAt s id := by
  unfold linkAt; rw [h]

theorem sessAt_of_ld {s t : State} (h : t.ld = s.ld) (id : Nat) : sessAt t id = sessAt s id := by
  unfold sessAt linkAt; rw [h]

/-- A stored session is read back. -/
theorem sessAt_sessPut (s : State) (id : Nat) (x : Option Session) : sessAt (sessPut s id x) id = x := by
  unfold sessAt sessPut
  simp only [linkAt_linkPut, if_true, sget_sset_same]

/-- A zone after another one was changed. -/
theorem zoneAt_zoneUpd (s : State) (z n : Nat) (f : Zone → Zone) :
    zoneAt (zoneUpd z f s) n = if n = z then f (zoneAt s z) else zoneAt s n := by
  unfold zoneAt zoneUpd onPwr supd
  by_cases h : n = z
  · subst h; rw [if_pos rfl, sget_sset_same]
  · rw [if_neg h]; simp only; rw [sget_sset_other _ _ h]

/-! ### Who may send a verb -/

theorem resGate_of_operator {s : State} {sess : SessId} (h : OperatorOpen s sess) : resGate s (some sess) = none := by
  obtain ⟨⟨x, hx, hk⟩, hw, hl⟩ := h
  unfold resGate opGate
  simp only [hx, hk, Option.map_some, hw]
  rw [if_neg (by decide), if_neg (by simp)]
  simp only [if_neg hl]

theorem resGate_of_sends {s : State} {sess : Option SessId} (h : OperatorSends s sess) : resGate s sess = none := by
  rcases h with ⟨rfl, hw, hl⟩ | ⟨i, rfl, h⟩
  · unfold resGate opGate
    simp only [hw]
    rw [if_neg (by decide), if_neg (by simp)]
    simp only [if_neg hl]
  · exact resGate_of_operator h

theorem hostGate_of_host {s : State} {sess : SessId} {x : Session} (h : HostOpen s sess x) : hostGate s sess.toNat = none := by
  unfold hostGate
  rw [h.session, h.awake]
  simp [h.kind]

theorem podGate_of_pod {s : State} {sess : SessId} {x : Session} (h : PodOpen s sess x) : podGate s sess.toNat false = none := by
  unfold podGate; rw [h.session]; simp [h.kind, h.settled]

theorem podGate_of_hawk {s : State} {sess : SessId} {x : Session} (h : HawkOpen s sess x) : podGate s sess.toNat true = none := by
  unfold podGate; rw [h.session]; simp [h.kind, h.settled, h.hawk]

theorem sessUpper_of_pod {s : State} {sess : SessId} {x : Session} (h : PodOpen s sess x) : sessUpper s sess.toNat = x.upper := by
  unfold sessUpper; rw [h.session]

/-- A window of DRAM is open to the tenant that owns it, and to an operator before PRODUCTION (R487). -/
theorem dramGate_of_owner {s : State} {sess : SessId} {x : Session} {a n : Nat} (hx : sessAt s sess.toNat = some x) (hw : s.svc.warming = false)
   (h1 : a % 8 = 0) (h2 : n ≤ 4096) (h3 : a + n ≤ 2 ^ 43) (h : (x.kind = 0 ∧ hostOwned s x.tenant a n = true) ∨ (x.kind = 1 ∧ s.sec.lc.toNat < 2)) :
   dramGate s sess.toNat a n = none := by
  unfold dramGate
  rw [hx]; simp only [hw]
  rcases h with ⟨hk, ho⟩ | ⟨hk, hl⟩
  · rw [if_neg (by rw [hk]; decide), if_neg (by simp), if_neg (by omega), if_neg (by rw [hk]; decide), if_pos ho]
  · rw [if_neg (by rw [hk]; decide), if_neg (by simp), if_neg (by omega), if_pos hk, if_neg (by omega)]

theorem histGate_of_host {s : State} {sess : SessId} {x : Session} (hx : HostOpen s sess x) (arg : Word) (n : Nat) (ok : Ctx → Bool) :
    histGate s sess.toNat arg n ok = (if (ctxAt s (bitsAt arg 0 14)).tenant ≠ x.tenant then some 2
    else if (ctxAt s (bitsAt arg 0 14)).gen.toNat ≠ bitsAt arg 14 16 ∨ n = 0 ∨ 1024 < n ∨ 2 ^ 20 < bitsAt arg 32 21 + n ∨ !ok (ctxAt s (bitsAt arg 0 14)) then some 1
    else none) := by
  unfold histGate histSid
  rw [hostGate_of_host hx]; simp only [hx.session]

/-- Words of registers are open to the management port and to an operator (R487). -/
theorem regGate_of_operator (s : State) (sess : Option SessId) (ag ep : BitVec 16) (a n : Nat) (may : Nat → Bool)
    (hs : (sess = none ∧ ag = 0 ∧ ep = 0) ∨
      ∃ i x, sess = some i ∧ sessAt s i.toNat = some x ∧ x.kind = 1 ∧ x.agent = ag ∧ x.aepoch = ep)
    (ha : a % 8 = 0) (hw : s.svc.warming = false) (h1 : 1 ≤ n) (h2 : n ≤ 512) (h3 : a + 8 * n ≤ 2 ^ 48)
    (hm : ∀ i < n, may (a + 8 * i) = true) : regGate s sess a n may = none ∧ cmdAgent s sess = (ag, ep) := by
  have hall : (List.range n).all (fun i => may (a + 8 * i)) = true := by simpa [List.all_eq_true] using hm
  rcases hs with ⟨rfl, rfl, rfl⟩ | ⟨i, x, rfl, hx, hk, rfl, rfl⟩
  · refine ⟨?_, rfl⟩
    unfold regGate
    simp only [hw, hall]
    rw [if_neg (by simp), if_neg (by omega), if_neg (by simp)]; rfl
  · refine ⟨?_, by simp [cmdAgent, hx]⟩
    unfold regGate
    simp only [hw, hall, hx, Option.map_some, hk]
    rw [if_neg (by decide), if_neg (by omega), if_neg (by simp)]; rfl

/-- A residency request that its check accepts is answered 0 and acts. -/
theorem resReq_accepts {s : State} {sess : SessId} (ho : OperatorOpen s sess) (m op : Nat) (ok : Resid → Bool) (body : State → State)
    (h : ok (residAt s m) = true) : resReq sess m op ok s body =
      body (answer (residUpd m (fun r => { r with req := some (sess.toNat, op), lastErr := 0 }) s) 0 []) := by
  unfold resReq; rw [resGate_of_operator ho]; simp only [gated, h, if_true]; rfl

/-- A residency request that its check refuses is answered 5. -/
theorem resReq_refuses {s : State} {sess : SessId} (ho : OperatorOpen s sess) (m op : Nat) (ok : Resid → Bool) (body : State → State)
    (h : ok (residAt s m) = false) : resReq sess m op ok s body = answer s 5 [] := by
  unfold resReq; rw [resGate_of_operator ho]; simp only [gated, h, Bool.false_eq_true, if_false]; rfl

/-! ### Tasks -/

theorem taskRead_held {s : State} {n : Die} {slot : BitVec 18} {t : Task} (h : TaskHeld s n slot t) :
    taskRead n slot.toNat s = (some t, s) := by
  unfold taskRead
  rw [h.task]
  simp only [dramReads_good s _ 8 h.good]
  rw [if_neg]
  simp [anyPoison]

theorem taskRead_bad {s : State} {n : Die} {slot : BitVec 18} {t : Task} (h : taskOf (engAt s n) slot.toNat = some t)
   (hp : anyPoison (dramReads s (taskAddr n slot.toNat / 8) 8).1 = true) :
    taskRead n slot.toNat s = (none, taskFail n t 12 7 (dramReads s (taskAddr n slot.toNat / 8) 8).2) := by
  unfold taskRead
  rw [h]
  simp only [hp, if_true]

/-! ### Memory -/

/-- A byte of DRAM after a run of words was written. -/
theorem dramWrites_byte (s : State) (w : Nat) (vs : List Word) (b : Nat) :
    dramByte (dramWrites s w vs) b = if 8 * w ≤ b ∧ b < 8 * w + 8 * vs.length then byteOf vs (b - 8 * w) else dramByte s b := by
  unfold dramWrites
  have key : ∀ (n : Nat) (vs : List Word) (u : State), dramByte (((List.range' n vs.length).zip vs).foldl (fun acc iv => dramWrite acc (w + iv.1) iv.2) u) b =
      if 8 * (w + n) ≤ b ∧ b < 8 * (w + n) + 8 * vs.length then byteOf vs (b - 8 * (w + n)) else dramByte u b := by
    intro n vs
    induction vs generalizing n with
    | nil => intro u; rw [if_neg (by simp)]; rfl
    | cons v vs ih =>
      intro u
      rw [List.length_cons, List.range'_succ, List.zip_cons_cons, List.foldl_cons, ih, dramWrite_byte]
      by_cases h1 : b / 8 = w + n
      · rw [if_neg (by omega), if_pos h1, if_pos (by omega)]
        unfold byteOf
        rw [show (b - 8 * (w + n)) / 8 = 0 by omega, show (b - 8 * (w + n)) % 8 = b % 8 by omega]; rfl
      · rw [if_neg h1]
        by_cases h2 : 8 * (w + (n + 1)) ≤ b ∧ b < 8 * (w + (n + 1)) + 8 * vs.length
        · rw [if_pos h2, if_pos (by omega)]
          unfold byteOf
          rw [show (b - 8 * (w + n)) / 8 = (b - 8 * (w + (n + 1))) / 8 + 1 by omega, show (b - 8 * (w + n)) % 8 = (b - 8 * (w + (n + 1))) % 8 by omega]; rfl
        · rw [if_neg h2, if_neg (by omega)]
  have := key 0 vs s
  rw [Nat.add_zero] at this
  rw [List.range_eq_range']
  exact this

/-! ### Registers -/

theorem registerWrite_aligned (a : BitVec 48) (v : Word) (s : State) (h : a.toNat % 8 = 0) :
    exec (.registerWrite a v) s = .next (regPut (s.sec.level == 3) 0 0 a.toNat v s) := by
  show execRegisterWrite a v s = _
  unfold execRegisterWrite; rw [if_neg (by omega)]

theorem regAddr_svc (off : Nat) (h : off < 2 ^ 24) : regAddr (0x200000000000 + off) = .svc off := by
  unfold regAddr
  simp only
  rw [if_neg (by omega), if_neg (by omega), if_pos (by omega), if_pos (by omega)]
  congr 1; omega

theorem regPut_svc (off : Nat) (h : off < 2 ^ 24) (d3 ag ep v s) (hr : (svcRead s off).isSome = true) :
    regPut d3 ag ep (0x200000000000 + off) v s = svcWrite ag ep off v s := by
  unfold regPut; rw [regAddr_svc off h]; exact if_pos hr

theorem regGet_svc (off : Nat) (h : off < 2 ^ 24) (s : State) :
    (regGet (0x200000000000 + off) s).1 = (svcRead s off).map (fun w => ⟨w, false⟩) := by
  unfold regGet; rw [regAddr_svc off h]

theorem regReads_length (a n : Nat) (s : State) : (regReads a n s).1.length = n := by
  unfold regReads
  induction n with
  | zero => rfl
  | succ n ih => rw [List.range_succ, List.foldl_append]; simp [ih]

theorem ofNat_field {n : Nat} (x : BitVec n) (k : Nat) : BitVec.ofNat 64 (x.toNat * 2 ^ k) = x.setWidth 64 <<< k := by
  apply BitVec.eq_of_toNat_eq; simp [Nat.shiftLeft_eq]

theorem ofNat_flag (b : Bool) (k : Nat) : BitVec.ofNat 64 (b1 b * 2 ^ k) = (BitVec.ofBool b).setWidth 64 <<< k := by
  rw [← ofNat_field]; cases b <;> rfl

theorem ofNat_bitsAt (v : Word) (lo n : Nat) : BitVec.ofNat n (bitsAt v lo n) = v.extractLsb' lo n := by
  apply BitVec.eq_of_toNat_eq; simp [bitsAt, BitVec.extractLsb', Nat.shiftRight_eq_div_pow]

/-! ### Lists -/

/-- What one step of a fold keeps, the fold keeps. -/
theorem foldl_keep {α : Type} (f : State → α → State) (P : State → Prop) (h : ∀ s x, P s → P (f s x)) (l : List α) (s : State) (hs : P s) : P (l.foldl f s) := by
  induction l generalizing s with
  | nil => exact hs
  | cons a l ih => exact ih _ (h s a hs)

/-- An invariant that counts the steps of a fold. -/
theorem foldl_counted {β γ : Type} (f : γ → β → γ) (I : Nat → γ → Prop) (l : List β) (hf : ∀ k acc x, x ∈ l → I k acc → I (k + 1) (f acc x))
    (k : Nat) (a : γ) (ha : I k a) : I (k + l.length) (l.foldl f a) := by
  induction l generalizing k a with
  | nil => exact ha
  | cons x l ih =>
    have := ih (fun k acc y hy => hf k acc y (by simp [hy])) (k + 1) (f a x) (hf k a x (by simp) ha)
    rw [List.length_cons, show k + (l.length + 1) = k + 1 + l.length by omega]
    exact this

theorem findSome_first {α β} (l : List α) (f : α → Option β) (a : α) (b : β) (pre post) (hl : l = pre ++ a :: post)
   (hp : ∀ x ∈ pre, f x = none) (ha : f a = some b) : l.findSome? f = some b := by
  subst hl
  rw [List.findSome?_append, List.findSome?_eq_none_iff.2 hp]
  simp [ha]

theorem mem_zip_range {α : Type} {l : List α} {x : Nat × α} (h : x ∈ (List.range l.length).zip l) : x.2 ∈ l ∧ x.1 < l.length :=
  ⟨(List.of_mem_zip h).2, by simpa using (List.of_mem_zip h).1⟩

theorem bitsLow_get (n v : Nat) (i : Nat) (h : i < n) : (bitsLow n v)[i]? = some (v.testBit i) := by
  unfold bitsLow; simp [h]

theorem bitsLow_length (n v : Nat) : (bitsLow n v).length = n := by unfold bitsLow; simp

end Sys2Proof.Machine
end

