-- ==== Sys2Proof/Laws/ControlCore.lean ====
section
/-! SUPPORT. What a control-core instruction can do (R278-R285): one lemma for each way its issue ends, the forms of the ALU, and the
arithmetic of its results. -/

namespace Sys2Proof.Machine

/-- An instruction that runs leaves its tile as its body does (R278, R279). -/
theorem ccDo_of_runs {h : CcHdr} {srcs dsts : List (BitVec 5)} {s : State} (hr : CcRuns h srcs dsts s)
    (f : Nat → Nat → BitVec 4 → Tile → Tile × List TOut) (body)
    (hf : f h.site (cycAt s h.k) h.g (tileAt s h.site) = ccIssue h.site (cycAt s h.k) h.g srcs dsts body (tileAt s h.site)) :
    ccDo s h f = .next (ccTo h s (body (ccTile h s)).1 (body (ccTile h s)).2) := by
  obtain ⟨⟨hl, hrd⟩, hg, hset, hcl⟩ := hr
  have h1 : (srcs ++ dsts).any (regBusy (ccTile h s).cc (cycAt s h.k)) = false := by
    simp only [List.any_eq_false]; intro r hr; simp [hset r hr]
  have h2 : (srcs.any (fun g => (gGet (ccTile h s).cc g).poison)) = false := by
    simp only [List.any_eq_false]; intro r hr; simp [hcl r hr]
  simp only [ccTile, tileNow] at *
  simp only [ccDo, tileDo, hl, if_true, tileRun, hf, ccIssue, hrd, hg, h1, h2, ccTo, tileTo, tileNow]
  simp

/-- The same with the tile that the body leaves and what it sends named. -/
theorem ccDo_runs_to {h : CcHdr} {srcs dsts : List (BitVec 5)} {s : State} (hr : CcRuns h srcs dsts s)
    {f : Nat → Nat → BitVec 4 → Tile → Tile × List TOut} (body : Tile → Tile × List TOut) {t : Tile} {outs : List TOut}
    (hb : body (ccTile h s) = (t, outs))
    (hf : f h.site (cycAt s h.k) h.g (tileAt s h.site) = ccIssue h.site (cycAt s h.k) h.g srcs dsts body (tileAt s h.site)) :
    ccDo s h f = .next (ccTo h s t outs) := by
  rw [ccDo_of_runs hr f body hf, hb]

/-- An instruction that reads a marked register takes the POISON fault (R285). -/
theorem ccDo_of_marked {h : CcHdr} {srcs dsts : List (BitVec 5)} {s : State} (hi : CcIssues h s)
    (hg : guardOn (ccTile h s).cc h.g = true)
    (hset : ∀ r ∈ srcs ++ dsts, regBusy (ccTile h s).cc (cycAt s h.k) r = false)
    (hp : ∃ r ∈ srcs, (gGet (ccTile h s).cc r).poison = true)
    (f : Nat → Nat → BitVec 4 → Tile → Tile × List TOut) (body)
    (hf : f h.site (cycAt s h.k) h.g (tileAt s h.site) = ccIssue h.site (cycAt s h.k) h.g srcs dsts body (tileAt s h.site)) :
    ccDo s h f = .next (ccTo h s { ccTile h s with cc := { (ccTile h s).cc with st := .stopped } } [.rpt 0x05 (BitVec.ofNat 64 h.site) [4]]) := by
  obtain ⟨hl, hrd⟩ := hi
  have h1 : (srcs ++ dsts).any (regBusy (ccTile h s).cc (cycAt s h.k)) = false := by
    simp only [List.any_eq_false]; intro r hr; simp [hset r hr]
  have h2 : (srcs.any (fun g => (gGet (ccTile h s).cc g).poison)) = true := by
    simp only [List.any_eq_true]; exact hp
  simp only [ccTile, tileNow] at *
  simp only [ccDo, tileDo, hl, if_true, tileRun, hf, ccIssue, hrd, hg, h1, h2, ccTo, tileTo, tileNow, ccFault, causeCode]
  simp

/-- An instruction whose guard is 0 only takes its cycle (R278). -/
theorem ccDo_of_guard_off {h : CcHdr} {s : State} (hi : CcIssues h s) (hg : guardOn (ccTile h s).cc h.g = false)
    (f : Nat → Nat → BitVec 4 → Tile → Tile × List TOut)
    (hf : ∃ srcs dsts body, f h.site (cycAt s h.k) h.g (tileAt s h.site) =
      ccIssue h.site (cycAt s h.k) h.g srcs dsts body (tileAt s h.site)) :
    ccDo s h f = .next (ccCore h s (ccStepped h s (ccTile h s).cc)) := by
  obtain ⟨hl, hrd⟩ := hi
  obtain ⟨srcs, dsts, body, hf⟩ := hf
  simp only [ccTile, tileNow] at *
  simp only [ccDo, tileDo, hl, if_true, tileRun, hf, ccIssue, hrd, hg, ccTo, tileTo, tileNow, ccCore, ccStepped, ccNext, ccGoto, ccTile]
  simp

/-- The signed minimum. -/
theorem signed_min_eq (a b : Word) : (if b.slt a then b else a) = BitVec.ofInt 64 (min a.toInt b.toInt) := by
  by_cases h : b.slt a
  · simp only [h, if_true]; rw [BitVec.slt_iff_toInt_lt] at h; rw [min_eq_right (by omega)]; simp
  · simp only [h]; rw [BitVec.slt_iff_toInt_lt] at h; rw [min_eq_left (by omega)]; simp
/-- The signed maximum. -/
theorem signed_max_eq (a b : Word) : (if a.slt b then b else a) = BitVec.ofInt 64 (max a.toInt b.toInt) := by
  by_cases h : a.slt b
  · simp only [h, if_true]; rw [BitVec.slt_iff_toInt_lt] at h; rw [max_eq_right (by omega)]; simp
  · simp only [h]; rw [BitVec.slt_iff_toInt_lt] at h; rw [max_eq_left (by omega)]; simp
/-- The unsigned minimum. -/
theorem unsigned_min_eq (a b : Word) : (if b.ult a then b else a) = BitVec.ofNat 64 (min a.toNat b.toNat) := by
  by_cases h : b.ult a
  · simp only [h, if_true]; rw [BitVec.ult_iff_toNat_lt] at h; rw [min_eq_right (by omega)]; simp
  · simp only [h]; rw [BitVec.ult_iff_toNat_lt] at h; rw [min_eq_left (by omega)]; simp
/-- The unsigned maximum. -/
theorem unsigned_max_eq (a b : Word) : (if a.ult b then b else a) = BitVec.ofNat 64 (max a.toNat b.toNat) := by
  by_cases h : a.ult b
  · simp only [h, if_true]; rw [BitVec.ult_iff_toNat_lt] at h; rw [max_eq_right (by omega)]; simp
  · simp only [h]; rw [BitVec.ult_iff_toNat_lt] at h; rw [max_eq_left (by omega)]; simp

/-- MULHU is the upper half of the 128-bit unsigned product (R280). -/
theorem mulhu_eq (a b : Word) : mulhu a b = ((a.setWidth 128 * b.setWidth 128) >>> (64 : Nat)).setWidth 64 := by
  have ha := a.isLt; have hb := b.isLt
  apply BitVec.eq_of_toNat_eq
  have : a.toNat * b.toNat < 2 ^ 128 := by
    calc a.toNat * b.toNat ≤ (2^64-1) * (2^64-1) := Nat.mul_le_mul (by omega) (by omega)
      _ < 2 ^ 128 := by norm_num
  simp only [mulhu, BitVec.toNat_ofNat, BitVec.toNat_setWidth, BitVec.toNat_ushiftRight, BitVec.toNat_mul, Nat.shiftRight_eq_div_pow]
  rw [Nat.mod_eq_of_lt (a := a.toNat) (by omega), Nat.mod_eq_of_lt (a := b.toNat) (by omega), Nat.mod_eq_of_lt this]

/-- MULHS is the upper half of the 128-bit signed product (R280). -/
theorem mulhs_eq (a b : Word) : mulhs a b = ((a.signExtend 128 * b.signExtend 128) >>> (64 : Nat)).setWidth 64 := by
  have hA : (a.signExtend 128).toInt = a.toInt := BitVec.toInt_signExtend_of_le (by omega)
  have hB : (b.signExtend 128).toInt = b.toInt := BitVec.toInt_signExtend_of_le (by omega)
  have e : a.signExtend 128 * b.signExtend 128 = BitVec.ofInt 128 (a.toInt * b.toInt) := by
    rw [← hA, ← hB, BitVec.ofInt_mul]; simp
  rw [e]; unfold mulhs; generalize a.toInt * b.toInt = p
  apply BitVec.eq_of_toNat_eq
  simp only [BitVec.toNat_ofInt, BitVec.toNat_setWidth, BitVec.toNat_ushiftRight, Nat.shiftRight_eq_div_pow]
  norm_num
  omega

/-- CLZ bounds its operand between two powers of 2 (R280). -/
theorem clz64_bounds (a : Word) : (clz64 a).toNat ≤ 64 ∧ a.toNat < 2 ^ (64 - (clz64 a).toNat) ∧
    ((clz64 a).toNat < 64 → 2 ^ (63 - (clz64 a).toNat) ≤ a.toNat) := by
  have ha := a.isLt
  unfold clz64
  by_cases h : a = 0
  · subst h; simp
  · have hn : a.toNat ≠ 0 := fun hh => h (BitVec.eq_of_toNat_eq (by simpa using hh))
    have hl : a.toNat.log2 < 64 := (Nat.log2_lt hn).2 ha
    have hm : (63 - a.toNat.log2) % 18446744073709551616 = 63 - a.toNat.log2 := by omega
    simp only [h, if_false, BitVec.toNat_ofNat, Nat.reducePow, hm]
    refine ⟨by omega, ?_, fun _ => ?_⟩
    · rw [show 64 - (63 - a.toNat.log2) = a.toNat.log2 + 1 by omega]; exact Nat.lt_log2_self
    · rw [show 63 - (63 - a.toNat.log2) = a.toNat.log2 by omega]; exact Nat.log2_self_le hn

/-- A register write leaves the scoreboard. -/
theorem gSet_rdy (c : CCore) (r v) : (gSet c r v).rdy = c.rdy := by unfold gSet gPut; split <;> rfl

/-- A register-register instruction of one cycle (R279). -/
theorem ccAlu_one_cycle {h : CcHdr} {rd ra rb : BitVec 5} {s : State} (hr : CcRuns h [ra, rb] [rd] s) (f : Word → Word → Word) :
    ccDo s h (fun site x g => ccAlu f 1 site x g rd ra rb) =
     .next (ccCore h s (ccStepped h s (gSet (ccTile h s).cc rd (f (gVal (ccTile h s).cc ra) (gVal (ccTile h s).cc rb))))) := by
  rw [ccDo_of_runs hr _ _ rfl]
  simp only [ccResult, ccNext, ccGoto, ccCore, ccStepped, gSet, gPut]
  split <;> rfl

/-- A register-register instruction of three cycles (R279). -/
theorem ccAlu_three_cycles {h : CcHdr} {rd ra rb : BitVec 5} {s : State} (hr : CcRuns h [ra, rb] [rd] s) (f : Word → Word → Word) :
    ccDo s h (fun site x g => ccAlu f 3 site x g rd ra rb) =
     .next (ccCore h s (ccStepped h s { gSet (ccTile h s).cc rd (f (gVal (ccTile h s).cc ra) (gVal (ccTile h s).cc rb)) with
        rdy := sset 0 (ccTile h s).cc.rdy rd.toNat (cycAt s h.k + 3) })) := by
  rw [ccDo_of_runs hr _ _ rfl]
  simp only [ccResult, ccNext, ccGoto, ccCore, ccStepped, gSet, gPut]
  split <;> rfl

/-- An instruction of one register operand (R279). -/
theorem ccAlu1_runs {h : CcHdr} {rd ra : BitVec 5} {s : State} (hr : CcRuns h [ra] [rd] s) (f : Word → Word) :
    ccDo s h (fun site x g => ccAlu1 f site x g rd ra) =
     .next (ccCore h s (ccStepped h s (gSet (ccTile h s).cc rd (f (gVal (ccTile h s).cc ra))))) := by
  rw [ccDo_of_runs hr _ _ rfl]
  simp only [ccResult, ccNext, ccGoto, ccCore, ccStepped, gSet, gPut]
  split <;> rfl

/-- A register write leaves the flags. -/
theorem gSet_fcc (c : CCore) (r v) : (gSet c r v).fcc = c.fcc := by unfold gSet gPut; split <;> rfl

/-- A register write leaves the program counter. -/
theorem gSet_pc (c : CCore) (r v) : (gSet c r v).pc = c.pc := by unfold gSet gPut; split <;> rfl

/-- The shift amount of an immediate (R280). -/
theorem shAmt_sext12 (i : BitVec 12) : shAmt (sext12 i) = i.toNat % 64 := by
  have : (sext12 i).toNat % 64 = i.toNat % 64 := by
    revert i; decide
  exact this

end Sys2Proof.Machine
end

