-- ==== Sys2Proof/Laws/Kept.lean ====
section
/-! SUPPORT. What every shared operation on the module keeps: the queue of waiting commands, the canonical form of the DRAM and the
legal modes; and how the relation passes through the forms of a definition. -/

namespace Sys2Proof.Machine

/-- The part of the security state that only moves forward: the life cycle, its pending transition, OWN_LOCK and SEC_RB.MIN. -/
def Sec.fuses (c : Sec) : BitVec 2 × Bool × BitVec 2 × Bool × Byte := (c.lc, c.lcPend, c.lcNext, c.ownLock, c.rbMin)

/-- From one security state to a later one nothing that is burnt goes back. -/
structure Sec.Fwd (c d : Sec) : Prop where
  goes : c.forward → d.forward
  life : c.forward → c.lc.toNat ≤ d.lc.toNat
  lock : c.ownLock = true → d.ownLock = true
  rollback : c.rbMin.toNat ≤ d.rbMin.toNat

theorem Sec.Fwd.same {c d : Sec} (h : d.fuses = c.fuses) : Sec.Fwd c d := by
  simp only [Sec.fuses, Prod.mk.injEq] at h
  obtain ⟨h1, h2, h3, h4, h5⟩ := h
  refine ⟨?_, ?_, ?_, ?_⟩ <;> simp only [Sec.forward, h1, h2, h3, h4, h5] <;> first | exact id | exact fun _ => Nat.le_refl _ | exact Nat.le_refl _

theorem Sec.Fwd.trans {c d e : Sec} (h : Sec.Fwd c d) (k : Sec.Fwd d e) : Sec.Fwd c e :=
  ⟨fun x => k.goes (h.goes x), fun x => Nat.le_trans (h.life x) (k.life (h.goes x)), fun x => k.lock (h.lock x),
    Nat.le_trans h.rollback k.rollback⟩

/-- What no operation on the module breaks: it leaves the queue, keeps the DRAM canonical and the modes legal, and burns nothing back. -/
structure Kept (s t : State) : Prop where
  queue : t.pending = s.pending
  mem : Memory.wf s.dram → Memory.wf t.dram
  legal : Legal s → Legal t
  sec : Sec.Fwd s.sec t.sec

theorem Kept.refl (s : State) : Kept s s := ⟨rfl, id, id, Sec.Fwd.same rfl⟩
theorem Kept.trans {s t u : State} (h : Kept s t) (k : Kept t u) : Kept s u :=
  ⟨k.queue.trans h.queue, fun x => k.mem (h.mem x), fun x => k.legal (h.legal x), h.sec.trans k.sec⟩

/-- A state built on another one, with the same queue, DRAM and modes. -/
theorem Kept.built {s t u : State} (h : Kept s t) (hp : u.pending = t.pending) (hd : u.dram = t.dram) (ha : u.pwr.act = t.pwr.act)
    (hk : u.clk.k = t.clk.k) (hf : u.svc.frz = t.svc.frz) (ht : u.pod.st = t.pod.st) (hs : u.sec.fuses = t.sec.fuses) : Kept s u :=
  h.trans ⟨hp, fun x => hd ▸ x, fun x => ⟨ha ▸ x.power, hk ▸ x.clock, hf ▸ x.freeze, ht ▸ x.pod⟩, Sec.Fwd.same hs⟩

/-- A state with another one's queue. -/
def State.over (t : State) (frames time draws : Nat) (grid : Grid) (dram : SMap SWord) (lath : Lath) (cg : Cg) (locks : SMap Lock)
    (hist : Hist) (cal : Cal) (plc : Plc) (load : Load) (resid : SMap Resid) (delivery : Option Delivery) (adapters : SMap Adapter)
    (geom : SMap Word) (eng : SMap Engine) (md : SMap MemDie) (ld : SMap LinkDie) (pod : Pod) (sec : Sec) (flt : Flt) (pwr : Pwr)
    (clk : Clk) (svc : Svc) (reply : Option Reply) : State :=
  ⟨t.pending, frames, time, draws, grid, dram, lath, cg, locks, hist, cal, plc, load, resid, delivery, adapters, geom, eng, md, ld,
    pod, sec, flt, pwr, clk, svc, reply⟩

/-- A record update that does not touch the queue, in the form that the next lemma reads. -/
theorem State.over_eq (t : State) {frames time draws : Nat} {grid dram lath cg locks hist cal plc load resid delivery adapters
    geom eng md ld pod sec flt pwr clk svc reply} :
    State.mk t.pending frames time draws grid dram lath cg locks hist cal plc load resid delivery adapters geom eng
      md ld pod sec flt pwr clk svc reply = t.over frames time draws grid dram lath cg locks hist cal plc load resid delivery adapters
      geom eng md ld pod sec flt pwr clk svc reply := rfl

theorem Kept.over {s t : State} (h : Kept s t) {frames time draws : Nat} {grid dram lath cg locks hist cal plc load resid delivery
    adapters geom eng md ld pod sec flt pwr clk svc reply} (hd : Memory.wf t.dram → Memory.wf dram) (ha : pwr.act = t.pwr.act)
    (hk : clk.k = t.clk.k) (hf : svc.frz = t.svc.frz) (ht : pod.st = t.pod.st) (hs : sec.fuses = t.sec.fuses) :
    Kept s (t.over frames time draws grid dram lath cg locks hist cal plc load resid delivery adapters geom eng
      md ld pod sec flt pwr clk svc reply) :=
  h.trans ⟨rfl, hd, fun x => ⟨ha ▸ x.power, hk ▸ x.clock, hf ▸ x.freeze, ht ▸ x.pod⟩, Sec.Fwd.same hs⟩

theorem Kept.ite {s t u : State} {c : Prop} [Decidable c] (h : Kept s t) (k : Kept s u) : Kept s (if c then t else u) := by
  split <;> assumption

theorem Kept.foldl {α : Type} {s : State} {f : State → α → State} (hf : ∀ a x, Kept s a → Kept s (f a x)) :
    ∀ {t : State} (l : List α), Kept s t → Kept s (l.foldl f t)
  | _, [], h => h
  | _, x :: l, h => Kept.foldl hf l (hf _ x h)

theorem Kept.foldl_fst {α β : Type} {s : State} {f : State × β → α → State × β} (hf : ∀ a x, Kept s a.1 → Kept s (f a x).1) :
    ∀ {t : State × β} (l : List α), Kept s t.1 → Kept s (l.foldl f t).1
  | _, [], h => h
  | _, x :: l, h => Kept.foldl_fst hf l (hf _ x h)

theorem Kept.foldl_snd {α β : Type} {s : State} {f : β × State → α → β × State} (hf : ∀ a x, Kept s a.2 → Kept s (f a x).2) :
    ∀ {t : β × State} (l : List α), Kept s t.2 → Kept s (l.foldl f t).2
  | _, [], h => h
  | _, x :: l, h => Kept.foldl_snd hf l (hf _ x h)

/-- What an operation that may give nothing answers beside its result. -/
def KeptIf {β : Type} (s : State) (o : Option (β × State)) : Prop := ∀ r, o = some r → Kept s r.2

theorem KeptIf.none {β : Type} {s : State} : KeptIf (β := β) s none := by intro r h; cases h
theorem KeptIf.some {β : Type} {s : State} {r : β × State} (h : Kept s r.2) : KeptIf s (some r) := by intro r' e; cases e; exact h
theorem KeptIf.ite {β : Type} {s : State} {c : Prop} [Decidable c] {a b : Option (β × State)} (h : KeptIf s a) (k : KeptIf s b) :
    KeptIf s (if c then a else b) := by
  split <;> assumption

theorem KeptIf.get {β : Type} {s : State} {o : Option (β × State)} {r : β × State} (h : KeptIf s o) (e : o = Option.some r) : Kept s r.2 :=
  h r e
theorem KeptIf.map {α β : Type} {s : State} {o : Option α} {f : α → β × State} (h : ∀ x, o = Option.some x → Kept s (f x).2) :
    KeptIf s (o.map f) := by
  cases o with
  | none => exact KeptIf.none
  | some x => exact KeptIf.some (h x rfl)

theorem KeptIf.bind {α β : Type} {s : State} {o : Option (α × State)} {f : α × State → Option (β × State)} (h : KeptIf s o)
    (k : ∀ x : α × State, Kept s x.2 → KeptIf s (f x)) : KeptIf s (o.bind f) := by
  cases o with
  | none => exact KeptIf.none
  | some x => exact k x (h x rfl)
theorem KeptIf.bind_any {α β : Type} {s : State} {o : Option α} {f : α → Option (β × State)} (k : ∀ x, KeptIf s (f x)) :
    KeptIf s (o.bind f) := by
  cases o with
  | none => exact KeptIf.none
  | some x => exact k x
theorem KeptIf.foldl {α β : Type} {s : State} {f : Option (β × State) → α → Option (β × State)} (hf : ∀ a x, KeptIf s a → KeptIf s (f a x)) :
    ∀ {o : Option (β × State)} (l : List α), KeptIf s o → KeptIf s (l.foldl f o)
  | _, [], h => h
  | _, x :: l, h => KeptIf.foldl hf l (hf _ x h)

theorem KeptIf.findSome {α β : Type} {s : State} {f : α → Option (β × State)} (hf : ∀ x, KeptIf s (f x)) (l : List α) :
    KeptIf s (l.findSome? f) := by
  intro r h
  obtain ⟨x, -, hx⟩ := List.exists_of_findSome?_eq_some h
  exact hf x r hx
/-- The state beside a result that a match has named. -/
theorem Kept.pair {β : Type} {s t : State} {b : β} {r : β × State} (h : Kept s r.2) (e : r = (b, t)) : Kept s t := by
  rw [e] at h; exact h

/-- An outcome that is a next state in which everything is kept. -/
def Keeps (s : State) (o : Host.Outcome State Fault Refusal) : Prop := ∃ t, o = .next t ∧ Kept s t

theorem Keeps.next {s t : State} (h : Kept s t) : Keeps s (.next t) := ⟨t, rfl, h⟩
theorem Keeps.ite {s : State} {c : Prop} [Decidable c] {a b : Host.Outcome State Fault Refusal} (h : Keeps s a) (k : Keeps s b) :
    Keeps s (if c then a else b) := by
  split <;> assumption

end Sys2Proof.Machine
end

