-- ==== Sys2Proof/Laws/KeptModule.lean ====
section
/-! SUPPORT. What is kept by the shared operations on reports, commit groups, lath messages, DRAM, slices, residency, calibration and image
delivery. -/

namespace Sys2Proof.Machine

theorem latch_kept {s0 s : State} (a1) (h : Kept s0 s) : Kept s0 (latch s a1) :=
  h.built rfl rfl rfl rfl rfl rfl rfl

theorem answer_kept {s0 s : State} (a1) (a2) (h : Kept s0 s) : Kept s0 (answer s a1 a2) :=
  h.built rfl rfl rfl rfl rfl rfl rfl

theorem answerCode_kept {s0 s : State} (a1) (h : Kept s0 s) : Kept s0 (answerCode s a1) :=
  h.built rfl rfl rfl rfl rfl rfl rfl

theorem onFlt_kept {s0 s : State} (a1) (h : Kept s0 s) : Kept s0 (onFlt a1 s) :=
  h.built rfl rfl rfl rfl rfl rfl rfl

theorem sendRpt_kept {s0 s : State} (a1) (a2) (a3) (a4) (h : Kept s0 s) : Kept s0 (sendRpt s a1 a2 a3 a4) :=
  h.built rfl rfl rfl rfl rfl rfl rfl

theorem svcRpt_kept {s0 s : State} (a1) (a2) (a3) (h : Kept s0 s) : Kept s0 (svcRpt s a1 a2 a3) :=
  h.built rfl rfl rfl rfl rfl rfl rfl

theorem tenantViol_kept {s0 s : State} (a1) (a2) (a3) (a4) (h : Kept s0 s) : Kept s0 (tenantViol s a1 a2 a3 a4) := by
  unfold tenantViol
  repeat' first
    | with_reducible assumption
    | (rw [State.over_eq]; with_reducible refine Kept.over ?_ id rfl rfl rfl rfl rfl)
    | with_reducible apply sendRpt_kept
    | (dsimp -zeta only)
    | (extract_lets)
    | split

theorem addrErr_kept {s0 s : State} (a1) (a2) (h : Kept s0 s) : Kept s0 (addrErr s a1 a2) :=
  h.built rfl rfl rfl rfl rfl rfl rfl

theorem onGrid_kept {s0 s : State} (a1) (h : Kept s0 s) : Kept s0 (onGrid a1 s) :=
  h.built rfl rfl rfl rfl rfl rfl rfl

theorem tilePut_kept {s0 s : State} (a1) (a2) (h : Kept s0 s) : Kept s0 (tilePut s a1 a2) :=
  h.built rfl rfl rfl rfl rfl rfl rfl

theorem creditBack_kept {s0 s : State} (a1) (a2) (a3) (a4) (h : Kept s0 s) : Kept s0 (creditBack s a1 a2 a3 a4) :=
  h.built rfl rfl rfl rfl rfl rfl rfl

theorem launch_kept {s0 s : State} (a1) (a2) (a3) (a4) (h : Kept s0 s) : Kept s0 (launch s a1 a2 a3 a4) :=
  h.built rfl rfl rfl rfl rfl rfl rfl

theorem linkPut_kept {s0 s : State} (a1) (a2) (h : Kept s0 s) : Kept s0 (linkPut s a1 a2) :=
  h.built rfl rfl rfl rfl rfl rfl rfl

theorem rimAccept_kept {s0 s : State} (a1) (a2) (h : Kept s0 s) : Kept s0 (rimAccept s a1 a2) := by
  unfold rimAccept
  repeat' first
    | with_reducible assumption
    | with_reducible apply linkPut_kept
    | with_reducible apply Kept.ite
    | split

theorem sendFlit_kept {s0 s : State} (a1) (a2) (a3) (a4) (h : Kept s0 s) : Kept s0 (sendFlit s a1 a2 a3 a4) := by
  unfold sendFlit
  repeat' first
    | with_reducible assumption
    | with_reducible apply rimAccept_kept
    | with_reducible apply launch_kept
    | with_reducible apply Kept.ite
    | (extract_lets)
    | split

theorem putOut_kept {s0 s : State} (a1) (a2) (h : Kept s0 s) : Kept s0 (putOut a1 s a2) := by
  unfold putOut
  repeat' first
    | with_reducible assumption
    | with_reducible apply sendRpt_kept
    | with_reducible apply launch_kept
    | with_reducible apply sendFlit_kept
    | with_reducible apply creditBack_kept
    | with_reducible apply tenantViol_kept
    | split

theorem tileRun_kept {s0 s : State} (a1) (a2) (h : Kept s0 s) : Kept s0 (tileRun s a1 a2) := by
  unfold tileRun
  repeat' first
    | with_reducible assumption
    | with_reducible apply putOut_kept
    | with_reducible apply tilePut_kept
    | with_reducible refine Kept.foldl (fun _ _ _ => ?_) _ ?_

theorem tileDo_kept {s0 s : State} (a1) (a2) (h : Kept s0 s) : Kept s0 (tileDo s a1 a2) := by
  unfold tileDo
  repeat' first
    | with_reducible assumption
    | with_reducible apply tileRun_kept
    | with_reducible apply Kept.ite

theorem routerDo_kept {s0 s : State} (a1) (a2) (h : Kept s0 s) : Kept s0 (routerDo s a1 a2) := by
  unfold routerDo
  repeat' first
    | with_reducible assumption
    | with_reducible apply tileRun_kept
    | with_reducible apply Kept.ite

theorem mdPut_kept {s0 s : State} (a1) (a2) (h : Kept s0 s) : Kept s0 (mdPut s a1 a2) :=
  h.built rfl rfl rfl rfl rfl rfl rfl

theorem dramRead_kept {s0 s : State} (a1) (h : Kept s0 s) : Kept s0 (dramRead s a1).2 := by
  unfold dramRead
  repeat' first
    | with_reducible assumption
    | (rw [State.over_eq]; with_reducible refine Kept.over ?_ (fun m => m.sset _ _) rfl rfl rfl rfl rfl)
    | with_reducible apply mdPut_kept
    | with_reducible apply sendRpt_kept
    | (extract_lets)
    | split

theorem dramWrite_kept {s0 s : State} (a1) (a2) (h : Kept s0 s) : Kept s0 (dramWrite s a1 a2) := by
  unfold dramWrite
  repeat' first
    | with_reducible assumption
    | (rw [State.over_eq]; with_reducible refine Kept.over ?_ (fun m => m.sset _ _) rfl rfl rfl rfl rfl)
    | with_reducible apply mdPut_kept
    | with_reducible apply Kept.ite

theorem dramMask_kept {s0 s : State} (a1) (a2) (a3) (h : Kept s0 s) : Kept s0 (dramMask s a1 a2 a3) := by
  unfold dramMask
  repeat' first
    | with_reducible assumption
    | (rw [State.over_eq]; with_reducible refine Kept.over ?_ (fun m => m.sset _ _) rfl rfl rfl rfl rfl)
    | with_reducible apply dramWrite_kept
    | with_reducible apply dramRead_kept
    | with_reducible apply Kept.ite

theorem dramReads_kept {s0 s : State} (a1) (a2) (h : Kept s0 s) : Kept s0 (dramReads s a1 a2).2 := by
  unfold dramReads
  repeat' first
    | with_reducible assumption
    | with_reducible apply dramRead_kept
    | with_reducible refine Kept.foldl_snd (fun _ _ _ => ?_) _ ?_

theorem dramWrites_kept {s0 s : State} (a1) (a2) (h : Kept s0 s) : Kept s0 (dramWrites s a1 a2) := by
  unfold dramWrites
  repeat' first
    | with_reducible assumption
    | with_reducible apply dramWrite_kept
    | with_reducible refine Kept.foldl (fun _ _ _ => ?_) _ ?_

theorem dramZero_kept {s0 s : State} (a1) (a2) (h : Kept s0 s) : Kept s0 (dramZero s a1 a2) := by
  unfold dramZero
  repeat' first
    | with_reducible assumption
    | (rw [State.over_eq]; with_reducible refine Kept.over ?_ (fun m => m.skeep _) rfl rfl rfl rfl rfl)

theorem sigWrite_kept {s0 s : State} (a1) (a2) (a3) (a4) (a5) (a6) (h : Kept s0 s) : Kept s0 (sigWrite a1 a2 a3 a4 a5 a6 s) :=
  h.built rfl rfl rfl rfl rfl rfl rfl

theorem onHist_kept {s0 s : State} (a1) (h : Kept s0 s) : Kept s0 (onHist a1 s) :=
  h.built rfl rfl rfl rfl rfl rfl rfl

theorem chargeEvent_kept {s0 s : State} (a1) (a2) (h : Kept s0 s) : Kept s0 (chargeEvent a1 a2 s).1 := by
  unfold chargeEvent
  repeat' first
    | with_reducible assumption
    | with_reducible apply onHist_kept
    | (extract_lets)
    | split

theorem sieEvent_kept {s0 s : State} (h : Kept s0 s) : Kept s0 (sieEvent s) := by
  unfold sieEvent
  repeat' first
    | with_reducible assumption
    | with_reducible apply onFlt_kept
    | with_reducible apply Kept.ite

theorem classX_kept {s0 s : State} (a1) (h : Kept s0 s) : Kept s0 (classX a1 s) :=
  h.built rfl rfl rfl rfl rfl rfl rfl

theorem holdPipe_kept {s0 s : State} (a1) (h : Kept s0 s) : Kept s0 (holdPipe a1 s) :=
  h.built rfl rfl rfl rfl rfl rfl rfl

theorem holdFor_kept {s0 s : State} (a1) (a2) (h : Kept s0 s) : Kept s0 (holdFor a1 a2 s) :=
  h.built rfl rfl rfl rfl rfl rfl rfl

theorem endHold_kept {s0 s : State} (a1) (h : Kept s0 s) : Kept s0 (endHold a1 s) :=
  h.built rfl rfl rfl rfl rfl rfl rfl

theorem holdAll_kept {s0 s : State} (a1) (h : Kept s0 s) : Kept s0 (holdAll a1 s) := by
  unfold holdAll
  repeat' first
    | with_reducible assumption
    | with_reducible apply holdPipe_kept
    | with_reducible refine Kept.foldl (fun _ _ _ => ?_) _ ?_

theorem endAll_kept {s0 s : State} (a1) (h : Kept s0 s) : Kept s0 (endAll a1 s) := by
  unfold endAll
  repeat' first
    | with_reducible assumption
    | with_reducible apply endHold_kept
    | with_reducible refine Kept.foldl (fun _ _ _ => ?_) _ ?_

theorem onCg_kept {s0 s : State} (a1) (h : Kept s0 s) : Kept s0 (onCg a1 s) :=
  h.built rfl rfl rfl rfl rfl rfl rfl

theorem cgOpen_kept {s0 s : State} (h : Kept s0 s) : KeptIf s0 (cgOpen s) := by
  unfold cgOpen
  repeat' first
    | with_reducible assumption
    | with_reducible apply onCg_kept
    | with_reducible exact KeptIf.none
    | with_reducible apply KeptIf.some
    | with_reducible apply KeptIf.ite

theorem cgStart_kept {s0 s : State} (a1) (h : Kept s0 s) : KeptIf s0 (cgStart a1 s) := by
  unfold cgStart
  repeat' first
    | with_reducible assumption
    | with_reducible apply onCg_kept
    | (with_reducible refine KeptIf.get (cgOpen_kept  ?_) (by assumption))
    | with_reducible refine KeptIf.map (fun _ _ => ?_)

theorem cgTry_kept {s0 s : State} (a1) (h : Kept s0 s) : Kept s0 (cgTry a1 s) := by
  unfold cgTry
  repeat' first
    | with_reducible assumption
    | (with_reducible refine KeptIf.get (cgStart_kept _ ?_) (by assumption))
    | split

theorem cgWithdraw_kept {s0 s : State} (a1) (h : Kept s0 s) : Kept s0 (cgWithdraw a1 s) :=
  h.built rfl rfl rfl rfl rfl rfl rfl

theorem cgWhole_kept {s0 s : State} (h : Kept s0 s) : Kept s0 (cgWhole s) :=
  h.built rfl rfl rfl rfl rfl rfl rfl

theorem cgSent_kept {s0 s : State} (a1) (h : Kept s0 s) : Kept s0 (cgSent a1 s) := by
  unfold cgSent
  repeat' first
    | with_reducible assumption
    | with_reducible apply onCg_kept
    | with_reducible apply Kept.ite
    | (extract_lets)
    | split

theorem sendVote_kept {s0 s : State} (a1) (h : Kept s0 s) : Kept s0 (sendVote a1 s) :=
  h.built rfl rfl rfl rfl rfl rfl rfl

theorem scopeRpt_kept {s0 s : State} (a1) (a2) (h : Kept s0 s) : Kept s0 (scopeRpt a1 a2 s) :=
  h.built rfl rfl rfl rfl rfl rfl rfl

theorem cgReset_kept {s0 s : State} (h : Kept s0 s) : Kept s0 (cgReset s) :=
  h.built rfl rfl rfl rfl rfl rfl rfl

theorem lathUpd_kept {s0 s : State} (a1) (a2) (h : Kept s0 s) : Kept s0 (lathUpd a1 a2 s) :=
  h.built rfl rfl rfl rfl rfl rfl rfl

theorem lathStatWrite_kept {s0 s : State} (a1) (a2) (h : Kept s0 s) : Kept s0 (lathStatWrite a1 a2 s) :=
  h.built rfl rfl rfl rfl rfl rfl rfl

theorem onLath_kept {s0 s : State} (a1) (h : Kept s0 s) : Kept s0 (onLath a1 s) :=
  h.built rfl rfl rfl rfl rfl rfl rfl

theorem linkSend_kept {s0 s : State} (a1) (a2) (a3) (h : Kept s0 s) : Kept s0 (linkSend a1 a2 a3 s) :=
  h.built rfl rfl rfl rfl rfl rfl rfl

theorem lathSend_kept {s0 s : State} (a1) (a2) (h : Kept s0 s) : Kept s0 (lathSend a1 a2 s) := by
  unfold lathSend
  repeat' first
    | with_reducible assumption
    | with_reducible apply linkSend_kept
    | with_reducible apply Kept.ite
    | with_reducible refine Kept.foldl (fun _ _ _ => ?_) _ ?_
    | (extract_lets)
    | split

theorem deliver_kept {s0 s : State} (a1) (a2) (h : Kept s0 s) : Kept s0 (deliver a1 a2 s) :=
  h.built rfl rfl rfl rfl rfl rfl rfl

theorem forward_kept {s0 s : State} (a1) (a2) (a3) (h : Kept s0 s) : Kept s0 (forward a1 a2 a3 s) := by
  unfold forward
  repeat' first
    | with_reducible assumption
    | with_reducible apply deliver_kept
    | with_reducible apply linkSend_kept
    | with_reducible apply Kept.ite
    | with_reducible refine Kept.foldl (fun _ _ _ => ?_) _ ?_
    | (extract_lets)
    | split

theorem copySet_kept {s0 s : State} (a1) (a2) (h : Kept s0 s) : Kept s0 (copySet a1 a2 s) :=
  h.built rfl rfl rfl rfl rfl rfl rfl

theorem dropStale_kept {s0 s : State} (a1) (a2) (h : Kept s0 s) : Kept s0 (dropStale a1 a2 s) :=
  h.built rfl rfl rfl rfl rfl rfl rfl

theorem lathDone_kept {s0 s : State} (a1) (a2) (h : Kept s0 s) : Kept s0 (lathDone a1 a2 s) :=
  h.built rfl rfl rfl rfl rfl rfl rfl

theorem hubInterval_kept {s0 s : State} (a1) (h : Kept s0 s) : Kept s0 (hubInterval a1 s) := by
  unfold hubInterval
  repeat' first
    | with_reducible assumption
    | with_reducible apply onLath_kept
    | with_reducible apply sendRpt_kept
    | with_reducible apply Kept.ite
    | with_reducible refine Kept.foldl (fun _ _ _ => ?_) _ ?_

theorem resetHeard_kept {s0 s : State} (a1) (h : Kept s0 s) : Kept s0 (resetHeard a1 s) := by
  unfold resetHeard
  repeat' first
    | with_reducible assumption
    | with_reducible apply endHold_kept
    | with_reducible apply onLath_kept
    | with_reducible apply Kept.ite
    | with_reducible refine Kept.foldl (fun _ _ _ => ?_) _ ?_

theorem windowWrite_kept {s0 s : State} (a1) (a2) (a3) (a4) (h : Kept s0 s) (hf : ∀ x, Kept s0 (a4 x)) :
    Kept s0 (windowWrite s a1 a2 a3 a4) := by
  unfold windowWrite
  repeat' first
    | with_reducible assumption
    | with_reducible apply hf
    | with_reducible apply answerCode_kept
    | with_reducible apply addrErr_kept
    | (extract_lets)
    | split

theorem windowRead_kept {s0 s : State} (a1) (a2) (a3) (a4) (h : Kept s0 s) (hf : ∀ x, Kept s0 (a4 x)) :
    Kept s0 (windowRead s a1 a2 a3 a4) := by
  unfold windowRead
  repeat' first
    | with_reducible assumption
    | with_reducible apply hf
    | with_reducible apply answer_kept
    | with_reducible apply addrErr_kept
    | (extract_lets)
    | split

theorem onFab_kept {s0 s : State} (a1) (a2) (h : Kept s0 s) : Kept s0 (onFab s a1 a2) :=
  h.built rfl rfl rfl rfl rfl rfl rfl

theorem residUpd_kept {s0 s : State} (a1) (a2) (h : Kept s0 s) : Kept s0 (residUpd a1 a2 s) :=
  h.built rfl rfl rfl rfl rfl rfl rfl

theorem moveMacro_kept {s0 s : State} (a1) (a2) (h : Kept s0 s) : Kept s0 (moveMacro a1 a2 s) := by
  unfold moveMacro
  repeat' first
    | with_reducible assumption
    | with_reducible apply residUpd_kept
    | split

theorem replaceColumn_kept {s0 s : State} (a1) (a2) (a3) (h : Kept s0 s) : Kept s0 (replaceColumn a1 a2 a3 s) := by
  unfold replaceColumn
  repeat' first
    | with_reducible assumption
    | with_reducible apply onFab_kept
    | with_reducible apply moveMacro_kept
    | with_reducible apply residUpd_kept
    | with_reducible apply holdPipe_kept
    | with_reducible apply endHold_kept
    | with_reducible apply cgWhole_kept
    | with_reducible apply Kept.ite
    | with_reducible refine Kept.foldl (fun _ _ _ => ?_) _ ?_
    | (extract_lets)
    | split

theorem dramStore_kept {s0 s : State} (a1) (a2) (h : Kept s0 s) : Kept s0 (dramStore s a1 a2) := by
  unfold dramStore
  repeat' first
    | with_reducible assumption
    | with_reducible apply dramMask_kept
    | with_reducible apply Kept.ite
    | with_reducible refine Kept.foldl (fun _ _ _ => ?_) _ ?_

theorem libTake_kept {s0 s : State} (a1) (a2) (h : Kept s0 s) : KeptIf s0 (libTake a1 a2 s) := by
  unfold libTake
  repeat' first
    | with_reducible assumption
    | with_reducible apply mdPut_kept
    | with_reducible refine KeptIf.map (fun _ _ => ?_)
    | with_reducible exact KeptIf.none
    | with_reducible apply KeptIf.ite

theorem libTakes_kept {s0 : State} (a1) (a2) (a4) : ∀ (n : Nat) (l : List Nat) {s : State}, Kept s0 s →
    KeptIf s0 (libTakes a1 a2 n a4 l s)
  | 0, l, s, h => KeptIf.some h
  | n + 1, l, s, h => by
    unfold libTakes
    extract_lets
    split
    · rename_i r hr
      obtain ⟨x, -, hx⟩ := List.exists_of_findSome?_eq_some hr
      obtain ⟨y, hy, rfl⟩ := Option.map_eq_some_iff.1 hx
      exact libTakes_kept a1 a2 _ _ _ (KeptIf.get (libTake_kept _ _ h) hy)
    · exact KeptIf.none

theorem extFree_kept {s0 s : State} (a1) (h : Kept s0 s) : Kept s0 (extFree a1 s) := by
  unfold extFree
  repeat' first
    | with_reducible assumption
    | with_reducible apply mdPut_kept
    | with_reducible refine Kept.foldl (fun _ _ _ => ?_) _ ?_

theorem cacheTake_kept {s0 s : State} (a1) (a2) (a3) (h : Kept s0 s) : KeptIf s0 (cacheTake a1 a2 a3 s) := by
  unfold cacheTake
  repeat' first
    | with_reducible assumption
    | with_reducible apply dramZero_kept
    | with_reducible apply mdPut_kept
    | with_reducible refine KeptIf.map (fun _ _ => ?_)

theorem cacheDrop_kept {s0 s : State} (a1) (h : Kept s0 s) : Kept s0 (cacheDrop a1 s) :=
  h.built rfl rfl rfl rfl rfl rfl rfl

theorem sessPut_kept {s0 s : State} (a1) (a2) (h : Kept s0 s) : Kept s0 (sessPut s a1 a2) :=
  h.built rfl rfl rfl rfl rfl rfl rfl

theorem sessUpd_kept {s0 s : State} (a1) (a2) (h : Kept s0 s) : Kept s0 (sessUpd a1 a2 s) := by
  unfold sessUpd
  repeat' first
    | with_reducible assumption
    | with_reducible apply sessPut_kept
    | split

theorem klpSend_kept {s0 s : State} (a1) (a2) (a3) (a4) (a5) (h : Kept s0 s) : Kept s0 (klpSend a1 a2 a3 a4 a5 s) := by
  unfold klpSend
  repeat' first
    | with_reducible assumption
    | with_reducible apply sessUpd_kept

theorem gated_kept {s0 s b : State} (g) (h : Kept s0 s) (k : Kept s0 b) : Kept s0 (gated g s b) := by
  unfold gated
  split
  · exact answerCode_kept _ h
  · exact k

theorem progMacros_kept {s0 s : State} (a1) (a2) (a3) (h : Kept s0 s) : Kept s0 (progMacros a1 a2 a3 s) := by
  unfold progMacros
  repeat' first
    | with_reducible assumption
    | with_reducible apply onFab_kept
    | with_reducible refine Kept.foldl (fun _ _ _ => ?_) _ ?_
    | (extract_lets)
    | split

theorem progStores_kept {s0 s : State} (a1) (a2) (h : Kept s0 s) : Kept s0 (progStores a1 a2 s) := by
  unfold progStores
  repeat' first
    | with_reducible assumption
    | with_reducible apply onFab_kept
    | with_reducible refine Kept.foldl (fun _ _ _ => ?_) _ ?_
    | (extract_lets)
    | split

theorem buildSlice_kept {s0 s : State} (a1) (a2) (a3) (h : Kept s0 s) : Kept s0 (buildSlice a1 a2 a3 s) := by
  unfold buildSlice
  repeat' first
    | with_reducible assumption
    | with_reducible apply progMacros_kept
    | with_reducible apply progStores_kept
    | (extract_lets)
    | split

theorem restoreTile_kept {s0 s : State} (a1) (a2) (h : Kept s0 s) : Kept s0 (restoreTile a1 a2 s) := by
  unfold restoreTile
  repeat' first
    | with_reducible assumption
    | with_reducible apply tilePut_kept
    | with_reducible refine Kept.foldl (fun _ _ _ => ?_) _ ?_
    | (extract_lets)
    | split

theorem restoreSlice_kept {s0 s : State} (a1) (h : Kept s0 s) : Kept s0 (restoreSlice a1 s) := by
  unfold restoreSlice
  repeat' first
    | with_reducible assumption
    | with_reducible apply restoreTile_kept
    | with_reducible refine Kept.foldl (fun _ _ _ => ?_) _ ?_

theorem refsPut_kept {s0 s : State} (a1) (a2) (h : Kept s0 s) : Kept s0 (refsPut s a1 a2) := by
  unfold refsPut
  repeat' first
    | with_reducible assumption
    | with_reducible apply tilePut_kept
    | with_reducible apply Kept.ite

theorem liveSlice_kept {s0 s : State} (a1) (a2) (h : Kept s0 s) : Kept s0 (liveSlice a1 a2 s) := by
  unfold liveSlice
  repeat' first
    | with_reducible assumption
    | with_reducible apply refsPut_kept
    | with_reducible apply tilePut_kept
    | with_reducible apply onFab_kept
    | with_reducible refine Kept.foldl (fun _ _ _ => ?_) _ ?_
    | (extract_lets)
    | split

theorem deadSlice_kept {s0 s : State} (a1) (h : Kept s0 s) : Kept s0 (deadSlice a1 s) := by
  unfold deadSlice
  repeat' first
    | with_reducible assumption
    | with_reducible apply tilePut_kept
    | with_reducible refine Kept.foldl (fun _ _ _ => ?_) _ ?_

theorem dropStores_kept {s0 s : State} (a1) (h : Kept s0 s) : Kept s0 (dropStores a1 s) := by
  unfold dropStores
  repeat' first
    | with_reducible assumption
    | with_reducible apply onFab_kept
    | with_reducible refine Kept.foldl (fun _ _ _ => ?_) _ ?_

theorem resFail_kept {s0 s : State} (a1) (a2) (h : Kept s0 s) : Kept s0 (resFail a1 a2 s) :=
  h.built rfl rfl rfl rfl rfl rfl rfl

theorem resCpl_kept {s0 s : State} (a1) (a2) (a3) (h : Kept s0 s) : Kept s0 (resCpl a1 a2 a3 s) := by
  unfold resCpl
  repeat' first
    | with_reducible assumption
    | with_reducible apply klpSend_kept

theorem resEnd_kept {s0 s : State} (a1) (h : Kept s0 s) : Kept s0 (resEnd a1 s) := by
  unfold resEnd
  repeat' first
    | with_reducible assumption
    | with_reducible apply residUpd_kept
    | with_reducible apply resCpl_kept
    | split

theorem refreshDue_kept {s0 s : State} (a1) (a2) (h : Kept s0 s) : Kept s0 (refreshDue a1 a2 s) := by
  unfold refreshDue
  repeat' first
    | with_reducible assumption
    | with_reducible apply residUpd_kept
    | with_reducible apply svcRpt_kept
    | with_reducible apply Kept.ite

theorem degradeSlice_kept {s0 s : State} (a1) (a2) (h : Kept s0 s) : Kept s0 (degradeSlice a1 a2 s) := by
  unfold degradeSlice
  repeat' first
    | with_reducible assumption
    | with_reducible apply cgWhole_kept
    | with_reducible apply deadSlice_kept
    | with_reducible apply residUpd_kept
    | with_reducible apply holdPipe_kept
    | with_reducible refine Kept.foldl (fun _ _ _ => ?_) _ ?_
    | split

theorem evictModel_kept {s0 s : State} (a1) (h : Kept s0 s) : Kept s0 (evictModel a1 s) := by
  unfold evictModel
  repeat' first
    | with_reducible assumption
    | (rw [State.over_eq]; with_reducible refine Kept.over ?_ id rfl rfl rfl rfl rfl)
    | with_reducible apply dropStores_kept
    | with_reducible apply deadSlice_kept
    | with_reducible apply cgWhole_kept
    | with_reducible refine Kept.foldl (fun _ _ _ => ?_) _ ?_

theorem evictUntil_kept {s0 : State} (a1) : ∀ (n : Nat) {s : State}, Kept s0 s → Kept s0 (evictUntil a1 n s)
  | 0, s, h => by unfold evictUntil; exact h
  | n + 1, s, h => by
    unfold evictUntil
    repeat' first
      | with_reducible assumption
      | with_reducible apply evictModel_kept
      | with_reducible refine evictUntil_kept _ _ ?_
      | with_reducible apply Kept.ite
      | (extract_lets)
      | split

theorem dropLibrary_kept {s0 s : State} (a1) (h : Kept s0 s) : Kept s0 (dropLibrary a1 s) := by
  unfold dropLibrary
  repeat' first
    | with_reducible assumption
    | (rw [State.over_eq]; with_reducible refine Kept.over ?_ id rfl rfl rfl rfl rfl)
    | with_reducible apply extFree_kept
    | with_reducible refine Kept.foldl (fun _ _ _ => ?_) _ ?_

theorem sourceCredits_kept {s0 s : State} (a1) (h : Kept s0 s) : Kept s0 (sourceCredits a1 s) := by
  unfold sourceCredits
  repeat' first
    | with_reducible assumption
    | with_reducible apply onGrid_kept
    | with_reducible apply Kept.ite
    | with_reducible refine Kept.foldl (fun _ _ _ => ?_) _ ?_

theorem creditTile_kept {s0 s : State} (a1) (h : Kept s0 s) : Kept s0 (creditTile a1 s) := by
  unfold creditTile
  repeat' first
    | with_reducible assumption
    | with_reducible apply sourceCredits_kept
    | with_reducible apply tilePut_kept

theorem storeSites_kept {s0 s : State} (a1) (a2) (h : Kept s0 s) : Kept s0 (storeSites a1 a2 s) := by
  unfold storeSites
  repeat' first
    | with_reducible assumption
    | with_reducible apply creditTile_kept
    | with_reducible apply tilePut_kept
    | with_reducible refine Kept.foldl (fun _ _ _ => ?_) _ ?_

theorem sendCalendars_kept {s0 s : State} (a1) (h : Kept s0 s) : Kept s0 (sendCalendars a1 s) :=
  h.built rfl rfl rfl rfl rfl rfl rfl

theorem allocCopies_kept {s0 s : State} (a1) (a2) (h : Kept s0 s) : KeptIf s0 (allocCopies a1 a2 s) := by
  unfold allocCopies
  repeat' first
    | with_reducible assumption
    | (with_reducible refine KeptIf.get (libTakes_kept _ _ _ _ _ ?_) (by assumption))
    | with_reducible refine KeptIf.map (fun _ _ => ?_)
    | with_reducible refine KeptIf.foldl (fun _ _ _ => ?_) _ ?_
    | with_reducible refine KeptIf.bind ?_ (fun _ _ => ?_)
    | with_reducible apply KeptIf.some
    | (dsimp -zeta only)
    | (extract_lets)
    | split

theorem evictLibrary_kept {s0 : State} (a1) (a2) : ∀ (n : Nat) {s : State}, Kept s0 s → Kept s0 (evictLibrary a1 a2 n s)
  | 0, s, h => by unfold evictLibrary; exact h
  | n + 1, s, h => by
    unfold evictLibrary
    repeat' first
      | with_reducible assumption
      | with_reducible apply cgWhole_kept
      | with_reducible apply dropLibrary_kept
      | with_reducible refine evictLibrary_kept _ _ _ ?_
      | with_reducible apply Kept.ite
      | (extract_lets)
      | split

theorem copyWrite_kept {s0 s : State} (a1) (a2) (a3) (h : Kept s0 s) : Kept s0 (copyWrite a1 a2 a3 s) := by
  unfold copyWrite
  repeat' first
    | with_reducible assumption
    | with_reducible apply dramWrite_kept
    | with_reducible refine Kept.foldl (fun _ _ _ => ?_) _ ?_

theorem acceptShard_kept {s0 s : State} (a1) (a2) (a3) (a4) (h : Kept s0 s) : Kept s0 (acceptShard a1 a2 a3 a4 s) := by
  unfold acceptShard
  repeat' first
    | with_reducible assumption
    | with_reducible apply extFree_kept
    | with_reducible apply evictLibrary_kept
    | with_reducible apply resFail_kept
    | with_reducible apply copyWrite_kept
    | with_reducible apply residUpd_kept
    | (with_reducible refine KeptIf.get (allocCopies_kept _ _ ?_) (by assumption))
    | with_reducible refine Kept.foldl (fun _ _ _ => ?_) _ ?_
    | (extract_lets)
    | split

theorem tagFail_kept {s0 s : State} (a1) (a2) (h : Kept s0 s) : Kept s0 (tagFail a1 a2 s) :=
  h.built rfl rfl rfl rfl rfl rfl rfl

theorem plcOp_kept {s0 s : State} (a1) (a2) (h : Kept s0 s) : Kept s0 (plcOp a1 a2 s) :=
  h.built rfl rfl rfl rfl rfl rfl rfl

theorem placePipe_kept {s0 : State} (a1) (a2) (a3) (a4) (h : ∀ t, a4 = some t → Kept s0 t) :
    ∀ t, placePipe a1 a2 a3 a4 = some t → Kept s0 t := by
  intro t ht
  unfold placePipe at ht
  obtain ⟨s, hs, ht⟩ := Option.bind_eq_some_iff.1 ht
  have h := h s hs
  split at ht
  · split at ht
    · split at ht <;> cases ht
      · repeat' first
          | with_reducible assumption
          | (rw [State.over_eq]; with_reducible refine Kept.over ?_ id rfl rfl rfl rfl rfl)
          | with_reducible apply plcOp_kept
          | with_reducible apply storeSites_kept
      · exact h
    · cases ht; exact h
  · extract_lets at ht
    split at ht <;> cases ht
    repeat' first
      | with_reducible assumption
      | (rw [State.over_eq]; with_reducible refine Kept.over ?_ id rfl rfl rfl rfl rfl)
      | with_reducible apply plcOp_kept
      | with_reducible apply storeSites_kept
      | with_reducible apply sendCalendars_kept
      | with_reducible apply evictUntil_kept

theorem loadModel_kept {s0 s : State} (a1) (h : Kept s0 s) : Kept s0 (loadModel a1 s) := by
  have hp : ∀ (l : List Nat) (i p) (o : Option State), (∀ t, o = some t → Kept s0 t) →
      ∀ t, l.foldl (fun acc q => placePipe i p q acc) o = some t → Kept s0 t := by
    intro l i p
    induction l with
    | nil => intro o ho; exact ho
    | cons x l ih => intro o ho; exact ih _ (placePipe_kept _ _ _ _ ho)
  unfold loadModel
  repeat' first
    | with_reducible assumption
    | with_reducible refine hp _ _ _ (some s) (fun t e => by cases e; exact h) _ (by assumption)
    | with_reducible apply resFail_kept
    | with_reducible apply tagFail_kept
    | with_reducible apply plcOp_kept
    | with_reducible apply evictUntil_kept
    | with_reducible apply residUpd_kept
    | with_reducible apply Kept.ite
    | (extract_lets)
    | split

theorem resReq_kept {s0 s : State} (a1) (a2) (a3) (a4) (a5) (h : Kept s0 s) (hf : ∀ x, Kept s0 x → Kept s0 (a5 x)) :
    Kept s0 (resReq a1 a2 a3 a4 s a5) := by
  unfold resReq
  repeat' first
    | with_reducible assumption
    | with_reducible apply hf
    | with_reducible apply gated_kept
    | with_reducible apply answerCode_kept
    | with_reducible apply residUpd_kept
    | with_reducible apply Kept.ite

theorem endUnless_kept {s0 s : State} (a1) (a2) (h : Kept s0 s) : Kept s0 (endUnless a1 a2 s) := by
  unfold endUnless
  repeat' first
    | with_reducible assumption
    | with_reducible apply resEnd_kept
    | with_reducible apply Kept.ite

theorem switchStencils_kept {s0 s : State} (a1) (a2) (a3) (a4) (h : Kept s0 s) : Kept s0 (switchStencils a1 a2 a3 a4 s) := by
  unfold switchStencils
  repeat' first
    | with_reducible assumption
    | with_reducible apply tilePut_kept
    | with_reducible apply Kept.ite
    | with_reducible refine Kept.foldl (fun _ _ _ => ?_) _ ?_
    | (extract_lets)
    | split

theorem settleModel_kept {s0 s : State} (a1) (h : Kept s0 s) : Kept s0 (settleModel a1 s) := by
  unfold settleModel
  repeat' first
    | with_reducible assumption
    | with_reducible apply residUpd_kept
    | with_reducible apply resEnd_kept
    | with_reducible apply Kept.ite

theorem stagedSwap_kept {s0 s : State} (a1) (a2) (a3) (h : Kept s0 s) : Kept s0 (stagedSwap a1 a2 a3 s) := by
  unfold stagedSwap
  repeat' first
    | with_reducible assumption
    | (rw [State.over_eq]; with_reducible refine Kept.over ?_ id rfl rfl rfl rfl rfl)
    | with_reducible apply resFail_kept
    | with_reducible apply buildSlice_kept
    | with_reducible apply switchStencils_kept
    | with_reducible apply dropStores_kept
    | with_reducible apply deadSlice_kept
    | with_reducible apply restoreSlice_kept
    | with_reducible apply liveSlice_kept
    | with_reducible apply onHist_kept
    | with_reducible apply cgWhole_kept
    | with_reducible apply residUpd_kept
    | with_reducible apply holdFor_kept
    | with_reducible apply onGrid_kept
    | with_reducible apply holdPipe_kept
    | with_reducible apply settleModel_kept
    | with_reducible refine Kept.foldl (fun _ _ _ => ?_) _ ?_
    | (extract_lets)
    | split

theorem inPlaceSwap_kept {s0 s : State} (a1) (a2) (a3) (h : Kept s0 s) : Kept s0 (inPlaceSwap a1 a2 a3 s) := by
  unfold inPlaceSwap
  repeat' first
    | with_reducible assumption
    | with_reducible apply cgWhole_kept
    | with_reducible apply dropStores_kept
    | with_reducible apply deadSlice_kept
    | with_reducible apply holdAll_kept
    | with_reducible apply restoreSlice_kept
    | with_reducible apply liveSlice_kept
    | with_reducible apply buildSlice_kept
    | with_reducible apply endAll_kept
    | with_reducible apply settleModel_kept
    | with_reducible apply residUpd_kept
    | with_reducible apply resFail_kept
    | (extract_lets)
    | split

theorem ageSlice_kept {s0 s : State} (a1) (a2) (h : Kept s0 s) : Kept s0 (ageSlice a1 a2 s) := by
  unfold ageSlice
  repeat' first
    | with_reducible assumption
    | with_reducible apply residUpd_kept
    | with_reducible apply refreshDue_kept
    | with_reducible apply degradeSlice_kept
    | with_reducible apply Kept.ite
    | split

theorem markWear_kept {s0 s : State} (h : Kept s0 s) : Kept s0 (markWear s) := by
  unfold markWear
  repeat' first
    | with_reducible assumption
    | (rw [State.over_eq]; with_reducible refine Kept.over ?_ id rfl rfl rfl rfl rfl)
    | with_reducible apply Kept.ite

theorem onCal_kept {s0 s : State} (a1) (h : Kept s0 s) : Kept s0 (onCal a1 s) :=
  h.built rfl rfl rfl rfl rfl rfl rfl

theorem settleTrims_kept {s0 s : State} (h : Kept s0 s) : Kept s0 (settleTrims s) := by
  unfold settleTrims
  repeat' first
    | with_reducible assumption
    | with_reducible apply onCal_kept
    | with_reducible apply tilePut_kept
    | with_reducible apply Kept.ite
    | with_reducible refine Kept.foldl (fun _ _ _ => ?_) _ ?_

theorem retarget_kept {s0 s : State} (h : Kept s0 s) : Kept s0 (retarget s) := by
  unfold retarget
  repeat' first
    | with_reducible assumption
    | with_reducible apply onCal_kept
    | with_reducible apply Kept.ite
    | with_reducible refine Kept.foldl (fun _ _ _ => ?_) _ ?_

theorem discardOut_kept {s0 s : State} (h : Kept s0 s) : Kept s0 (discardOut s) := by
  unfold discardOut
  repeat' first
    | with_reducible assumption
    | with_reducible apply onCal_kept
    | with_reducible apply Kept.ite

theorem tempPairs_kept {s0 s : State} (h : Kept s0 s) : Kept s0 (tempPairs s) := by
  unfold tempPairs
  repeat' first
    | with_reducible assumption
    | with_reducible apply svcRpt_kept
    | with_reducible apply Kept.ite
    | with_reducible refine Kept.foldl (fun _ _ _ => ?_) _ ?_

theorem calFail_kept {s0 s : State} (a1) (a2) (a3) (a4) (a5) (h : Kept s0 s) : Kept s0 (calFail a1 a2 a3 a4 a5 s) :=
  h.built rfl rfl rfl rfl rfl rfl rfl

theorem judgeConv_kept {s0 s : State} (a1) (a2) (a3) (a4) (a5) (a6) (a7) (a8) (h : Kept s0 s) :
    Kept s0 (judgeConv a1 a2 a3 a4 a5 a6 a7 a8 s) := by
  unfold judgeConv
  repeat' first
    | with_reducible assumption
    | with_reducible apply onCal_kept
    | with_reducible apply calFail_kept
    | split

theorem bandEnd_kept {s0 s : State} (a1) (a2) (a3) (a4) (h : Kept s0 s) : Kept s0 (bandEnd a1 a2 a3 a4 s) := by
  unfold bandEnd
  repeat' first
    | with_reducible assumption
    | with_reducible apply onCal_kept
    | with_reducible apply sendRpt_kept
    | with_reducible apply degradeSlice_kept
    | with_reducible apply refreshDue_kept
    | with_reducible apply Kept.ite
    | (extract_lets)
    | split

theorem scanEnd_kept {s0 s : State} (a1) (a2) (a3) (h : Kept s0 s) : Kept s0 (scanEnd a1 a2 a3 s) := by
  unfold scanEnd
  repeat' first
    | with_reducible assumption
    | with_reducible apply endAll_kept
    | with_reducible apply onCal_kept
    | with_reducible apply calFail_kept
    | with_reducible apply bandEnd_kept
    | with_reducible apply Kept.ite
    | with_reducible refine Kept.foldl (fun _ _ _ => ?_) _ ?_
    | (extract_lets)
    | split

theorem scansDue_kept {s0 s : State} (a1) (a2) (h : Kept s0 s) : Kept s0 (scansDue a1 a2 s) := by
  unfold scansDue
  repeat' first
    | with_reducible assumption
    | with_reducible apply scanEnd_kept
    | with_reducible apply onFab_kept
    | with_reducible refine Kept.foldl (fun _ _ _ => ?_) _ ?_

theorem onLoad_kept {s0 s : State} (a1) (h : Kept s0 s) : Kept s0 (onLoad a1 s) :=
  h.built rfl rfl rfl rfl rfl rfl rfl

theorem imgCpl_kept {s0 s : State} (h : Kept s0 s) : Kept s0 (imgCpl s) := by
  unfold imgCpl
  repeat' first
    | with_reducible assumption
    | with_reducible apply klpSend_kept
    | split

theorem loadEnd_kept {s0 s : State} (a1) (a2) (a3) (h : Kept s0 s) : Kept s0 (loadEnd a1 a2 a3 s) := by
  unfold loadEnd
  repeat' first
    | with_reducible assumption
    | with_reducible apply cgWithdraw_kept
    | with_reducible apply imgCpl_kept
    | with_reducible apply onLoad_kept
    | with_reducible apply Kept.ite
    | (extract_lets)
    | split

theorem loadBegin_kept {s0 s : State} (a1) (a2) (a3) (a4) (a5) (h : Kept s0 s) : Kept s0 (loadBegin a1 a2 a3 a4 a5 s) :=
  h.built rfl rfl rfl rfl rfl rfl rfl

theorem loadReady_kept {s0 s : State} (h : Kept s0 s) : Kept s0 (loadReady s) := by
  unfold loadReady
  repeat' first
    | with_reducible assumption
    | with_reducible apply onLoad_kept
    | with_reducible apply Kept.ite

end Sys2Proof.Machine
end

