-- ==== Sys2Proof/Laws/KeptTasks.lean ====
section
/-! SUPPORT. What is kept by the shared operations on tasks, pages, requests, lanes, rings, bulk streams, recovery, ports and probes. -/

namespace Sys2Proof.Machine

theorem engPut_kept {s0 s : State} (a1) (a2) (h : Kept s0 s) : Kept s0 (engPut s a1 a2) :=
  h.built rfl rfl rfl rfl rfl rfl rfl

theorem engUpd_kept {s0 s : State} (a1) (a2) (h : Kept s0 s) : Kept s0 (engUpd a1 a2 s) :=
  h.built rfl rfl rfl rfl rfl rfl rfl

theorem ctxPut_kept {s0 s : State} (a1) (a2) (h : Kept s0 s) : Kept s0 (ctxPut s a1 a2) :=
  h.built rfl rfl rfl rfl rfl rfl rfl

theorem ctxUpd_kept {s0 s : State} (a1) (a2) (h : Kept s0 s) : Kept s0 (ctxUpd a1 a2 s) :=
  h.built rfl rfl rfl rfl rfl rfl rfl

theorem pipeUpd_kept {s0 s : State} (a1) (a2) (h : Kept s0 s) : Kept s0 (pipeUpd a1 a2 s) := by
  unfold pipeUpd
  repeat' first
    | with_reducible assumption
    | with_reducible apply engUpd_kept
    | split

theorem engEdit_kept {s0 s : State} (a1) (a2) (h : Kept s0 s) : Kept s0 (engEdit a1 a2 s) := by
  unfold engEdit
  repeat' first
    | with_reducible assumption
    | with_reducible apply dramStore_kept
    | with_reducible apply engPut_kept
    | with_reducible refine Kept.foldl (fun _ _ _ => ?_) _ ?_

theorem notify_kept {s0 s : State} (a1) (a2) (a3) (a4) (h : Kept s0 s) : Kept s0 (notify a1 a2 a3 a4 s) := by
  unfold notify
  repeat' first
    | with_reducible assumption
    | with_reducible apply engUpd_kept
    | (extract_lets)
    | split

theorem withdrawWith_kept {s0 s : State} (a1) (h : Kept s0 s) : Kept s0 (withdrawWith a1 s) := by
  unfold withdrawWith
  repeat' first
    | with_reducible assumption
    | with_reducible apply cgWithdraw_kept
    | split

theorem admitCpl_kept {s0 s : State} (a1) (a2) (h : Kept s0 s) : Kept s0 (admitCpl a1 a2 s) := by
  unfold admitCpl
  repeat' first
    | with_reducible assumption
    | with_reducible apply klpSend_kept
    | with_reducible apply Kept.ite

theorem cutTasks_kept {s0 s : State} (a1) (h : Kept s0 s) : Kept s0 (cutTasks a1 s) := by
  unfold cutTasks
  repeat' first
    | with_reducible assumption
    | with_reducible apply notify_kept
    | with_reducible apply withdrawWith_kept
    | with_reducible apply engEdit_kept
    | with_reducible refine Kept.foldl (fun _ _ _ => ?_) _ ?_

theorem streamClose_kept {s0 s : State} (a1) (a2) (a3) (h : Kept s0 s) : Kept s0 (streamClose a1 a2 a3 s) := by
  unfold streamClose
  repeat' first
    | with_reducible assumption
    | with_reducible apply cutTasks_kept
    | with_reducible apply ctxPut_kept
    | with_reducible apply Kept.ite

theorem streamFault_kept {s0 s : State} (a1) (a2) (a3) (h : Kept s0 s) : Kept s0 (streamFault a1 a2 a3 s) := by
  unfold streamFault
  repeat' first
    | with_reducible assumption
    | with_reducible apply sieEvent_kept
    | with_reducible apply streamClose_kept
    | with_reducible apply Kept.ite

theorem streamLost_kept {s0 s : State} (a1) (h : Kept s0 s) : Kept s0 (streamLost a1 s) := by
  unfold streamLost
  repeat' first
    | with_reducible assumption
    | with_reducible apply ctxUpd_kept
    | with_reducible apply streamFault_kept

theorem streamEnd_kept {s0 s : State} (a1) (a2) (h : Kept s0 s) : Kept s0 (streamEnd a1 a2 s) :=
  h.built rfl rfl rfl rfl rfl rfl rfl

theorem streamCancel_kept {s0 s : State} (a1) (h : Kept s0 s) : Kept s0 (streamCancel a1 s) := by
  unfold streamCancel
  repeat' first
    | with_reducible assumption
    | with_reducible apply engUpd_kept
    | with_reducible apply streamClose_kept

theorem taskDone_kept {s0 s : State} (a1) (a2) (h : Kept s0 s) : Kept s0 (taskDone a1 a2 s) := by
  unfold taskDone
  repeat' first
    | with_reducible assumption
    | with_reducible apply engEdit_kept

theorem taskFail_kept {s0 s : State} (a1) (a2) (a3) (a4) (h : Kept s0 s) : Kept s0 (taskFail a1 a2 a3 a4 s) := by
  unfold taskFail
  repeat' first
    | with_reducible assumption
    | with_reducible apply engEdit_kept
    | with_reducible apply admitCpl_kept
    | with_reducible apply ctxUpd_kept
    | with_reducible apply streamFault_kept
    | with_reducible apply Kept.ite
    | (extract_lets)
    | split

theorem taskCancel_kept {s0 s : State} (a1) (a2) (h : Kept s0 s) : Kept s0 (taskCancel a1 a2 s) := by
  unfold taskCancel
  repeat' first
    | with_reducible assumption
    | with_reducible apply engEdit_kept
    | with_reducible apply ctxUpd_kept
    | with_reducible apply withdrawWith_kept
    | with_reducible apply Kept.ite
    | (extract_lets)
    | split

theorem taskRead_kept {s0 s : State} (a1) (a2) (h : Kept s0 s) : Kept s0 (taskRead a1 a2 s).2 := by
  unfold taskRead
  repeat' first
    | with_reducible assumption
    | with_reducible apply dramReads_kept
    | with_reducible apply taskFail_kept
    | (extract_lets)
    | split

theorem cancelTake_kept {s0 s : State} (a1) (a2) (a3) (h : Kept s0 s) : Kept s0 (cancelTake a1 a2 a3 s).2 := by
  unfold cancelTake
  repeat' first
    | with_reducible assumption
    | with_reducible apply tenantViol_kept
    | with_reducible apply ctxUpd_kept
    | (extract_lets)
    | split

theorem cancelDue_kept {s0 s : State} (a1) (h : Kept s0 s) : Kept s0 (cancelDue a1 s) := by
  unfold cancelDue
  repeat' first
    | with_reducible assumption
    | with_reducible apply taskCancel_kept
    | with_reducible apply ctxUpd_kept
    | with_reducible apply streamCancel_kept
    | with_reducible apply Kept.ite
    | (extract_lets)
    | split

theorem lostDue_kept {s0 s : State} (a1) (h : Kept s0 s) : Kept s0 (lostDue a1 s) := by
  unfold lostDue
  repeat' first
    | with_reducible assumption
    | with_reducible apply streamLost_kept
    | with_reducible apply Kept.ite
    | split

theorem ringsLost_kept {s0 s : State} (a1) (h : Kept s0 s) : Kept s0 (ringsLost a1 s) := by
  unfold ringsLost
  repeat' first
    | with_reducible assumption
    | with_reducible apply ctxUpd_kept
    | with_reducible apply Kept.ite
    | with_reducible refine Kept.foldl (fun _ _ _ => ?_) _ ?_

theorem dramHome_kept {s0 s : State} (a1) (a2) (a3) (a4) (h : Kept s0 s) : KeptIf s0 (dramHome a1 a2 a3 a4 s) := by
  unfold dramHome
  repeat' first
    | with_reducible assumption
    | (with_reducible refine KeptIf.get (cacheTake_kept _ _ _ ?_) (by assumption))
    | with_reducible refine KeptIf.map (fun _ _ => ?_)
    | with_reducible refine KeptIf.findSome (fun _ => ?_) _
    | (dsimp -zeta only)

theorem pageHome1_kept {s0 s : State} (a1) (a2) (a3) (a4) (a5) (a6) (h : Kept s0 s) : KeptIf s0 (pageHome1 a1 a2 a3 a4 a5 a6 s) := by
  unfold pageHome1
  repeat' first
    | with_reducible assumption
    | with_reducible apply dramHome_kept
    | (with_reducible refine KeptIf.get (dramHome_kept _ _ _ _ ?_) (by assumption))
    | with_reducible refine KeptIf.map (fun _ _ => ?_)
    | with_reducible apply KeptIf.some
    | with_reducible apply KeptIf.ite
    | (dsimp -zeta only)
    | (extract_lets)
    | split

theorem planHomes_kept {s0 s : State} (a1) (a2) (a3) (a4) (a5) (h : Kept s0 s) : KeptIf s0 (planHomes a1 a2 a3 a4 a5 s) := by
  unfold planHomes
  repeat' first
    | with_reducible assumption
    | (with_reducible refine KeptIf.get (pageHome1_kept _ _ _ _ _ _ ?_) (by assumption))
    | with_reducible refine KeptIf.map (fun _ _ => ?_)
    | with_reducible refine KeptIf.foldl (fun _ _ _ => ?_) _ ?_
    | with_reducible refine KeptIf.bind ?_ (fun _ _ => ?_)
    | with_reducible exact KeptIf.none
    | with_reducible apply KeptIf.some
    | with_reducible apply KeptIf.ite
    | (dsimp -zeta only)

theorem zeroHomes_kept {s0 s : State} (a1) (h : Kept s0 s) : Kept s0 (zeroHomes a1 s) := by
  unfold zeroHomes
  repeat' first
    | with_reducible assumption
    | (rw [State.over_eq]; with_reducible refine Kept.over ?_ id rfl rfl rfl rfl rfl)
    | with_reducible apply tilePut_kept
    | with_reducible refine Kept.foldl (fun _ _ _ => ?_) _ ?_

theorem freeHome_kept {s0 s : State} (a1) (a2) (h : Kept s0 s) : Kept s0 (freeHome a1 a2 s) := by
  unfold freeHome
  repeat' first
    | with_reducible assumption
    | with_reducible apply cacheDrop_kept
    | with_reducible apply tilePut_kept
    | with_reducible apply Kept.ite
    | with_reducible refine Kept.foldl (fun _ _ _ => ?_) _ ?_

theorem ptePut_kept {s0 s : State} (a1) (a2) (a3) (h : Kept s0 s) : Kept s0 (ptePut a1 a2 a3 s) := by
  unfold ptePut
  repeat' first
    | with_reducible assumption
    | with_reducible apply dramWrite_kept

theorem kvGet_kept {s0 s : State} (a1) (a2) (a3) (h : Kept s0 s) : Kept s0 (kvGet s a1 a2 a3).2 := by
  unfold kvGet
  repeat' first
    | with_reducible assumption
    | with_reducible apply dramRead_kept
    | with_reducible apply putOut_kept
    | with_reducible apply tilePut_kept
    | with_reducible refine Kept.foldl (fun _ _ _ => ?_) _ ?_
    | split

theorem kvPut_kept {s0 s : State} (a1) (a2) (a3) (a4) (h : Kept s0 s) : Kept s0 (kvPut a1 a2 a3 a4 s) := by
  unfold kvPut
  repeat' first
    | with_reducible assumption
    | (rw [State.over_eq]; with_reducible refine Kept.over ?_ (fun m => m.sset _ _) rfl rfl rfl rfl rfl)
    | with_reducible apply dramWrite_kept
    | with_reducible apply tilePut_kept
    | with_reducible apply Kept.ite
    | split

theorem kvMove_kept {s0 s : State} (a1) (a2) (a3) (a4) (a5) (a6) (a7) (h : Kept s0 s) : Kept s0 (kvMove a1 a2 a3 a4 a5 a6 a7 s) := by
  unfold kvMove
  repeat' first
    | with_reducible assumption
    | with_reducible apply kvGet_kept
    | with_reducible apply kvPut_kept
    | with_reducible refine Kept.foldl (fun _ _ _ => ?_) _ ?_

theorem kvScale_kept {s0 s : State} (a1) (a2) (a3) (a4) (a5) (a6) (h : Kept s0 s) : Kept s0 (kvScale a1 a2 a3 a4 a5 a6 s) := by
  unfold kvScale
  repeat' first
    | with_reducible assumption
    | with_reducible apply kvGet_kept
    | with_reducible apply kvPut_kept

theorem kvPos_kept {s0 s : State} (a1) (a2) (a3) (a4) (a5) (a6) (a7) (a8) (h : Kept s0 s) : Kept s0 (kvPos a1 a2 a3 a4 a5 a6 a7 a8 s) := by
  unfold kvPos
  repeat' first
    | with_reducible assumption
    | with_reducible apply kvMove_kept
    | with_reducible apply kvScale_kept

theorem copyPages_kept {s0 s : State} (a1) (a2) (a3) (h : Kept s0 s) : Kept s0 (copyPages a1 a2 a3 s) := by
  unfold copyPages
  repeat' first
    | with_reducible assumption
    | with_reducible apply kvPos_kept
    | with_reducible refine Kept.foldl (fun _ _ _ => ?_) _ ?_
    | (extract_lets)
    | split

theorem migrateApply_kept {s0 s : State} (a1) (a2) (h : Kept s0 s) : Kept s0 (migrateApply a1 a2 s) := by
  unfold migrateApply
  extract_lets c q s1 olds s2 s3 t
  clear_value t
  repeat' first
    | with_reducible assumption
    | with_reducible apply ptePut_kept
    | with_reducible apply freeHome_kept
    | with_reducible apply taskDone_kept
    | with_reducible apply ctxUpd_kept
    | with_reducible refine Kept.foldl (fun _ _ _ => ?_) _ ?_
    | split

theorem cancelScan_kept {s0 s : State} (a1) (a2) (a3) (h : Kept s0 s) : Kept s0 (cancelScan a1 a2 a3 s) := by
  unfold cancelScan
  repeat' first
    | with_reducible assumption
    | with_reducible apply cancelTake_kept
    | with_reducible apply Kept.ite
    | with_reducible refine Kept.foldl (fun _ _ _ => ?_) _ ?_

theorem tailPut_kept {s0 s : State} (a1) (a2) (a3) (h : Kept s0 s) : Kept s0 (tailPut a1 a2 a3 s) := by
  unfold tailPut
  repeat' first
    | with_reducible assumption
    | with_reducible apply engUpd_kept
    | with_reducible apply cancelScan_kept
    | with_reducible apply Kept.ite

theorem sqCfgPut_kept {s0 s : State} (a1) (a2) (a3) (h : Kept s0 s) : Kept s0 (sqCfgPut a1 a2 a3 s) := by
  unfold sqCfgPut
  repeat' first
    | with_reducible assumption
    | with_reducible apply engUpd_kept
    | with_reducible apply cancelScan_kept
    | with_reducible apply tenantViol_kept
    | with_reducible apply Kept.ite

theorem takeRequest_kept {s0 s : State} (a1) (a2) (a3) (h : Kept s0 s) : Kept s0 (takeRequest a1 a2 a3 s) := by
  unfold takeRequest
  repeat' first
    | with_reducible assumption
    | with_reducible apply dramReads_kept
    | with_reducible apply engEdit_kept
    | with_reducible apply tenantViol_kept
    | with_reducible apply taskFail_kept
    | with_reducible apply Kept.ite
    | with_reducible refine Kept.foldl (fun _ _ _ => ?_) _ ?_
    | with_reducible refine Kept.foldl_snd (fun _ _ _ => ?_) _ ?_
    | (extract_lets)
    | split

theorem blockCopy_kept {s0 s : State} (a1) (a2) (h : Kept s0 s) : Kept s0 (blockCopy a1 a2 s) := by
  unfold blockCopy
  repeat' first
    | with_reducible assumption
    | with_reducible apply dramReads_kept
    | with_reducible apply dramWrites_kept

theorem adPut_kept {s0 s : State} (a1) (a2) (a3) (h : Kept s0 s) : Kept s0 (adPut a1 a2 a3 s) :=
  h.built rfl rfl rfl rfl rfl rfl rfl

theorem adFree_kept {s0 s : State} (a1) (a2) (h : Kept s0 s) : Kept s0 (adFree a1 a2 s) := by
  unfold adFree
  repeat' first
    | with_reducible assumption
    | with_reducible apply cacheDrop_kept
    | with_reducible apply adPut_kept
    | (extract_lets)
    | split

theorem unbind_kept {s0 s : State} (a1) (h : Kept s0 s) : Kept s0 (unbind a1 s) := by
  unfold unbind
  repeat' first
    | with_reducible assumption
    | with_reducible apply adPut_kept
    | with_reducible apply Kept.ite

theorem firstOrdered_kept {s0 s : State} (a1) (a2) (h : Kept s0 s) : Kept s0 (firstOrdered a1 a2 s) := by
  unfold firstOrdered
  repeat' first
    | with_reducible assumption
    | with_reducible apply engEdit_kept
    | split

theorem waitEnds_kept {s0 s : State} (a1) (a2) (h : Kept s0 s) : Kept s0 (waitEnds a1 a2 s) := by
  unfold waitEnds
  repeat' first
    | with_reducible assumption
    | with_reducible apply firstOrdered_kept
    | with_reducible apply ctxUpd_kept
    | with_reducible apply Kept.ite

theorem putLines_kept {s0 s : State} (a1) (h : Kept s0 s) : Kept s0 (putLines a1 s) := by
  unfold putLines
  repeat' first
    | with_reducible assumption
    | with_reducible apply tilePut_kept
    | with_reducible refine Kept.foldl (fun _ _ _ => ?_) _ ?_

theorem adReady_kept {s0 s : State} (a1) (a2) (a3) (a4) (a5) (a6) (h : Kept s0 s) : Kept s0 (adReady a1 a2 a3 a4 a5 a6 s) := by
  unfold adReady
  repeat' first
    | with_reducible assumption
    | with_reducible apply putLines_kept
    | with_reducible apply dramWrites_kept
    | with_reducible apply cgWhole_kept
    | with_reducible apply adPut_kept
    | with_reducible apply waitEnds_kept
    | with_reducible apply taskDone_kept
    | with_reducible refine Kept.foldl (fun _ _ _ => ?_) _ ?_

theorem adFail_kept {s0 s : State} (a1) (a2) (a3) (a4) (h : Kept s0 s) : Kept s0 (adFail a1 a2 a3 a4 s) := by
  unfold adFail
  repeat' first
    | with_reducible assumption
    | with_reducible apply taskFail_kept
    | with_reducible apply adFree_kept
    | with_reducible apply streamFault_kept
    | with_reducible refine Kept.foldl (fun _ _ _ => ?_) _ ?_

theorem adRestore_kept {s0 s : State} (a1) (a2) (a3) (h : Kept s0 s) : Kept s0 (adRestore a1 a2 a3 s) := by
  unfold adRestore
  repeat' first
    | with_reducible assumption
    | with_reducible apply dramReads_kept
    | with_reducible apply tilePut_kept
    | with_reducible apply streamFault_kept
    | with_reducible apply adFree_kept
    | with_reducible apply Kept.ite
    | with_reducible refine Kept.foldl (fun _ _ _ => ?_) _ ?_
    | with_reducible refine Kept.foldl_snd (fun _ _ _ => ?_) _ ?_
    | (extract_lets)
    | split

theorem adRestores_kept {s0 s : State} (a1) (h : Kept s0 s) : Kept s0 (adRestores a1 s) := by
  unfold adRestores
  repeat' first
    | with_reducible assumption
    | with_reducible apply adRestore_kept
    | with_reducible refine Kept.foldl (fun _ _ _ => ?_) _ ?_

theorem admitCommit_kept {s0 s : State} (a1) (a2) (a3) (h : Kept s0 s) : Kept s0 (admitCommit a1 a2 a3 s) := by
  unfold admitCommit
  repeat' first
    | with_reducible assumption
    | with_reducible apply taskFail_kept
    | with_reducible apply engEdit_kept
    | with_reducible apply zeroHomes_kept
    | (with_reducible refine KeptIf.get (planHomes_kept _ _ _ _ _ ?_) (by assumption))
    | (with_reducible refine KeptIf.get (cgStart_kept _ ?_) (by assumption))
    | (extract_lets)
    | split

theorem admitGo_kept {s0 s : State} (a1) (a2) (a3) (h : Kept s0 s) : Kept s0 (admitGo a1 a2 a3 s) := by
  unfold admitGo
  repeat' first
    | with_reducible assumption
    | with_reducible apply admitCommit_kept
    | with_reducible apply Kept.ite

theorem countsClear_kept {s0 s : State} (a1) (h : Kept s0 s) : Kept s0 (countsClear a1 s) := by
  unfold countsClear
  repeat' first
    | with_reducible assumption
    | with_reducible apply dramZero_kept

theorem admitApply_kept {s0 s : State} (a1) (h : Kept s0 s) : Kept s0 (admitApply a1 s) := by
  unfold admitApply
  repeat' first
    | with_reducible assumption
    | with_reducible apply ptePut_kept
    | with_reducible apply countsClear_kept
    | with_reducible apply blockCopy_kept
    | with_reducible apply adPut_kept
    | with_reducible apply pipeUpd_kept
    | with_reducible apply ctxPut_kept
    | with_reducible apply residUpd_kept
    | with_reducible apply firstOrdered_kept
    | with_reducible apply engEdit_kept
    | with_reducible apply admitCpl_kept
    | with_reducible apply taskDone_kept
    | with_reducible refine Kept.foldl (fun _ _ _ => ?_) _ ?_
    | (extract_lets)
    | split

theorem laneReady_kept {s0 s : State} (a1) (a2) (a3) (h : Kept s0 s) : Kept s0 (laneReady a1 a2 a3 s) := by
  unfold laneReady
  repeat' first
    | with_reducible assumption
    | with_reducible apply taskFail_kept
    | with_reducible apply notify_kept
    | with_reducible apply engEdit_kept
    | (with_reducible refine Kept.pair (taskRead_kept _ _ ?_) (by assumption))
    | with_reducible apply Kept.ite
    | split

theorem tmapPut_kept {s0 s : State} (a1) (a2) (a3) (a4) (h : Kept s0 s) : Kept s0 (tmapPut a1 a2 a3 a4 s) := by
  unfold tmapPut
  repeat' first
    | with_reducible assumption
    | with_reducible apply pipeUpd_kept
    | with_reducible apply Kept.ite

theorem lengthEnd_kept {s0 s : State} (a1) (a2) (a3) (h : Kept s0 s) : Kept s0 (lengthEnd a1 a2 a3 s) := by
  unfold lengthEnd
  repeat' first
    | with_reducible assumption
    | with_reducible apply taskFail_kept
    | with_reducible apply streamEnd_kept
    | with_reducible apply Kept.ite
    | (extract_lets)
    | split

theorem dispatch_kept {s0 s : State} (a1) (a2) (a3) (a4) (a5) (h : Kept s0 s) : Kept s0 (dispatch a1 a2 a3 a4 a5 s) := by
  unfold dispatch
  repeat' first
    | with_reducible assumption
    | with_reducible apply engEdit_kept
    | with_reducible apply ctxPut_kept
    | with_reducible apply pipeUpd_kept
    | (extract_lets)
    | split

theorem rimPush_kept {s0 s : State} (a1) (a2) (h : Kept s0 s) : Kept s0 (rimPush a1 a2 s) :=
  h.built rfl rfl rfl rfl rfl rfl rfl

theorem decide1_kept {s0 s : State} (a1) (a2) (a3) (a4) (h : Kept s0 s) : Kept s0 (decide1 a1 a2 a3 a4 s) := by
  unfold decide1
  repeat' first
    | with_reducible assumption
    | with_reducible apply lengthEnd_kept
    | with_reducible apply pipeUpd_kept
    | with_reducible apply rimPush_kept
    | with_reducible apply engEdit_kept
    | with_reducible apply dispatch_kept
    | with_reducible apply streamFault_kept
    | with_reducible refine Kept.foldl (fun _ _ _ => ?_) _ ?_

theorem countFlag_kept {s0 s : State} (a1) (a2) (h : Kept s0 s) : Kept s0 (countFlag a1 a2 s) := by
  unfold countFlag
  repeat' first
    | with_reducible assumption
    | with_reducible apply dramStore_kept

theorem countBump_kept {s0 s : State} (a1) (a2) (h : Kept s0 s) : Kept s0 (countBump a1 a2 s) := by
  unfold countBump
  repeat' first
    | with_reducible assumption
    | with_reducible apply countFlag_kept
    | with_reducible apply dramStore_kept
    | with_reducible apply Kept.ite

theorem spillRpt_kept {s0 s : State} (a1) (h : Kept s0 s) : Kept s0 (spillRpt a1 s) :=
  h.built rfl rfl rfl rfl rfl rfl rfl

theorem countToken_kept {s0 s : State} (a1) (a2) (h : Kept s0 s) : Kept s0 (countToken a1 a2 s) := by
  unfold countToken
  repeat' first
    | with_reducible assumption
    | with_reducible apply countBump_kept
    | with_reducible apply dramStore_kept
    | with_reducible apply spillRpt_kept
    | with_reducible apply countFlag_kept
    | with_reducible apply Kept.ite
    | (extract_lets)
    | split

theorem commitToken_kept {s0 s : State} (a1) (a2) (h : Kept s0 s) : Kept s0 (commitToken a1 a2 s) := by
  unfold commitToken
  repeat' first
    | with_reducible assumption
    | with_reducible apply dramStore_kept
    | with_reducible apply countToken_kept
    | with_reducible apply ctxPut_kept
    | with_reducible apply Kept.ite

theorem commitTask_kept {s0 s : State} (a1) (a2) (a3) (a4) (h : Kept s0 s) : Kept s0 (commitTask a1 a2 a3 a4 s) := by
  unfold commitTask
  repeat' first
    | with_reducible assumption
    | with_reducible apply taskDone_kept
    | with_reducible apply engEdit_kept
    | with_reducible apply Kept.ite

theorem commitStep_kept {s0 s : State} (a1) (a2) (a3) (a4) (h : Kept s0 s) : Kept s0 (commitStep a1 a2 a3 a4 s) := by
  unfold commitStep
  repeat' first
    | with_reducible assumption
    | with_reducible apply commitTask_kept
    | with_reducible apply ctxUpd_kept
    | with_reducible apply taskFail_kept
    | with_reducible apply commitToken_kept
    | with_reducible apply streamEnd_kept
    | with_reducible apply Kept.ite
    | (extract_lets)
    | split

theorem flightDue_kept {s0 s : State} (a1) (a2) (h : Kept s0 s) : Kept s0 (flightDue a1 a2 s) := by
  unfold flightDue
  repeat' first
    | with_reducible assumption
    | with_reducible apply ctxPut_kept
    | with_reducible apply commitStep_kept
    | with_reducible apply taskFail_kept
    | with_reducible apply Kept.ite
    | (extract_lets)
    | split

theorem commitsDue_kept {s0 s : State} (a1) (h : Kept s0 s) : Kept s0 (commitsDue a1 s) := by
  unfold commitsDue
  repeat' first
    | with_reducible assumption
    | with_reducible apply flightDue_kept
    | with_reducible refine Kept.foldl (fun _ _ _ => ?_) _ ?_

theorem entriesDue_kept {s0 s : State} (a1) (h : Kept s0 s) : Kept s0 (entriesDue a1 s) := by
  unfold entriesDue
  repeat' first
    | with_reducible assumption
    | with_reducible apply adPut_kept
    | with_reducible apply residUpd_kept
    | with_reducible apply Kept.ite

theorem ctxFinish_kept {s0 s : State} (a1) (h : Kept s0 s) : Kept s0 (ctxFinish a1 s) := by
  unfold ctxFinish
  repeat' first
    | with_reducible assumption
    | with_reducible apply ctxPut_kept
    | with_reducible apply Kept.ite

theorem closingApply_kept {s0 s : State} (a1) (h : Kept s0 s) : Kept s0 (closingApply a1 s) := by
  unfold closingApply
  repeat' first
    | with_reducible assumption
    | with_reducible apply freeHome_kept
    | with_reducible apply ptePut_kept
    | with_reducible apply unbind_kept
    | with_reducible apply pipeUpd_kept
    | with_reducible apply ctxFinish_kept
    | with_reducible apply ctxUpd_kept
    | with_reducible apply Kept.ite
    | with_reducible refine Kept.foldl (fun _ _ _ => ?_) _ ?_

theorem ledPulse_kept {s0 s : State} (h : Kept s0 s) : Kept s0 (ledPulse s) :=
  h.built rfl rfl rfl rfl rfl rfl rfl

theorem recSend_kept {s0 s : State} (a1) (a2) (h : Kept s0 s) : Kept s0 (recSend a1 a2 s) := by
  unfold recSend
  repeat' first
    | with_reducible assumption
    | with_reducible apply ledPulse_kept
    | with_reducible apply klpSend_kept

theorem recRewrite_kept {s0 s : State} (a1) (h : Kept s0 s) : Kept s0 (recRewrite a1 s) := by
  unfold recRewrite
  repeat' first
    | with_reducible assumption
    | with_reducible apply recSend_kept
    | with_reducible refine Kept.foldl (fun _ _ _ => ?_) _ ?_

theorem lockPut_kept {s0 s : State} (a1) (a2) (h : Kept s0 s) : Kept s0 (lockPut a1 a2 s) :=
  h.built rfl rfl rfl rfl rfl rfl rfl

theorem lockOp_kept {s0 s : State} (a1) (a2) (a3) (a4) (h : Kept s0 s) : Kept s0 (lockOp a1 a2 a3 a4 s) := by
  unfold lockOp
  repeat' first
    | with_reducible assumption
    | with_reducible apply lockPut_kept
    | with_reducible apply Kept.ite

theorem abandonLocks_kept {s0 s : State} (a1) (h : Kept s0 s) : Kept s0 (abandonLocks a1 s) :=
  h.built rfl rfl rfl rfl rfl rfl rfl

theorem extentPut_kept {s0 s : State} (a1) (a2) (a3) (h : Kept s0 s) : Kept s0 (extentPut a1 a2 a3 s) := by
  unfold extentPut
  repeat' first
    | with_reducible assumption
    | with_reducible apply mdPut_kept
    | with_reducible apply Kept.ite

theorem bulkCompute_kept {s0 s : State} (a1) (h : Kept s0 s) : Kept s0 (bulkCompute a1 s) := by
  unfold bulkCompute
  repeat' first
    | with_reducible assumption
    | with_reducible apply mdPut_kept
    | with_reducible apply Kept.ite
    | (extract_lets)
    | split

theorem pipeCfgPut_kept {s0 s : State} (a1) (a2) (a3) (h : Kept s0 s) : Kept s0 (pipeCfgPut a1 a2 a3 s) := by
  unfold pipeCfgPut
  repeat' first
    | with_reducible assumption
    | with_reducible apply pipeUpd_kept
    | with_reducible apply bulkCompute_kept
    | with_reducible apply Kept.ite
    | (extract_lets)
    | split

theorem itemRead_kept {s0 s : State} (a1) (a2) (a3) (a4) (h : Kept s0 s) : Kept s0 (itemRead a1 a2 a3 a4 s).2 := by
  unfold itemRead
  repeat' first
    | with_reducible assumption
    | with_reducible apply dramReads_kept
    | with_reducible apply tagFail_kept
    | with_reducible apply mdPut_kept
    | with_reducible apply Kept.ite
    | with_reducible refine Kept.foldl_snd (fun _ _ _ => ?_) _ ?_

theorem flitsDrop_kept {s0 s : State} (a1) (h : Kept s0 s) : Kept s0 (flitsDrop a1 s) :=
  h.built rfl rfl rfl rfl rfl rfl rfl

theorem activeCopy_kept {s0 s : State} (a1) (h : Kept s0 s) : Kept s0 (activeCopy a1 s) := by
  have hf : ∀ (l : List (Nat × SWord)) (k : Nat × SWord → Nat) (v : Nat × SWord → SWord) (m : SMap SWord), Memory.wf m →
      Memory.wf (l.foldl (fun m e => sset SWord.zero m (k e) (v e)) m) := by
    intro l k v
    induction l with
    | nil => intro m hm; exact hm
    | cons e l ih => intro m hm; exact ih _ (SWf.sset hm _ _)
  exact h.trans ⟨rfl, fun m => hf _ _ _ _ (SWf.skeep m _), fun x => ⟨x.power, x.clock, x.freeze, x.pod⟩, Sec.Fwd.same rfl⟩

theorem dropHomes_kept {s0 s : State} (a1) (h : Kept s0 s) : Kept s0 (dropHomes a1 s) := by
  unfold dropHomes
  repeat' first
    | with_reducible assumption
    | with_reducible apply freeHome_kept
    | with_reducible apply ptePut_kept
    | with_reducible apply Kept.ite
    | with_reducible refine Kept.foldl (fun _ _ _ => ?_) _ ?_

theorem flashWrite_kept {s0 s : State} (h : Kept s0 s) : Kept s0 (flashWrite s) := by
  unfold flashWrite
  repeat' first
    | with_reducible assumption
    | (rw [State.over_eq]; with_reducible refine Kept.over ?_ id rfl rfl rfl rfl rfl)
    | with_reducible apply Kept.ite

theorem imageEvict_kept {s0 s : State} (a1) (h : Kept s0 s) : Kept s0 (imageEvict s a1) := by
  unfold imageEvict
  repeat' first
    | with_reducible assumption
    | with_reducible apply resFail_kept
    | with_reducible apply resEnd_kept
    | with_reducible apply evictModel_kept
    | with_reducible apply Kept.ite

theorem imageApply_kept {s0 s : State} (a1) (h : Kept s0 s) : Kept s0 (imageApply a1 s) := by
  unfold imageApply
  repeat' first
    | with_reducible assumption
    | (rw [State.over_eq]; with_reducible refine Kept.over ?_ id rfl rfl rfl rfl rfl)
    | with_reducible apply streamFault_kept
    | with_reducible apply dropHomes_kept
    | with_reducible apply imageEvict_kept
    | with_reducible apply activeCopy_kept
    | with_reducible apply onLoad_kept
    | with_reducible apply onGrid_kept
    | with_reducible apply tilePut_kept
    | with_reducible apply sendCalendars_kept
    | with_reducible apply storeSites_kept
    | with_reducible apply residUpd_kept
    | with_reducible apply liveSlice_kept
    | with_reducible apply restoreSlice_kept
    | with_reducible apply holdAll_kept
    | with_reducible apply onHist_kept
    | with_reducible apply loadEnd_kept
    | with_reducible apply flashWrite_kept
    | with_reducible apply Kept.ite
    | with_reducible refine Kept.foldl (fun _ _ _ => ?_) _ ?_
    | (extract_lets)
    | split

theorem wordsPut_kept {s0 s : State} (a1) (h : Kept s0 s) : Kept s0 (wordsPut a1 s) := by
  unfold wordsPut
  repeat' first
    | with_reducible assumption
    | with_reducible apply tilePut_kept
    | with_reducible apply Kept.ite
    | with_reducible refine Kept.foldl (fun _ _ _ => ?_) _ ?_
    | (extract_lets)
    | split

theorem fencePut_kept {s0 s : State} (a1) (a2) (h : Kept s0 s) : Kept s0 (fencePut a1 a2 s) := by
  unfold fencePut
  repeat' first
    | with_reducible assumption
    | (rw [State.over_eq]; with_reducible refine Kept.over ?_ id rfl rfl rfl rfl rfl)
    | with_reducible apply onGrid_kept
    | with_reducible apply flitsDrop_kept
    | with_reducible apply Kept.ite

theorem fenceLift_kept {s0 s : State} (a1) (h : Kept s0 s) : Kept s0 (fenceLift a1 s) :=
  h.built rfl rfl rfl rfl rfl rfl rfl

theorem dustNow_kept {s0 s : State} (a1) (h : Kept s0 s) : Kept s0 (dustNow a1 s) := by
  unfold dustNow
  repeat' first
    | with_reducible assumption
    | with_reducible apply copySet_kept
    | with_reducible apply wordsPut_kept
    | with_reducible apply cgWhole_kept
    | with_reducible apply fencePut_kept
    | with_reducible apply Kept.ite

theorem restoreSite_kept {s0 s : State} (a1) (h : Kept s0 s) : Kept s0 (restoreSite a1 s) := by
  unfold restoreSite
  repeat' first
    | with_reducible assumption
    | with_reducible apply tilePut_kept
    | with_reducible apply restoreTile_kept
    | with_reducible apply adRestores_kept
    | with_reducible refine Kept.foldl (fun _ _ _ => ?_) _ ?_

theorem storesAgain_kept {s0 s : State} (a1) (h : Kept s0 s) : Kept s0 (storesAgain a1 s) := by
  unfold storesAgain
  repeat' first
    | with_reducible assumption
    | with_reducible apply classX_kept
    | with_reducible apply onLoad_kept
    | with_reducible apply storeSites_kept
    | with_reducible apply Kept.ite
    | split

theorem lathDrop_kept {s0 s : State} (a1) (h : Kept s0 s) : Kept s0 (lathDrop a1 s) :=
  h.built rfl rfl rfl rfl rfl rfl rfl

theorem trainPorts_kept {s0 s : State} (a1) (h : Kept s0 s) : Kept s0 (trainPorts a1 s) :=
  h.built rfl rfl rfl rfl rfl rfl rfl

theorem tileResetNow_kept {s0 s : State} (a1) (a2) (h : Kept s0 s) : Kept s0 (tileResetNow a1 a2 s) := by
  unfold tileResetNow
  repeat' first
    | with_reducible assumption
    | with_reducible apply lathDrop_kept
    | with_reducible apply flitsDrop_kept
    | with_reducible apply tilePut_kept
    | with_reducible apply wordsPut_kept
    | with_reducible apply restoreSite_kept
    | with_reducible apply storesAgain_kept
    | with_reducible apply trainPorts_kept
    | with_reducible apply onLath_kept
    | with_reducible apply Kept.ite

theorem sendTileReset_kept {s0 s : State} (a1) (a2) (h : Kept s0 s) : Kept s0 (sendTileReset a1 a2 s) := by
  unfold sendTileReset
  repeat' first
    | with_reducible assumption
    | with_reducible apply lathSend_kept

theorem rewind_kept {s0 s : State} (a1) (h : Kept s0 s) : Kept s0 (rewind a1 s) := by
  unfold rewind
  repeat' first
    | with_reducible assumption
    | with_reducible apply ctxUpd_kept
    | with_reducible apply pipeUpd_kept
    | with_reducible apply engEdit_kept

theorem insertReplay_kept {s0 s : State} (a1) (h : Kept s0 s) : Kept s0 (insertReplay a1 s) := by
  unfold insertReplay
  repeat' first
    | with_reducible assumption
    | with_reducible apply rewind_kept
    | with_reducible apply engEdit_kept
    | with_reducible apply Kept.ite

theorem replayOr_kept {s0 s : State} (a1) (a2) (h : Kept s0 s) : Kept s0 (replayOr a1 a2 s) := by
  unfold replayOr
  repeat' first
    | with_reducible assumption
    | with_reducible apply insertReplay_kept
    | with_reducible apply streamFault_kept
    | with_reducible apply Kept.ite

theorem pagesLost_kept {s0 s : State} (a1) (h : Kept s0 s) : Kept s0 (pagesLost a1 s) := by
  unfold pagesLost
  repeat' first
    | with_reducible assumption
    | with_reducible apply replayOr_kept
    | with_reducible refine Kept.foldl (fun _ _ _ => ?_) _ ?_

theorem moveTile_kept {s0 s : State} (a1) (a2) (h : Kept s0 s) : Kept s0 (moveTile a1 s a2) :=
  h.built rfl rfl rfl rfl rfl rfl rfl

theorem sliceOff_kept {s0 s : State} (a1) (a2) (h : Kept s0 s) : Kept s0 (sliceOff a1 a2 s) := by
  unfold sliceOff
  repeat' first
    | with_reducible assumption
    | with_reducible apply dropStores_kept
    | with_reducible apply deadSlice_kept

theorem sliceOn_kept {s0 s : State} (a1) (a2) (a3) (a4) (h : Kept s0 s) : KeptIf s0 (sliceOn a1 a2 a3 a4 s) := by
  unfold sliceOn
  repeat' first
    | with_reducible assumption
    | with_reducible apply liveSlice_kept
    | with_reducible apply buildSlice_kept
    | with_reducible apply restoreTile_kept
    | with_reducible refine KeptIf.map (fun _ _ => ?_)
    | with_reducible refine KeptIf.bind_any (fun _ => ?_)
    | with_reducible exact KeptIf.none
    | with_reducible apply KeptIf.some
    | with_reducible apply KeptIf.ite
    | with_reducible refine Kept.foldl (fun _ _ _ => ?_) _ ?_

theorem moveModel_kept {s0 s : State} (a1) (a2) (a3) (a4) (h : Kept s0 s) : Kept s0 (moveModel a1 a2 a3 a4 s) := by
  unfold moveModel
  repeat' first
    | with_reducible assumption
    | with_reducible apply residUpd_kept
    | with_reducible apply settleModel_kept
    | (with_reducible refine KeptIf.get (sliceOn_kept _ _ _ _ ?_) (by assumption))
    | with_reducible refine Kept.foldl (fun _ _ _ => ?_) _ ?_
    | (extract_lets)
    | split

theorem namesAgain_kept {s0 s : State} (a1) (h : Kept s0 s) : Kept s0 (namesAgain a1 s) := by
  unfold namesAgain
  repeat' first
    | with_reducible assumption
    | with_reducible apply tilePut_kept
    | with_reducible apply sendCalendars_kept
    | with_reducible refine Kept.foldl (fun _ _ _ => ?_) _ ?_
    | (extract_lets)
    | split

theorem moveWork_kept {s0 s : State} (a1) (a2) (a3) (a4) (h : Kept s0 s) : Kept s0 (moveWork a1 a2 a3 a4 s) := by
  unfold moveWork
  repeat' first
    | with_reducible assumption
    | (rw [State.over_eq]; with_reducible refine Kept.over ?_ id rfl rfl rfl rfl rfl)
    | with_reducible apply sliceOff_kept
    | with_reducible apply residUpd_kept
    | with_reducible apply moveTile_kept
    | with_reducible apply tilePut_kept
    | with_reducible apply storeSites_kept
    | with_reducible apply moveModel_kept
    | with_reducible apply adRestores_kept
    | with_reducible apply onHist_kept
    | with_reducible apply cgWhole_kept
    | with_reducible apply namesAgain_kept
    | with_reducible refine Kept.foldl (fun _ _ _ => ?_) _ ?_

theorem rehomeRec_kept {s0 s : State} (a1) (a2) (a3) (a4) (h : Kept s0 s) : Kept s0 (rehomeRec a1 a2 a3 a4 s) := by
  unfold rehomeRec
  repeat' first
    | with_reducible assumption
    | (rw [State.over_eq]; with_reducible refine Kept.over ?_ id rfl rfl rfl rfl rfl)
    | with_reducible apply Kept.ite

theorem rehomeFail_kept {s0 s : State} (h : Kept s0 s) : Kept s0 (rehomeFail s) :=
  h.built rfl rfl rfl rfl rfl rfl rfl

theorem moveCourse_kept {s0 s : State} (a1) (a2) (h : Kept s0 s) : Kept s0 (moveCourse a1 a2 s) := by
  unfold moveCourse
  repeat' first
    | with_reducible assumption
    | with_reducible apply moveWork_kept
    | with_reducible apply holdAll_kept
    | with_reducible apply settleModel_kept
    | with_reducible apply plcOp_kept
    | with_reducible apply endAll_kept
    | with_reducible apply pagesLost_kept
    | with_reducible apply residUpd_kept
    | with_reducible apply rehomeFail_kept
    | with_reducible refine Kept.foldl (fun _ _ _ => ?_) _ ?_
    | (extract_lets)
    | split

theorem shiftCourse_kept {s0 s : State} (a1) (a2) (a3) (a4) (a5) (a6) (h : Kept s0 s) : Kept s0 (shiftCourse a1 a2 a3 a4 a5 a6 s) := by
  unfold shiftCourse
  repeat' first
    | with_reducible assumption
    | (rw [State.over_eq]; with_reducible refine Kept.over ?_ id rfl rfl rfl rfl rfl)
    | with_reducible apply moveWork_kept
    | with_reducible apply holdAll_kept
    | with_reducible apply endAll_kept
    | with_reducible apply pagesLost_kept
    | with_reducible apply rehomeRec_kept
    | with_reducible apply plcOp_kept
    | with_reducible apply sieEvent_kept
    | with_reducible apply Kept.ite

theorem rehomeSite_kept {s0 s : State} (a1) (a2) (h : Kept s0 s) : Kept s0 (rehomeSite a1 a2 s) := by
  unfold rehomeSite
  repeat' first
    | with_reducible assumption
    | with_reducible apply dustNow_kept
    | with_reducible apply rehomeFail_kept
    | with_reducible apply moveCourse_kept
    | with_reducible apply rehomeRec_kept
    | with_reducible apply shiftCourse_kept
    | with_reducible apply Kept.ite
    | (extract_lets)
    | split

theorem rehomeFree_kept {s0 s : State} (a1) (h : Kept s0 s) : Kept s0 (rehomeFree a1 s) := by
  unfold rehomeFree
  repeat' first
    | with_reducible assumption
    | (rw [State.over_eq]; with_reducible refine Kept.over ?_ id rfl rfl rfl rfl rfl)
    | with_reducible apply rehomeSite_kept

theorem tileFailed_kept {s0 s : State} (a1) (a2) (h : Kept s0 s) : Kept s0 (tileFailed a1 a2 s) := by
  unfold tileFailed
  repeat' first
    | with_reducible assumption
    | with_reducible apply chargeEvent_kept
    | with_reducible apply dustNow_kept
    | with_reducible apply rehomeFree_kept
    | with_reducible apply sigWrite_kept

theorem portUpd_kept {s0 s : State} (a1) (a2) (a3) (h : Kept s0 s) : Kept s0 (portUpd a1 a2 a3 s) :=
  h.built rfl rfl rfl rfl rfl rfl rfl

theorem portsDown_kept {s0 s : State} (a1) (a2) (h : Kept s0 s) : Kept s0 (portsDown a1 a2 s) :=
  h.built rfl rfl rfl rfl rfl rfl rfl

theorem modeApply_kept {s0 s : State} (a1) (a2) (h : Kept s0 s) : Kept s0 (modeApply a1 a2 s) := by
  unfold modeApply
  repeat' first
    | with_reducible assumption
    | with_reducible apply portsDown_kept
    | with_reducible apply Kept.ite

theorem sessClose_kept {s0 s : State} (a1) (a2) (h : Kept s0 s) : Kept s0 (sessClose a1 a2 s) := by
  unfold sessClose
  split
  · exact h
  extract_lets s1 s2 s3
  repeat' first
    | with_reducible assumption
    | (rw [State.over_eq]; with_reducible refine Kept.over ?_ id rfl rfl rfl rfl rfl)
    | with_reducible apply ringsLost_kept
    | with_reducible apply sessPut_kept
    | with_reducible apply abandonLocks_kept
    | with_reducible apply Kept.ite
    | (extract_lets)
    | split
    | (dsimp -zeta only [s2])

theorem linkUpd_kept {s0 s : State} (a1) (a2) (h : Kept s0 s) : Kept s0 (linkUpd a1 a2 s) :=
  h.built rfl rfl rfl rfl rfl rfl rfl

theorem psnEnd_kept {s0 s : State} (a1) (h : Kept s0 s) : Kept s0 (psnEnd a1 s) := by
  unfold psnEnd
  repeat' first
    | with_reducible assumption
    | with_reducible apply sessClose_kept
    | with_reducible apply Kept.ite
    | split

theorem retxRound_kept {s0 s : State} (a1) (a2) (h : Kept s0 s) : Kept s0 (retxRound a1 a2 s) := by
  unfold retxRound
  repeat' first
    | with_reducible assumption
    | with_reducible apply linkUpd_kept
    | with_reducible apply sessUpd_kept
    | split

theorem distEnd_kept {s0 s : State} (a1) (h : Kept s0 s) : Kept s0 (distEnd a1 s) := by
  unfold distEnd
  extract_lets src s1
  repeat' first
    | with_reducible assumption
    | (rw [State.over_eq]; with_reducible refine Kept.over ?_ id rfl rfl rfl rfl rfl)
    | with_reducible apply klpSend_kept
    | with_reducible apply Kept.ite
    | (extract_lets)
    | split
    | (dsimp -zeta only [s1])

theorem distCpl_kept {s0 s : State} (a1) (a2) (h : Kept s0 s) : Kept s0 (distCpl a1 a2 s) := by
  unfold distCpl
  repeat' first
    | with_reducible assumption
    | (rw [State.over_eq]; with_reducible refine Kept.over ?_ id rfl rfl rfl rfl rfl)
    | with_reducible apply distEnd_kept
    | with_reducible apply Kept.ite
    | (extract_lets)
    | split

theorem sessOpened_kept {s0 s : State} (a1) (a2) (a3) (h : Kept s0 s) : Kept s0 (sessOpened a1 a2 a3 s) := by
  unfold sessOpened
  repeat' first
    | with_reducible assumption
    | (rw [State.over_eq]; with_reducible refine Kept.over ?_ id rfl rfl rfl rfl rfl)
    | with_reducible apply sessPut_kept
    | with_reducible apply Kept.ite

theorem dramViol_kept {s0 s : State} (a1) (a2) (a3) (h : Kept s0 s) : Kept s0 (dramViol s a1 a2 a3) := by
  unfold dramViol
  repeat' first
    | with_reducible assumption
    | with_reducible apply tenantViol_kept
    | with_reducible apply Kept.ite
    | split

theorem histViol_kept {s0 s : State} (a1) (a2) (a3) (h : Kept s0 s) : Kept s0 (histViol s a1 a2 a3) := by
  unfold histViol
  repeat' first
    | with_reducible assumption
    | with_reducible apply tenantViol_kept
    | with_reducible apply Kept.ite
    | split

theorem landLine_kept {s0 s : State} (a1) (a2) (a3) (a4) (a5) (h : Kept s0 s) : Kept s0 (landLine a1 a2 a3 a4 a5 s) := by
  unfold landLine
  repeat' first
    | with_reducible assumption
    | with_reducible apply linkUpd_kept
    | with_reducible apply onGrid_kept
    | with_reducible apply rimPush_kept
    | with_reducible apply Kept.ite

theorem landEntry_kept {s0 s : State} (a1) (a2) (a3) (h : Kept s0 s) : Kept s0 (landEntry a1 a2 a3 s) := by
  unfold landEntry
  repeat' first
    | with_reducible assumption
    | with_reducible apply landLine_kept
    | with_reducible apply linkUpd_kept
    | split

theorem timeShift_kept {s0 s : State} (a1) (h : Kept s0 s) : Kept s0 (timeShift a1 s) :=
  h.built rfl rfl rfl rfl rfl rfl rfl

theorem probeInstall_kept {s0 s : State} (a1) (h : Kept s0 s) : Kept s0 (probeInstall a1 s) := by
  unfold probeInstall
  repeat' first
    | with_reducible assumption
    | with_reducible apply onFlt_kept
    | (with_reducible refine KeptIf.get (cgStart_kept _ ?_) (by assumption))
    | split

theorem probeApply_kept {s0 s : State} (h : Kept s0 s) : Kept s0 (probeApply s) := by
  unfold probeApply
  repeat' first
    | with_reducible assumption
    | with_reducible apply onHist_kept
    | with_reducible apply refsPut_kept
    | with_reducible apply onFlt_kept
    | with_reducible apply Kept.ite
    | with_reducible refine Kept.foldl (fun _ _ _ => ?_) _ ?_
    | split

theorem probeDrop_kept {s0 s : State} (h : Kept s0 s) : Kept s0 (probeDrop s) :=
  h.built rfl rfl rfl rfl rfl rfl rfl

theorem sendMembers_kept {s0 s : State} (a1) (a2) (a3) (a4) (h : Kept s0 s) : Kept s0 (sendMembers a1 a2 a3 a4 s) := by
  unfold sendMembers
  repeat' first
    | with_reducible assumption
    | with_reducible apply klpSend_kept
    | with_reducible refine Kept.foldl (fun _ _ _ => ?_) _ ?_

theorem probeForward_kept {s0 s : State} (a1) (a2) (h : Kept s0 s) : Kept s0 (probeForward a1 a2 s) := by
  unfold probeForward
  repeat' first
    | with_reducible assumption
    | with_reducible apply sendMembers_kept
    | with_reducible apply Kept.ite

theorem wornMove_kept {s0 s : State} (a1) (a2) (h : Kept s0 s) : Kept s0 (wornMove a1 a2 s) := by
  unfold wornMove
  repeat' first
    | with_reducible assumption
    | with_reducible apply onFab_kept
    | with_reducible apply moveMacro_kept
    | with_reducible apply refreshDue_kept
    | with_reducible apply Kept.ite
    | (extract_lets)
    | split

theorem macroDue_kept {s0 s : State} (a1) (a2) (h : Kept s0 s) : Kept s0 (macroDue a1 a2 s) := by
  unfold macroDue
  repeat' first
    | with_reducible assumption
    | with_reducible apply refreshDue_kept
    | split

theorem probeCharge_kept {s0 s : State} (a1) (a2) (a3) (a4) (h : Kept s0 s) : Kept s0 (probeCharge a1 a2 a3 a4 s) := by
  unfold probeCharge
  repeat' first
    | with_reducible assumption
    | with_reducible apply chargeEvent_kept
    | with_reducible apply replaceColumn_kept
    | with_reducible apply wornMove_kept
    | with_reducible apply macroDue_kept
    | with_reducible apply sigWrite_kept
    | with_reducible apply Kept.ite
    | (extract_lets)
    | split

end Sys2Proof.Machine
end

