-- ==== Sys2Proof/Laws/KeptService.lean ====
section
/-! SUPPORT. What is kept by the shared operations on pods, faults, security, power, resets, register writes and frame boundaries. -/

namespace Sys2Proof.Machine

theorem onPod_kept {s0 s : State} (f) (hf : ∀ p, p.st.toNat ≤ 5 → (f p).st.toNat ≤ 5) (h : Kept s0 s) : Kept s0 (onPod f s) :=
  h.trans ⟨rfl, id, fun x => ⟨x.power, x.clock, x.freeze, hf _ x.pod⟩, Sec.Fwd.same rfl⟩

theorem openOut_kept {s0 s : State} (a1) (a2) (a3) (a4) (a5) (h : Kept s0 s) : KeptIf s0 (openOut a1 a2 a3 a4 a5 s) := by
  unfold openOut
  repeat' first
    | with_reducible assumption
    | (rw [State.over_eq]; with_reducible refine Kept.over ?_ id rfl rfl rfl rfl rfl)
    | with_reducible apply sessPut_kept
    | with_reducible refine KeptIf.map (fun _ _ => ?_)
    | with_reducible refine KeptIf.bind_any (fun _ => ?_)

theorem memberPut_kept {s0 s : State} (a1) (a2) (a3) (h : Kept s0 s) : Kept s0 (memberPut a1 a2 a3 s) := by
  unfold memberPut
  repeat' first
    | with_reducible assumption
    | with_reducible refine onPod_kept _ (fun _ _ => ?_) ?_
    | (extract_lets)
    | split

theorem sendMember_kept {s0 s : State} (a1) (a2) (a3) (h : Kept s0 s) : Kept s0 (sendMember a1 a2 a3 s) := by
  unfold sendMember
  repeat' first
    | with_reducible assumption
    | with_reducible apply klpSend_kept

theorem tendMember_kept {s0 s : State} (a1) (a2) (h : Kept s0 s) : Kept s0 (tendMember a1 a2 s) := by
  unfold tendMember
  repeat' first
    | with_reducible assumption
    | with_reducible apply sendMember_kept
    | with_reducible apply memberPut_kept
    | with_reducible apply Kept.ite
    | (extract_lets)
    | split
    | (with_reducible refine KeptIf.get (KeptIf.bind_any (fun _ => openOut_kept _ _ _ _ _ ?_)) (by assumption))

theorem epochSched_kept {s0 s : State} (a1) (a2) (a3) (h : Kept s0 s) : Kept s0 (epochSched a1 a2 a3 s) := by
  unfold epochSched
  repeat' first
    | with_reducible assumption
    | with_reducible refine onPod_kept _ (fun _ _ => ?_) ?_
    | (extract_lets)
    | split

theorem epochsDue_kept {s0 s : State} (h : Kept s0 s) : Kept s0 (epochsDue s) := by
  unfold epochsDue
  extract_lets
  refine onPod_kept _ (fun p hp => ?_) h
  dsimp only
  have hq : ∀ q : Pod, q.st.toNat ≤ 5 → (match q.pendUpper with
      | some x => if decide (x.2 ≤ (frameCtr s).toNat) then { q with uepoch := x.1, pendUpper := none } else q
      | none => q).st.toNat ≤ 5 := by
    intro q hq
    split
    · split <;> exact hq
    · exact hq
  refine hq _ ?_
  split
  · split <;> exact hp
  · exact hp

theorem epochChange_kept {s0 s : State} (a1) (h : Kept s0 s) : Kept s0 (epochChange a1 s) := by
  unfold epochChange
  repeat' first
    | with_reducible assumption
    | with_reducible apply sendMembers_kept
    | with_reducible apply epochSched_kept
    | with_reducible refine onPod_kept _ (fun _ _ => ?_) ?_
    | with_reducible apply Kept.ite
    | (extract_lets)
    | split

theorem hawkInterval_kept {s0 s : State} (a1) (h : Kept s0 s) : Kept s0 (hawkInterval a1 s) := by
  unfold hawkInterval
  repeat' first
    | with_reducible assumption
    | with_reducible apply epochChange_kept
    | with_reducible apply tendMember_kept
    | with_reducible apply klpSend_kept
    | with_reducible refine onPod_kept _ (fun _ _ => ?_) ?_
    | with_reducible apply Kept.ite
    | with_reducible refine Kept.foldl (fun _ _ _ => ?_) _ ?_
    | (extract_lets)
    | split

theorem spansDown_kept {s0 s : State} (a1) (h : Kept s0 s) : Kept s0 (spansDown a1 s) := by
  unfold spansDown
  repeat' first
    | with_reducible assumption
    | with_reducible apply klpSend_kept
    | with_reducible refine onPod_kept _ (fun _ _ => ?_) ?_
    | with_reducible apply Kept.ite
    | with_reducible refine Kept.foldl (fun _ _ _ => ?_) _ ?_
    | (extract_lets)
    | split

theorem loseMember_kept {s0 s : State} (a1) (a2) (h : Kept s0 s) : Kept s0 (loseMember a1 a2 s) := by
  unfold loseMember
  repeat' first
    | with_reducible assumption
    | with_reducible apply memberPut_kept
    | with_reducible apply abandonLocks_kept
    | with_reducible apply epochChange_kept
    | with_reducible apply spansDown_kept
    | with_reducible refine onPod_kept _ (fun _ _ => ?_) ?_
    | with_reducible apply Kept.ite

theorem openSpans_kept {s0 s : State} (h : Kept s0 s) : Kept s0 (openSpans s) := by
  unfold openSpans
  repeat' first
    | with_reducible assumption
    | (with_reducible refine KeptIf.get (openOut_kept _ _ _ _ _ ?_) (by assumption))
    | with_reducible apply Kept.ite
    | with_reducible refine Kept.foldl (fun _ _ _ => ?_) _ ?_
    | (extract_lets)
    | split

theorem sendShard_kept {s0 s : State} (a1) (a2) (a3) (h : Kept s0 s) : Kept s0 (sendShard a1 a2 a3 s) := by
  unfold sendShard
  repeat' first
    | with_reducible assumption
    | with_reducible apply klpSend_kept
    | with_reducible refine Kept.foldl (fun _ _ _ => ?_) _ ?_

theorem distServe_kept {s0 s : State} (a1) (a2) (a3) (h : Kept s0 s) : Kept s0 (distServe a1 a2 a3 s) := by
  unfold distServe
  repeat' first
    | with_reducible assumption
    | with_reducible apply sendShard_kept
    | with_reducible refine onPod_kept _ (fun _ _ => ?_) ?_
    | with_reducible apply Kept.ite
    | (extract_lets)
    | split
    | (with_reducible refine KeptIf.get (KeptIf.bind_any (fun _ => openOut_kept _ _ _ _ _ ?_)) (by assumption))

theorem distNext_kept {s0 s : State} (a1) (a2) (h : Kept s0 s) : Kept s0 (distNext a1 a2 s) := by
  unfold distNext
  repeat' first
    | with_reducible assumption
    | with_reducible apply distServe_kept
    | with_reducible apply distEnd_kept
    | with_reducible refine onPod_kept _ (fun _ _ => ?_) ?_
    | with_reducible apply Kept.ite
    | with_reducible refine Kept.foldl (fun _ _ _ => ?_) _ ?_
    | (extract_lets)
    | split

theorem freqStep_kept {s0 s : State} (a1) (h : Kept s0 s) : Kept s0 (freqStep a1 s) := by
  unfold freqStep
  repeat' first
    | with_reducible assumption
    | with_reducible apply cgTry_kept
    | with_reducible apply Kept.ite

theorem freqLead_kept {s0 s : State} (a1) (h : Kept s0 s) : Kept s0 (freqLead a1 s) := by
  unfold freqLead
  repeat' first
    | with_reducible assumption
    | with_reducible apply freqStep_kept
    | with_reducible apply sendMembers_kept
    | with_reducible apply Kept.ite

theorem kreqPut_kept {s0 s : State} (a1) (h : Kept s0 s) : Kept s0 (kreqPut a1 s) :=
  h.built rfl rfl rfl rfl rfl rfl rfl

theorem anchorsAgain_kept {s0 s : State} (h : Kept s0 s) : Kept s0 (anchorsAgain s) := by
  unfold anchorsAgain
  repeat' first
    | with_reducible assumption
    | with_reducible apply moveCourse_kept
    | with_reducible refine Kept.foldl (fun _ _ _ => ?_) _ ?_
    | split

theorem tileOut_kept {s0 s : State} (a1) (h : Kept s0 s) : Kept s0 (tileOut a1 s) := by
  unfold tileOut
  repeat' first
    | with_reducible assumption
    | with_reducible apply rehomeFree_kept
    | with_reducible apply Kept.ite

theorem rimPortLost_kept {s0 s : State} (a1) (h : Kept s0 s) : Kept s0 (rimPortLost a1 s) := by
  unfold rimPortLost
  repeat' first
    | with_reducible assumption
    | (rw [State.over_eq]; with_reducible refine Kept.over ?_ id rfl rfl rfl rfl rfl)
    | with_reducible apply anchorsAgain_kept
    | (extract_lets)
    | split

theorem converterOut_kept {s0 s : State} (a1) (a2) (a3) (a4) (h : Kept s0 s) : Kept s0 (converterOut a1 a2 a3 a4 s) := by
  unfold converterOut
  repeat' first
    | with_reducible assumption
    | with_reducible apply wornMove_kept
    | with_reducible apply cgWhole_kept
    | with_reducible apply onFab_kept
    | with_reducible apply Kept.ite

theorem extentBad_kept {s0 s : State} (a1) (h : Kept s0 s) : Kept s0 (extentBad a1 s) := by
  unfold extentBad
  repeat' first
    | with_reducible assumption
    | with_reducible apply mdPut_kept
    | with_reducible apply Kept.ite

theorem permAction_kept {s0 s : State} (a1) (a2) (h : Kept s0 s) : Kept s0 (permAction a1 a2 s).1 := by
  unfold permAction
  repeat' first
    | with_reducible assumption
    | with_reducible apply tileOut_kept
    | with_reducible apply wornMove_kept
    | with_reducible apply replaceColumn_kept
    | with_reducible apply converterOut_kept
    | with_reducible apply rimPortLost_kept
    | with_reducible apply extentBad_kept
    | (extract_lets)
    | split

theorem rimSilent_kept {s0 s : State} (a1) (h : Kept s0 s) : Kept s0 (rimSilent a1 s) := by
  unfold rimSilent
  repeat' first
    | with_reducible assumption
    | with_reducible apply chargeEvent_kept
    | with_reducible apply svcRpt_kept
    | with_reducible apply tilePut_kept
    | with_reducible apply sessClose_kept
    | with_reducible apply linkUpd_kept
    | with_reducible apply anchorsAgain_kept
    | with_reducible apply classX_kept
    | with_reducible apply engUpd_kept
    | with_reducible apply Kept.ite
    | with_reducible refine Kept.foldl (fun _ _ _ => ?_) _ ?_

theorem warmPad_kept {s0 s : State} (a1) (h : Kept s0 s) : Kept s0 (warmPad a1 s) := by
  unfold warmPad
  repeat' first
    | with_reducible assumption
    | with_reducible apply tilePut_kept
    | with_reducible apply restoreSite_kept
    | with_reducible apply Kept.ite

theorem warmTile_kept {s0 s : State} (a1) (h : Kept s0 s) : Kept s0 (warmTile a1 s) := by
  unfold warmTile
  repeat' first
    | with_reducible assumption
    | with_reducible apply creditTile_kept
    | with_reducible apply warmPad_kept
    | with_reducible apply tilePut_kept

theorem requeue_kept {s0 s : State} (h : Kept s0 s) : Kept s0 (requeue s) := by
  unfold requeue
  repeat' first
    | with_reducible assumption
    | with_reducible apply pipeUpd_kept
    | with_reducible apply engEdit_kept
    | with_reducible refine Kept.foldl (fun _ _ _ => ?_) _ ?_

theorem warmEngines_kept {s0 s : State} (h : Kept s0 s) : Kept s0 (warmEngines s) := by
  unfold warmEngines
  repeat' first
    | with_reducible assumption
    | with_reducible apply engUpd_kept
    | with_reducible apply ctxUpd_kept
    | with_reducible apply rewind_kept
    | with_reducible apply replayOr_kept
    | with_reducible apply requeue_kept
    | with_reducible apply recRewrite_kept
    | with_reducible apply Kept.ite
    | with_reducible refine Kept.foldl (fun _ _ _ => ?_) _ ?_

theorem warmRegs_kept {s0 s : State} (h : Kept s0 s) : Kept s0 (warmRegs s) := by
  refine h.trans ⟨rfl, id, fun x => ⟨x.power, x.clock, Nat.zero_le _, ?_⟩, Sec.Fwd.same rfl⟩
  show (if s.pod.st = 5 then (1 : BitVec 3) else s.pod.st).toNat ≤ 5
  split
  · decide
  · exact x.pod

theorem warmNow_kept {s0 s : State} (a1) (a2) (a3) (h : Kept s0 s) : Kept s0 (warmNow a1 a2 a3 s) := by
  unfold warmNow
  repeat' first
    | with_reducible assumption
    | (rw [State.over_eq]; with_reducible refine Kept.over ?_ id rfl rfl rfl rfl rfl)
    | with_reducible apply lathDrop_kept
    | with_reducible apply trainPorts_kept
    | with_reducible apply cgReset_kept
    | with_reducible apply wordsPut_kept
    | with_reducible apply onGrid_kept
    | with_reducible apply warmTile_kept
    | with_reducible apply warmEngines_kept
    | with_reducible apply warmRegs_kept
    | with_reducible apply loadEnd_kept
    | with_reducible apply onFlt_kept
    | with_reducible apply sieEvent_kept
    | with_reducible apply sigWrite_kept
    | with_reducible apply Kept.ite
    | with_reducible refine Kept.foldl (fun _ _ _ => ?_) _ ?_

theorem warmDue_kept {s0 s : State} (h : Kept s0 s) : Kept s0 (warmDue s) := by
  unfold warmDue
  repeat' first
    | with_reducible assumption
    | (rw [State.over_eq]; with_reducible refine Kept.over ?_ id rfl rfl rfl rfl rfl)
    | with_reducible apply Kept.ite

theorem warmReset_kept {s0 s : State} (a1) (h : Kept s0 s) : Kept s0 (warmReset a1 s) := by
  unfold warmReset
  repeat' first
    | with_reducible assumption
    | (rw [State.over_eq]; with_reducible refine Kept.over ?_ id rfl rfl rfl rfl rfl)
    | with_reducible apply onFlt_kept
    | with_reducible apply classX_kept
    | with_reducible apply warmNow_kept
    | with_reducible apply Kept.ite

theorem onSec_kept {s0 s : State} (f) (hf : ∀ c, Sec.Fwd c (f c)) (h : Kept s0 s) : Kept s0 (onSec f s) :=
  h.trans ⟨rfl, id, fun x => ⟨x.power, x.clock, x.freeze, x.pod⟩, hf s.sec⟩

theorem secDone_kept {s0 s : State} (a1) (a2) (h : Kept s0 s) : Kept s0 (secDone a1 a2 s) :=
  h.built rfl rfl rfl rfl rfl rfl rfl

theorem secAct_kept {s0 s : State} (a1) (a2) (a3) (h : Kept s0 s) (hf : ∀ x, Kept s0 x → Kept s0 (a3 x)) : Kept s0 (secAct a1 a2 a3 s) := by
  unfold secAct
  repeat' first
    | with_reducible assumption
    | with_reducible apply hf
    | with_reducible apply secDone_kept
    | with_reducible apply Kept.ite

theorem revokeSlot_kept {s0 s : State} (a1) (h : Kept s0 s) : Kept s0 (revokeSlot a1 s) := by
  unfold revokeSlot
  repeat' first
    | with_reducible assumption
    | with_reducible apply sessClose_kept
    | with_reducible refine onSec_kept _ (fun _ => ?_) ?_
    | with_reducible refine Kept.foldl (fun _ _ _ => ?_) _ ?_
    | (extract_lets)
    | exact Sec.Fwd.same (by simp only [Sec.fuses])

theorem installKey_kept {s0 s : State} (h : Kept s0 s) : Kept s0 (installKey s) := by
  unfold installKey
  repeat' first
    | with_reducible assumption
    | with_reducible refine onSec_kept _ (fun _ => ?_) ?_
    | (extract_lets)
    | split
    | exact Sec.Fwd.same (by simp only [Sec.fuses])

theorem hazRefresh_kept {s0 s : State} (h : Kept s0 s) : Kept s0 (hazRefresh s) := by
  unfold hazRefresh
  repeat' first
    | with_reducible assumption
    | with_reducible apply onGrid_kept
    | with_reducible apply Kept.ite

theorem onPwr_kept {s0 s : State} (f) (hf : ∀ p, p.act.toNat ≤ 4 → (f p).act.toNat ≤ 4) (h : Kept s0 s) : Kept s0 (onPwr f s) :=
  h.trans ⟨rfl, id, fun x => ⟨hf _ x.power, x.clock, x.freeze, x.pod⟩, Sec.Fwd.same rfl⟩

theorem onClk_kept {s0 s : State} (f) (hf : ∀ p, p.k.toNat ≤ 8 → (f p).k.toNat ≤ 8) (h : Kept s0 s) : Kept s0 (onClk f s) :=
  h.trans ⟨rfl, id, fun x => ⟨x.power, hf _ x.clock, x.freeze, x.pod⟩, Sec.Fwd.same rfl⟩

theorem feedPut_kept {s0 s : State} (a1) (a2) (h : Kept s0 s) : Kept s0 (feedPut a1 a2 s) := by
  unfold feedPut
  repeat' first
    | with_reducible assumption
    | with_reducible refine onPwr_kept _ (fun _ _ => ?_) ?_
    | (extract_lets)
    | split

theorem zoneUpd_kept {s0 s : State} (a1) (a2) (h : Kept s0 s) : Kept s0 (zoneUpd a1 a2 s) :=
  h.built rfl rfl rfl rfl rfl rfl rfl

theorem latchOff_kept {s0 s : State} (h : Kept s0 s) : Kept s0 (latchOff s) := by
  unfold latchOff
  repeat' first
    | with_reducible assumption
    | with_reducible apply classX_kept
    | with_reducible apply svcRpt_kept
    | with_reducible refine onPwr_kept _ (fun _ _ => ?_) ?_

theorem govStep_kept {s0 s : State} (a1) (h : Kept s0 s) : Kept s0 (govStep a1 s) := by
  unfold govStep
  repeat' first
    | with_reducible assumption
    | with_reducible apply freqStep_kept
    | with_reducible apply freqLead_kept
    | with_reducible refine onClk_kept _ (fun _ _ => ?_) ?_
    | with_reducible apply Kept.ite

theorem prePosition_kept {s0 s : State} (h : Kept s0 s) : Kept s0 (prePosition s) := by
  unfold prePosition
  repeat' first
    | with_reducible assumption
    | with_reducible apply zoneUpd_kept
    | with_reducible apply Kept.ite
    | with_reducible refine Kept.foldl (fun _ _ _ => ?_) _ ?_
    | (extract_lets)
    | split

theorem tilesLost_kept {s0 s : State} (h : Kept s0 s) : Kept s0 (tilesLost s) :=
  h.built rfl rfl rfl rfl rfl rfl rfl

theorem pstateRefused_kept {s0 s : State} (h : Kept s0 s) : Kept s0 (pstateRefused s) :=
  h.built rfl rfl rfl rfl rfl rfl rfl

theorem pstateAct_kept {s0 s : State} (n) (hn : n ≤ 4) (h : Kept s0 s) : Kept s0 (pstateAct n s) :=
  onPwr_kept _ (fun _ _ => by
    show (BitVec.ofNat 3 n).toNat ≤ 4
    simp only [BitVec.toNat_ofNat]; omega) h

theorem pstateWrite_kept {s0 s : State} (n) (f : State → Option State) (h : Kept s0 s)
    (hf : ∀ x y, Kept s0 x → f x = some y → Kept s0 y) : Kept s0 (pstateWrite n f s) := by
  have h1 : Kept s0 (onPwr (fun p => { p with pstate := BitVec.ofNat 3 n }) s) := onPwr_kept _ (fun _ hp => hp) h
  unfold pstateWrite
  extract_lets s1
  split
  · exact pstateRefused_kept h1
  · split
    · rename_i t ht
      exact hf _ _ h1 ht
    · exact pstateRefused_kept h1

theorem standbyWake_kept {s0 s : State} (a1) (hn : a1 ≤ 4) (h : Kept s0 s) : Kept s0 (standbyWake a1 s) := by
  unfold standbyWake
  repeat' first
    | with_reducible assumption
    | (rw [State.over_eq]; with_reducible refine Kept.over ?_ id rfl rfl rfl rfl rfl)
    | with_reducible apply onFab_kept
    | with_reducible apply storesAgain_kept
    | with_reducible apply liveSlice_kept
    | with_reducible apply warmEngines_kept
    | with_reducible apply creditTile_kept
    | with_reducible apply restoreSite_kept
    | with_reducible apply freqStep_kept
    | with_reducible refine pstateAct_kept _ hn ?_
    | with_reducible refine Kept.foldl (fun _ _ _ => ?_) _ ?_
    | (extract_lets)
    | split

theorem pstateDue_kept {s0 s : State} (h : Kept s0 s) : Kept s0 (pstateDue s) := by
  unfold pstateDue
  split
  · rename_i hc
    exact freqStep_kept _ (pstateAct_kept _ (by omega) (h.built rfl rfl rfl rfl rfl rfl rfl))
  · exact h

theorem onSvc_kept {s0 s : State} (f) (hf : ∀ p, p.frz.toNat ≤ 2 → (f p).frz.toNat ≤ 2) (h : Kept s0 s) : Kept s0 (onSvc f s) :=
  h.trans ⟨rfl, id, fun x => ⟨x.power, x.clock, hf _ x.freeze, x.pod⟩, Sec.Fwd.same rfl⟩

theorem coldClear_kept {s0 s : State} (h : Kept s0 s) : Kept s0 (coldClear s) :=
  h.trans ⟨rfl, fun _ => SWf.nil _, fun x => ⟨x.power, Nat.zero_le _, Nat.zero_le _, Nat.zero_le _⟩, Sec.Fwd.same rfl⟩

theorem bootStraps_kept {s0 s : State} (h : Kept s0 s) : Kept s0 (bootStraps s) :=
  h.built rfl rfl rfl rfl rfl rfl rfl

theorem bootFuses_kept {s0 s : State} (h : Kept s0 s) : Kept s0 (bootFuses s) := by
  have h1 : Kept s0 { s with draws := s.draws + 1, sec := { s.sec with chal := Config.challenge s.draws } } := h.built rfl rfl rfl rfl rfl
    rfl rfl
  unfold bootFuses
  extract_lets c s1 n drop s2
  split
  · exact h1
  · rename_i hp
    have hp : s.sec.lcPend = true := by simpa using hp
    have hl : s.sec.ownLock = true → s2.sec.ownLock = true := by
      intro y
      show (s.sec.ownLock || _) = true
      rw [y]; rfl
    have h2 : Kept s0 s2 := h1.trans ⟨rfl, id, fun x => ⟨x.power, x.clock, x.freeze, x.pod⟩,
      ⟨fun _ y => (Bool.noConfusion y : _), fun x => Nat.le_of_lt (x hp), hl, Nat.le_refl _⟩⟩
    split
    · exact onGrid_kept _ h2
    · exact h2

theorem bootFence_kept {s0 s : State} (a1) (h : Kept s0 s) : Kept s0 (bootFence a1 s) := by
  unfold bootFence
  repeat' first
    | with_reducible assumption
    | with_reducible apply fencePut_kept

theorem bootRim_kept {s0 s : State} (a1) (h : Kept s0 s) : Kept s0 (bootRim a1 s) := by
  unfold bootRim
  repeat' first
    | with_reducible assumption
    | with_reducible apply linkUpd_kept
    | with_reducible apply engUpd_kept
    | with_reducible apply Kept.ite

theorem bootLath_kept {s0 s : State} (a1) (h : Kept s0 s) : Kept s0 (bootLath a1 s) := by
  unfold bootLath
  repeat' first
    | with_reducible assumption
    | with_reducible apply bootRim_kept
    | with_reducible apply bootFence_kept
    | with_reducible apply onLath_kept
    | with_reducible apply chargeEvent_kept
    | with_reducible refine Kept.foldl (fun _ _ _ => ?_) _ ?_

theorem bootHistory_kept {s0 s : State} (h : Kept s0 s) : Kept s0 (bootHistory s) := by
  unfold bootHistory
  repeat' first
    | with_reducible assumption
    | (rw [State.over_eq]; with_reducible refine Kept.over ?_ id rfl rfl rfl rfl rfl)
    | with_reducible apply onFlt_kept
    | with_reducible apply deadSlice_kept
    | with_reducible apply onGrid_kept
    | with_reducible refine Kept.foldl (fun _ _ _ => ?_) _ ?_

theorem bootDram_kept {s0 s : State} (h : Kept s0 s) : Kept s0 (bootDram s) := by
  unfold bootDram
  repeat' first
    | with_reducible assumption
    | (rw [State.over_eq]; with_reducible refine Kept.over ?_ id rfl rfl rfl rfl rfl)
    | with_reducible apply extentBad_kept
    | with_reducible refine Kept.foldl (fun _ _ _ => ?_) _ ?_

theorem bootPorts_kept {s0 s : State} (h : Kept s0 s) : Kept s0 (bootPorts s) := by
  unfold bootPorts
  repeat' first
    | with_reducible assumption
    | (rw [State.over_eq]; with_reducible refine Kept.over ?_ id rfl rfl rfl rfl rfl)
    | with_reducible refine onPod_kept _ (fun _ _ => ?_) ?_
    | with_reducible refine onSvc_kept _ (fun _ _ => ?_) ?_
    | (dsimp -zeta only)
    | split
    | (show (_ : Nat) ≤ _; first | assumption | decide)

theorem bootSlot_kept {s0 s : State} (a1) (h : Kept s0 s) : Kept s0 (bootSlot a1 s) := by
  unfold bootSlot
  repeat' first
    | with_reducible assumption
    | with_reducible apply onLoad_kept
    | with_reducible apply dramStore_kept
    | with_reducible apply loadBegin_kept
    | with_reducible refine onSvc_kept _ (fun _ _ => ?_) ?_

theorem bootReady_kept {s0 s : State} (h : Kept s0 s) : Kept s0 (bootReady s) :=
  h.built rfl rfl rfl rfl rfl rfl rfl

theorem bootImage_kept {s0 s : State} (h : Kept s0 s) : Kept s0 (bootImage s) := by
  unfold bootImage
  repeat' first
    | with_reducible assumption
    | with_reducible apply bootSlot_kept
    | with_reducible apply bootReady_kept
    | with_reducible apply Kept.ite

theorem bootDue_kept {s0 s : State} (h : Kept s0 s) : Kept s0 (bootDue s) := by
  unfold bootDue
  repeat' first
    | with_reducible assumption
    | with_reducible apply bootReady_kept
    | with_reducible apply bootSlot_kept
    | with_reducible refine onSvc_kept _ (fun _ _ => ?_) ?_
    | with_reducible apply Kept.ite

theorem coldBoot_kept {s0 s : State} (a c) (h : Kept s0 s) : Kept s0 (coldBoot a c s) := by
  have h1 : Kept s0 { coldClear s with pwr := pwrBoot s.pwr } := by
    refine (coldClear_kept h).trans ⟨rfl, id, fun x => ⟨?_, x.clock, x.freeze, x.pod⟩, Sec.Fwd.same rfl⟩
    show (pwrBoot s.pwr).act.toNat ≤ 4
    unfold pwrBoot
    extract_lets q
    split <;> exact Nat.zero_le _
  have h2 := bootStraps_kept (onSvc_kept (fun v => { v with lastCold := c, bootMs := a.ms }) (fun _ hp => hp) h1)
  unfold coldBoot
  extract_lets d src s1 s2 s3 s4 s5
  have h3 : Kept s0 s2 := Kept.ite (bootFuses_kept h2) h2
  have h4 : Kept s0 s3 := Kept.ite (bootLath_kept _ h3) h3
  have h5 : Kept s0 s4 := Kept.ite (bootHistory_kept h4) h4
  have h6 : Kept s0 s5 := Kept.ite (bootDram_kept h5) h5
  split
  · exact onSvc_kept _ (fun _ hp => hp) h6
  · exact bootImage_kept (bootPorts_kept h6)

theorem coldReset_kept {s0 s : State} (a1) (a2) (a3) (h : Kept s0 s) : Kept s0 (coldReset a1 a2 a3 s) := by
  unfold coldReset
  repeat' first
    | with_reducible assumption
    | with_reducible apply coldClear_kept
    | with_reducible apply coldBoot_kept
    | with_reducible apply sieEvent_kept
    | with_reducible refine onPwr_kept _ (fun _ _ => ?_) ?_
    | with_reducible refine onSvc_kept _ (fun _ _ => ?_) ?_
    | with_reducible apply Kept.ite

theorem freezeEnd_kept {s0 s : State} (a1) (h : Kept s0 s) : Kept s0 (freezeEnd a1 s) := by
  unfold freezeEnd
  repeat' first
    | with_reducible assumption
    | with_reducible refine onSvc_kept _ (fun _ _ => ?_) ?_
    | with_reducible refine onPod_kept _ (fun _ _ => ?_) ?_
    | with_reducible apply Kept.ite
    | (dsimp -zeta only)
    | (show (_ : Nat) ≤ _; first | assumption | decide)

theorem freezeIgnore_kept {s0 s : State} (h : Kept s0 s) : Kept s0 (freezeIgnore s) :=
  h.built rfl rfl rfl rfl rfl rfl rfl

theorem freezeStart_kept {s0 s : State} (a1) (h : Kept s0 s) : Kept s0 (freezeStart a1 s) := by
  unfold freezeStart
  repeat' first
    | with_reducible assumption
    | with_reducible apply freezeIgnore_kept
    | with_reducible refine onSvc_kept _ (fun _ _ => ?_) ?_
    | with_reducible apply Kept.ite
    | (dsimp -zeta only)
    | (show (_ : Nat) ≤ _; first | assumption | decide)

theorem hazFreq_kept {s0 s : State} (a1) (h : Kept s0 s) : Kept s0 (hazFreq a1 s) := by
  unfold hazFreq
  repeat' first
    | with_reducible assumption
    | with_reducible apply freqLead_kept
    | with_reducible apply Kept.ite

theorem afterCmd_kept {s0 s : State} {o} (h : Kept s0 s) (k : Keeps s0 o) : Kept s0 (afterCmd o s) := by
  obtain ⟨t, rfl, ht⟩ := k
  exact ht

theorem execSvcResetTile_keeps {s0 s : State} (a1) (h : Kept s0 s) : Keeps s0 (execSvcResetTile a1 s) := by
  unfold execSvcResetTile
  repeat' first
    | with_reducible assumption
    | with_reducible apply tileResetNow_kept
    | with_reducible apply Kept.ite
    | with_reducible apply Keeps.next

theorem execSvcResetPort_keeps {s0 s : State} (a1) (h : Kept s0 s) : Keeps s0 (execSvcResetPort a1 s) := by
  unfold execSvcResetPort
  repeat' first
    | with_reducible assumption
    | with_reducible apply portsDown_kept
    | with_reducible apply Kept.ite
    | with_reducible apply Keeps.next

theorem svcResetPut_kept {s0 s : State} (a1) (h : Kept s0 s) : Kept s0 (svcResetPut a1 s) := by
  unfold svcResetPut
  repeat' first
    | with_reducible assumption
    | with_reducible apply execSvcResetTile_keeps
    | with_reducible apply execSvcResetPort_keeps
    | (with_reducible refine afterCmd_kept ?_ ?_)
    | with_reducible apply Kept.ite

theorem ledPut_kept {s0 s : State} (a1) (a2) (h : Kept s0 s) : Kept s0 (ledPut a1 a2 s) :=
  h.built rfl rfl rfl rfl rfl rfl rfl

theorem execSvcMgmtIp4_keeps {s0 s : State} (a1) (h : Kept s0 s) : Keeps s0 (execSvcMgmtIp4 a1 s) := by
  unfold execSvcMgmtIp4
  repeat' first
    | with_reducible assumption
    | with_reducible refine onSvc_kept _ (fun _ _ => ?_) ?_
    | with_reducible apply Keeps.next

theorem svcBlockPut_kept {s0 s : State} (a1) (a2) (h : Kept s0 s) : Kept s0 (svcBlockPut a1 a2 s) := by
  unfold svcBlockPut
  repeat' first
    | with_reducible assumption
    | with_reducible apply svcResetPut_kept
    | with_reducible apply execSvcMgmtIp4_keeps
    | with_reducible apply ledPut_kept
    | with_reducible refine onSvc_kept _ (fun _ _ => ?_) ?_
    | (with_reducible refine afterCmd_kept ?_ ?_)
    | with_reducible apply Kept.ite

theorem execCalStart_keeps {s0 s : State} (a1) (h : Kept s0 s) : Keeps s0 (execCalStart a1 s) := by
  unfold execCalStart
  repeat' first
    | with_reducible assumption
    | (rw [State.over_eq]; with_reducible refine Kept.over ?_ id rfl rfl rfl rfl rfl)
    | with_reducible apply Keeps.next
    | with_reducible apply Keeps.ite

theorem calBlockPut_kept {s0 s : State} (a1) (a2) (h : Kept s0 s) : Kept s0 (calBlockPut a1 a2 s) := by
  unfold calBlockPut
  repeat' first
    | with_reducible assumption
    | with_reducible apply execCalStart_keeps
    | with_reducible apply onCal_kept
    | (with_reducible refine afterCmd_kept ?_ ?_)
    | with_reducible apply Kept.ite

theorem plcBlockPut_kept {s0 s : State} (a1) (a2) (h : Kept s0 s) : Kept s0 (plcBlockPut a1 a2 s) := by
  unfold plcBlockPut
  repeat' first
    | with_reducible assumption
    | (rw [State.over_eq]; with_reducible refine Kept.over ?_ id rfl rfl rfl rfl rfl)
    | with_reducible apply Kept.ite

theorem execSignedLifecycle_keeps {s0 s : State} (h : Kept s0 s) : Keeps s0 (execSignedLifecycle s) := by
  refine Keeps.next ?_
  unfold secAct
  refine secDone_kept _ _ ?_
  split
  · rename_i hr
    refine h.trans ⟨rfl, id, fun x => ⟨x.power, x.clock, x.freeze, x.pod⟩, ⟨fun _ _ => ?_, fun _ => Nat.le_refl _, id, Nat.le_refl _⟩⟩
    unfold lifecycleCheck at hr
    split at hr
    · split at hr
      · cases hr
      · rename_i hn
        have hm : lcMay s.sec (inboxLe s.sec 21 1) = true := by simpa using (not_or.1 hn).2
        show s.sec.lc.toNat < (BitVec.ofNat 2 (inboxLe s.sec 21 1)).toNat
        unfold lcMay at hm
        rw [BitVec.toNat_ofNat]
        split at hm <;> first | (rename_i e1 e2; rw [e1, e2]; decide) | cases hm
    · exact absurd hr (by assumption)
  · exact h

theorem execSignedDebug_keeps {s0 s : State} (h : Kept s0 s) : Keeps s0 (execSignedDebug s) := by
  unfold execSignedDebug
  repeat' first
    | with_reducible assumption
    | with_reducible apply secAct_kept
    | with_reducible refine onSec_kept _ (fun _ => ?_) ?_
    | with_reducible apply Keeps.next
    | (extract_lets)
    | (intro _ _)
    | exact Sec.Fwd.same (by simp only [Sec.fuses])

theorem execSignedRevoke_keeps {s0 s : State} (h : Kept s0 s) : Keeps s0 (execSignedRevoke s) := by
  unfold execSignedRevoke
  repeat' first
    | with_reducible assumption
    | with_reducible apply secAct_kept
    | with_reducible apply revokeSlot_kept
    | with_reducible apply Keeps.next
    | (extract_lets)
    | (intro _ _)

theorem execKeyInstall_keeps {s0 s : State} (h : Kept s0 s) : Keeps s0 (execKeyInstall s) := by
  unfold execKeyInstall
  repeat' first
    | with_reducible assumption
    | with_reducible apply secAct_kept
    | with_reducible apply installKey_kept
    | with_reducible apply Keeps.next

theorem execRaiseRollback_keeps {s0 s : State} (h : Kept s0 s) : Keeps s0 (execRaiseRollback s) := by
  refine Keeps.next ?_
  unfold secAct
  refine secDone_kept _ _ ?_
  split
  · rename_i hr
    refine h.trans ⟨rfl, id, fun x => ⟨x.power, x.clock, x.freeze, x.pod⟩, ⟨id, fun _ => Nat.le_refl _, id, ?_⟩⟩
    show s.sec.rbMin.toNat ≤ s.sec.rbNew.toNat
    unfold rollbackCheck at hr
    split at hr
    · split at hr
      · rename_i hn; exact Nat.le_of_lt hn.2.1
      · cases hr
    · cases hr
  · exact h

theorem execWriteOwnerSlot_keeps {s0 s : State} (a1) (h : Kept s0 s) : Keeps s0 (execWriteOwnerSlot a1 s) := by
  unfold execWriteOwnerSlot
  repeat' first
    | with_reducible assumption
    | with_reducible apply secAct_kept
    | with_reducible refine onSec_kept _ (fun _ => ?_) ?_
    | with_reducible apply Keeps.next
    | (extract_lets)
    | (intro _ _)
    | exact Sec.Fwd.same (by simp only [Sec.fuses])

theorem secCmdPut_kept {s0 s : State} (a1) (h : Kept s0 s) : Kept s0 (secCmdPut a1 s) := by
  unfold secCmdPut
  repeat' first
    | with_reducible assumption
    | with_reducible apply execSignedLifecycle_keeps
    | with_reducible apply execSignedDebug_keeps
    | with_reducible apply execSignedRevoke_keeps
    | with_reducible apply secDone_kept
    | with_reducible apply execKeyInstall_keeps
    | with_reducible apply execRaiseRollback_keeps
    | with_reducible apply execWriteOwnerSlot_keeps
    | with_reducible refine onSec_kept _ (fun _ => ?_) ?_
    | (with_reducible refine afterCmd_kept ?_ ?_)
    | with_reducible apply Kept.ite
    | (extract_lets)
    | split
    | exact Sec.Fwd.same (by simp only [Sec.fuses])

theorem execDebugLevelRequest_keeps {s0 s : State} (a1) (h : Kept s0 s) : Keeps s0 (execDebugLevelRequest a1 s) := by
  unfold execDebugLevelRequest
  repeat' first
    | with_reducible assumption
    | with_reducible apply hazRefresh_kept
    | with_reducible refine onSec_kept _ (fun _ => ?_) ?_
    | with_reducible apply Keeps.next
    | (extract_lets)
    | exact Sec.Fwd.same (by simp only [Sec.fuses, debugRequest])

theorem secBlockPut_kept {s0 s : State} (a1) (a2) (h : Kept s0 s) : Kept s0 (secBlockPut a1 a2 s) := by
  unfold secBlockPut
  repeat' first
    | with_reducible assumption
    | with_reducible apply secCmdPut_kept
    | with_reducible apply execDebugLevelRequest_keeps
    | with_reducible refine onSec_kept _ (fun _ => ?_) ?_
    | (with_reducible refine afterCmd_kept ?_ ?_)
    | with_reducible apply Kept.ite
    | (extract_lets)
    | exact Sec.Fwd.same (by simp only [Sec.fuses, debugRequest])

theorem fltBlockPut_kept {s0 s : State} (a1) (a2) (h : Kept s0 s) : Kept s0 (fltBlockPut a1 a2 s) := by
  unfold fltBlockPut
  repeat' first
    | with_reducible assumption
    | with_reducible apply onFlt_kept
    | with_reducible apply Kept.ite

theorem execPstateP0_keeps {s0 s : State} (h : Kept s0 s) : Keeps s0 (execPstateP0 s) := by
  refine Keeps.next (pstateWrite_kept _ _ h (fun x y hx e => ?_))
  split at e <;> first
    | (split at e; (cases e; exact freqStep_kept _ (pstateAct_kept _ (by decide) (hx.built rfl rfl rfl rfl rfl rfl rfl))); (cases e))
    | (have e := Option.some.inj e; subst e; first | with_reducible exact hx | with_reducible exact pstateAct_kept _ (by decide) hx |
        with_reducible exact standbyWake_kept _ (by decide) hx | with_reducible exact tilesLost_kept (pstateAct_kept _ (by decide) hx))
    | exact absurd e (by simp)

theorem execPstateP1_keeps {s0 s : State} (h : Kept s0 s) : Keeps s0 (execPstateP1 s) := by
  refine Keeps.next (pstateWrite_kept _ _ h (fun x y hx e => ?_))
  split at e <;> first
    | (split at e; (cases e; exact freqStep_kept _ (pstateAct_kept _ (by decide) (hx.built rfl rfl rfl rfl rfl rfl rfl))); (cases e))
    | (have e := Option.some.inj e; subst e; first | with_reducible exact hx | with_reducible exact pstateAct_kept _ (by decide) hx |
        with_reducible exact standbyWake_kept _ (by decide) hx | with_reducible exact tilesLost_kept (pstateAct_kept _ (by decide) hx))
    | exact absurd e (by simp)

theorem execPstateP2_keeps {s0 s : State} (h : Kept s0 s) : Keeps s0 (execPstateP2 s) := by
  refine Keeps.next (pstateWrite_kept _ _ h (fun x y hx e => ?_))
  split at e <;> first
    | (split at e; (cases e; exact freqStep_kept _ (pstateAct_kept _ (by decide) (hx.built rfl rfl rfl rfl rfl rfl rfl))); (cases e))
    | (have e := Option.some.inj e; subst e; first | with_reducible exact hx | with_reducible exact pstateAct_kept _ (by decide) hx |
        with_reducible exact standbyWake_kept _ (by decide) hx | with_reducible exact tilesLost_kept (pstateAct_kept _ (by decide) hx))
    | exact absurd e (by simp)

theorem execPstateP3_keeps {s0 s : State} (h : Kept s0 s) : Keeps s0 (execPstateP3 s) := by
  refine Keeps.next (pstateWrite_kept _ _ h (fun x y hx e => ?_))
  split at e <;> first
    | (split at e; (cases e; exact freqStep_kept _ (pstateAct_kept _ (by decide) (hx.built rfl rfl rfl rfl rfl rfl rfl))); (cases e))
    | (have e := Option.some.inj e; subst e; first | with_reducible exact hx | with_reducible exact pstateAct_kept _ (by decide) hx |
        with_reducible exact standbyWake_kept _ (by decide) hx | with_reducible exact tilesLost_kept (pstateAct_kept _ (by decide) hx))
    | exact absurd e (by simp)

theorem pwrCtrlPut_kept {s0 s : State} (a1) (h : Kept s0 s) : Kept s0 (pwrCtrlPut a1 s) := by
  unfold pwrCtrlPut
  repeat' first
    | with_reducible assumption
    | with_reducible apply execPstateP0_keeps
    | with_reducible apply execPstateP1_keeps
    | with_reducible apply execPstateP2_keeps
    | with_reducible apply execPstateP3_keeps
    | with_reducible apply pstateRefused_kept
    | with_reducible refine onPwr_kept _ (fun _ _ => ?_) ?_
    | (with_reducible refine afterCmd_kept ?_ ?_)
    | with_reducible apply Kept.ite
    | (extract_lets)
    | split

theorem execRecal_keeps {s0 s : State} (a1) (h : Kept s0 s) : Keeps s0 (execRecal a1 s) := by
  unfold execRecal
  repeat' first
    | with_reducible assumption
    | with_reducible refine onPwr_kept _ (fun _ _ => ?_) ?_
    | with_reducible apply Keeps.next
    | (extract_lets)
    | split

theorem pwrBlockPut_kept {s0 s : State} (a1) (a2) (h : Kept s0 s) : Kept s0 (pwrBlockPut a1 a2 s) := by
  unfold pwrBlockPut
  repeat' first
    | with_reducible assumption
    | with_reducible apply pwrCtrlPut_kept
    | with_reducible apply execRecal_keeps
    | with_reducible apply zoneUpd_kept
    | with_reducible refine onPwr_kept _ (fun _ _ => ?_) ?_
    | (with_reducible refine afterCmd_kept ?_ ?_)
    | with_reducible apply Kept.ite

theorem execFrequencyStep_keeps {s0 s : State} (a1) (h : Kept s0 s) : Keeps s0 (execFrequencyStep a1 s) := by
  unfold execFrequencyStep
  repeat' first
    | with_reducible assumption
    | with_reducible apply freqLead_kept
    | with_reducible apply kreqPut_kept
    | with_reducible apply Kept.ite
    | with_reducible apply Keeps.next

theorem clkBlockPut_kept {s0 s : State} (a1) (a2) (h : Kept s0 s) : Kept s0 (clkBlockPut a1 a2 s) := by
  unfold clkBlockPut
  repeat' first
    | with_reducible assumption
    | with_reducible apply execFrequencyStep_keeps
    | (with_reducible refine afterCmd_kept ?_ ?_)
    | with_reducible refine onClk_kept _ (fun _ _ => ?_) ?_
    | with_reducible apply Kept.ite

theorem execHazEn_keeps {s0 s : State} (a1) (h : Kept s0 s) : Keeps s0 (execHazEn a1 s) := by
  unfold execHazEn
  repeat' first
    | with_reducible assumption
    | with_reducible apply hazRefresh_kept
    | with_reducible apply hazFreq_kept
    | with_reducible refine onSvc_kept _ (fun _ _ => ?_) ?_
    | with_reducible apply Kept.ite
    | with_reducible apply Keeps.next

theorem execFrzReq_keeps {s0 s : State} (h : Kept s0 s) : Keeps s0 (execFrzReq s) := by
  unfold execFrzReq
  repeat' first
    | with_reducible assumption
    | with_reducible apply freezeStart_kept
    | with_reducible apply Keeps.next

theorem dbgBlockPut_kept {s0 s : State} (a1) (a2) (h : Kept s0 s) : Kept s0 (dbgBlockPut a1 a2 s) := by
  unfold dbgBlockPut
  repeat' first
    | with_reducible assumption
    | with_reducible apply execHazEn_keeps
    | with_reducible apply execFrzReq_keeps
    | with_reducible refine onSvc_kept _ (fun _ _ => ?_) ?_
    | (with_reducible refine afterCmd_kept ?_ ?_)
    | with_reducible apply Kept.ite

theorem geomPut_kept {s0 s : State} (a1) (a2) (h : Kept s0 s) : Kept s0 (geomPut a1 a2 s) := by
  unfold geomPut
  repeat' first
    | with_reducible assumption
    | (rw [State.over_eq]; with_reducible refine Kept.over ?_ id rfl rfl rfl rfl rfl)
    | with_reducible apply Kept.ite

theorem execMemberTableWrite_keeps {s0 s : State} (a1) (a2) (a3) (a4) (h : Kept s0 s) : Keeps s0 (execMemberTableWrite a1 a2 a3 a4 s) := by
  unfold execMemberTableWrite
  repeat' first
    | with_reducible assumption
    | with_reducible apply tendMember_kept
    | with_reducible apply memberPut_kept
    | with_reducible apply Keeps.next
    | with_reducible apply Keeps.ite

theorem svcWrite_kept {s0 s : State} (a1) (a2) (a3) (a4) (h : Kept s0 s) : Kept s0 (svcWrite a1 a2 a3 a4 s) := by
  unfold svcWrite
  repeat' first
    | with_reducible assumption
    | with_reducible apply svcBlockPut_kept
    | with_reducible apply calBlockPut_kept
    | with_reducible apply plcBlockPut_kept
    | with_reducible apply onCg_kept
    | with_reducible apply secBlockPut_kept
    | with_reducible apply fltBlockPut_kept
    | with_reducible apply pwrBlockPut_kept
    | with_reducible apply clkBlockPut_kept
    | with_reducible apply dbgBlockPut_kept
    | with_reducible apply geomPut_kept
    | with_reducible apply lockOp_kept
    | with_reducible apply execMemberTableWrite_keeps
    | with_reducible refine onPod_kept _ (fun _ _ => ?_) ?_
    | (with_reducible refine afterCmd_kept ?_ ?_)
    | with_reducible apply Kept.ite

theorem sqWrite_kept {s0 s : State} (a1) (a2) (a3) (a4) (h : Kept s0 s) : Kept s0 (sqWrite a1 a2 a3 a4 s) := by
  unfold sqWrite
  repeat' first
    | with_reducible assumption
    | with_reducible apply engUpd_kept
    | with_reducible apply sqCfgPut_kept
    | with_reducible apply tailPut_kept
    | split

theorem pipeWrite_kept {s0 s : State} (a1) (a2) (a3) (a4) (h : Kept s0 s) : Kept s0 (pipeWrite a1 a2 a3 a4 s) := by
  unfold pipeWrite
  repeat' first
    | with_reducible assumption
    | with_reducible apply pipeCfgPut_kept
    | with_reducible apply tmapPut_kept
    | with_reducible apply pipeUpd_kept
    | with_reducible apply Kept.ite
    | (extract_lets)
    | split

theorem engWrite_kept {s0 s : State} (a1) (a2) (a3) (h : Kept s0 s) : Kept s0 (engWrite a1 a2 a3 s) := by
  unfold engWrite
  repeat' first
    | with_reducible assumption
    | with_reducible apply engUpd_kept
    | with_reducible apply sqWrite_kept
    | with_reducible apply pipeWrite_kept
    | with_reducible apply Kept.ite

theorem portCfgPut_kept {s0 s : State} (a1) (a2) (a3) (h : Kept s0 s) : Kept s0 (portCfgPut a1 a2 a3 s) := by
  unfold portCfgPut
  repeat' first
    | with_reducible assumption
    | with_reducible apply portUpd_kept
    | with_reducible apply portsDown_kept
    | with_reducible apply modeApply_kept
    | with_reducible apply Kept.ite

theorem lnkWrite_kept {s0 s : State} (a1) (a2) (a3) (h : Kept s0 s) : Kept s0 (lnkWrite a1 a2 a3 s) := by
  unfold lnkWrite
  repeat' first
    | with_reducible assumption
    | with_reducible apply linkUpd_kept
    | with_reducible apply portCfgPut_kept
    | with_reducible apply portUpd_kept
    | with_reducible apply Kept.ite

theorem mifWrite_kept {s0 s : State} (a1) (a2) (a3) (h : Kept s0 s) : Kept s0 (mifWrite a1 a2 a3 s) := by
  unfold mifWrite
  repeat' first
    | with_reducible assumption
    | with_reducible apply mdPut_kept
    | with_reducible apply extentPut_kept
    | with_reducible apply Kept.ite

theorem tileWrite_kept {s0 s : State} (a1) (a2) (a3) (a4) (h : Kept s0 s) : Kept s0 (tileWrite a1 a2 a3 a4 s) := by
  unfold tileWrite
  repeat' first
    | with_reducible assumption
    | with_reducible apply tilePut_kept
    | with_reducible apply addrErr_kept
    | with_reducible apply lathStatWrite_kept
    | with_reducible apply Kept.ite

theorem regGet_kept {s0 s : State} (a1) (h : Kept s0 s) : Kept s0 (regGet a1 s).2 := by
  unfold regGet
  repeat' first
    | with_reducible assumption
    | with_reducible apply dramRead_kept
    | with_reducible apply putOut_kept
    | with_reducible apply tilePut_kept
    | with_reducible refine onPwr_kept _ (fun _ _ => ?_) ?_
    | with_reducible apply Kept.ite
    | with_reducible refine Kept.foldl (fun _ _ _ => ?_) _ ?_
    | (extract_lets)
    | split

theorem regPut_kept {s0 s : State} (a1) (a2) (a3) (a4) (a5) (h : Kept s0 s) : Kept s0 (regPut a1 a2 a3 a4 a5 s) := by
  unfold regPut
  repeat' first
    | with_reducible assumption
    | with_reducible apply addrErr_kept
    | with_reducible apply dramWrite_kept
    | with_reducible apply tileWrite_kept
    | with_reducible apply svcWrite_kept
    | with_reducible apply engWrite_kept
    | with_reducible apply lnkWrite_kept
    | with_reducible apply mifWrite_kept
    | with_reducible apply Kept.ite
    | (extract_lets)
    | split

theorem regTagged_kept {s0 s : State} (a1) (h : Kept s0 s) : Kept s0 (regTagged a1 s).2 := by
  unfold regTagged
  repeat' first
    | with_reducible assumption
    | with_reducible apply regGet_kept
    | (extract_lets)
    | split

theorem regReads_kept {s0 s : State} (a1) (a2) (h : Kept s0 s) : Kept s0 (regReads a1 a2 s).2 := by
  unfold regReads
  repeat' first
    | with_reducible assumption
    | with_reducible apply regTagged_kept
    | with_reducible refine Kept.foldl_snd (fun _ _ _ => ?_) _ ?_

theorem readErrs_kept {s0 s : State} (a1) (a2) (h : Kept s0 s) : Kept s0 (readErrs a1 a2 s) := by
  unfold readErrs
  repeat' first
    | with_reducible assumption
    | with_reducible apply addrErr_kept
    | with_reducible apply Kept.ite
    | with_reducible refine Kept.foldl (fun _ _ _ => ?_) _ ?_

theorem tapDo_kept {s0 s : State} (ir out) (f : Svc → Svc) (hf : ∀ v, (f v).frz = v.frz) (h : Kept s0 s) : Kept s0 (tapDo ir out f s) := by
  unfold tapDo
  refine Kept.ite (onSvc_kept _ (fun v hv => ?_) h) h
  rw [hf]; exact hv

theorem freqApply_kept {s0 s : State} (k) (h : Kept s0 s) : Kept s0 (freqApply k s) := by
  unfold freqApply
  split
  · exact h
  · rename_i hk
    exact hazRefresh_kept (h.trans ⟨rfl, id, fun x => ⟨x.power, Nat.le_of_not_lt hk, x.freeze, x.pod⟩, Sec.Fwd.same rfl⟩)

theorem itemPut_kept {s0 s : State} (a1) (a2) (a3) (h : Kept s0 s) : Kept s0 (itemPut a1 a2 s a3) := by
  unfold itemPut
  repeat' first
    | with_reducible assumption
    | with_reducible apply tilePut_kept
    | with_reducible apply regPut_kept
    | with_reducible apply fencePut_kept
    | with_reducible apply fenceLift_kept
    | with_reducible apply openSpans_kept
    | with_reducible apply imageApply_kept
    | with_reducible apply admitApply_kept
    | with_reducible apply closingApply_kept
    | with_reducible apply ptePut_kept
    | with_reducible apply migrateApply_kept
    | with_reducible apply freqApply_kept
    | with_reducible apply probeApply_kept
    | with_reducible apply Kept.ite
    | (extract_lets)
    | split

theorem partMissed_kept {s0 s : State} (a1) (a2) (h : Kept s0 s) : Kept s0 (partMissed a1 s a2) := by
  unfold partMissed
  repeat' first
    | with_reducible assumption
    | with_reducible apply scopeRpt_kept
    | with_reducible apply onCg_kept
    | with_reducible apply Kept.ite

theorem groupDue_kept {s0 s : State} (a1) (h : Kept s0 s) : Kept s0 (groupDue a1 s) := by
  unfold groupDue
  repeat' first
    | with_reducible assumption
    | with_reducible apply onCg_kept
    | with_reducible apply itemPut_kept
    | with_reducible apply partMissed_kept
    | with_reducible apply Kept.ite
    | with_reducible refine Kept.foldl (fun _ _ _ => ?_) _ ?_

theorem groupsDue_kept {s0 s : State} (h : Kept s0 s) : Kept s0 (groupsDue s) := by
  unfold groupsDue
  repeat' first
    | with_reducible assumption
    | with_reducible apply groupDue_kept
    | with_reducible refine Kept.foldl (fun _ _ _ => ?_) _ ?_

theorem streamRetry_kept {s0 s : State} (a1) (h : Kept s0 s) : Kept s0 (streamRetry a1 s) := by
  unfold streamRetry
  repeat' first
    | with_reducible assumption
    | with_reducible apply admitGo_kept
    | with_reducible apply taskFail_kept
    | with_reducible apply ctxUpd_kept
    | with_reducible apply Kept.ite
    | (extract_lets)
    | split

theorem dropLost_kept {s0 s : State} (h : Kept s0 s) : Kept s0 (dropLost s) := by
  unfold dropLost
  repeat' first
    | with_reducible assumption
    | with_reducible apply probeDrop_kept
    | with_reducible apply loadEnd_kept
    | with_reducible apply Kept.ite

theorem sweepCache_kept {s0 s : State} (h : Kept s0 s) : Kept s0 (sweepCache s) := by
  unfold sweepCache
  repeat' first
    | with_reducible assumption
    | with_reducible apply cacheDrop_kept
    | with_reducible apply Kept.ite
    | with_reducible refine Kept.foldl (fun _ _ _ => ?_) _ ?_

theorem loadDone_kept {s0 s : State} (a1) (h : Kept s0 s) : Kept s0 (loadDone a1 s) := by
  unfold loadDone
  repeat' first
    | with_reducible assumption
    | with_reducible apply restoreSlice_kept
    | with_reducible apply liveSlice_kept
    | with_reducible apply cgWhole_kept
    | with_reducible apply residUpd_kept
    | with_reducible apply resEnd_kept
    | with_reducible apply waitEnds_kept
    | with_reducible apply Kept.ite
    | with_reducible refine Kept.foldl (fun _ _ _ => ?_) _ ?_
    | (extract_lets)
    | split

theorem frameAdvance_kept {s0 s : State} (h : Kept s0 s) : Kept s0 (frameAdvance s) :=
  h.built rfl rfl rfl rfl rfl rfl rfl

theorem frameAlign_kept {s0 s : State} (h : Kept s0 s) : Kept s0 (frameAlign s) := by
  unfold frameAlign
  repeat' first
    | with_reducible assumption
    | (rw [State.over_eq]; with_reducible refine Kept.over ?_ id rfl rfl rfl rfl rfl)
    | with_reducible apply Kept.ite

theorem streamDue_kept {s0 s : State} (a1) (h : Kept s0 s) : Kept s0 (streamDue s a1) := by
  unfold streamDue
  repeat' first
    | with_reducible assumption
    | with_reducible apply entriesDue_kept
    | with_reducible apply commitsDue_kept
    | with_reducible apply lostDue_kept
    | with_reducible apply cancelDue_kept
    | with_reducible apply Kept.ite

theorem tilesDue_kept {s0 s : State} (h : Kept s0 s) : Kept s0 (tilesDue s) := by
  unfold tilesDue
  repeat' first
    | with_reducible assumption
    | (rw [State.over_eq]; with_reducible refine Kept.over ?_ id rfl rfl rfl rfl rfl)
    | with_reducible apply scansDue_kept
    | with_reducible apply tileRun_kept
    | with_reducible apply Kept.ite
    | with_reducible refine Kept.foldl (fun _ _ _ => ?_) _ ?_

theorem siteBeat_kept {s0 s : State} (a1) (a2) (a3) (h : Kept s0 s) : Kept s0 (siteBeat a1 a2 s a3) := by
  unfold siteBeat
  repeat' first
    | with_reducible assumption
    | with_reducible apply tilePut_kept
    | with_reducible apply Kept.ite

theorem owedWrite_kept {s0 s : State} (a1) (h : Kept s0 s) : Kept s0 (owedWrite s a1) := by
  unfold owedWrite
  repeat' first
    | with_reducible assumption
    | with_reducible apply itemPut_kept
    | with_reducible refine Kept.foldl (fun _ _ _ => ?_) _ ?_

theorem payCredit_kept {s0 s : State} (a1) (a2) (h : Kept s0 s) : Kept s0 (payCredit s a1 a2) := by
  unfold payCredit
  repeat' first
    | with_reducible assumption
    | with_reducible apply onGrid_kept
    | with_reducible apply Kept.ite
    | (extract_lets)
    | split

end Sys2Proof.Machine
end

