-- ==== Sys2Proof/Laws/KeptCommands.lean ====
section
/-! SUPPORT. What is kept by the meanings of the commands: each answers a next state in which the queue stands, the DRAM stays canonical,
the modes stay legal and nothing burnt goes back. -/

namespace Sys2Proof.Machine

theorem execErrReport_keeps {s0 s : State} (a1) (h : Kept s0 s) : Keeps s0 (execErrReport a1 s) := by
  unfold execErrReport
  repeat' first
    | with_reducible assumption
    | with_reducible apply tilePut_kept
    | with_reducible apply onFlt_kept
    | with_reducible apply Kept.ite
    | with_reducible apply Keeps.next

theorem execErrorLogEntry_keeps {s0 s : State} (h : Kept s0 s) : Keeps s0 (execErrorLogEntry s) := by
  unfold execErrorLogEntry
  repeat' first
    | with_reducible assumption
    | with_reducible apply onFlt_kept
    | with_reducible apply Keeps.next
    | split

theorem execCgPrepare_keeps {s0 s : State} (a1) (a2) (h : Kept s0 s) : Keeps s0 (execCgPrepare a1 a2 s) := by
  unfold execCgPrepare
  repeat' first
    | with_reducible assumption
    | (rw [State.over_eq]; with_reducible refine Kept.over ?_ id rfl rfl rfl rfl rfl)
    | with_reducible apply cgSent_kept
    | with_reducible apply answerCode_kept
    | with_reducible apply Keeps.next
    | with_reducible apply Keeps.ite

theorem execCgVote_keeps {s0 s : State} (a1) (a2) (a3) (a4) (a5) (a6) (h : Kept s0 s) : Keeps s0 (execCgVote a1 a2 a3 a4 a5 a6 s) := by
  unfold execCgVote
  repeat' first
    | with_reducible assumption
    | with_reducible apply onCg_kept
    | with_reducible apply sendVote_kept
    | with_reducible apply Kept.ite
    | with_reducible apply Keeps.next
    | with_reducible apply Keeps.ite
    | (extract_lets)
    | split

theorem execHubVoteDeadline_keeps {s0 s : State} (a1) (a2) (h : Kept s0 s) : Keeps s0 (execHubVoteDeadline a1 a2 s) := by
  unfold execHubVoteDeadline
  repeat' first
    | with_reducible assumption
    | with_reducible apply sendVote_kept
    | with_reducible apply Kept.ite
    | with_reducible apply Keeps.next

theorem execCgDecide_keeps {s0 s : State} (a1) (h : Kept s0 s) : Keeps s0 (execCgDecide a1 s) := by
  unfold execCgDecide
  repeat' first
    | with_reducible assumption
    | with_reducible apply onCg_kept
    | with_reducible apply Keeps.next
    | with_reducible apply Keeps.ite
    | split

theorem execCgApply_keeps {s0 s : State} (a1) (a2) (a3) (h : Kept s0 s) : Keeps s0 (execCgApply a1 a2 a3 s) := by
  unfold execCgApply
  repeat' first
    | with_reducible assumption
    | with_reducible apply onCg_kept
    | with_reducible apply scopeRpt_kept
    | with_reducible apply Keeps.next
    | with_reducible apply Keeps.ite
    | split

theorem execCgDiscard_keeps {s0 s : State} (a1) (a2) (a3) (h : Kept s0 s) : Keeps s0 (execCgDiscard a1 a2 a3 s) := by
  unfold execCgDiscard
  repeat' first
    | with_reducible assumption
    | with_reducible apply onCg_kept
    | with_reducible apply scopeRpt_kept
    | with_reducible apply Kept.ite
    | with_reducible apply Keeps.next
    | with_reducible apply Keeps.ite
    | (extract_lets)
    | split

theorem execLathMessageReceive_keeps {s0 s : State} (a1) (a2) (a3) (h : Kept s0 s) : Keeps s0 (execLathMessageReceive a1 a2 a3 s) := by
  unfold execLathMessageReceive
  repeat' first
    | with_reducible assumption
    | with_reducible apply lathUpd_kept
    | with_reducible apply onLath_kept
    | with_reducible apply dropStale_kept
    | with_reducible apply forward_kept
    | with_reducible apply Keeps.next
    | with_reducible apply Keeps.ite

theorem execLathAckTimeout_keeps {s0 s : State} (a1) (a2) (h : Kept s0 s) : Keeps s0 (execLathAckTimeout a1 a2 s) := by
  unfold execLathAckTimeout
  repeat' first
    | with_reducible assumption
    | with_reducible apply onLath_kept
    | with_reducible apply onCg_kept
    | with_reducible apply sendRpt_kept
    | with_reducible apply Keeps.next
    | with_reducible apply Keeps.ite
    | (extract_lets)
    | split

theorem execHeartbeatSend_keeps {s0 s : State} (a1) (h : Kept s0 s) : Keeps s0 (execHeartbeatSend a1 s) := by
  unfold execHeartbeatSend
  repeat' first
    | with_reducible assumption
    | (rw [State.over_eq]; with_reducible refine Kept.over ?_ id rfl rfl rfl rfl rfl)
    | with_reducible apply lathSend_kept
    | with_reducible apply hubInterval_kept
    | with_reducible apply Keeps.next
    | with_reducible apply Keeps.ite
    | (extract_lets)
    | split

theorem execHeartbeat_keeps {s0 s : State} (a1) (a2) (a3) (h : Kept s0 s) : Keeps s0 (execHeartbeat a1 a2 a3 s) := by
  unfold execHeartbeat
  repeat' first
    | with_reducible assumption
    | (rw [State.over_eq]; with_reducible refine Kept.over ?_ id rfl rfl rfl rfl rfl)
    | with_reducible apply lathDone_kept
    | with_reducible apply onLath_kept
    | with_reducible apply dropStale_kept
    | with_reducible apply resetHeard_kept
    | with_reducible apply Keeps.next
    | with_reducible apply Keeps.ite
    | (extract_lets)
    | split

theorem execFence_keeps {s0 s : State} (a1) (a2) (a3) (h : Kept s0 s) : Keeps s0 (execFence a1 a2 a3 s) := by
  unfold execFence
  repeat' first
    | with_reducible assumption
    | with_reducible apply lathDone_kept
    | with_reducible apply copySet_kept
    | with_reducible apply cgTry_kept
    | with_reducible apply Kept.ite
    | with_reducible apply Keeps.next

theorem execRejoin_keeps {s0 s : State} (a1) (a2) (h : Kept s0 s) : Keeps s0 (execRejoin a1 a2 s) := by
  unfold execRejoin
  repeat' first
    | with_reducible assumption
    | with_reducible apply lathDone_kept
    | with_reducible apply lathUpd_kept
    | with_reducible apply Keeps.next

theorem execPageProgram_keeps {s0 s : State} (a1) (a2) (a3) (h : Kept s0 s) : Keeps s0 (execPageProgram a1 a2 a3 s) := by
  unfold execPageProgram
  repeat' first
    | with_reducible assumption
    | with_reducible apply windowWrite_kept
    | with_reducible apply answerCode_kept
    | with_reducible apply onFab_kept
    | with_reducible apply Kept.ite
    | with_reducible apply Keeps.next
    | (extract_lets)
    | (intro _)

theorem execPageProgramComplete_keeps {s0 s : State} (a1) (a2) (a3) (h : Kept s0 s) : Keeps s0 (execPageProgramComplete a1 a2 a3 s) := by
  unfold execPageProgramComplete
  repeat' first
    | with_reducible assumption
    | with_reducible apply answerCode_kept
    | with_reducible apply onFab_kept
    | with_reducible apply sendRpt_kept
    | with_reducible apply Keeps.next
    | with_reducible apply Keeps.ite
    | (extract_lets)
    | split

theorem execMacroErase_keeps {s0 s : State} (a1) (a2) (a3) (h : Kept s0 s) : Keeps s0 (execMacroErase a1 a2 a3 s) := by
  unfold execMacroErase
  repeat' first
    | with_reducible assumption
    | with_reducible apply windowWrite_kept
    | with_reducible apply answerCode_kept
    | with_reducible apply onFab_kept
    | with_reducible apply Kept.ite
    | with_reducible apply Keeps.next
    | (extract_lets)
    | (intro _)

theorem execEraseComplete_keeps {s0 s : State} (a1) (a2) (a3) (h : Kept s0 s) : Keeps s0 (execEraseComplete a1 a2 a3 s) := by
  unfold execEraseComplete
  repeat' first
    | with_reducible assumption
    | with_reducible apply answerCode_kept
    | with_reducible apply onFab_kept
    | with_reducible apply Keeps.next
    | with_reducible apply Keeps.ite
    | (extract_lets)
    | split

theorem execPageRead_keeps {s0 s : State} (a1) (a2) (h : Kept s0 s) : Keeps s0 (execPageRead a1 a2 s) := by
  unfold execPageRead
  repeat' first
    | with_reducible assumption
    | (rw [State.over_eq]; with_reducible refine Kept.over ?_ id rfl rfl rfl rfl rfl)
    | with_reducible apply windowRead_kept
    | with_reducible apply answer_kept
    | with_reducible apply Kept.ite
    | with_reducible apply Keeps.next
    | (extract_lets)
    | (intro _)

theorem execPageStateRead_keeps {s0 s : State} (a1) (a2) (h : Kept s0 s) : Keeps s0 (execPageStateRead a1 a2 s) := by
  unfold execPageStateRead
  repeat' first
    | with_reducible assumption
    | with_reducible apply windowRead_kept
    | with_reducible apply answer_kept
    | with_reducible apply Keeps.next
    | (extract_lets)
    | (intro _)

theorem execEraseStatusRead_keeps {s0 s : State} (a1) (a2) (h : Kept s0 s) : Keeps s0 (execEraseStatusRead a1 a2 s) := by
  unfold execEraseStatusRead
  repeat' first
    | with_reducible assumption
    | with_reducible apply windowRead_kept
    | with_reducible apply answer_kept
    | with_reducible apply Keeps.next
    | (extract_lets)
    | (intro _)

theorem execVerifyFailRepair_keeps {s0 s : State} (a1) (a2) (a3) (h : Kept s0 s) : Keeps s0 (execVerifyFailRepair a1 a2 a3 s) := by
  unfold execVerifyFailRepair
  repeat' first
    | with_reducible assumption
    | with_reducible apply onFab_kept
    | with_reducible apply moveMacro_kept
    | with_reducible apply Keeps.next
    | with_reducible apply Keeps.ite
    | (extract_lets)
    | split

theorem execSpareColumnReplacement_keeps {s0 s : State} (a1) (a2) (a3) (h :
    Kept s0 s) : Keeps s0 (execSpareColumnReplacement a1 a2 a3 s) := by
  unfold execSpareColumnReplacement
  repeat' first
    | with_reducible assumption
    | with_reducible apply replaceColumn_kept
    | with_reducible apply Keeps.next

theorem execShardBegin_keeps {s0 s : State} (a1) (a2) (a3) (a4) (a5) (a6) (h :
    Kept s0 s) : Keeps s0 (execShardBegin a1 a2 a3 a4 a5 a6 s) := by
  unfold execShardBegin
  repeat' first
    | with_reducible assumption
    | (rw [State.over_eq]; with_reducible refine Kept.over ?_ id rfl rfl rfl rfl rfl)
    | with_reducible apply gated_kept
    | with_reducible apply answerCode_kept
    | with_reducible apply Kept.ite
    | with_reducible apply Keeps.next

theorem execShardData_keeps {s0 s : State} (a1) (a2) (a3) (h : Kept s0 s) : Keeps s0 (execShardData a1 a2 a3 s) := by
  unfold execShardData
  repeat' first
    | with_reducible assumption
    | (rw [State.over_eq]; with_reducible refine Kept.over ?_ id rfl rfl rfl rfl rfl)
    | with_reducible apply gated_kept
    | with_reducible apply answerCode_kept
    | with_reducible apply Kept.ite
    | with_reducible apply Keeps.next
    | (extract_lets)
    | split

theorem execShardCheck_keeps {s0 s : State} (h : Kept s0 s) : Keeps s0 (execShardCheck s) := by
  unfold execShardCheck
  split
  · exact Keeps.next h
  split
  · exact Keeps.next h
  extract_lets v s1
  repeat' first
    | with_reducible assumption
    | (rw [State.over_eq]; with_reducible refine Kept.over ?_ id rfl rfl rfl rfl rfl)
    | with_reducible apply klpSend_kept
    | with_reducible apply cgWhole_kept
    | with_reducible apply acceptShard_kept
    | with_reducible apply resFail_kept
    | with_reducible apply resCpl_kept
    | with_reducible apply Kept.ite
    | with_reducible apply Keeps.next
    | (extract_lets)
    | split
    | (dsimp -zeta only [s1])

theorem execLibraryEviction_keeps {s0 s : State} (a1) (h : Kept s0 s) : Keeps s0 (execLibraryEviction a1 s) := by
  unfold execLibraryEviction
  repeat' first
    | with_reducible assumption
    | with_reducible apply evictLibrary_kept
    | with_reducible apply Keeps.next

theorem execModelEviction_keeps {s0 s : State} (a1) (h : Kept s0 s) : Keeps s0 (execModelEviction a1 s) := by
  unfold execModelEviction
  repeat' first
    | with_reducible assumption
    | with_reducible apply evictUntil_kept
    | with_reducible apply Keeps.next

theorem execLibraryCopyMigration_keeps {s0 s : State} (a1) (h : Kept s0 s) : Keeps s0 (execLibraryCopyMigration a1 s) := by
  unfold execLibraryCopyMigration
  repeat' first
    | with_reducible assumption
    | with_reducible apply resFail_kept
    | with_reducible apply copyWrite_kept
    | with_reducible apply extFree_kept
    | with_reducible apply residUpd_kept
    | (with_reducible refine KeptIf.get (allocCopies_kept _ _ ?_) (by assumption))
    | with_reducible apply Keeps.next
    | with_reducible apply Keeps.ite
    | with_reducible refine Kept.foldl (fun _ _ _ => ?_) _ ?_
    | (extract_lets)
    | split

theorem execResLoad_keeps {s0 s : State} (a1) (a2) (h : Kept s0 s) : Keeps s0 (execResLoad a1 a2 s) := by
  unfold execResLoad
  repeat' first
    | with_reducible assumption
    | with_reducible apply resReq_kept
    | with_reducible apply endUnless_kept
    | with_reducible apply loadModel_kept
    | with_reducible apply Keeps.next
    | (extract_lets)
    | (intro _ _)

theorem execResEvict_keeps {s0 s : State} (a1) (a2) (h : Kept s0 s) : Keeps s0 (execResEvict a1 a2 s) := by
  unfold execResEvict
  repeat' first
    | with_reducible assumption
    | with_reducible apply resReq_kept
    | with_reducible apply residUpd_kept
    | with_reducible apply evictModel_kept
    | with_reducible apply cgWhole_kept
    | with_reducible apply dropLibrary_kept
    | with_reducible apply resCpl_kept
    | with_reducible apply Kept.ite
    | with_reducible apply Keeps.next
    | (extract_lets)
    | (intro _ _)

theorem execResPin_keeps {s0 s : State} (a1) (a2) (h : Kept s0 s) : Keeps s0 (execResPin a1 a2 s) := by
  unfold execResPin
  repeat' first
    | with_reducible assumption
    | with_reducible apply resReq_kept
    | with_reducible apply resEnd_kept
    | with_reducible apply residUpd_kept
    | with_reducible apply Keeps.next
    | (extract_lets)
    | (intro _ _)

theorem execResUnpin_keeps {s0 s : State} (a1) (a2) (h : Kept s0 s) : Keeps s0 (execResUnpin a1 a2 s) := by
  unfold execResUnpin
  repeat' first
    | with_reducible assumption
    | with_reducible apply resReq_kept
    | with_reducible apply resEnd_kept
    | with_reducible apply residUpd_kept
    | with_reducible apply Keeps.next
    | (extract_lets)
    | (intro _ _)

theorem execStagedSwap_keeps {s0 s : State} (a1) (a2) (h : Kept s0 s) : Keeps s0 (execStagedSwap a1 a2 s) := by
  unfold execStagedSwap
  repeat' first
    | with_reducible assumption
    | with_reducible apply stagedSwap_kept
    | with_reducible apply Keeps.next
    | with_reducible apply Keeps.ite
    | split

theorem execInPlaceSwap_keeps {s0 s : State} (a1) (a2) (h : Kept s0 s) : Keeps s0 (execInPlaceSwap a1 a2 s) := by
  unfold execInPlaceSwap
  repeat' first
    | with_reducible assumption
    | with_reducible apply inPlaceSwap_kept
    | with_reducible apply Keeps.next
    | with_reducible apply Keeps.ite
    | split

theorem execRefresh_keeps {s0 s : State} (a1) (a2) (h : Kept s0 s) : Keeps s0 (execRefresh a1 a2 s) := by
  unfold execRefresh
  repeat' first
    | with_reducible assumption
    | with_reducible apply refreshDue_kept
    | with_reducible apply stagedSwap_kept
    | with_reducible apply inPlaceSwap_kept
    | with_reducible apply Keeps.next
    | with_reducible apply Keeps.ite
    | (extract_lets)
    | split

theorem execResSwap_keeps {s0 s : State} (a1) (a2) (a3) (a4) (a5) (h : Kept s0 s) : Keeps s0 (execResSwap a1 a2 a3 a4 a5 s) := by
  unfold execResSwap
  repeat' first
    | with_reducible assumption
    | with_reducible apply resReq_kept
    | with_reducible apply resEnd_kept
    | with_reducible apply resFail_kept
    | with_reducible apply stagedSwap_kept
    | with_reducible apply residUpd_kept
    | with_reducible apply Kept.ite
    | with_reducible apply Keeps.next
    | (extract_lets)
    | split
    | (intro _ _)

theorem execResRefresh_keeps {s0 s : State} (a1) (a2) (h : Kept s0 s) : Keeps s0 (execResRefresh a1 a2 s) := by
  unfold execResRefresh
  repeat' first
    | with_reducible assumption
    | with_reducible apply resReq_kept
    | with_reducible apply refreshDue_kept
    | with_reducible apply resEnd_kept
    | with_reducible apply residUpd_kept
    | with_reducible apply Kept.ite
    | with_reducible apply Keeps.next
    | with_reducible refine Kept.foldl (fun _ _ _ => ?_) _ ?_
    | (extract_lets)
    | (intro _ _)

theorem execRetentionTick_keeps {s0 s : State} (h : Kept s0 s) : Keeps s0 (execRetentionTick s) := by
  unfold execRetentionTick
  repeat' first
    | with_reducible assumption
    | with_reducible apply markWear_kept
    | with_reducible apply ageSlice_kept
    | with_reducible apply Keeps.next
    | with_reducible refine Kept.foldl (fun _ _ _ => ?_) _ ?_

theorem execTrimPeriod_keeps {s0 s : State} (a1) (h : Kept s0 s) : Keeps s0 (execTrimPeriod a1 s) := by
  unfold execTrimPeriod
  repeat' first
    | with_reducible assumption
    | with_reducible apply onCal_kept
    | with_reducible apply settleTrims_kept
    | with_reducible apply tempPairs_kept
    | with_reducible apply retarget_kept
    | with_reducible apply discardOut_kept
    | with_reducible apply Keeps.next
    | with_reducible apply Keeps.ite

theorem execConverterMeasure_keeps {s0 s : State} (a1) (a2) (a3) (a4) (a5) (h :
    Kept s0 s) : Keeps s0 (execConverterMeasure a1 a2 a3 a4 a5 s) := by
  unfold execConverterMeasure
  repeat' first
    | with_reducible assumption
    | with_reducible apply onCal_kept
    | with_reducible apply judgeConv_kept
    | with_reducible apply Keeps.next
    | with_reducible apply Keeps.ite

theorem execReferenceScan_keeps {s0 s : State} (a1) (a2) (a3) (h : Kept s0 s) : Keeps s0 (execReferenceScan a1 a2 a3 s) := by
  unfold execReferenceScan
  repeat' first
    | with_reducible assumption
    | with_reducible apply onCal_kept
    | with_reducible apply holdAll_kept
    | with_reducible apply onFab_kept
    | with_reducible apply Kept.ite
    | with_reducible apply Keeps.next
    | with_reducible apply Keeps.ite

theorem execCalRunComplete_keeps {s0 s : State} (h : Kept s0 s) : Keeps s0 (execCalRunComplete s) := by
  unfold execCalRunComplete
  repeat' first
    | with_reducible assumption
    | with_reducible apply onCal_kept
    | with_reducible apply Keeps.next
    | with_reducible apply Keeps.ite

theorem execImgBegin_keeps {s0 s : State} (a1) (a2) (a3) (a4) (a5) (h : Kept s0 s) : Keeps s0 (execImgBegin a1 a2 a3 a4 a5 s) := by
  unfold execImgBegin
  repeat' first
    | with_reducible assumption
    | with_reducible apply gated_kept
    | with_reducible apply answer_kept
    | with_reducible apply answerCode_kept
    | with_reducible apply loadBegin_kept
    | with_reducible apply Kept.ite
    | with_reducible apply Keeps.next

theorem execImgData_keeps {s0 s : State} (a1) (a2) (a3) (h : Kept s0 s) : Keeps s0 (execImgData a1 a2 a3 s) := by
  unfold execImgData
  repeat' first
    | with_reducible assumption
    | with_reducible apply gated_kept
    | with_reducible apply answerCode_kept
    | with_reducible apply onLoad_kept
    | with_reducible apply dramStore_kept
    | with_reducible apply Kept.ite
    | with_reducible apply Keeps.next

theorem execImageVerify_keeps {s0 s : State} (h : Kept s0 s) : Keeps s0 (execImageVerify s) := by
  unfold execImageVerify
  repeat' first
    | with_reducible assumption
    | with_reducible apply loadEnd_kept
    | with_reducible apply plcOp_kept
    | with_reducible apply loadReady_kept
    | with_reducible apply onLoad_kept
    | (with_reducible refine KeptIf.get (cgStart_kept _ ?_) (by assumption))
    | with_reducible apply Keeps.next
    | with_reducible apply Keeps.ite
    | (extract_lets)
    | split

theorem execDrainComplete_keeps {s0 s : State} (h : Kept s0 s) : Keeps s0 (execDrainComplete s) := by
  unfold execDrainComplete
  repeat' first
    | with_reducible assumption
    | with_reducible apply loadReady_kept
    | with_reducible apply Keeps.next

theorem execDrainTimeout_keeps {s0 s : State} (h : Kept s0 s) : Keeps s0 (execDrainTimeout s) := by
  unfold execDrainTimeout
  repeat' first
    | with_reducible assumption
    | with_reducible apply loadEnd_kept
    | with_reducible apply Keeps.next
    | with_reducible apply Keeps.ite

theorem execCancel_keeps {s0 s : State} (a1) (a2) (a3) (a4) (h : Kept s0 s) : Keeps s0 (execCancel a1 a2 a3 a4 s) := by
  unfold execCancel
  repeat' first
    | with_reducible assumption
    | with_reducible apply cancelTake_kept
    | with_reducible apply answerCode_kept
    | with_reducible apply Keeps.next
    | with_reducible apply Keeps.ite

theorem execPageHome_keeps {s0 s : State} (a1) (h : Kept s0 s) : Keeps s0 (execPageHome a1 s) := by
  unfold execPageHome
  repeat' first
    | with_reducible assumption
    | with_reducible apply streamFault_kept
    | with_reducible apply zeroHomes_kept
    | (with_reducible refine KeptIf.get (planHomes_kept _ _ _ _ _ ?_) (by assumption))
    | (with_reducible refine KeptIf.get (cgStart_kept _ ?_) (by assumption))
    | with_reducible apply Keeps.next
    | with_reducible apply Keeps.ite
    | (extract_lets)
    | split

theorem execMigrate_keeps {s0 s : State} (a1) (a2) (h : Kept s0 s) : Keeps s0 (execMigrate a1 a2 s) := by
  unfold execMigrate
  repeat' first
    | with_reducible assumption
    | with_reducible apply taskFail_kept
    | with_reducible apply copyPages_kept
    | with_reducible apply zeroHomes_kept
    | with_reducible apply engEdit_kept
    | (with_reducible refine Kept.pair (taskRead_kept _ _ ?_) (by assumption))
    | (with_reducible refine KeptIf.get (planHomes_kept _ _ _ _ _ ?_) (by assumption))
    | (with_reducible refine KeptIf.get (cgStart_kept _ ?_) (by assumption))
    | with_reducible apply Keeps.next
    | with_reducible apply Keeps.ite
    | (extract_lets)
    | split

theorem execSubmit_keeps {s0 s : State} (a1) (a2) (a3) (a4) (h : Kept s0 s) : Keeps s0 (execSubmit a1 a2 a3 a4 s) := by
  unfold execSubmit
  repeat' first
    | with_reducible assumption
    | with_reducible apply gated_kept
    | with_reducible apply answerCode_kept
    | with_reducible apply tenantViol_kept
    | with_reducible apply dramStore_kept
    | with_reducible apply engUpd_kept
    | with_reducible apply tailPut_kept
    | with_reducible apply Kept.ite
    | with_reducible apply Keeps.next
    | with_reducible refine Kept.foldl (fun _ _ _ => ?_) _ ?_

theorem execSqEnable_keeps {s0 s : State} (a1) (a2) (a3) (h : Kept s0 s) : Keeps s0 (execSqEnable a1 a2 a3 s) := by
  unfold execSqEnable
  repeat' first
    | with_reducible assumption
    | with_reducible apply sqCfgPut_kept
    | with_reducible apply Keeps.next

theorem execRequestIntake_keeps {s0 s : State} (a1) (h : Kept s0 s) : Keeps s0 (execRequestIntake a1 s) := by
  unfold execRequestIntake
  extract_lets e order pick
  clear_value pick
  split
  · exact Keeps.next h
  repeat' first
    | with_reducible assumption
    | with_reducible apply engUpd_kept
    | with_reducible apply takeRequest_kept
    | with_reducible apply Keeps.next
    | split

theorem execSample_keeps {s0 s : State} (a1) (a2) (h : Kept s0 s) : Keeps s0 (execSample a1 a2 s) := by
  unfold execSample
  repeat' first
    | with_reducible assumption
    | with_reducible apply taskDone_kept
    | with_reducible apply ctxUpd_kept
    | with_reducible apply blockCopy_kept
    | with_reducible apply taskFail_kept
    | with_reducible apply tenantViol_kept
    | (with_reducible refine Kept.pair (taskRead_kept _ _ ?_) (by assumption))
    | with_reducible apply Kept.ite
    | with_reducible apply Keeps.next
    | with_reducible apply Keeps.ite
    | (extract_lets)
    | split

theorem execEmit_keeps {s0 s : State} (a1) (a2) (h : Kept s0 s) : Keeps s0 (execEmit a1 a2 s) := by
  unfold execEmit
  repeat' first
    | with_reducible assumption
    | with_reducible apply taskDone_kept
    | with_reducible apply ctxUpd_kept
    | with_reducible apply streamClose_kept
    | (with_reducible refine Kept.pair (taskRead_kept _ _ ?_) (by assumption))
    | with_reducible apply Keeps.next
    | with_reducible apply Keeps.ite
    | (extract_lets)
    | split

theorem execAdapterLoad_keeps {s0 s : State} (a1) (a2) (h : Kept s0 s) : Keeps s0 (execAdapterLoad a1 a2 s) := by
  unfold execAdapterLoad
  repeat' first
    | with_reducible assumption
    | with_reducible apply taskFail_kept
    | with_reducible apply tenantViol_kept
    | with_reducible apply taskDone_kept
    | with_reducible apply adFree_kept
    | with_reducible apply ctxUpd_kept
    | with_reducible apply cgWhole_kept
    | with_reducible apply adPut_kept
    | with_reducible apply engEdit_kept
    | with_reducible apply adFail_kept
    | with_reducible apply adReady_kept
    | (with_reducible refine Kept.pair (taskRead_kept _ _ ?_) (by assumption))
    | (with_reducible refine KeptIf.get (cacheTake_kept _ _ _ ?_) (by assumption))
    | with_reducible apply Keeps.next
    | with_reducible apply Keeps.ite
    | with_reducible refine Kept.foldl (fun _ _ _ => ?_) _ ?_
    | (extract_lets)
    | split

theorem execAdmitTask_keeps {s0 s : State} (a1) (a2) (h : Kept s0 s) : Keeps s0 (execAdmitTask a1 a2 s) := by
  unfold execAdmitTask
  repeat' first
    | with_reducible assumption
    | with_reducible apply admitGo_kept
    | with_reducible apply taskFail_kept
    | with_reducible apply ctxUpd_kept
    | with_reducible apply engEdit_kept
    | with_reducible apply tenantViol_kept
    | (with_reducible refine Kept.pair (taskRead_kept _ _ ?_) (by assumption))
    | with_reducible apply Kept.ite
    | with_reducible apply Keeps.next
    | with_reducible apply Keeps.ite
    | (extract_lets)
    | split

theorem execPrefill_keeps {s0 s : State} (a1) (a2) (h : Kept s0 s) : Keeps s0 (execPrefill a1 a2 s) := by
  unfold execPrefill
  repeat' first
    | with_reducible assumption
    | with_reducible apply laneReady_kept
    | with_reducible apply Keeps.next

theorem execDecode_keeps {s0 s : State} (a1) (a2) (h : Kept s0 s) : Keeps s0 (execDecode a1 a2 s) := by
  unfold execDecode
  repeat' first
    | with_reducible assumption
    | with_reducible apply laneReady_kept
    | with_reducible apply Keeps.next

theorem execReplay_keeps {s0 s : State} (a1) (a2) (h : Kept s0 s) : Keeps s0 (execReplay a1 a2 s) := by
  unfold execReplay
  repeat' first
    | with_reducible assumption
    | with_reducible apply laneReady_kept
    | with_reducible apply Keeps.next

theorem execReadyNotice_keeps {s0 s : State} (a1) (h : Kept s0 s) : Keeps s0 (execReadyNotice a1 s) := by
  unfold execReadyNotice
  repeat' first
    | with_reducible assumption
    | with_reducible apply engUpd_kept
    | with_reducible apply pipeUpd_kept
    | with_reducible apply Keeps.next
    | split

theorem execTmapWrite_keeps {s0 s : State} (a1) (a2) (a3) (a4) (h : Kept s0 s) : Keeps s0 (execTmapWrite a1 a2 a3 a4 s) := by
  unfold execTmapWrite
  repeat' first
    | with_reducible assumption
    | with_reducible apply tmapPut_kept
    | with_reducible apply Keeps.next

theorem execDispatchDecision_keeps {s0 s : State} (a1) (h : Kept s0 s) : Keeps s0 (execDispatchDecision a1 s) := by
  unfold execDispatchDecision
  repeat' first
    | with_reducible assumption
    | with_reducible apply decide1_kept
    | with_reducible apply Keeps.next
    | with_reducible apply Keeps.ite
    | (extract_lets)
    | split

theorem execSamplingDelivery_keeps {s0 s : State} (a1) (a2) (h : Kept s0 s) : Keeps s0 (execSamplingDelivery a1 a2 s) := by
  unfold execSamplingDelivery
  repeat' first
    | with_reducible assumption
    | with_reducible apply rimPush_kept
    | with_reducible apply dramReads_kept
    | with_reducible apply ctxUpd_kept
    | with_reducible apply Keeps.next
    | (extract_lets)
    | split

theorem execStepResult_keeps {s0 s : State} (a1) (h : Kept s0 s) : Keeps s0 (execStepResult a1 s) := by
  unfold execStepResult
  repeat' first
    | with_reducible assumption
    | with_reducible apply ctxUpd_kept
    | with_reducible apply Keeps.next
    | (extract_lets)
    | split

theorem execClosingCommit_keeps {s0 s : State} (a1) (h : Kept s0 s) : Keeps s0 (execClosingCommit a1 s) := by
  unfold execClosingCommit
  repeat' first
    | with_reducible assumption
    | with_reducible apply ctxUpd_kept
    | (with_reducible refine KeptIf.get (cgStart_kept _ ?_) (by assumption))
    | with_reducible apply Keeps.next
    | with_reducible apply Keeps.ite
    | (extract_lets)
    | split

theorem execRingRecordWrite_keeps {s0 s : State} (a1) (h : Kept s0 s) : Keeps s0 (execRingRecordWrite a1 s) := by
  unfold execRingRecordWrite
  repeat' first
    | with_reducible assumption
    | with_reducible apply ctxFinish_kept
    | with_reducible apply ctxUpd_kept
    | with_reducible apply recSend_kept
    | with_reducible apply Keeps.next
    | with_reducible apply Keeps.ite
    | (extract_lets)
    | split

theorem execBatchTimeout_keeps {s0 s : State} (a1) (h : Kept s0 s) : Keeps s0 (execBatchTimeout a1 s) := by
  unfold execBatchTimeout
  repeat' first
    | with_reducible assumption
    | with_reducible apply ctxPut_kept
    | with_reducible apply Keeps.next
    | with_reducible apply Keeps.ite

theorem execRcredit_keeps {s0 s : State} (a1) (a2) (h : Kept s0 s) : Keeps s0 (execRcredit a1 a2 s) := by
  unfold execRcredit
  repeat' first
    | with_reducible assumption
    | with_reducible apply gated_kept
    | with_reducible apply answerCode_kept
    | with_reducible apply tenantViol_kept
    | with_reducible apply ctxPut_kept
    | with_reducible apply Kept.ite
    | with_reducible apply Keeps.next

theorem execAcquire_keeps {s0 s : State} (a1) (a2) (a3) (h : Kept s0 s) : Keeps s0 (execAcquire a1 a2 a3 s) := by
  unfold execAcquire
  repeat' first
    | with_reducible assumption
    | with_reducible apply lockOp_kept
    | with_reducible apply Keeps.next

theorem execRelease_keeps {s0 s : State} (a1) (a2) (a3) (h : Kept s0 s) : Keeps s0 (execRelease a1 a2 a3 s) := by
  unfold execRelease
  repeat' first
    | with_reducible assumption
    | with_reducible apply lockOp_kept
    | with_reducible apply Keeps.next

theorem execFetch_keeps {s0 s : State} (a1) (a2) (h : Kept s0 s) : Keeps s0 (execFetch a1 a2 s) := by
  unfold execFetch
  repeat' first
    | with_reducible assumption
    | with_reducible apply rimPush_kept
    | with_reducible apply tenantViol_kept
    | with_reducible apply dramReads_kept
    | with_reducible apply Keeps.next
    | with_reducible apply Keeps.ite
    | with_reducible refine Kept.foldl_snd (fun _ _ _ => ?_) _ ?_
    | (dsimp -zeta only)
    | (extract_lets)
    | split

theorem execDramAppend_keeps {s0 s : State} (a1) (a2) (a3) (a4) (a5) (h : Kept s0 s) : Keeps s0 (execDramAppend a1 a2 a3 a4 a5 s) := by
  unfold execDramAppend
  repeat' first
    | with_reducible assumption
    | with_reducible apply tenantViol_kept
    | with_reducible apply dramMask_kept
    | with_reducible apply Keeps.next
    | with_reducible apply Keeps.ite
    | with_reducible refine Kept.foldl (fun _ _ _ => ?_) _ ?_

theorem execScrub_keeps {s0 s : State} (a1) (h : Kept s0 s) : Keeps s0 (execScrub a1 s) := by
  unfold execScrub
  repeat' first
    | with_reducible assumption
    | with_reducible apply dramRead_kept
    | with_reducible apply Keeps.next
    | with_reducible apply Keeps.ite
    | with_reducible refine Kept.foldl (fun _ _ _ => ?_) _ ?_

theorem execExtentTableWrite_keeps {s0 s : State} (a1) (a2) (a3) (h : Kept s0 s) : Keeps s0 (execExtentTableWrite a1 a2 a3 s) := by
  unfold execExtentTableWrite
  repeat' first
    | with_reducible assumption
    | with_reducible apply extentPut_kept
    | with_reducible apply Keeps.next

theorem execPipeEnable_keeps {s0 s : State} (a1) (a2) (a3) (h : Kept s0 s) : Keeps s0 (execPipeEnable a1 a2 a3 s) := by
  unfold execPipeEnable
  repeat' first
    | with_reducible assumption
    | with_reducible apply pipeCfgPut_kept
    | with_reducible apply Keeps.next

theorem execBulkPass_keeps {s0 s : State} (a1) (h : Kept s0 s) : Keeps s0 (execBulkPass a1 s) := by
  unfold execBulkPass
  repeat' first
    | with_reducible assumption
    | with_reducible apply mdPut_kept
    | with_reducible apply Keeps.next
    | with_reducible apply Keeps.ite
    | (extract_lets)
    | split

theorem execParcelDelivery_keeps {s0 s : State} (a1) (a2) (h : Kept s0 s) : Keeps s0 (execParcelDelivery a1 a2 s) := by
  unfold execParcelDelivery
  repeat' first
    | with_reducible assumption
    | with_reducible apply itemRead_kept
    | with_reducible apply rimPush_kept
    | with_reducible apply Keeps.next
    | with_reducible refine Kept.foldl_snd (fun _ _ _ => ?_) _ ?_
    | (extract_lets)
    | split

theorem execDustSheet_keeps {s0 s : State} (a1) (h : Kept s0 s) : Keeps s0 (execDustSheet a1 s) := by
  unfold execDustSheet
  repeat' first
    | with_reducible assumption
    | with_reducible apply cgTry_kept
    | with_reducible apply lathSend_kept
    | with_reducible apply Keeps.next
    | with_reducible apply Keeps.ite

theorem execResidentStoreRestore_keeps {s0 s : State} (a1) (h : Kept s0 s) : Keeps s0 (execResidentStoreRestore a1 s) := by
  unfold execResidentStoreRestore
  repeat' first
    | with_reducible assumption
    | with_reducible apply restoreSite_kept
    | with_reducible apply Keeps.next

theorem execTileReset_keeps {s0 s : State} (a1) (a2) (h : Kept s0 s) : Keeps s0 (execTileReset a1 a2 s) := by
  unfold execTileReset
  repeat' first
    | with_reducible assumption
    | with_reducible apply tileResetNow_kept
    | with_reducible apply lathDone_kept
    | with_reducible apply Keeps.next

theorem execRehome_keeps {s0 s : State} (a1) (a2) (h : Kept s0 s) : Keeps s0 (execRehome a1 a2 s) := by
  unfold execRehome
  repeat' first
    | with_reducible assumption
    | with_reducible apply rehomeSite_kept
    | with_reducible apply Keeps.next

theorem execCourseMove_keeps {s0 s : State} (a1) (h : Kept s0 s) : Keeps s0 (execCourseMove a1 s) := by
  unfold execCourseMove
  repeat' first
    | with_reducible assumption
    | with_reducible apply moveCourse_kept
    | with_reducible apply Keeps.next

theorem execHbMiss_keeps {s0 s : State} (a1) (h : Kept s0 s) : Keeps s0 (execHbMiss a1 s) := by
  unfold execHbMiss
  repeat' first
    | with_reducible assumption
    | with_reducible apply sendTileReset_kept
    | with_reducible apply holdAll_kept
    | with_reducible apply Keeps.next
    | with_reducible apply Keeps.ite

theorem execTileResetTimeout_keeps {s0 s : State} (a1) (h : Kept s0 s) : Keeps s0 (execTileResetTimeout a1 s) := by
  unfold execTileResetTimeout
  repeat' first
    | with_reducible assumption
    | with_reducible apply onLath_kept
    | with_reducible apply endAll_kept
    | with_reducible apply tileFailed_kept
    | with_reducible apply Keeps.next
    | with_reducible apply Keeps.ite

theorem execHubPromotion_keeps {s0 s : State} (a1) (h : Kept s0 s) : Keeps s0 (execHubPromotion a1 s) := by
  unfold execHubPromotion
  repeat' first
    | with_reducible assumption
    | with_reducible apply onLath_kept
    | with_reducible apply sendTileReset_kept
    | with_reducible apply holdAll_kept
    | with_reducible apply Keeps.next
    | with_reducible apply Keeps.ite

theorem execFrameReceive_keeps {s0 s : State} (a1) (a2) (a3) (a4) (a5) (a6) (a7) (h :
    Kept s0 s) : Keeps s0 (execFrameReceive a1 a2 a3 a4 a5 a6 a7 s) := by
  unfold execFrameReceive
  repeat' first
    | with_reducible assumption
    | with_reducible apply portUpd_kept
    | with_reducible apply linkPut_kept
    | with_reducible apply answerCode_kept
    | with_reducible apply Kept.ite
    | with_reducible apply Keeps.next
    | with_reducible apply Keeps.ite
    | (extract_lets)
    | split

theorem execModeApply_keeps {s0 s : State} (a1) (a2) (h : Kept s0 s) : Keeps s0 (execModeApply a1 a2 s) := by
  unfold execModeApply
  repeat' first
    | with_reducible assumption
    | with_reducible apply modeApply_kept
    | with_reducible apply Keeps.next

theorem execModeChangeComplete_keeps {s0 s : State} (a1) (a2) (a3) (h : Kept s0 s) : Keeps s0 (execModeChangeComplete a1 a2 a3 s) := by
  unfold execModeChangeComplete
  repeat' first
    | with_reducible assumption
    | with_reducible apply portUpd_kept
    | with_reducible apply Keeps.next
    | with_reducible apply Keeps.ite

theorem execSubportDown_keeps {s0 s : State} (a1) (a2) (h : Kept s0 s) : Keeps s0 (execSubportDown a1 a2 s) := by
  unfold execSubportDown
  repeat' first
    | with_reducible assumption
    | with_reducible apply portsDown_kept
    | with_reducible apply Keeps.next

theorem execSubportUp_keeps {s0 s : State} (a1) (a2) (h : Kept s0 s) : Keeps s0 (execSubportUp a1 a2 s) := by
  unfold execSubportUp
  repeat' first
    | with_reducible assumption
    | with_reducible apply portUpd_kept
    | with_reducible apply Keeps.next
    | with_reducible apply Keeps.ite

theorem execPauseFrame_keeps {s0 s : State} (a1) (a2) (a3) (a4) (h : Kept s0 s) : Keeps s0 (execPauseFrame a1 a2 a3 a4 s) := by
  unfold execPauseFrame
  repeat' first
    | with_reducible assumption
    | with_reducible apply portUpd_kept
    | with_reducible apply Keeps.next

theorem execEcnRateStep_keeps {s0 s : State} (a1) (h : Kept s0 s) : Keeps s0 (execEcnRateStep a1 s) := by
  unfold execEcnRateStep
  repeat' first
    | with_reducible assumption
    | with_reducible apply sessPut_kept
    | with_reducible apply Keeps.next
    | with_reducible apply Keeps.ite
    | split

theorem execCloseSession_keeps {s0 s : State} (a1) (h : Kept s0 s) : Keeps s0 (execCloseSession a1 s) := by
  unfold execCloseSession
  repeat' first
    | with_reducible assumption
    | with_reducible apply sessClose_kept
    | with_reducible apply Keeps.next

theorem execSessionTimeout_keeps {s0 s : State} (a1) (h : Kept s0 s) : Keeps s0 (execSessionTimeout a1 s) := by
  unfold execSessionTimeout
  repeat' first
    | with_reducible assumption
    | with_reducible apply linkUpd_kept
    | with_reducible apply sessClose_kept
    | with_reducible apply Keeps.next
    | with_reducible apply Keeps.ite
    | split

theorem execKlpHeartbeat_keeps {s0 s : State} (a1) (h : Kept s0 s) : Keeps s0 (execKlpHeartbeat a1 s) := by
  unfold execKlpHeartbeat
  repeat' first
    | with_reducible assumption
    | with_reducible apply sessUpd_kept
    | with_reducible apply Keeps.next

theorem execKlpHeartbeatSend_keeps {s0 s : State} (a1) (h : Kept s0 s) : Keeps s0 (execKlpHeartbeatSend a1 s) := by
  unfold execKlpHeartbeatSend
  repeat' first
    | with_reducible assumption
    | with_reducible apply psnEnd_kept
    | with_reducible apply sessUpd_kept
    | with_reducible apply klpSend_kept
    | with_reducible apply Keeps.next

theorem execAck_keeps {s0 s : State} (a1) (a2) (a3) (a4) (h : Kept s0 s) : Keeps s0 (execAck a1 a2 a3 a4 s) := by
  unfold execAck
  repeat' first
    | with_reducible assumption
    | with_reducible apply sessUpd_kept
    | with_reducible apply Keeps.next

theorem execNak_keeps {s0 s : State} (a1) (a2) (a3) (h : Kept s0 s) : Keeps s0 (execNak a1 a2 a3 s) := by
  unfold execNak
  repeat' first
    | with_reducible assumption
    | with_reducible apply retxRound_kept
    | with_reducible apply sessUpd_kept
    | with_reducible apply Keeps.next

theorem execRetransmitTimeout_keeps {s0 s : State} (a1) (a2) (h : Kept s0 s) : Keeps s0 (execRetransmitTimeout a1 a2 s) := by
  unfold execRetransmitTimeout
  repeat' first
    | with_reducible assumption
    | with_reducible apply retxRound_kept
    | with_reducible apply Keeps.next

theorem execKlpPacketReceive_keeps {s0 s : State} (a1) (a2) (h : Kept s0 s) : Keeps s0 (execKlpPacketReceive a1 a2 s) := by
  unfold execKlpPacketReceive
  repeat' first
    | with_reducible assumption
    | (rw [State.over_eq]; with_reducible refine Kept.over ?_ id rfl rfl rfl rfl rfl)
    | with_reducible apply linkUpd_kept
    | with_reducible apply sessPut_kept
    | with_reducible apply retxRound_kept
    | with_reducible apply answer_kept
    | with_reducible apply distCpl_kept
    | with_reducible apply psnEnd_kept
    | with_reducible apply Kept.ite
    | with_reducible apply Keeps.next
    | with_reducible apply Keeps.ite
    | (extract_lets)
    | split

theorem execOpenSession_keeps {s0 s : State} (a1) (a2) (a3) (h : Kept s0 s) : Keeps s0 (execOpenSession a1 a2 a3 s) := by
  unfold execOpenSession
  repeat' first
    | with_reducible assumption
    | with_reducible apply answerCode_kept
    | with_reducible apply sessClose_kept
    | with_reducible apply answer_kept
    | with_reducible apply sessOpened_kept
    | with_reducible apply Kept.ite
    | with_reducible apply Keeps.next
    | with_reducible refine Kept.foldl (fun _ _ _ => ?_) _ ?_
    | (extract_lets)
    | split

theorem execWrite_keeps {s0 s : State} (a1) (a2) (a3) (h : Kept s0 s) : Keeps s0 (execWrite a1 a2 a3 s) := by
  unfold execWrite
  repeat' first
    | with_reducible assumption
    | with_reducible apply gated_kept
    | with_reducible apply dramViol_kept
    | with_reducible apply answerCode_kept
    | with_reducible apply dramWrites_kept
    | with_reducible apply Keeps.next

theorem execRead_keeps {s0 s : State} (a1) (a2) (a3) (h : Kept s0 s) : Keeps s0 (execRead a1 a2 a3 s) := by
  unfold execRead
  repeat' first
    | with_reducible assumption
    | with_reducible apply gated_kept
    | with_reducible apply dramViol_kept
    | with_reducible apply dramReads_kept
    | with_reducible apply answer_kept
    | with_reducible apply Keeps.next

theorem execHistWr_keeps {s0 s : State} (a1) (a2) (a3) (h : Kept s0 s) : Keeps s0 (execHistWr a1 a2 a3 s) := by
  unfold execHistWr
  repeat' first
    | with_reducible assumption
    | with_reducible apply gated_kept
    | with_reducible apply histViol_kept
    | with_reducible apply answerCode_kept
    | with_reducible apply dramStore_kept
    | with_reducible apply Keeps.next

theorem execHistRd_keeps {s0 s : State} (a1) (a2) (a3) (h : Kept s0 s) : Keeps s0 (execHistRd a1 a2 a3 s) := by
  unfold execHistRd
  repeat' first
    | with_reducible assumption
    | with_reducible apply gated_kept
    | with_reducible apply histViol_kept
    | with_reducible apply dramReads_kept
    | with_reducible apply answer_kept
    | with_reducible apply Keeps.next

theorem execLand_keeps {s0 s : State} (a1) (a2) (a3) (h : Kept s0 s) : Keeps s0 (execLand a1 a2 a3 s) := by
  unfold execLand
  repeat' first
    | with_reducible assumption
    | with_reducible apply answerCode_kept
    | with_reducible apply landEntry_kept
    | with_reducible apply Keeps.next
    | with_reducible apply Keeps.ite
    | with_reducible refine Kept.foldl (fun _ _ _ => ?_) _ ?_
    | (extract_lets)
    | split

theorem execSpanSend_keeps {s0 s : State} (a1) (h : Kept s0 s) : Keeps s0 (execSpanSend a1 s) := by
  unfold execSpanSend
  repeat' first
    | with_reducible assumption
    | with_reducible apply linkPut_kept
    | with_reducible apply klpSend_kept
    | with_reducible apply Keeps.next
    | with_reducible refine Kept.foldl (fun _ _ _ => ?_) _ ?_
    | (extract_lets)
    | split

theorem execPtpMessage_keeps {s0 s : State} (a1) (a2) (a3) (a4) (a5) (a6) (a7) (h :
    Kept s0 s) : Keeps s0 (execPtpMessage a1 a2 a3 a4 a5 a6 a7 s) := by
  unfold execPtpMessage
  repeat' first
    | with_reducible assumption
    | with_reducible apply linkPut_kept
    | with_reducible apply timeShift_kept
    | with_reducible apply Kept.ite
    | with_reducible apply Keeps.next
    | with_reducible apply Keeps.ite

theorem execProbeSetInstall_keeps {s0 s : State} (a1) (h : Kept s0 s) : Keeps s0 (execProbeSetInstall a1 s) := by
  unfold execProbeSetInstall
  repeat' first
    | with_reducible assumption
    | with_reducible apply probeForward_kept
    | with_reducible apply answerCode_kept
    | with_reducible apply probeInstall_kept
    | with_reducible apply Keeps.next
    | (extract_lets)
    | split

theorem execProbeSlot_keeps {s0 s : State} (a1) (h : Kept s0 s) : Keeps s0 (execProbeSlot a1 s) := by
  unfold execProbeSlot
  repeat' first
    | with_reducible assumption
    | with_reducible apply tileDo_kept
    | with_reducible apply Keeps.next
    | with_reducible apply Keeps.ite

theorem execProbeMismatch_keeps {s0 s : State} (a1) (h : Kept s0 s) : Keeps s0 (execProbeMismatch a1 s) := by
  unfold execProbeMismatch
  repeat' first
    | with_reducible assumption
    | with_reducible apply tilePut_kept
    | with_reducible apply onFlt_kept
    | with_reducible apply probeCharge_kept
    | with_reducible apply Kept.ite
    | with_reducible apply Keeps.next
    | with_reducible apply Keeps.ite
    | with_reducible refine Kept.foldl (fun _ _ _ => ?_) _ ?_
    | (extract_lets)
    | split

theorem execMember_keeps {s0 s : State} (a1) (a2) (a3) (h : Kept s0 s) : Keeps s0 (execMember a1 a2 a3 s) := by
  unfold execMember
  repeat' first
    | with_reducible assumption
    | (rw [State.over_eq]; with_reducible refine Kept.over ?_ id rfl rfl rfl rfl rfl)
    | with_reducible apply gated_kept
    | with_reducible apply answerCode_kept
    | with_reducible refine onPod_kept _ (fun _ _ => ?_) ?_
    | with_reducible apply Kept.ite
    | with_reducible apply Keeps.next
    | (dsimp -zeta only)
    | (extract_lets)
    | split
    | (show (_ : Nat) ≤ _; first | assumption | decide)

theorem execEpochSet_keeps {s0 s : State} (a1) (a2) (h : Kept s0 s) : Keeps s0 (execEpochSet a1 a2 s) := by
  unfold execEpochSet
  repeat' first
    | with_reducible assumption
    | with_reducible apply gated_kept
    | with_reducible apply answerCode_kept
    | with_reducible apply epochSched_kept
    | with_reducible apply Keeps.next

theorem execSync_keeps {s0 s : State} (a1) (a2) (a3) (a4) (h : Kept s0 s) : Keeps s0 (execSync a1 a2 a3 a4 s) := by
  unfold execSync
  repeat' first
    | with_reducible assumption
    | with_reducible apply gated_kept
    | with_reducible apply answerCode_kept
    | with_reducible refine onPod_kept _ (fun _ _ => ?_) ?_
    | with_reducible apply Kept.ite
    | with_reducible apply Keeps.next

theorem execSyncSend_keeps {s0 s : State} (h : Kept s0 s) : Keeps s0 (execSyncSend s) := by
  unfold execSyncSend
  repeat' first
    | with_reducible assumption
    | with_reducible apply hawkInterval_kept
    | with_reducible apply Keeps.next

theorem execTakeover_keeps {s0 s : State} (a1) (a2) (h : Kept s0 s) : Keeps s0 (execTakeover a1 a2 s) := by
  unfold execTakeover
  split
  · exact Keeps.next (answerCode_kept _ h)
  extract_lets e s1 s2 s3
  split
  · exact Keeps.next (answerCode_kept _ h)
  split
  · exact Keeps.next (answerCode_kept _ h)
  split
  · exact Keeps.next (answerCode_kept _ h)
  repeat' first
    | with_reducible assumption
    | with_reducible apply answerCode_kept
    | with_reducible apply sessClose_kept
    | with_reducible apply sessUpd_kept
    | with_reducible apply epochSched_kept
    | with_reducible refine onPod_kept _ (fun _ _ => ?_) ?_
    | with_reducible apply Kept.ite
    | with_reducible apply Keeps.next
    | (dsimp -zeta only)
    | (extract_lets)
    | split
    | (show (_ : Nat) ≤ _; first | assumption | decide)
    | (dsimp -zeta only [s1])

theorem execProvisionalSessionTimeout_keeps {s0 s : State} (a1) (h : Kept s0 s) : Keeps s0 (execProvisionalSessionTimeout a1 s) := by
  unfold execProvisionalSessionTimeout
  repeat' first
    | with_reducible assumption
    | with_reducible apply sessClose_kept
    | with_reducible apply Kept.ite
    | with_reducible apply Keeps.next
    | split

theorem execOrphanTimeout_keeps {s0 s : State} (h : Kept s0 s) : Keeps s0 (execOrphanTimeout s) := by
  unfold execOrphanTimeout
  repeat' first
    | with_reducible assumption
    | with_reducible refine onPod_kept _ (fun _ _ => ?_) ?_
    | with_reducible apply Kept.ite
    | with_reducible apply Keeps.next
    | (dsimp -zeta only)
    | (show (_ : Nat) ≤ _; first | assumption | decide)

theorem execStandbyTakeover_keeps {s0 s : State} (a1) (h : Kept s0 s) : Keeps s0 (execStandbyTakeover a1 s) := by
  unfold execStandbyTakeover
  extract_lets able
  split
  · exact Keeps.next h
  split
  · exact Keeps.next h
  extract_lets e me tab s1 f s2
  repeat' first
    | with_reducible assumption
    | (rw [State.over_eq]; with_reducible refine Kept.over ?_ id rfl rfl rfl rfl rfl)
    | with_reducible apply klpSend_kept
    | with_reducible apply memberPut_kept
    | with_reducible refine onPod_kept _ (fun _ _ => ?_) ?_
    | with_reducible apply Kept.ite
    | with_reducible apply Keeps.next
    | with_reducible refine Kept.foldl (fun _ _ _ => ?_) _ ?_
    | (dsimp -zeta only)
    | (extract_lets)
    | split
    | (show (_ : Nat) ≤ _; first | assumption | decide)
    | (with_reducible refine KeptIf.get (KeptIf.bind_any (fun _ => openOut_kept _ _ _ _ _ ?_)) (by assumption))

theorem execMemberLost_keeps {s0 s : State} (a1) (a2) (h : Kept s0 s) : Keeps s0 (execMemberLost a1 a2 s) := by
  unfold execMemberLost
  repeat' first
    | with_reducible assumption
    | with_reducible apply loseMember_kept
    | with_reducible apply Kept.ite
    | with_reducible apply Keeps.next

theorem execLeave_keeps {s0 s : State} (a1) (h : Kept s0 s) : Keeps s0 (execLeave a1 s) := by
  unfold execLeave
  repeat' first
    | with_reducible assumption
    | with_reducible apply gated_kept
    | with_reducible apply loseMember_kept
    | with_reducible apply sessClose_kept
    | with_reducible apply answerCode_kept
    | with_reducible refine onPod_kept _ (fun _ _ => ?_) ?_
    | with_reducible apply Kept.ite
    | with_reducible apply Keeps.next
    | (dsimp -zeta only)
    | (extract_lets)
    | split
    | (show (_ : Nat) ≤ _; first | assumption | decide)

theorem execSpanSet_keeps {s0 s : State} (a1) (a2) (a3) (a4) (h : Kept s0 s) : Keeps s0 (execSpanSet a1 a2 a3 a4 s) := by
  unfold execSpanSet
  repeat' first
    | with_reducible assumption
    | with_reducible apply gated_kept
    | with_reducible apply answerCode_kept
    | with_reducible apply openSpans_kept
    | with_reducible refine onPod_kept _ (fun _ _ => ?_) ?_
    | with_reducible apply Kept.ite
    | with_reducible apply Keeps.next

theorem execSpanDown_keeps {s0 s : State} (a1) (a2) (h : Kept s0 s) : Keeps s0 (execSpanDown a1 a2 s) := by
  unfold execSpanDown
  repeat' first
    | with_reducible assumption
    | with_reducible apply gated_kept
    | with_reducible apply answerCode_kept
    | with_reducible refine onPod_kept _ (fun _ _ => ?_) ?_
    | with_reducible apply Keeps.next
    | (extract_lets)
    | split

theorem execShardDistribution_keeps {s0 s : State} (a1) (h : Kept s0 s) : Keeps s0 (execShardDistribution a1 s) := by
  unfold execShardDistribution
  repeat' first
    | with_reducible assumption
    | (rw [State.over_eq]; with_reducible refine Kept.over ?_ id rfl rfl rfl rfl rfl)
    | with_reducible apply klpSend_kept
    | with_reducible apply distNext_kept
    | with_reducible refine onPod_kept _ (fun _ _ => ?_) ?_
    | with_reducible apply Keeps.next
    | with_reducible apply Keeps.ite
    | (extract_lets)
    | split

theorem execDistress_keeps {s0 s : State} (a1) (a2) (a3) (h : Kept s0 s) : Keeps s0 (execDistress a1 a2 a3 s) := by
  unfold execDistress
  repeat' first
    | with_reducible assumption
    | with_reducible apply gated_kept
    | with_reducible apply answerCode_kept
    | with_reducible refine onPod_kept _ (fun _ _ => ?_) ?_
    | with_reducible apply Keeps.next

theorem execProbePush_keeps {s0 s : State} (a1) (a2) (a3) (h : Kept s0 s) : Keeps s0 (execProbePush a1 a2 a3 s) := by
  unfold execProbePush
  repeat' first
    | with_reducible assumption
    | with_reducible apply gated_kept
    | with_reducible apply answerCode_kept
    | with_reducible apply probeForward_kept
    | with_reducible apply probeInstall_kept
    | with_reducible refine onPod_kept _ (fun _ _ => ?_) ?_
    | with_reducible apply Kept.ite
    | with_reducible apply Keeps.next
    | (extract_lets)
    | split

theorem execFreq_keeps {s0 s : State} (a1) (a2) (h : Kept s0 s) : Keeps s0 (execFreq a1 a2 s) := by
  unfold execFreq
  repeat' first
    | with_reducible assumption
    | with_reducible apply gated_kept
    | with_reducible apply answerCode_kept
    | with_reducible apply freqStep_kept
    | with_reducible apply kreqPut_kept
    | with_reducible apply Kept.ite
    | with_reducible apply Keeps.next

theorem execHistoryEvent_keeps {s0 s : State} (a1) (a2) (a3) (h : Kept s0 s) : Keeps s0 (execHistoryEvent a1 a2 a3 s) := by
  unfold execHistoryEvent
  repeat' first
    | with_reducible assumption
    | with_reducible apply chargeEvent_kept
    | with_reducible apply permAction_kept
    | with_reducible apply sigWrite_kept
    | with_reducible apply Keeps.next
    | with_reducible apply Keeps.ite
    | (extract_lets)
    | split

theorem execOptRecord_keeps {s0 s : State} (h : Kept s0 s) : Keeps s0 (execOptRecord s) := by
  unfold execOptRecord
  repeat' first
    | with_reducible assumption
    | with_reducible apply onHist_kept
    | with_reducible apply Keeps.next

theorem execRimSilent_keeps {s0 s : State} (a1) (h : Kept s0 s) : Keeps s0 (execRimSilent a1 s) := by
  unfold execRimSilent
  repeat' first
    | with_reducible assumption
    | with_reducible apply rimSilent_kept
    | with_reducible apply Keeps.next

theorem execDeputyWatchdog_keeps {s0 s : State} (a1) (a2) (h : Kept s0 s) : Keeps s0 (execDeputyWatchdog a1 a2 s) := by
  unfold execDeputyWatchdog
  repeat' first
    | with_reducible assumption
    | with_reducible apply streamFault_kept
    | with_reducible apply engUpd_kept
    | with_reducible apply onFlt_kept
    | with_reducible apply mdPut_kept
    | with_reducible apply klpSend_kept
    | with_reducible apply sieEvent_kept
    | with_reducible apply sigWrite_kept
    | with_reducible apply Keeps.next
    | with_reducible apply Keeps.ite
    | with_reducible refine Kept.foldl (fun _ _ _ => ?_) _ ?_
    | (extract_lets)
    | split

theorem execWarmReset_keeps {s0 s : State} (a1) (h : Kept s0 s) : Keeps s0 (execWarmReset a1 s) := by
  unfold execWarmReset
  repeat' first
    | with_reducible assumption
    | with_reducible apply warmReset_kept
    | with_reducible apply Keeps.next

theorem execFeedLoss_keeps {s0 s : State} (a1) (h : Kept s0 s) : Keeps s0 (execFeedLoss a1 s) := by
  unfold execFeedLoss
  repeat' first
    | with_reducible assumption
    | with_reducible apply feedPut_kept
    | with_reducible apply svcRpt_kept
    | with_reducible apply Kept.ite
    | with_reducible apply Keeps.next

theorem execFeedReturn_keeps {s0 s : State} (a1) (h : Kept s0 s) : Keeps s0 (execFeedReturn a1 s) := by
  unfold execFeedReturn
  repeat' first
    | with_reducible assumption
    | with_reducible apply feedPut_kept
    | with_reducible apply Keeps.next

theorem execSensorConversion_keeps {s0 s : State} (a1) (a2) (h : Kept s0 s) : Keeps s0 (execSensorConversion a1 a2 s) := by
  unfold execSensorConversion
  repeat' first
    | with_reducible assumption
    | with_reducible apply tilePut_kept
    | with_reducible apply zoneUpd_kept
    | with_reducible apply Kept.ite
    | with_reducible apply Keeps.next

theorem execZoneRegulation_keeps {s0 s : State} (a1) (h : Kept s0 s) : Keeps s0 (execZoneRegulation a1 s) := by
  unfold execZoneRegulation
  repeat' first
    | with_reducible assumption
    | with_reducible apply zoneUpd_kept
    | with_reducible apply Keeps.next
    | split

theorem execBond_keeps {s0 s : State} (a1) (h : Kept s0 s) : Keeps s0 (execBond a1 s) := by
  unfold execBond
  repeat' first
    | with_reducible assumption
    | with_reducible apply zoneUpd_kept
    | with_reducible apply tilePut_kept
    | with_reducible apply svcRpt_kept
    | with_reducible apply tileFailed_kept
    | with_reducible apply Keeps.next
    | with_reducible apply Keeps.ite

theorem execSupplyFault_keeps {s0 s : State} (a1) (a2) (a3) (h : Kept s0 s) : Keeps s0 (execSupplyFault a1 a2 a3 s) := by
  unfold execSupplyFault
  repeat' first
    | with_reducible assumption
    | with_reducible apply latchOff_kept
    | with_reducible apply svcRpt_kept
    | with_reducible apply rimSilent_kept
    | with_reducible refine onPwr_kept _ (fun _ _ => ?_) ?_
    | with_reducible apply Kept.ite
    | with_reducible apply Keeps.next
    | with_reducible apply Keeps.ite
    | (extract_lets)
    | split
    | (show (_ : Nat) ≤ _; first | assumption | decide)

theorem execSoftStartRetry_keeps {s0 s : State} (a1) (h : Kept s0 s) : Keeps s0 (execSoftStartRetry a1 s) := by
  unfold execSoftStartRetry
  repeat' first
    | with_reducible assumption
    | with_reducible apply latchOff_kept
    | with_reducible refine onPwr_kept _ (fun _ _ => ?_) ?_
    | with_reducible apply Kept.ite
    | with_reducible apply Keeps.next
    | with_reducible apply Keeps.ite

theorem execGovernorStep_keeps {s0 s : State} (a1) (h : Kept s0 s) : Keeps s0 (execGovernorStep a1 s) := by
  unfold execGovernorStep
  repeat' first
    | with_reducible assumption
    | with_reducible apply prePosition_kept
    | with_reducible apply govStep_kept
    | with_reducible refine onPwr_kept _ (fun _ _ => ?_) ?_
    | with_reducible apply Kept.ite
    | with_reducible apply Keeps.next
    | (extract_lets)
    | split
    | (show (_ : Nat) ≤ _; first | assumption | decide)

theorem execGaugeCheck_keeps {s0 s : State} (a1) (a2) (a3) (h : Kept s0 s) : Keeps s0 (execGaugeCheck a1 a2 a3 s) := by
  unfold execGaugeCheck
  repeat' first
    | with_reducible assumption
    | with_reducible apply svcRpt_kept
    | with_reducible refine onPwr_kept _ (fun _ _ => ?_) ?_
    | with_reducible apply Kept.ite
    | with_reducible apply Keeps.next

theorem execHoldupChargeTimeout_keeps {s0 s : State} (h : Kept s0 s) : Keeps s0 (execHoldupChargeTimeout s) := by
  unfold execHoldupChargeTimeout
  repeat' first
    | with_reducible assumption
    | with_reducible apply svcRpt_kept
    | with_reducible apply Kept.ite
    | with_reducible apply Keeps.next

theorem execPodAlignment_keeps {s0 s : State} (a1) (h : Kept s0 s) : Keeps s0 (execPodAlignment a1 s) := by
  unfold execPodAlignment
  repeat' first
    | with_reducible assumption
    | (rw [State.over_eq]; with_reducible refine Kept.over ?_ id rfl rfl rfl rfl rfl)
    | with_reducible apply svcRpt_kept
    | with_reducible apply Kept.ite
    | with_reducible apply Keeps.next
    | with_reducible apply Keeps.ite

theorem execElasticBufferSlip_keeps {s0 s : State} (a1) (a2) (h : Kept s0 s) : Keeps s0 (execElasticBufferSlip a1 a2 s) := by
  unfold execElasticBufferSlip
  repeat' first
    | with_reducible assumption
    | with_reducible apply svcRpt_kept
    | with_reducible apply chargeEvent_kept
    | with_reducible refine onClk_kept _ (fun _ _ => ?_) ?_
    | with_reducible apply Keeps.next
    | (extract_lets)
    | (show (_ : Nat) ≤ _; unfold slipNote; extract_lets; split <;> assumption)

theorem execTemperatureLimit_keeps {s0 s : State} (a1) (a2) (h : Kept s0 s) : Keeps s0 (execTemperatureLimit a1 a2 s) := by
  unfold execTemperatureLimit
  repeat' first
    | with_reducible assumption
    | with_reducible apply svcRpt_kept
    | with_reducible apply classX_kept
    | with_reducible apply tilesLost_kept
    | with_reducible refine onPwr_kept _ (fun _ _ => ?_) ?_
    | with_reducible apply Kept.ite
    | with_reducible apply Keeps.next
    | with_reducible apply Keeps.ite

theorem execLastGasp_keeps {s0 s : State} (h : Kept s0 s) : Keeps s0 (execLastGasp s) := by
  unfold execLastGasp
  repeat' first
    | with_reducible assumption
    | with_reducible apply onHist_kept
    | with_reducible apply coldClear_kept
    | with_reducible refine onPwr_kept _ (fun _ _ => ?_) ?_
    | with_reducible apply Kept.ite
    | with_reducible apply Keeps.next
    | with_reducible apply Keeps.ite
    | (dsimp -zeta only)
    | (show (_ : Nat) ≤ _; first | assumption | decide)

theorem execColdReset_keeps {s0 s : State} (a1) (h : Kept s0 s) : Keeps s0 (execColdReset a1 s) := by
  unfold execColdReset
  repeat' first
    | with_reducible assumption
    | with_reducible apply coldReset_kept
    | with_reducible apply Kept.ite
    | with_reducible apply Keeps.next

theorem execRstN_keeps {s0 s : State} (a1) (h : Kept s0 s) : Keeps s0 (execRstN a1 s) := by
  unfold execRstN
  repeat' first
    | with_reducible assumption
    | with_reducible apply coldReset_kept
    | with_reducible apply Kept.ite
    | with_reducible apply Keeps.next

theorem execSvcResetCold_keeps {s0 s : State} (a1) (h : Kept s0 s) : Keeps s0 (execSvcResetCold a1 s) := by
  unfold execSvcResetCold
  repeat' first
    | with_reducible assumption
    | with_reducible apply coldReset_kept
    | with_reducible apply Keeps.next

theorem execStrapCheck_keeps {s0 s : State} (a1) (h : Kept s0 s) : Keeps s0 (execStrapCheck a1 s) := by
  unfold execStrapCheck
  repeat' first
    | with_reducible assumption
    | with_reducible refine onSvc_kept _ (fun _ _ => ?_) ?_
    | with_reducible apply Keeps.next

theorem execSvcResetWarm_keeps {s0 s : State} (a1) (h : Kept s0 s) : Keeps s0 (execSvcResetWarm a1 s) := by
  unfold execSvcResetWarm
  repeat' first
    | with_reducible assumption
    | with_reducible apply warmReset_kept
    | with_reducible apply freezeEnd_kept
    | with_reducible apply Kept.ite
    | with_reducible apply Keeps.next

theorem execFreezeN_keeps {s0 s : State} (a1) (h : Kept s0 s) : Keeps s0 (execFreezeN a1 s) := by
  unfold execFreezeN
  repeat' first
    | with_reducible assumption
    | with_reducible apply freezeStart_kept
    | with_reducible apply Kept.ite
    | with_reducible apply Keeps.next

theorem execFreeze_keeps {s0 s : State} (a1) (a2) (h : Kept s0 s) : Keeps s0 (execFreeze a1 a2 s) := by
  unfold execFreeze
  repeat' first
    | with_reducible assumption
    | with_reducible refine onSvc_kept _ (fun _ _ => ?_) ?_
    | with_reducible apply Kept.ite
    | with_reducible apply Keeps.next
    | (dsimp -zeta only)
    | (show (_ : Nat) ≤ _; first | assumption | decide)

theorem execFreezeStop_keeps {s0 s : State} (h : Kept s0 s) : Keeps s0 (execFreezeStop s) := by
  unfold execFreezeStop
  repeat' first
    | with_reducible assumption
    | with_reducible refine onSvc_kept _ (fun _ _ => ?_) ?_
    | with_reducible apply Kept.ite
    | with_reducible apply Keeps.next
    | (dsimp -zeta only)
    | (show (_ : Nat) ≤ _; first | assumption | decide)

theorem execHazard_keeps {s0 s : State} (a1) (a2) (h : Kept s0 s) : Keeps s0 (execHazard a1 a2 s) := by
  unfold execHazard
  repeat' first
    | with_reducible assumption
    | with_reducible apply tilePut_kept
    | with_reducible apply sendRpt_kept
    | with_reducible apply freezeStart_kept
    | with_reducible apply Kept.ite
    | with_reducible apply Keeps.next
    | with_reducible apply Keeps.ite

theorem execRegRd_keeps {s0 s : State} (a1) (a2) (a3) (h : Kept s0 s) : Keeps s0 (execRegRd a1 a2 a3 s) := by
  unfold execRegRd
  repeat' first
    | with_reducible assumption
    | with_reducible apply gated_kept
    | with_reducible apply regReads_kept
    | with_reducible apply readErrs_kept
    | with_reducible apply latch_kept
    | with_reducible apply Keeps.next

theorem execRegWr_keeps {s0 s : State} (a1) (a2) (a3) (h : Kept s0 s) : Keeps s0 (execRegWr a1 a2 a3 s) := by
  unfold execRegWr
  repeat' first
    | with_reducible assumption
    | with_reducible apply gated_kept
    | with_reducible apply answerCode_kept
    | with_reducible apply regPut_kept
    | with_reducible apply Keeps.next
    | with_reducible refine Kept.foldl (fun _ _ _ => ?_) _ ?_

theorem execRegisterWrite_keeps {s0 s : State} (a1) (a2) (h : Kept s0 s) : Keeps s0 (execRegisterWrite a1 a2 s) := by
  unfold execRegisterWrite
  repeat' first
    | with_reducible assumption
    | with_reducible apply addrErr_kept
    | with_reducible apply regPut_kept
    | with_reducible apply Kept.ite
    | with_reducible apply Keeps.next

theorem execCfgWr_keeps {s0 s : State} (a1) (h : Kept s0 s) : Keeps s0 (execCfgWr a1 s) := by
  unfold execCfgWr
  repeat' first
    | with_reducible assumption
    | with_reducible apply lathDone_kept
    | with_reducible apply addrErr_kept
    | with_reducible apply onCg_kept
    | with_reducible apply regPut_kept
    | with_reducible apply Keeps.next
    | with_reducible apply Keeps.ite
    | with_reducible refine Kept.foldl (fun _ _ _ => ?_) _ ?_

theorem execCfgRd_keeps {s0 s : State} (a1) (a2) (a3) (a4) (h : Kept s0 s) : Keeps s0 (execCfgRd a1 a2 a3 a4 s) := by
  unfold execCfgRd
  repeat' first
    | with_reducible assumption
    | with_reducible apply lathDone_kept
    | with_reducible apply regReads_kept
    | with_reducible apply readErrs_kept
    | with_reducible apply addrErr_kept
    | with_reducible apply lathSend_kept
    | with_reducible apply latch_kept
    | with_reducible apply Kept.ite
    | with_reducible apply Keeps.next
    | (extract_lets)
    | split

theorem execCfgRsp_keeps {s0 s : State} (a1) (a2) (a3) (h : Kept s0 s) : Keeps s0 (execCfgRsp a1 a2 a3 s) := by
  unfold execCfgRsp
  repeat' first
    | with_reducible assumption
    | with_reducible apply onLath_kept
    | with_reducible apply answer_kept
    | with_reducible apply Keeps.next

theorem execIdcode_keeps {s0 s : State} (h : Kept s0 s) : Keeps s0 (execIdcode s) := by
  unfold execIdcode
  repeat' first
    | with_reducible assumption
    | with_reducible apply tapDo_kept
    | with_reducible apply Keeps.next
    | (extract_lets)
    | (exact fun _ => rfl)

theorem execBypass_keeps {s0 s : State} (a1) (h : Kept s0 s) : Keeps s0 (execBypass a1 s) := by
  unfold execBypass
  repeat' first
    | with_reducible assumption
    | with_reducible apply tapDo_kept
    | with_reducible apply Keeps.next
    | (extract_lets)
    | (exact fun _ => rfl)

theorem execSamplePreload_keeps {s0 s : State} (a1) (h : Kept s0 s) : Keeps s0 (execSamplePreload a1 s) := by
  unfold execSamplePreload
  repeat' first
    | with_reducible assumption
    | (rw [State.over_eq]; with_reducible refine Kept.over ?_ id rfl rfl rfl rfl rfl)
    | with_reducible apply tapDo_kept
    | with_reducible apply Kept.ite
    | with_reducible apply Keeps.next
    | (dsimp -zeta only)
    | (exact fun _ => rfl)

theorem execExtest_keeps {s0 s : State} (h : Kept s0 s) : Keeps s0 (execExtest s) := by
  unfold execExtest
  repeat' first
    | with_reducible assumption
    | (rw [State.over_eq]; with_reducible refine Kept.over ?_ id rfl rfl rfl rfl rfl)
    | with_reducible apply tapDo_kept
    | with_reducible apply Kept.ite
    | with_reducible apply Keeps.next
    | (extract_lets)
    | (exact fun _ => rfl)

theorem execFrzSel_keeps {s0 s : State} (a1) (h : Kept s0 s) : Keeps s0 (execFrzSel a1 s) := by
  unfold execFrzSel
  repeat' first
    | with_reducible assumption
    | with_reducible apply tapDo_kept
    | with_reducible apply Keeps.next
    | (dsimp -zeta only)
    | (exact fun _ => rfl)

theorem execFrzData_keeps {s0 s : State} (h : Kept s0 s) : Keeps s0 (execFrzData s) := by
  unfold execFrzData
  repeat' first
    | with_reducible assumption
    | with_reducible apply tapDo_kept
    | with_reducible apply Keeps.next
    | (dsimp -zeta only)
    | (exact fun _ => rfl)

theorem execLedPeriod_keeps {s0 s : State} (a1) (a2) (a3) (a4) (h : Kept s0 s) : Keeps s0 (execLedPeriod a1 a2 a3 a4 s) := by
  unfold execLedPeriod
  repeat' first
    | with_reducible assumption
    | with_reducible refine onSvc_kept _ (fun _ _ => ?_) ?_
    | with_reducible apply Keeps.next

theorem execPpsOut_keeps {s0 s : State} (h : Kept s0 s) : Keeps s0 (execPpsOut s) := by
  unfold execPpsOut
  repeat' first
    | with_reducible assumption
    | with_reducible refine onSvc_kept _ (fun _ _ => ?_) ?_
    | with_reducible apply Keeps.next

theorem ccDo_keeps {s0 s : State} (a1) (a2) (h : Kept s0 s) : Keeps s0 (ccDo s a1 a2) := by
  unfold ccDo
  repeat' first
    | with_reducible assumption
    | with_reducible apply tileDo_kept
    | with_reducible apply Keeps.next

theorem evDo_keeps {s0 s : State} (a1) (a2) (h : Kept s0 s) : Keeps s0 (evDo s a1 a2) := by
  unfold evDo
  repeat' first
    | with_reducible assumption
    | with_reducible apply tileDo_kept
    | with_reducible apply Keeps.next

theorem execAdd_keeps {s0 s : State} (a1) (a2) (a3) (a4) (h : Kept s0 s) : Keeps s0 (execAdd a1 a2 a3 a4 s) := by
  unfold execAdd
  repeat' first
    | with_reducible assumption
    | with_reducible apply ccDo_keeps

theorem execSub_keeps {s0 s : State} (a1) (a2) (a3) (a4) (h : Kept s0 s) : Keeps s0 (execSub a1 a2 a3 a4 s) := by
  unfold execSub
  repeat' first
    | with_reducible assumption
    | with_reducible apply ccDo_keeps

theorem execAnd_keeps {s0 s : State} (a1) (a2) (a3) (a4) (h : Kept s0 s) : Keeps s0 (execAnd a1 a2 a3 a4 s) := by
  unfold execAnd
  repeat' first
    | with_reducible assumption
    | with_reducible apply ccDo_keeps

theorem execOr_keeps {s0 s : State} (a1) (a2) (a3) (a4) (h : Kept s0 s) : Keeps s0 (execOr a1 a2 a3 a4 s) := by
  unfold execOr
  repeat' first
    | with_reducible assumption
    | with_reducible apply ccDo_keeps

theorem execXor_keeps {s0 s : State} (a1) (a2) (a3) (a4) (h : Kept s0 s) : Keeps s0 (execXor a1 a2 a3 a4 s) := by
  unfold execXor
  repeat' first
    | with_reducible assumption
    | with_reducible apply ccDo_keeps

theorem execShl_keeps {s0 s : State} (a1) (a2) (a3) (a4) (h : Kept s0 s) : Keeps s0 (execShl a1 a2 a3 a4 s) := by
  unfold execShl
  repeat' first
    | with_reducible assumption
    | with_reducible apply ccDo_keeps

theorem execShr_keeps {s0 s : State} (a1) (a2) (a3) (a4) (h : Kept s0 s) : Keeps s0 (execShr a1 a2 a3 a4 s) := by
  unfold execShr
  repeat' first
    | with_reducible assumption
    | with_reducible apply ccDo_keeps

theorem execSar_keeps {s0 s : State} (a1) (a2) (a3) (a4) (h : Kept s0 s) : Keeps s0 (execSar a1 a2 a3 a4 s) := by
  unfold execSar
  repeat' first
    | with_reducible assumption
    | with_reducible apply ccDo_keeps

theorem execMul_keeps {s0 s : State} (a1) (a2) (a3) (a4) (h : Kept s0 s) : Keeps s0 (execMul a1 a2 a3 a4 s) := by
  unfold execMul
  repeat' first
    | with_reducible assumption
    | with_reducible apply ccDo_keeps

theorem execMulhu_keeps {s0 s : State} (a1) (a2) (a3) (a4) (h : Kept s0 s) : Keeps s0 (execMulhu a1 a2 a3 a4 s) := by
  unfold execMulhu
  repeat' first
    | with_reducible assumption
    | with_reducible apply ccDo_keeps

theorem execMulhs_keeps {s0 s : State} (a1) (a2) (a3) (a4) (h : Kept s0 s) : Keeps s0 (execMulhs a1 a2 a3 a4 s) := by
  unfold execMulhs
  repeat' first
    | with_reducible assumption
    | with_reducible apply ccDo_keeps

theorem execMin_keeps {s0 s : State} (a1) (a2) (a3) (a4) (h : Kept s0 s) : Keeps s0 (execMin a1 a2 a3 a4 s) := by
  unfold execMin
  repeat' first
    | with_reducible assumption
    | with_reducible apply ccDo_keeps

theorem execMax_keeps {s0 s : State} (a1) (a2) (a3) (a4) (h : Kept s0 s) : Keeps s0 (execMax a1 a2 a3 a4 s) := by
  unfold execMax
  repeat' first
    | with_reducible assumption
    | with_reducible apply ccDo_keeps

theorem execMinu_keeps {s0 s : State} (a1) (a2) (a3) (a4) (h : Kept s0 s) : Keeps s0 (execMinu a1 a2 a3 a4 s) := by
  unfold execMinu
  repeat' first
    | with_reducible assumption
    | with_reducible apply ccDo_keeps

theorem execMaxu_keeps {s0 s : State} (a1) (a2) (a3) (a4) (h : Kept s0 s) : Keeps s0 (execMaxu a1 a2 a3 a4 s) := by
  unfold execMaxu
  repeat' first
    | with_reducible assumption
    | with_reducible apply ccDo_keeps

theorem execDivu_keeps {s0 s : State} (a1) (a2) (a3) (a4) (h : Kept s0 s) : Keeps s0 (execDivu a1 a2 a3 a4 s) := by
  unfold execDivu
  repeat' first
    | with_reducible assumption
    | with_reducible apply ccDo_keeps

theorem execRemu_keeps {s0 s : State} (a1) (a2) (a3) (a4) (h : Kept s0 s) : Keeps s0 (execRemu a1 a2 a3 a4 s) := by
  unfold execRemu
  repeat' first
    | with_reducible assumption
    | with_reducible apply ccDo_keeps

theorem execDivideComplete_keeps {s0 s : State} (a1) (h : Kept s0 s) : Keeps s0 (execDivideComplete a1 s) := by
  unfold execDivideComplete
  repeat' first
    | with_reducible assumption
    | with_reducible apply evDo_keeps

theorem execClz_keeps {s0 s : State} (a1) (a2) (a3) (h : Kept s0 s) : Keeps s0 (execClz a1 a2 a3 s) := by
  unfold execClz
  repeat' first
    | with_reducible assumption
    | with_reducible apply ccDo_keeps

theorem execPopc_keeps {s0 s : State} (a1) (a2) (a3) (h : Kept s0 s) : Keeps s0 (execPopc a1 a2 a3 s) := by
  unfold execPopc
  repeat' first
    | with_reducible assumption
    | with_reducible apply ccDo_keeps

theorem execAddi_keeps {s0 s : State} (a1) (a2) (a3) (a4) (h : Kept s0 s) : Keeps s0 (execAddi a1 a2 a3 a4 s) := by
  unfold execAddi
  repeat' first
    | with_reducible assumption
    | with_reducible apply ccDo_keeps

theorem execAndi_keeps {s0 s : State} (a1) (a2) (a3) (a4) (h : Kept s0 s) : Keeps s0 (execAndi a1 a2 a3 a4 s) := by
  unfold execAndi
  repeat' first
    | with_reducible assumption
    | with_reducible apply ccDo_keeps

theorem execOri_keeps {s0 s : State} (a1) (a2) (a3) (a4) (h : Kept s0 s) : Keeps s0 (execOri a1 a2 a3 a4 s) := by
  unfold execOri
  repeat' first
    | with_reducible assumption
    | with_reducible apply ccDo_keeps

theorem execXori_keeps {s0 s : State} (a1) (a2) (a3) (a4) (h : Kept s0 s) : Keeps s0 (execXori a1 a2 a3 a4 s) := by
  unfold execXori
  repeat' first
    | with_reducible assumption
    | with_reducible apply ccDo_keeps

theorem execShli_keeps {s0 s : State} (a1) (a2) (a3) (a4) (h : Kept s0 s) : Keeps s0 (execShli a1 a2 a3 a4 s) := by
  unfold execShli
  repeat' first
    | with_reducible assumption
    | with_reducible apply ccDo_keeps

theorem execShri_keeps {s0 s : State} (a1) (a2) (a3) (a4) (h : Kept s0 s) : Keeps s0 (execShri a1 a2 a3 a4 s) := by
  unfold execShri
  repeat' first
    | with_reducible assumption
    | with_reducible apply ccDo_keeps

theorem execSari_keeps {s0 s : State} (a1) (a2) (a3) (a4) (h : Kept s0 s) : Keeps s0 (execSari a1 a2 a3 a4 s) := by
  unfold execSari
  repeat' first
    | with_reducible assumption
    | with_reducible apply ccDo_keeps

theorem execLui_keeps {s0 s : State} (a1) (a2) (a3) (h : Kept s0 s) : Keeps s0 (execLui a1 a2 a3 s) := by
  unfold execLui
  repeat' first
    | with_reducible assumption
    | with_reducible apply ccDo_keeps

theorem execCmp_keeps {s0 s : State} (a1) (a2) (a3) (a4) (a5) (h : Kept s0 s) : Keeps s0 (execCmp a1 a2 a3 a4 a5 s) := by
  unfold execCmp
  repeat' first
    | with_reducible assumption
    | with_reducible apply ccDo_keeps

theorem execCmpi_keeps {s0 s : State} (a1) (a2) (a3) (a4) (a5) (h : Kept s0 s) : Keeps s0 (execCmpi a1 a2 a3 a4 a5 s) := by
  unfold execCmpi
  repeat' first
    | with_reducible assumption
    | with_reducible apply ccDo_keeps

theorem execPlog_keeps {s0 s : State} (a1) (a2) (a3) (a4) (a5) (h : Kept s0 s) : Keeps s0 (execPlog a1 a2 a3 a4 a5 s) := by
  unfold execPlog
  repeat' first
    | with_reducible assumption
    | with_reducible apply ccDo_keeps

theorem execLd_keeps {s0 s : State} (a1) (a2) (a3) (a4) (h : Kept s0 s) : Keeps s0 (execLd a1 a2 a3 a4 s) := by
  unfold execLd
  repeat' first
    | with_reducible assumption
    | with_reducible apply ccDo_keeps

theorem execCcLoadBankRead_keeps {s0 s : State} (a1) (h : Kept s0 s) : Keeps s0 (execCcLoadBankRead a1 s) := by
  unfold execCcLoadBankRead
  repeat' first
    | with_reducible assumption
    | with_reducible apply evDo_keeps

theorem execSt_keeps {s0 s : State} (a1) (a2) (a3) (a4) (h : Kept s0 s) : Keeps s0 (execSt a1 a2 a3 a4 s) := by
  unfold execSt
  repeat' first
    | with_reducible assumption
    | with_reducible apply ccDo_keeps

theorem execStoreQueueDrain_keeps {s0 s : State} (a1) (h : Kept s0 s) : Keeps s0 (execStoreQueueDrain a1 s) := by
  unfold execStoreQueueDrain
  repeat' first
    | with_reducible assumption
    | with_reducible apply evDo_keeps

theorem execBr_keeps {s0 s : State} (a1) (a2) (h : Kept s0 s) : Keeps s0 (execBr a1 a2 s) := by
  unfold execBr
  repeat' first
    | with_reducible assumption
    | with_reducible apply ccDo_keeps

theorem execBrl_keeps {s0 s : State} (a1) (a2) (h : Kept s0 s) : Keeps s0 (execBrl a1 a2 s) := by
  unfold execBrl
  repeat' first
    | with_reducible assumption
    | with_reducible apply ccDo_keeps

theorem execJr_keeps {s0 s : State} (a1) (a2) (a3) (a4) (h : Kept s0 s) : Keeps s0 (execJr a1 a2 a3 a4 s) := by
  unfold execJr
  repeat' first
    | with_reducible assumption
    | with_reducible apply ccDo_keeps

theorem execDesc_keeps {s0 s : State} (a1) (a2) (a3) (h : Kept s0 s) : Keeps s0 (execDesc a1 a2 a3 s) := by
  unfold execDesc
  repeat' first
    | with_reducible assumption
    | with_reducible apply ccDo_keeps

theorem execCret_keeps {s0 s : State} (a1) (a2) (a3) (h : Kept s0 s) : Keeps s0 (execCret a1 a2 a3 s) := by
  unfold execCret
  repeat' first
    | with_reducible assumption
    | with_reducible apply ccDo_keeps

theorem execLsend_keeps {s0 s : State} (a1) (a2) (a3) (a4) (a5) (h : Kept s0 s) : Keeps s0 (execLsend a1 a2 a3 a4 a5 s) := by
  unfold execLsend
  repeat' first
    | with_reducible assumption
    | with_reducible apply ccDo_keeps

theorem execRdsr_keeps {s0 s : State} (a1) (a2) (a3) (h : Kept s0 s) : Keeps s0 (execRdsr a1 a2 a3 s) := by
  unfold execRdsr
  repeat' first
    | with_reducible assumption
    | with_reducible apply ccDo_keeps

theorem execWrsr_keeps {s0 s : State} (a1) (a2) (a3) (h : Kept s0 s) : Keeps s0 (execWrsr a1 a2 a3 s) := by
  unfold execWrsr
  repeat' first
    | with_reducible assumption
    | with_reducible apply ccDo_keeps

theorem execRdlane_keeps {s0 s : State} (a1) (a2) (a3) (h : Kept s0 s) : Keeps s0 (execRdlane a1 a2 a3 s) := by
  unfold execRdlane
  repeat' first
    | with_reducible assumption
    | with_reducible apply ccDo_keeps

theorem execWaitc_keeps {s0 s : State} (a1) (a2) (h : Kept s0 s) : Keeps s0 (execWaitc a1 a2 s) := by
  unfold execWaitc
  repeat' first
    | with_reducible assumption
    | with_reducible apply ccDo_keeps

theorem execWaitcResume_keeps {s0 s : State} (a1) (h : Kept s0 s) : Keeps s0 (execWaitcResume a1 s) := by
  unfold execWaitcResume
  repeat' first
    | with_reducible assumption
    | with_reducible apply evDo_keeps

theorem execHalt_keeps {s0 s : State} (a1) (h : Kept s0 s) : Keeps s0 (execHalt a1 s) := by
  unfold execHalt
  repeat' first
    | with_reducible assumption
    | with_reducible apply ccDo_keeps

theorem seqDo_keeps {s0 s : State} (a1) (a2) (h : Kept s0 s) : Keeps s0 (seqDo s a1 a2) := by
  unfold seqDo
  repeat' first
    | with_reducible assumption
    | with_reducible apply tileDo_kept
    | with_reducible apply Keeps.next

theorem execSeqNop_keeps {s0 s : State} (a1) (h : Kept s0 s) : Keeps s0 (execSeqNop a1 s) := by
  unfold execSeqNop
  repeat' first
    | with_reducible assumption
    | with_reducible apply seqDo_keeps

theorem execInj_keeps {s0 s : State} (a1) (a2) (a3) (a4) (a5) (a6) (h : Kept s0 s) : Keeps s0 (execInj a1 a2 a3 a4 a5 a6 s) := by
  unfold execInj
  repeat' first
    | with_reducible assumption
    | with_reducible apply seqDo_keeps

theorem execRq_keeps {s0 s : State} (a1) (a2) (a3) (a4) (a5) (h : Kept s0 s) : Keeps s0 (execRq a1 a2 a3 a4 a5 s) := by
  unfold execRq
  repeat' first
    | with_reducible assumption
    | with_reducible apply seqDo_keeps

theorem execSrv_keeps {s0 s : State} (a1) (a2) (a3) (h : Kept s0 s) : Keeps s0 (execSrv a1 a2 a3 s) := by
  unfold execSrv
  repeat' first
    | with_reducible assumption
    | with_reducible apply seqDo_keeps

theorem execRel_keeps {s0 s : State} (a1) (a2) (a3) (h : Kept s0 s) : Keeps s0 (execRel a1 a2 a3 s) := by
  unfold execRel
  repeat' first
    | with_reducible assumption
    | with_reducible apply seqDo_keeps

theorem execDtake_keeps {s0 s : State} (a1) (a2) (a3) (h : Kept s0 s) : Keeps s0 (execDtake a1 a2 a3 s) := by
  unfold execDtake
  repeat' first
    | with_reducible assumption
    | with_reducible apply seqDo_keeps

theorem execBld_keeps {s0 s : State} (a1) (a2) (a3) (a4) (a5) (h : Kept s0 s) : Keeps s0 (execBld a1 a2 a3 a4 a5 s) := by
  unfold execBld
  repeat' first
    | with_reducible assumption
    | with_reducible apply seqDo_keeps

theorem execMsk_keeps {s0 s : State} (a1) (a2) (h : Kept s0 s) : Keeps s0 (execMsk a1 a2 s) := by
  unfold execMsk
  repeat' first
    | with_reducible assumption
    | with_reducible apply seqDo_keeps

theorem execRep_keeps {s0 s : State} (a1) (a2) (a3) (a4) (a5) (a6) (h : Kept s0 s) : Keeps s0 (execRep a1 a2 a3 a4 a5 a6 s) := by
  unfold execRep
  repeat' first
    | with_reducible assumption
    | with_reducible apply seqDo_keeps

theorem execLdw_keeps {s0 s : State} (a1) (a2) (h : Kept s0 s) : Keeps s0 (execLdw a1 a2 s) := by
  unfold execLdw
  repeat' first
    | with_reducible assumption
    | with_reducible apply seqDo_keeps

theorem execLdwComplete_keeps {s0 s : State} (a1) (h : Kept s0 s) : Keeps s0 (execLdwComplete a1 s) := by
  unfold execLdwComplete
  repeat' first
    | with_reducible assumption
    | with_reducible apply tileDo_kept
    | with_reducible apply Keeps.next

theorem execLds_keeps {s0 s : State} (a1) (a2) (a3) (a4) (h : Kept s0 s) : Keeps s0 (execLds a1 a2 a3 a4 s) := by
  unfold execLds
  repeat' first
    | with_reducible assumption
    | with_reducible apply seqDo_keeps

theorem execDaMul_keeps {s0 s : State} (a1) (a2) (h : Kept s0 s) : Keeps s0 (execDaMul a1 a2 s) := by
  unfold execDaMul
  repeat' first
    | with_reducible assumption
    | with_reducible apply seqDo_keeps

theorem execDaMulComplete_keeps {s0 s : State} (a1) (h : Kept s0 s) : Keeps s0 (execDaMulComplete a1 s) := by
  unfold execDaMulComplete
  repeat' first
    | with_reducible assumption
    | with_reducible apply tileDo_kept
    | with_reducible apply Keeps.next

theorem execSets_keeps {s0 s : State} (a1) (a2) (a3) (a4) (a5) (h : Kept s0 s) : Keeps s0 (execSets a1 a2 a3 a4 a5 s) := by
  unfold execSets
  repeat' first
    | with_reducible assumption
    | with_reducible apply seqDo_keeps

theorem execDaSt_keeps {s0 s : State} (a1) (a2) (a3) (a4) (h : Kept s0 s) : Keeps s0 (execDaSt a1 a2 a3 a4 s) := by
  unfold execDaSt
  repeat' first
    | with_reducible assumption
    | with_reducible apply seqDo_keeps

theorem execMop_keeps {s0 s : State} (a1) (a2) (a3) (a4) (a5) (a6) (a7) (h : Kept s0 s) : Keeps s0 (execMop a1 a2 a3 a4 a5 a6 a7 s) := by
  unfold execMop
  repeat' first
    | with_reducible assumption
    | with_reducible apply seqDo_keeps

theorem execMacroOpComplete_keeps {s0 s : State} (a1) (h : Kept s0 s) : Keeps s0 (execMacroOpComplete a1 s) := by
  unfold execMacroOpComplete
  repeat' first
    | with_reducible assumption
    | with_reducible apply tileDo_kept
    | with_reducible apply Keeps.next

theorem execClipReport_keeps {s0 s : State} (a1) (h : Kept s0 s) : Keeps s0 (execClipReport a1 s) := by
  unfold execClipReport
  repeat' first
    | with_reducible assumption
    | with_reducible apply tileDo_kept
    | with_reducible apply Keeps.next

theorem execFadd_keeps {s0 s : State} (a1) (a2) (h : Kept s0 s) : Keeps s0 (execFadd a1 a2 s) := by
  unfold execFadd
  repeat' first
    | with_reducible assumption
    | with_reducible apply seqDo_keeps

theorem execFsub_keeps {s0 s : State} (a1) (a2) (h : Kept s0 s) : Keeps s0 (execFsub a1 a2 s) := by
  unfold execFsub
  repeat' first
    | with_reducible assumption
    | with_reducible apply seqDo_keeps

theorem execFmul_keeps {s0 s : State} (a1) (a2) (h : Kept s0 s) : Keeps s0 (execFmul a1 a2 s) := by
  unfold execFmul
  repeat' first
    | with_reducible assumption
    | with_reducible apply seqDo_keeps

theorem execFma_keeps {s0 s : State} (a1) (a2) (h : Kept s0 s) : Keeps s0 (execFma a1 a2 s) := by
  unfold execFma
  repeat' first
    | with_reducible assumption
    | with_reducible apply seqDo_keeps

theorem execFmin_keeps {s0 s : State} (a1) (a2) (h : Kept s0 s) : Keeps s0 (execFmin a1 a2 s) := by
  unfold execFmin
  repeat' first
    | with_reducible assumption
    | with_reducible apply seqDo_keeps

theorem execFmax_keeps {s0 s : State} (a1) (a2) (h : Kept s0 s) : Keeps s0 (execFmax a1 a2 s) := by
  unfold execFmax
  repeat' first
    | with_reducible assumption
    | with_reducible apply seqDo_keeps

theorem execFabs_keeps {s0 s : State} (a1) (a2) (h : Kept s0 s) : Keeps s0 (execFabs a1 a2 s) := by
  unfold execFabs
  repeat' first
    | with_reducible assumption
    | with_reducible apply seqDo_keeps

theorem execFneg_keeps {s0 s : State} (a1) (a2) (h : Kept s0 s) : Keeps s0 (execFneg a1 a2 s) := by
  unfold execFneg
  repeat' first
    | with_reducible assumption
    | with_reducible apply seqDo_keeps

theorem execFrcp_keeps {s0 s : State} (a1) (a2) (h : Kept s0 s) : Keeps s0 (execFrcp a1 a2 s) := by
  unfold execFrcp
  repeat' first
    | with_reducible assumption
    | with_reducible apply seqDo_keeps

theorem execFrsq_keeps {s0 s : State} (a1) (a2) (h : Kept s0 s) : Keeps s0 (execFrsq a1 a2 s) := by
  unfold execFrsq
  repeat' first
    | with_reducible assumption
    | with_reducible apply seqDo_keeps

theorem execFexp_keeps {s0 s : State} (a1) (a2) (h : Kept s0 s) : Keeps s0 (execFexp a1 a2 s) := by
  unfold execFexp
  repeat' first
    | with_reducible assumption
    | with_reducible apply seqDo_keeps

theorem execFexp2_keeps {s0 s : State} (a1) (a2) (h : Kept s0 s) : Keeps s0 (execFexp2 a1 a2 s) := by
  unfold execFexp2
  repeat' first
    | with_reducible assumption
    | with_reducible apply seqDo_keeps

theorem execFsig_keeps {s0 s : State} (a1) (a2) (h : Kept s0 s) : Keeps s0 (execFsig a1 a2 s) := by
  unfold execFsig
  repeat' first
    | with_reducible assumption
    | with_reducible apply seqDo_keeps

theorem execFtanh_keeps {s0 s : State} (a1) (a2) (h : Kept s0 s) : Keeps s0 (execFtanh a1 a2 s) := by
  unfold execFtanh
  repeat' first
    | with_reducible assumption
    | with_reducible apply seqDo_keeps

theorem execFsilu_keeps {s0 s : State} (a1) (a2) (h : Kept s0 s) : Keeps s0 (execFsilu a1 a2 s) := by
  unfold execFsilu
  repeat' first
    | with_reducible assumption
    | with_reducible apply seqDo_keeps

theorem execFgelu_keeps {s0 s : State} (a1) (a2) (h : Kept s0 s) : Keeps s0 (execFgelu a1 a2 s) := by
  unfold execFgelu
  repeat' first
    | with_reducible assumption
    | with_reducible apply seqDo_keeps

theorem execFrsum_keeps {s0 s : State} (a1) (a2) (h : Kept s0 s) : Keeps s0 (execFrsum a1 a2 s) := by
  unfold execFrsum
  repeat' first
    | with_reducible assumption
    | with_reducible apply seqDo_keeps

theorem execFrmax_keeps {s0 s : State} (a1) (a2) (h : Kept s0 s) : Keeps s0 (execFrmax a1 a2 s) := by
  unfold execFrmax
  repeat' first
    | with_reducible assumption
    | with_reducible apply seqDo_keeps

theorem execFcmp_keeps {s0 s : State} (a1) (a2) (h : Kept s0 s) : Keeps s0 (execFcmp a1 a2 s) := by
  unfold execFcmp
  repeat' first
    | with_reducible assumption
    | with_reducible apply seqDo_keeps

theorem execFsel_keeps {s0 s : State} (a1) (a2) (h : Kept s0 s) : Keeps s0 (execFsel a1 a2 s) := by
  unfold execFsel
  repeat' first
    | with_reducible assumption
    | with_reducible apply seqDo_keeps

theorem execFbc_keeps {s0 s : State} (a1) (a2) (h : Kept s0 s) : Keeps s0 (execFbc a1 a2 s) := by
  unfold execFbc
  repeat' first
    | with_reducible assumption
    | with_reducible apply seqDo_keeps

theorem execFcvt_keeps {s0 s : State} (a1) (a2) (h : Kept s0 s) : Keeps s0 (execFcvt a1 a2 s) := by
  unfold execFcvt
  repeat' first
    | with_reducible assumption
    | with_reducible apply seqDo_keeps

theorem execVtopm_keeps {s0 s : State} (a1) (a2) (h : Kept s0 s) : Keeps s0 (execVtopm a1 a2 s) := by
  unfold execVtopm
  repeat' first
    | with_reducible assumption
    | with_reducible apply seqDo_keeps

theorem execViota_keeps {s0 s : State} (a1) (a2) (h : Kept s0 s) : Keeps s0 (execViota a1 a2 s) := by
  unfold execViota
  repeat' first
    | with_reducible assumption
    | with_reducible apply seqDo_keeps

theorem execIadd_keeps {s0 s : State} (a1) (a2) (h : Kept s0 s) : Keeps s0 (execIadd a1 a2 s) := by
  unfold execIadd
  repeat' first
    | with_reducible assumption
    | with_reducible apply seqDo_keeps

theorem execIsub_keeps {s0 s : State} (a1) (a2) (h : Kept s0 s) : Keeps s0 (execIsub a1 a2 s) := by
  unfold execIsub
  repeat' first
    | with_reducible assumption
    | with_reducible apply seqDo_keeps

theorem execIand_keeps {s0 s : State} (a1) (a2) (h : Kept s0 s) : Keeps s0 (execIand a1 a2 s) := by
  unfold execIand
  repeat' first
    | with_reducible assumption
    | with_reducible apply seqDo_keeps

theorem execIor_keeps {s0 s : State} (a1) (a2) (h : Kept s0 s) : Keeps s0 (execIor a1 a2 s) := by
  unfold execIor
  repeat' first
    | with_reducible assumption
    | with_reducible apply seqDo_keeps

theorem execIxor_keeps {s0 s : State} (a1) (a2) (h : Kept s0 s) : Keeps s0 (execIxor a1 a2 s) := by
  unfold execIxor
  repeat' first
    | with_reducible assumption
    | with_reducible apply seqDo_keeps

theorem execIshl_keeps {s0 s : State} (a1) (a2) (h : Kept s0 s) : Keeps s0 (execIshl a1 a2 s) := by
  unfold execIshl
  repeat' first
    | with_reducible assumption
    | with_reducible apply seqDo_keeps

theorem execIshr_keeps {s0 s : State} (a1) (a2) (h : Kept s0 s) : Keeps s0 (execIshr a1 a2 s) := by
  unfold execIshr
  repeat' first
    | with_reducible assumption
    | with_reducible apply seqDo_keeps

theorem execImin_keeps {s0 s : State} (a1) (a2) (h : Kept s0 s) : Keeps s0 (execImin a1 a2 s) := by
  unfold execImin
  repeat' first
    | with_reducible assumption
    | with_reducible apply seqDo_keeps

theorem execImax_keeps {s0 s : State} (a1) (a2) (h : Kept s0 s) : Keeps s0 (execImax a1 a2 s) := by
  unfold execImax
  repeat' first
    | with_reducible assumption
    | with_reducible apply seqDo_keeps

theorem execVrng_keeps {s0 s : State} (a1) (a2) (h : Kept s0 s) : Keeps s0 (execVrng a1 a2 s) := by
  unfold execVrng
  repeat' first
    | with_reducible assumption
    | with_reducible apply seqDo_keeps

theorem execVmov_keeps {s0 s : State} (a1) (a2) (h : Kept s0 s) : Keeps s0 (execVmov a1 a2 s) := by
  unfold execVmov
  repeat' first
    | with_reducible assumption
    | with_reducible apply seqDo_keeps

theorem execVld_keeps {s0 s : State} (a1) (a2) (h : Kept s0 s) : Keeps s0 (execVld a1 a2 s) := by
  unfold execVld
  repeat' first
    | with_reducible assumption
    | with_reducible apply seqDo_keeps

theorem execVst_keeps {s0 s : State} (a1) (a2) (h : Kept s0 s) : Keeps s0 (execVst a1 a2 s) := by
  unfold execVst
  repeat' first
    | with_reducible assumption
    | with_reducible apply seqDo_keeps

theorem execVldq_keeps {s0 s : State} (a1) (a2) (h : Kept s0 s) : Keeps s0 (execVldq a1 a2 s) := by
  unfold execVldq
  repeat' first
    | with_reducible assumption
    | with_reducible apply seqDo_keeps

theorem execVstq_keeps {s0 s : State} (a1) (a2) (h : Kept s0 s) : Keeps s0 (execVstq a1 a2 s) := by
  unfold execVstq
  repeat' first
    | with_reducible assumption
    | with_reducible apply seqDo_keeps

theorem execVsts_keeps {s0 s : State} (a1) (a2) (h : Kept s0 s) : Keeps s0 (execVsts a1 a2 s) := by
  unfold execVsts
  repeat' first
    | with_reducible assumption
    | with_reducible apply seqDo_keeps

theorem execFrameBoundary_keeps {s0 s : State} (h : Kept s0 s) : Keeps s0 (execFrameBoundary s) := by
  unfold execFrameBoundary
  repeat' first
    | with_reducible assumption
    | with_reducible apply frameAlign_kept
    | with_reducible apply frameAdvance_kept
    | with_reducible apply streamDue_kept
    | with_reducible apply epochsDue_kept
    | with_reducible apply groupsDue_kept
    | with_reducible apply ctxFinish_kept
    | with_reducible apply streamRetry_kept
    | with_reducible apply sweepCache_kept
    | with_reducible apply dropLost_kept
    | with_reducible apply tilesDue_kept
    | with_reducible apply loadDone_kept
    | with_reducible apply loadReady_kept
    | with_reducible apply bootDue_kept
    | with_reducible apply pstateDue_kept
    | with_reducible apply warmDue_kept
    | with_reducible apply Keeps.next
    | with_reducible apply Keeps.ite
    | with_reducible refine Kept.foldl (fun _ _ _ => ?_) _ ?_

theorem execBeatBoundary_keeps {s0 s : State} (a1) (h : Kept s0 s) : Keeps s0 (execBeatBoundary a1 s) := by
  unfold execBeatBoundary
  repeat' first
    | with_reducible assumption
    | with_reducible apply onGrid_kept
    | with_reducible apply siteBeat_kept
    | with_reducible apply wordsPut_kept
    | with_reducible apply onLath_kept
    | with_reducible apply Kept.ite
    | with_reducible apply Keeps.next
    | with_reducible apply Keeps.ite
    | with_reducible refine Kept.foldl (fun _ _ _ => ?_) _ ?_

theorem execIndoubtReinstatement_keeps {s0 s : State} (a1) (h : Kept s0 s) : Keeps s0 (execIndoubtReinstatement a1 s) := by
  unfold execIndoubtReinstatement
  repeat' first
    | with_reducible assumption
    | with_reducible apply onCg_kept
    | with_reducible apply copySet_kept
    | with_reducible apply holdAll_kept
    | with_reducible apply tileResetNow_kept
    | with_reducible apply onLath_kept
    | with_reducible apply wordsPut_kept
    | with_reducible apply owedWrite_kept
    | with_reducible apply lathUpd_kept
    | with_reducible apply endAll_kept
    | with_reducible apply chargeEvent_kept
    | with_reducible apply pagesLost_kept
    | with_reducible apply Keeps.next
    | with_reducible apply Keeps.ite
    | with_reducible refine Kept.foldl (fun _ _ _ => ?_) _ ?_

theorem execFlitArrival_keeps {s0 s : State} (a1) (a2) (a3) (h : Kept s0 s) : Keeps s0 (execFlitArrival a1 a2 a3 s) := by
  unfold execFlitArrival
  repeat' first
    | with_reducible assumption
    | with_reducible apply onGrid_kept
    | with_reducible apply routerDo_kept
    | with_reducible apply Keeps.next
    | (extract_lets)
    | split

theorem execEjectionWrite_keeps {s0 s : State} (a1) (h : Kept s0 s) : Keeps s0 (execEjectionWrite a1 s) := by
  unfold execEjectionWrite
  repeat' first
    | with_reducible assumption
    | with_reducible apply tileDo_kept
    | with_reducible apply Keeps.next

theorem execRimInjection_keeps {s0 s : State} (a1) (a2) (a3) (h : Kept s0 s) : Keeps s0 (execRimInjection a1 a2 a3 s) := by
  unfold execRimInjection
  extract_lets code x
  split
  · exact Keeps.next h
  extract_lets off hit
  clear_value hit
  repeat' first
    | with_reducible assumption
    | with_reducible apply payCredit_kept
    | with_reducible apply onGrid_kept
    | with_reducible apply launch_kept
    | with_reducible apply Keeps.next
    | with_reducible apply Keeps.ite
    | (extract_lets)
    | split

theorem execCredit_keeps {s0 s : State} (a1) (a2) (a3) (a4) (h : Kept s0 s) : Keeps s0 (execCredit a1 a2 a3 a4 s) := by
  unfold execCredit
  repeat' first
    | with_reducible assumption
    | with_reducible apply tileRun_kept
    | with_reducible apply creditBack_kept
    | with_reducible apply Kept.ite
    | with_reducible apply Keeps.next

end Sys2Proof.Machine
end

