-- ==== Sys2Proof/Laws/Sequencer.lean ====
section
/-! SUPPORT. What a sequencer entry and a tile event can do (R286-R291): an entry that is performed leaves its tile as its body does. -/

namespace Sys2Proof.Machine

/-- An entry that is performed leaves its tile as its body does (R286-R290). -/
theorem hdrEntry_of_runs {h : SeqHdr} {s : State} {e : SeqRun} {t : Tile} {outs : List TOut} (hr : SeqRuns h s e t outs)
    (even : Bool) (he : even = true → e.cyc % 2 = 0) (body : SeqRun → Tile → Tile × List TOut) :
    hdrEntry h even body (tileAt s h.site) = ((body e t).1, outs ++ (body e t).2) := by
  obtain ⟨-, ⟨e0, h0, hs⟩, hf⟩ := hr
  have hodd : (even && decide (e.cyc % 2 = 1)) = false := by
    cases even with
    | false => rfl
    | true => simp [he rfl]
  simp only [hdrEntry, seqEntry, h0, hs, hf, hodd, Bool.false_eq_true, if_false]

/-- The same for a step of the module: `f` is the entry's meaning on its tile, `h'` its header. -/
theorem entry_to {h' h : SeqHdr} {s : State} {e : SeqRun} {t : Tile} {outs : List TOut} (hr : SeqRuns h s e t outs)
    {even : Bool} (he : even = true → e.cyc % 2 = 0) {body : SeqRun → Tile → Tile × List TOut} {t' : Tile} {outs' : List TOut}
    {f : Tile → Tile × List TOut} (hsite : h'.site = h.site) (hf : f = hdrEntry h even body) (hb : body e t = (t', outs')) :
    seqDo s h' f = .next (tileTo s h'.site t' (outs ++ outs')) := by
  subst hf
  simp only [seqDo, hsite, tileDo, hr.live, if_true, tileRun, hdrEntry_of_runs hr even he, hb, tileTo]

/-- A body of the dense array that is performed (R290). -/
theorem daEntry_of_runs {h : SeqHdr} {s : State} {e : SeqRun} {t : Tile} {outs : List TOut} (hr : DaRuns h s e t outs)
    (site idx : Nat) (body : SeqRun → Tile → Tile × List TOut) : daEntry site idx body e t = body e (daTaken t e.cyc) := by
  simp only [daEntry, if_neg hr.first, hr.busy, Bool.false_eq_true, if_false, daTaken]

/-- A body of the finish unit that is performed (R290). -/
theorem fuEntry_of_runs {h : SeqHdr} {s : State} {e : SeqRun} {t : Tile} {outs : List TOut} (hr : FuRuns h s e t outs)
    (site idx : Nat) (body : SeqRun → Tile → Tile × List TOut) : fuEntry site idx body e t = body e (fuTaken t e.cyc) := by
  simp only [fuEntry, if_neg hr.first, hr.busy, Bool.false_eq_true, if_false, fuTaken]

/-- An event of a tile whose units run leaves the tile as its body does. -/
theorem event_to {s : State} {a : TileAt} (hl : tileLive s a.site = true) {f : Tile → Tile × List TOut} {t : Tile} {outs : List TOut}
    (hb : f (tileAt s a.site) = (t, (tileNow s a.site a.k).2 ++ outs)) :
    (Host.Outcome.next (tileDo s a.site f) : Host.Outcome State Fault Refusal) = .next (eventTo s a t outs) := by
  simp only [tileDo, hl, if_true, tileRun, hb, eventTo, tileTo]

/-- An entry of the finish unit that runs, with what its body leaves. -/
theorem fuRuns_to {h : SeqHdr} {s : State} {e : SeqRun} {t : Tile} {outs : List TOut} (hr : FuRuns h s e t outs)
    {even : Bool} (he : even = true → e.cyc % 2 = 0) {body : SeqRun → Tile → Tile × List TOut} {t' : Tile} {outs' : List TOut}
    {f : Tile → Tile × List TOut} (hf : f = fuOp h even body) (hb : body e (fuTaken t e.cyc) = (t', outs')) :
    seqDo s h f = .next (tileTo s h.site t' (outs ++ outs')) :=
  entry_to hr.runs he rfl hf ((fuEntry_of_runs hr _ _ _).trans hb)

/-- An element-by-element entry of the finish unit that runs. -/
theorem fuElem_runs {h : SeqHdr} {a : FuArgs} {s : State} {e : SeqRun} {t : Tile} {outs : List TOut} (hr : FuRuns h s e t outs)
    (lat : Nat) (regs : List (BitVec 5)) (f : List Lane32 → Lane32 × FlagBits) :
    seqDo s h (fuElem h a lat true regs f) = .next (tileTo s h.site
      (fuPut e lat a.vd.toNat ((selected (fuTaken t e.cyc) a.km).map (fun i =>
        let xs := regs.map (fun r => vget (fuTaken t e.cyc) r.toNat i)
        let r := f (xs.map PLane.bits)
        (i, ⟨r.1, xs.any PLane.poison⟩, r.2))) (fuTaken t e.cyc)).1 outs) := by
  refine (fuRuns_to hr (even := false) (by simp) rfl (t' := _) (outs' := []) rfl).trans ?_
  rw [List.append_nil]; rfl

end Sys2Proof.Machine
end

