-- ==== Sys2Proof/Laws/Service.lean ====
section
/-! SUPPORT. Laws of the service die's functions: reports, zones, sessions, resets and trims. -/

namespace Sys2Proof.Machine

/-! ### Reports and zones -/

/-- What a class-X condition sets (R555). -/
theorem classX_effect (c : BitVec 6) (s : State) : (classX c s).pwr = s.pwr ∧ (classX c s).flt.fatal = true ∧ (classX c s).flt.alertN = true ∧ (classX c s).svc.admitStop = true := by
  unfold classX sigWrite
  refine ⟨rfl, ?_, ?_, rfl⟩ <;> unfold onFlt <;> simp only <;> split <;> rfl

/-- A zone keeps the lower of its minimum and a reading (R577). -/
theorem zoneCapture_eq (site v : Nat) (now : Word) (z : Zone) :
    (z.minValid = false ∨ v < z.min.toNat → zoneCapture site v now z = { z with
        min := BitVec.ofNat 10 (min 1023 v), minSite := BitVec.ofNat 13 site, minValid := true, minTime := now }) ∧
    (z.minValid = true → z.min.toNat ≤ v → zoneCapture site v now z = z) := by
  unfold zoneCapture
  refine ⟨fun h => ?_, fun h1 h2 => ?_⟩
  · rw [if_neg]; rintro hh
    simp only [Bool.and_eq_true, decide_eq_true_eq] at hh
    rcases h with h | h
    · rw [h] at hh; cases hh.1
    · omega
  · rw [if_pos]; simp [h1, h2]

/-- The minimum of a zone after a list of readings is one of them and below the others (R577). -/
theorem zoneCapture_fold (rs : List (Nat × Nat × Word)) : ∀ (z : Zone) (r0 : Nat × Nat × Word), z.minValid = true → z.min.toNat = min 1023 r0.2.1 →
    z.minSite = BitVec.ofNat 13 r0.1 → z.minTime = r0.2.2 →
    let t := rs.foldl (fun a r => zoneCapture r.1 r.2.1 r.2.2 a) z
    t.minValid = true ∧ (∀ r ∈ r0 :: rs, t.min.toNat ≤ r.2.1) ∧
    (∃ r ∈ r0 :: rs, t.min.toNat = min 1023 r.2.1 ∧ t.minSite = BitVec.ofNat 13 r.1 ∧ t.minTime = r.2.2) := by
  induction rs with
  | nil =>
    intro z r0 h1 h2 h3 h4
    refine ⟨h1, fun r hr => ?_, r0, by simp, h2, h3, h4⟩
    simp only [List.mem_cons, List.not_mem_nil, or_false] at hr; subst hr
    simp only [List.foldl_nil]; omega
  | cons r1 rs ih =>
    intro z r0 h1 h2 h3 h4
    simp only [List.foldl_cons]
    by_cases hl : r1.2.1 < z.min.toNat
    · have e := (zoneCapture_eq r1.1 r1.2.1 r1.2.2 z).1 (Or.inr hl)
      obtain ⟨a, b, c⟩ := ih (zoneCapture r1.1 r1.2.1 r1.2.2 z) r1 (by rw [e]) (by rw [e]; simp only [BitVec.toNat_ofNat]; omega) (by rw [e]) (by rw [e])
      refine ⟨a, fun r hr => ?_, ?_⟩
      · simp only [List.mem_cons] at hr
        rcases hr with rfl | hr
        · have := b r1 (by simp); omega
        · exact b r (by simpa using hr)
      · obtain ⟨r, hr, h⟩ := c
        exact ⟨r, List.mem_cons_of_mem _ hr, h⟩
    · have e := (zoneCapture_eq r1.1 r1.2.1 r1.2.2 z).2 h1 (by omega)
      rw [e]
      obtain ⟨a, b, c⟩ := ih z r0 h1 h2 h3 h4
      refine ⟨a, fun r hr => ?_, ?_⟩
      · simp only [List.mem_cons] at hr
        rcases hr with rfl | rfl | hr
        · exact b _ (by simp)
        · have := b r0 (by simp); omega
        · exact b r (by simp [hr])
      · obtain ⟨r, hr, h⟩ := c
        simp only [List.mem_cons] at hr
        rcases hr with rfl | hr
        · exact ⟨_, by simp, h⟩
        · exact ⟨r, by simp [hr], h⟩

/-! ### Sessions -/

theorem klpSend_pod (id : Nat) (c : Bool) (op : Byte) (a : Word) (p : List Byte) (s : State) : (klpSend id c op a p s).pod = s.pod := by
  unfold klpSend sessUpd; split <;> rfl

theorem sessClose_sec (lost : Bool) (id : Nat) (s : State) : (sessClose lost id s).sec = s.sec := by
  unfold sessClose
  split
  · rfl
  · simp only
    have h1 : (ringsLost id (sessPut s id none)).sec = s.sec :=
      foldl_keep _ (fun t => t.sec = s.sec) (fun t x ht => by split <;> exact ht) _ _ rfl
    generalize ringsLost id (sessPut s id none) = r at h1
    have base : ∀ u : State, u.sec = s.sec → (if u.pod.hawkSess = some id then { u with pod := { u.pod with hawkSess := none, hawkLost := u.pod.hawkLost || lost } } else u).sec = s.sec := by
      intro u hu
      split <;> exact hu
    apply base
    cases lost
    · simp only [Bool.false_eq_true, if_false]
      cases r.delivery with
      | none => exact h1
      | some d => simp only; split <;> exact h1
    · simp only [if_true]
      unfold abandonLocks
      cases r.delivery with
      | none => exact h1
      | some d => simp only; split <;> exact h1

/-! ### Resets -/

/-- A tile after a cold reset: its fabric alone is kept (R607). -/
theorem coldClear_tile (s : State) (site : Nat) : tileAt (coldClear s) site = { Tile.reset with fab := fabKept (tileAt s site).fab } := by
  unfold tileAt coldClear tilesLost onGrid
  simp only
  rw [sget_smap _ _ _ _ (by decide)]

theorem foldl_svc {α : Type} (f : State → α → State) (h : ∀ s a, (f s a).svc = s.svc) (l : List α) : ∀ s, (l.foldl f s).svc = s.svc := by
  induction l with
  | nil => intro s; rfl
  | cons a l ih => intro s; rw [List.foldl_cons, ih, h]

theorem extentBad_svc (a) (s : State) : (extentBad a s).svc = s.svc := by unfold extentBad mdPut; simp only; split <;> rfl

theorem bootDram_svc (s : State) : (bootDram s).svc = s.svc := by
  unfold bootDram; simp only; rw [foldl_svc _ (fun s a => extentBad_svc _ s)]

theorem fencePut_svc (z f) (s : State) : (fencePut z f s).svc = s.svc := by
  unfold fencePut flitsDrop onGrid; simp only; split <;> rfl

theorem chargeEvent_svc (u c) (s : State) : (chargeEvent u c s).1.svc = s.svc := by
  unfold chargeEvent onHist; simp only; split
  · rfl
  · split <;> rfl

theorem bootRim_svc (c) (s : State) : (bootRim c s).svc = s.svc := by
  unfold bootRim linkUpd linkPut engUpd engPut; split
  · rfl
  · split <;> rfl

theorem bootLath_svc (l) (s : State) : (bootLath l s).svc = s.svc := by
  unfold bootLath; simp only
  have hb : ∀ (s : State) (z : Nat), ((chargeEvent (unitTile z) 0x0D (bootFence z s)).1).svc = s.svc := fun s z => (chargeEvent_svc _ _ _).trans (fencePut_svc _ _ _)
  rw [foldl_svc _ hb]
  show State.svc (List.foldl _ _ _) = _
  rw [foldl_svc _ (fun s a => bootRim_svc _ _), foldl_svc _ (fun s a => show (bootFence a s).svc = s.svc from fencePut_svc _ _ _)]

theorem deadSlice_svc (sl) (s : State) : (deadSlice sl s).svc = s.svc := by
  unfold deadSlice tilePut
  first
    | rfl
    | (rw [foldl_svc]; intros; rfl)

theorem bootHistory_svc (s : State) : (bootHistory s).svc = s.svc := by
  unfold bootHistory onFlt onGrid; simp only
  rw [foldl_svc _ (fun s a => foldl_svc _ (fun s a => deadSlice_svc _ _) _ _)]

theorem bootFuses_svc (s : State) : (bootFuses s).svc = s.svc := by
  unfold bootFuses onSec onGrid; simp only
  split
  · rfl
  · split <;> rfl

theorem dramStore_svc (s : State) (a) (bs) : (dramStore s a bs).svc = s.svc := by
  unfold dramStore
  split
  · rfl
  · rw [foldl_svc]
    intro s k
    simp only
    have hw : ∀ (w v) (s : State), (dramWrite s w v).svc = s.svc := by
      intro w v s; unfold dramWrite mdPut; simp only; split <;> rfl
    have hr : ∀ (w) (s : State), (dramRead s w).2.svc = s.svc := by
      intro w s; unfold dramRead mdPut; simp only; split <;> rfl
    unfold dramMask
    split
    · exact hw _ _ _
    · split
      · rfl
      · simp only; split
        · exact (hr _ _)
        · exact (hw _ _ _).trans (hr _ _)

/-! ### Calibration -/

/-- At the temperature of a set the target is the value of that set (R178). -/
theorem trimTarget_set (t : TrimVal) (i : Nat) (h : i < 5) : trimTarget t (560 + 240 * (i : Int)) = lget 0 t.sets i := by
  have hr : ∀ b : Int, rneDiv (b * 240) 240 = b := by
    intro b
    have e1 : (b * 240).fdiv 240 = b := Int.mul_fdiv_cancel b (by decide)
    simp [rneDiv, e1]
  have h4 : (240 * lget 0 t.sets 3 + (lget 0 t.sets 4 - lget 0 t.sets 3) * 240) = lget 0 t.sets 4 * 240 := by ring
  interval_cases i
  all_goals first
    | (simp [trimTarget, clampT, rneDiv]; omega)
    | (simp [trimTarget, clampT, rneDiv]; done)
    | (have := hr (lget 0 t.sets 4); rw [← h4] at this; simpa [trimTarget, clampT] using this)

theorem trimTarget_low (t : TrimVal) (x : Int) (h : x ≤ 560) : trimTarget t x = trimTarget t 560 := by
  unfold trimTarget
  have : clampT x = clampT 560 := by unfold clampT; omega
  rw [this]

theorem trimTarget_high (t : TrimVal) (x : Int) (h : 1520 ≤ x) : trimTarget t x = trimTarget t 1520 := by
  unfold trimTarget
  have : clampT x = clampT 1520 := by unfold clampT; omega
  rw [this]

end Sys2Proof.Machine
end

