-- ==== Sys2Proof/Tests/Slice0.lean ====
section
/-! SUPPORT. The model's own tests: ill-formed commands that WellFormed refuses, the worked examples of the spec, and for every
obligation with hypotheses (named in brackets) states and operands that meet them. -/

namespace Sys2Proof.Tests
set_option Elab.async false

open Sys2Proof.Machine

/-! ### Ill-formed commands -/

/-- A SOURCE code names 16 link dies, 16 memory dies and the service die (R15). -/
theorem test_wf_rim_code : (Instr.rimInjection 33 0 0).wf = false := by decide
/-- A link die has six ports, a memory die four, the service die eight (R15). -/
theorem test_wf_rim_ports : (Instr.rimInjection 15 6 0).wf = false ∧ (Instr.rimInjection 16 4 0).wf = false ∧
    (Instr.rimInjection 32 7 0).wf = true := by decide
/-- A lath message is 10 to 64 bytes long (R223). -/
theorem test_wf_lath_message_short : (Instr.lathMessageReceive 0 1 (List.replicate 9 0)).wf = false := by decide
/-- A lath message is 10 to 64 bytes long (R223). -/
theorem test_wf_lath_message_long : (Instr.lathMessageReceive 0 1 (List.replicate 65 0)).wf = false := by decide
/-- CFG_WR carries one to five words (R262). -/
theorem test_wf_cfg_wr_empty : (Instr.cfgWr ⟨0, 0, false, 0, 0, []⟩).wf = false := by decide
/-- CFG_WR carries one to five words (R262). -/
theorem test_wf_cfg_wr_long : (Instr.cfgWr ⟨0, 0, false, 0, 0, List.replicate 6 0⟩).wf = false := by decide
/-- The offset of CFG_WR is a multiple of 8 (R262). -/
theorem test_wf_cfg_wr_offset : (Instr.cfgWr ⟨0, 4, false, 0, 0, [0]⟩).wf = false := by decide
/-- The offset of CFG_RD is a multiple of 8 (R263). -/
theorem test_wf_cfg_rd_offset : (Instr.cfgRd 0 12 1 0).wf = false := by decide
/-- CFG_RD reads one to five words (R263). -/
theorem test_wf_cfg_rd_count : (Instr.cfgRd 0 8 0 0).wf = false ∧ (Instr.cfgRd 0 8 6 0).wf = false ∧ (Instr.cfgRd 0 8 5 0).wf = true := by decide
/-- A CFG_RSP has a status 0 to 3 (R263). -/
theorem test_wf_cfg_rsp_status : (Instr.cfgRsp 0 4 []).wf = false := by decide
/-- A CFG_RSP carries up to five words (R263). -/
theorem test_wf_cfg_rsp_words : (Instr.cfgRsp 0 0 (List.replicate 6 0)).wf = false := by decide
/-- A report carries up to four words of detail (R547). -/
theorem test_wf_report_detail : (Instr.errReport ⟨0, 1, 0, 0, List.replicate 5 0⟩).wf = false := by decide
/-- The scope of a group is 0, 1 or 2 (R406). -/
theorem test_wf_prepare_scope : (Instr.cgPrepare 0 ⟨0, 0, 3, 0, []⟩).wf = false := by decide
/-- A group lists up to eight nodes (R406). -/
theorem test_wf_prepare_nodes : (Instr.cgPrepare 0 ⟨0, 0, 2, 0, List.replicate 9 0⟩).wf = false := by decide
/-- The reason of a NO is 0 to 4 (R407). -/
theorem test_wf_vote_reason : (Instr.cgVote 0 0 0 0 5 0).wf = false := by decide
/-- The reason of a discard is 1 to 5 (R408). -/
theorem test_wf_discard_reason : (Instr.cgDiscard 0 0 0).wf = false ∧ (Instr.cgDiscard 0 0 6).wf = false ∧ (Instr.cgDiscard 0 0 5).wf = true := by decide
/-- A trim period reads 56 temperatures (R177, R178). -/
theorem test_wf_trim_period : (Instr.trimPeriod (List.replicate 55 0)).wf = false := by decide
/-- The converters of a group are 0 to 127 and the spare, 128 (R184). -/
theorem test_wf_converter : (Instr.converterMeasure 0 0 0 129 (List.replicate 32 0)).wf = false ∧
    (Instr.converterMeasure 0 0 0 128 (List.replicate 32 0)).wf = true := by decide
/-- A converter converts four charges eight times each (R184). -/
theorem test_wf_converter_codes : (Instr.converterMeasure 0 0 0 127 (List.replicate 31 0)).wf = false := by decide
/-- A macro has 24 references (R185). -/
theorem test_wf_scan : (Instr.referenceScan 0 0 (List.replicate 23 0)).wf = false := by decide
/-- A window write carries one line (R144). -/
theorem test_wf_program_line : (Instr.pageProgram true 0 (List.replicate 15 0)).wf = false := by decide
/-- A window write carries one line (R144). -/
theorem test_wf_erase_line : (Instr.macroErase true 0 (List.replicate 17 0)).wf = false := by decide
/-- A task record is 64 bytes (R350). -/
theorem test_wf_submit_record : (Instr.submit 0 0 0 [List.replicate 8 0, List.replicate 7 0]).wf = false := by decide
/-- An append carries one line (R398). -/
theorem test_wf_append_line : (Instr.dramAppend 0 0 0 0 []).wf = false := by decide
/-- LAND carries whole lines (R493). -/
theorem test_wf_land_line : (Instr.land 0 0 [(0, List.replicate 16 0), (0, List.replicate 15 0)]).wf = false := by decide
/-- An OPEN carries 97 bytes of public key and 96 of signature (R529). -/
theorem test_wf_open_key : (Instr.openSession 0 0 ⟨0, 0, 0, 0, 0, 0, 0, 0, 0, 0, 0, 0, 0, List.replicate 96 0, 0, List.replicate 96 0⟩).wf = false ∧
    (Instr.openSession 0 0 ⟨0, 0, 0, 0, 0, 0, 0, 0, 0, 0, 0, 0, 0, List.replicate 97 0, 0, List.replicate 95 0⟩).wf = false := by decide
/-- A member record is 32 bytes (R516). -/
theorem test_wf_sync_member : (Instr.sync 0 0 [(0, [0, 0, 0])] []).wf = false := by decide
/-- A span entry has a header and a route (R507). -/
theorem test_wf_sync_span : (Instr.sync 0 0 [] [(0, [0])]).wf = false := by decide
/-- The rim dies that can fall silent are the link and memory dies (R553). -/
theorem test_wf_rim_silent : (Instr.rimSilent 32).wf = false ∧ (Instr.rimSilent 31).wf = true := by decide
/-- A supply fault names a domain 1 to 4 (R597). -/
theorem test_wf_supply_domain : (Instr.supplyFault 0 0 0).wf = false ∧ (Instr.supplyFault 5 0 0).wf = false ∧ (Instr.supplyFault 4 0 0).wf = true := by decide
/-- A supply fault is of kind 0 to 2 (R579). -/
theorem test_wf_supply_kind : (Instr.supplyFault 1 0 3).wf = false := by decide
/-- A hazard has a code 1 to 9 (R325). -/
theorem test_wf_hazard_code : (Instr.hazard 0 0).wf = false ∧ (Instr.hazard 0 10).wf = false ∧ (Instr.hazard 0 9).wf = true := by decide

/-! ### Worked examples of the specification -/

/-- Stream 9,300 is served by request engine 9 (R8). -/
theorem test_engine_of_stream : sidEng 9300 = 9 := by decide
/-- The tile window of the scratchpad word in the example under R28, and the register addresses of the example under R634. -/
theorem test_addresses : regAddr 0x1006882D4E58 = .tile 1672 0x2D4E58 ∧ regAddr 0x10068880D000 = .tile 1672 0x80D000 ∧
    regAddr 0x200000000050 = .svc 0x50 := by decide
/-- The tile at (40, 17) is site 1,672, in calibration block 11 (R14, R177). -/
theorem test_site : siteX 1672 = 40 ∧ siteY 1672 = 17 ∧ blockOf 1672 = 11 := by decide
/-- Row 17, column 300 of macro 523 on tier 6 under site 1,672 (R55). -/
theorem test_fabric_address : fabAddr 1672 (6 * 1024 + 523) 17 300 false = 0x1A23416452C := by decide
/-- The scale codes 0x68 and 0x7C are 0.25 and 1.5 (R103). -/
theorem test_scale_codes : widenSc8 0x68 = (0x3E800000, flNone) ∧ widenSc8 0x7C = (0x3FC00000, flNone) := by decide
/-- 16,777,217 lies halfway and converts to 2^24 with NX (R112). -/
theorem test_int_to_fp32 : cvtI32F32 16777217 = (0x4B800000, flNX) := by decide
/-- 455.0 and 464.0 convert to 448 with NX; 470.0 overflows (R115). -/
theorem test_fp32_to_e4m3 : cvtE4m3 true (dec32 0x43E38000) = (0x7E, flNX) ∧ cvtE4m3 true (dec32 0x43E80000) = (0x7E, flNX) ∧
    cvtE4m3 true (dec32 0x43EB0000) = (0x7E, flOF ||| flNX ||| flSAT) ∧ cvtE4m3 false (dec32 0x43EB0000) = (0x7F, flOF ||| flNX) := by decide
/-- 2^-10 is a tie and converts to +0 with UF and NX (R115). -/
theorem test_fp32_to_e4m3_small : cvtE4m3 true (dec32 0x3A800000) = (0, flUF ||| flNX) := by decide
/-- 127.5 rounds to 128 and is clamped; -128.5 rounds to -128; 127.9 truncates to 127 (R117). -/
theorem test_fp32_to_int8 : cvtI8 .rne (dec32 0x42FF0000) = (127, flSAT ||| flNX) ∧ cvtI8 .rne (dec32 0xC3008000) = (-128, flNX) ∧
    cvtI8 .rz (dec32 0x42FFCCCD) = (127, flNX) := by decide
/-- The trim of the example under R180: 14 with the sets +12 and +18, 15 with +12 and +20, at 71.25 °C. -/
theorem test_trim_target : trimTarget ⟨[0, 0, 12, 18, 0], 0, 0⟩ 1140 = 14 ∧ trimTarget ⟨[0, 0, 12, 20, 0], 0, 0⟩ 1140 = 15 := by decide
/-- The slot entry that sends 16 flits from the local input eastward from cycle 126 (the example under R207). -/
theorem test_slot_entry : slotCycles 0x14007807E = (List.range 16).map (126 + ·) ∧ entrySrc 0x14007807E 1 = 5 ∧
    entrySrc 0x14007807E 0 = 0 := by decide
/-- A worker strapped with POD_SLOT 9 and MGMT_ADDR 3 answers at 169.254.10.19 (the example under R601). -/
theorem test_management_address :
    (bootStraps { State.reset with svc := { Svc.reset with pins := BitVec.ofNat 18 (1 + 64 * 9 + 8192 * 3) } }).svc.mgmtIp4 = 0xA9FE0A13 := by
  decide
/-- A freeze at D2 in frame 1,000,000 stops at the boundary of frame 1,000,004 (the example under R618). -/
theorem test_stop_frame : (freezeStart 2 { State.reset with frames := 1000000, sec := { Sec.reset with level := 2 } }).svc.stopFrame = 1000004 := by
  decide
/-- The lane record of chunk 3 of stream 9,302 (the example under R368). -/
theorem test_lane_record : laneRecord 9302 Ctx.free ⟨96, 4, true, true⟩ 0 true = 0x000006004C802456 := by decide
/-- The page-table entry of page 215 (the example under R403). -/
theorem test_page_entry : waferPte 6 60 20480 0x2A5 = 0x02A5000014003C06 := by decide
/-- The first four words of the TOKEN record of stream 9,302 (the example under R433). -/
theorem test_ring_record :
    let c := { Ctx.free with gen := 3, log2n := 6 }
    let b := recBytes State.reset 9302 c ⟨1, 0, 1, 100, tokenBody c 48211 0 282⟩
    (List.range 4).map (fun i => leNat ((b.drop (8 * i)).take 8)) = [0x0001000324560101, 0x0000006400000000, 0xBC53, 0x11A] := by decide
/-- The tree of the worked example of the weight fabric: the block sums 11 and -100 give -9.203125. -/
theorem test_macro_tree : treeOut 0x3D80 [0x68, 0x7C, 0, 0] [11, -100, 0, 0] = 0xC1134000 := by decide

/-- The macro of the worked example of the weight fabric: W2, with the levels 3, 0 and 1 in rows 3, 17 and 40 of column 300. -/
def exampleMacro : Fabric :=
  { Fabric.reset with
    mt := [(0, { MEntry.fresh with fmt := 1, res := true })]
    pages := [(3, ⟨3 <<< 600, 0, 2⟩), (40, ⟨1 <<< 600, 0, 2⟩)] }
/-- The activations of the worked example. -/
def exampleLine : List Byte := lupd (lupd (lupd (List.replicate 128 0) 3 (fun _ => 5)) 17 (fun _ => 0xFD)) 40 (fun _ => 100)

/-- The plane sums of block 0 (R63, R64). -/
theorem test_plane_sums : (List.range 8).map (fun b => (planeSum exampleMacro 0 (mtGet exampleMacro 0) exampleLine 0 b 300).p) =
    [-1, 0, -1, -2, -2, -2, -2, -2] := by decide +kernel
/-- The plane sums of block 1 (R63, R64). -/
theorem test_plane_sums_one : (List.range 8).map (fun b => (planeSum exampleMacro 0 (mtGet exampleMacro 0) exampleLine 1 b 300).p) =
    [0, 0, -1, 0, 0, -1, -1, 0] := by decide +kernel
/-- The block sum of block 0 (R65). -/
theorem test_block_sum : blockRaw ([-1, 0, -1, -2, -2, -2, -2, -2].map (fun p => ⟨p, []⟩)) = 11 := by decide

/-- The buffer of the example under R302: the key in column 7, with its group scales. -/
def exampleBuffer : SBuf :=
  { SBuf.clear with
    words := [(112, ⟨0x3C, false⟩), (117, ⟨0x40, false⟩)]
    scales := [(3, ⟨0x7C6800000000, false⟩)]
    ef := 1
    gm := 1
    valid := true }
/-- The score of a query against a KV8 key (R299, R300). -/
theorem test_key_score :
    let t := { Tile.reset with da := { DArr.reset with pairs := [(2, ⟨0x3F000000, false⟩), (3, ⟨0x3DB50000, false⟩)] } }
    let a : List (FVal × Bool) := lupd (lupd (List.replicate 128 (decInt 0, false)) 0 (fun _ => (decInt 10, false))) 40 (fun _ => (decInt (-3), false))
    let r := mulLane t exampleBuffer true ⟨false, 0, 0, 0, 0, 1⟩ a 7
    (r.term, r.flags) = (0xBE6D9000, flNone) := by decide +kernel
/-- A diagnostic record of twelve pairs begins with 0xAC (R566). -/
theorem test_record_head : cborHead 5 12 = [0xAC] := by decide

/-! ### The hypotheses of the obligations are met: the control core -/

/-- The module after reset with one tile. -/
def tileState (site : Nat) (t : Tile) : State := { State.reset with grid := { Grid.reset with tiles := [(site, t)] } }

/-- A tile whose core runs, with g1 = 8, g2 = 5, g5 beyond the scratchpad, g6 marked, name 2 VALID, and landing window 3 short of credits. -/
def coreTile : Tile :=
  { Tile.reset with
    cc := { CCore.reset with st := .running, g := [(1, ⟨8, false⟩), (2, ⟨5, false⟩), (5, ⟨0x800000, false⟩), (6, ⟨1, true⟩)] }
    seq := { Seqr.reset with names := [(2, 1 <<< 63)] }
    pad := { Pad.reset with win := [(3, { winGet Pad.reset 3 with typ := 1, quota := 8, credits := 4 })] } }
/-- The module with that tile at site 97. -/
def coreState : State := tileState 97 coreTile
/-- An instruction of that core in cycle 100, with guard p0. -/
def coreHdr : CcHdr := ⟨97, 100, 0⟩

/-- Every instruction on unmarked registers runs (RegisterInstructionsCompute, PredicatesAndJumpsDecide, MessagesAndSystemRegisters). -/
theorem test_core_runs : CcRuns coreHdr [1, 2] [3] coreState ∧ CcRuns coreHdr [1] [3] coreState ∧ CcRuns coreHdr [] [3] coreState ∧
    CcRuns coreHdr [] [] coreState ∧ CcRuns coreHdr [] [31] coreState ∧ CcRuns coreHdr [1] [] coreState ∧
    CcRuns coreHdr [1, 2] [] coreState := by
  refine ⟨?_, ?_, ?_, ?_, ?_, ?_, ?_⟩ <;> exact ⟨⟨by decide +kernel, by decide +kernel⟩, by decide +kernel, by decide +kernel, by decide +kernel⟩
/-- The divider is free (DivisionTakesItsTime). -/
theorem test_divider_free : (ccTile coreHdr coreState).cc.div = none := by decide +kernel
/-- A division that is due completes (DivisionTakesItsTime). -/
theorem test_division_due :
    let s := tileState 97 { coreTile with cc := { coreTile.cc with div := some ⟨false, 4, 7, 2, 124⟩ } }
    tileLive s 97 = true ∧ (tileNow s 97 124).1.cc.div = some ⟨false, 4, 7, 2, 124⟩ ∧ 124 ≤ cycAt s 124 := by decide +kernel
/-- The targets of a jump lie inside, at both ends (PredicatesAndJumpsDecide). -/
theorem test_jump_targets :
    (0 : Int) ≤ coreTile.cc.pc.toNat + (0 : BitVec 22).toInt ∧ (coreTile.cc.pc.toNat : Int) + (16383 : BitVec 22).toInt < 16384 ∧
    (gVal (ccTile coreHdr coreState).cc 1 + (2047 : BitVec 12).signExtend 64).toNat < 16384 := by decide +kernel
/-- A stalled core whose target is reached goes on (PredicatesAndJumpsDecide). -/
theorem test_wait_ends :
    let s := tileState 97 { coreTile with cc := { coreTile.cc with wait := some 0 } }
    tileLive s 97 = true ∧ (tileNow s 97 3).1.cc.wait = some 0 ∧
    (0 : BitVec 15).toNat ≤ beatCyc (tileNow s 97 3).1 (cycAt s 3) := by decide +kernel
/-- A load and a store of a word inside the scratchpad (LoadsAndStoresReachTheBank). -/
theorem test_load_address :
    let a : Word := gVal (ccTile coreHdr coreState).cc 1 + (1 : BitVec 12).signExtend 64 * 8
    a.toNat < 0x800000 ∧ a.toNat % 8 = 0 ∧ (ccTile coreHdr coreState).pad.storeQ.length < 8 := by decide +kernel
/-- A load whose bank read is due, and a store that drains (LoadsAndStoresReachTheBank). -/
theorem test_load_read_and_drain :
    let s := tileState 97 { coreTile with
      cc := { coreTile.cc with loads := [⟨3, 5, 99, none⟩] }
      pad := { coreTile.pad with storeQ := [(98, 7, 1)] } }
    tileLive s 97 = true ∧ (tileNow s 97 101).1.cc.loads = [⟨3, 5, 99, none⟩] ∧ cycAt s 101 % 2 = 1 ∧ 99 + 2 ≤ cycAt s 101 ∧
    (tileNow s 97 100).1.pad.storeQ = [(98, 7, 1)] ∧ cycAt s 100 % 2 = 0 ∧ 98 + 2 ≤ cycAt s 100 ∧
    portUsed (tileNow s 97 100).1.pad (bankOf (BitVec.ofNat 16 (7 / 16))) (cycAt s 100) = false := by decide +kernel
/-- Descriptors, credits and messages find room; name 2 is VALID and name 3 is not; window 3 lands lines and window 4 does not
(MessagesAndSystemRegisters). -/
theorem test_message_room :
    let t := ccTile coreHdr coreState
    t.cc.descQ.length < 32 ∧ (winGet t.pad 3).typ = 1 ∧
    0 < min ((gVal t.cc 1).toNat % 65536) ((winGet t.pad 3).quota.toNat - (winGet t.pad 3).credits.toNat) ∧ t.cc.lathQ.length < 4 ∧
    (winGet t.pad 4).typ ≠ 1 ∧ nameValid t 2 = true ∧ nameValid t 3 = false := by decide +kernel
/-- The sources of an LSEND of up to 4 words, up to g31 (MessagesAndSystemRegisters). -/
theorem test_message_sources : CcRuns coreHdr ((List.range 4).map (fun i => (28 : BitVec 5) + BitVec.ofNat 5 i)) [] coreState :=
  ⟨⟨by decide +kernel, by decide +kernel⟩, by decide +kernel, by decide +kernel, by decide +kernel⟩
/-- A core that issues with guard 1, with an address beyond the scratchpad, a misaligned one, jumps outside, and a marked source
(FaultsAndGuardsHoldTheCore). -/
theorem test_core_faults :
    let t := ccTile coreHdr coreState
    CcIssues coreHdr coreState ∧ guardOn t.cc coreHdr.g = true ∧ CcRuns coreHdr [5] [3] coreState ∧ CcRuns coreHdr [2] [3] coreState ∧
    CcRuns coreHdr [5, 2] [] coreState ∧ CcRuns coreHdr [2, 1] [] coreState ∧
    0x800000 ≤ (gVal t.cc 5 + (0 : BitVec 12).signExtend 64 * 8).toNat ∧
    (gVal t.cc 2 + (0 : BitVec 12).signExtend 64 * 8).toNat < 0x800000 ∧ (gVal t.cc 2 + (0 : BitVec 12).signExtend 64 * 8).toNat % 8 ≠ 0 ∧
    16384 ≤ (gVal t.cc 5 + (0 : BitVec 12).signExtend 64 : Word).toNat ∧
    ¬(0 ≤ (t.cc.pc.toNat : Int) + (0x3FFFFF : BitVec 22).toInt ∧ (t.cc.pc.toNat : Int) + (0x3FFFFF : BitVec 22).toInt < 16384) ∧
    (∀ r ∈ [6, 1, 3], regBusy t.cc (cycAt coreState coreHdr.k) r = false) ∧ (gGet t.cc 6).poison = true := by
  refine ⟨⟨by decide +kernel, by decide +kernel⟩, by decide +kernel, ?_, ?_, ?_, ?_, by decide +kernel, by decide +kernel, by decide +kernel,
    by decide +kernel, by decide +kernel, by decide +kernel, by decide +kernel⟩ <;>
  exact ⟨⟨by decide +kernel, by decide +kernel⟩, by decide +kernel, by decide +kernel, by decide +kernel⟩
/-- An instruction that issues with guard 0 (FaultsAndGuardsHoldTheCore). -/
theorem test_core_guard_off : CcIssues ⟨97, 100, 8⟩ coreState ∧ guardOn (ccTile ⟨97, 100, 8⟩ coreState).cc 8 = false :=
  ⟨⟨by decide +kernel, by decide +kernel⟩, by decide +kernel⟩

/-! ### The hypotheses of the obligations are met: the slot sequencer, the dense array and the finish unit -/

/-- A tile whose stencil runs, with lane 0 active and lane 1 not, one read request, a VALID macro map entry for a resident macro and
one for a macro that is not resident. -/
def seqTile : Tile :=
  { Tile.reset with
    mesh := { Mesh.reset with run := true }
    seq := { Seqr.reset with laneAct := [(0, 0x800007)], reqs := [⟨99, 5, 2⟩], macroMap := [(0, 0x8000), (1, 0x8001)] }
    fab := { Fabric.reset with mt := [(0, { MEntry.fresh with fmt := 1, res := true }), (1, { MEntry.fresh with fmt := 1 })] } }
/-- The module with a tile at site 97. -/
def seqState (t : Tile) : State := tileState 97 t
/-- An entry in cycle 100 on a lane. -/
def seqHdr (lane : BitVec 6) : SeqHdr := ⟨97, 7, 7, 100, lane, true, 0, 0⟩
/-- Its run-time form: on lane 0 active, on lane 1 idle. -/
def seqForm (lane : BitVec 6) : SeqRun := ⟨100, lane, if lane = 0 then 7 else 0, 0, false, decide (lane ≠ 0)⟩
/-- The tile in that cycle. -/
def seqNow (t : Tile) : Tile := (tileSync 97 100 t).1
/-- What it has sent by that cycle. -/
def seqSent (t : Tile) : List TOut := (tileSync 97 100 t).2

/-- An entry on the active lane and one on the idle lane run (SequencerEntriesAct, MacroOperationsStartAndComplete). -/
theorem test_entries_run : SeqRuns (seqHdr 0) (seqState seqTile) (seqForm 0) (seqNow seqTile) (seqSent seqTile) ∧
    SeqRuns (seqHdr 1) (seqState seqTile) (seqForm 1) (seqNow seqTile) (seqSent seqTile) :=
  ⟨⟨by decide +kernel, ⟨seqForm 0, by decide +kernel, rfl⟩, by decide +kernel⟩,
    ⟨by decide +kernel, ⟨seqForm 1, by decide +kernel, rfl⟩, by decide +kernel⟩⟩
/-- An entry without a lane group, and one without a base register, runs too (SequencerEntriesAct). -/
theorem test_entries_run_plain :
    SeqRuns { seqHdr 0 with lg := false } (seqState seqTile) (seqForm 0) (seqNow seqTile) (seqSent seqTile) ∧
    SeqRuns { seqHdr 0 with lg := false, bsel := 0 } (seqState seqTile) (seqForm 0) (seqNow seqTile) (seqSent seqTile) :=
  ⟨⟨by decide +kernel, ⟨seqForm 0, by decide +kernel, rfl⟩, by decide +kernel⟩,
    ⟨by decide +kernel, ⟨seqForm 0, by decide +kernel, rfl⟩, by decide +kernel⟩⟩
/-- The cycle is even, the L input is free, no REP covers the entry, and a window of one cycle holds a request where a window
of a tile without requests holds none (SequencerEntriesAct). -/
theorem test_entry_conditions :
    (seqForm 0).cyc % 2 = 0 ∧ (seqForm 0).idle = false ∧ (seqForm 1).idle = true ∧ (seqNow seqTile).seq.lUse.contains 102 = false ∧
    (seqNow seqTile).seq.lUse.contains 103 = false ∧ repOf (seqNow seqTile) 7 = none ∧
    (lTake (dropReqs 100 (seqNow seqTile)) 100 102).seq.reqs.filter (fun r => decide (100 - 1 ≤ r.cyc) && decide (r.cyc < 100)) = [⟨99, 5, 2⟩] ∧
    (lTake (dropReqs 100 (seqNow Tile.reset)) 100 102).seq.reqs.filter (fun r => decide (100 - 1 ≤ r.cyc) && decide (r.cyc < 100)) = [] := by
  decide +kernel
/-- A release is on time with COUNT 0 and late with COUNT 1 where no line has arrived (SequencerEntriesAct). -/
theorem test_release_late :
    decide (arrGet (winGet (seqNow seqTile).pad 0) 0 < 0) = false ∧ decide (arrGet (winGet (seqNow seqTile).pad 0) 0 < 1) = true := by
  decide +kernel
/-- A macro operation may start on macro 0, and is refused on macro 1, which is not resident (MacroOperationsStartAndComplete). -/
theorem test_macro_starts :
    let r := mopReads (seqHdr 0) (seqForm 0) 0 0 0 (seqNow seqTile)
    macroOf r.1 0 0 = some 0 ∧ entryRuns (mtGet r.1.fab 0) = true ∧ limitsOk r.1.fab 0 100 = true ∧
    macroOf r.1 0 1 = some 1 ∧ r.1.pad.hazOn = false ∧ entryRuns (mtGet r.1.fab 1) = false ∧ (mtGet r.1.fab 1).fmt ≠ 0 := by
  decide +kernel
/-- A second operation of a macro within its 64 cycles is beyond the limits (MacroOperationsStartAndComplete). -/
theorem test_macro_limits :
    let t := { seqTile with fab := { seqTile.fab with act := [(60, 0)] } }
    let r := mopReads (seqHdr 0) (seqForm 0) 0 0 0 (seqNow t)
    macroOf r.1 0 0 = some 0 ∧ r.1.pad.hazOn = false ∧ entryRuns (mtGet r.1.fab 0) = true ∧ limitsOk r.1.fab 0 100 = false := by
  decide +kernel
/-- An operation completes 76 cycles after its start, and a clip report waits (MacroOperationsStartAndComplete). -/
theorem test_macro_completes :
    let s := tileState 97 { seqTile with fab := { seqTile.fab with ops := [⟨24, 0, 0, [], 0⟩], clipDue := some (1, 0) } }
    tileLive s 97 = true ∧ (tileNow s 97 100).1.fab.ops = [⟨24, 0, 0, [], 0⟩] ∧ 24 + 76 ≤ cycAt s 100 ∧
    (tileAt s 97).fab.clipDue = some (1, 0) := by decide +kernel

/-- The first dense-array entry of a cycle runs (DenseArrayEntriesAct). -/
theorem test_dense_entry_runs : DaRuns (seqHdr 0) (seqState seqTile) (seqForm 0) (seqNow seqTile) (seqSent seqTile) :=
  ⟨test_entries_run.1, by decide, by decide +kernel, by decide⟩
/-- A load and a multiply that complete (DenseArrayEntriesAct). -/
theorem test_dense_completes :
    let s := tileState 97 { seqTile with
      da := { DArr.reset with load := some ⟨false, 0, 16, 98, 33, true, false, 0⟩, muls := [⟨88, 0, 0, []⟩] } }
    tileLive s 97 = true ∧ (tileNow s 97 100).1.da.load = some ⟨false, 0, 16, 98, 33, true, false, 0⟩ ∧
    98 + 2 * ((16 + 15) / 16) ≤ cycAt s 100 ∧ (tileNow s 97 100).1.da.muls = [⟨88, 0, 0, []⟩] ∧ 88 + 12 ≤ cycAt s 100 := by
  decide +kernel

/-- The first finish-unit entry of a cycle runs (FinishUnitArithmetic, FinishUnitIntegersAndMoves, FinishUnitMemory,
IllegalFinishEntriesAreReported). -/
theorem test_finish_entry_runs : FuRuns (seqHdr 0) (seqState seqTile) (seqForm 0) (seqNow seqTile) (seqSent seqTile) :=
  ⟨test_entries_run.1, by decide +kernel, by decide⟩
/-- Rounding modes, a conversion, formats and selectors that are legal, and a reserved mode (FinishUnitArithmetic,
FinishUnitMemory, IllegalFinishEntriesAreReported). -/
theorem test_finish_fields :
    rmOf 0 = some .rne ∧ (fcvt 0 .rne false 0).isSome = true ∧ efmtOf 6 = some .int32 ∧ hOk (efmtBits .int32) 0 = true ∧
    storeRmOk .int32 .rne = true ∧ bfmtOf 8 = some .a8 ∧ selOk .a8 63 = true ∧ bfmtOf 11 = some .kv4 ∧ selOk .kv4 126 = true ∧
    hOk (bfmtBits .a8) 1 = true ∧ hOk (bfmtBits .kv4) 3 = true ∧ rmOf 3 = none ∧ (seqNow seqTile).pad.hazOn = false := by
  decide +kernel
/-- Registers that VTOPM may name (FinishUnitIntegersAndMoves). -/
theorem test_sort_registers : (30 : BitVec 5).toNat % 2 = 0 ∧ (0 : BitVec 5) ≠ 1 ∧ (0 : BitVec 5).toNat / 2 ≠ (30 : BitVec 5).toNat / 2 ∧
    (1 : BitVec 5).toNat / 2 ≠ (30 : BitVec 5).toNat / 2 := by decide

/-! ### The hypotheses of the obligations are met: the mesh -/

/-- A flit on its way to the west input of site 97 in cycle 5. -/
def testFlit (kind : BitVec 3) (line : BitVec 16) (rel src : Byte) : Flit :=
  { sid := 0, lane := 0, kind := kind, line := line, wen := 0xFFFF, rel := rel, src := src, tag := 0, err := false,
    words := List.replicate 16 RWord.zero, crcOk := true }
/-- The module with that flit and a router at site 97. -/
def meshState (cfg : Word) (m : Mesh) : State :=
  { State.reset with grid := { Grid.reset with
    tiles := [(97, { Tile.reset with mesh := { m with portCfg := cfg } })]
    flits := [⟨97, 3, 5, testFlit 1 0 0 0⟩] } }

/-- A flit reaches a port that receives, a fenced one, and one that an active entry names (FlitsReachTheirOutputs). -/
theorem test_flit_ports :
    let s := meshState 0 Mesh.reset
    (s.grid.flits.find? (fun f => f.site == 97 && f.port == 3 && f.cyc == cycAt s 5)).isSome = true ∧ routerLive s 97 = true ∧
    portOn (tileNow s 97 5).1 3 = true ∧ portFenced (tileNow s 97 5).1 3 = false ∧ slotOuts (tileNow s 97 5).1.mesh 5 3 = [] ∧
    portFenced (tileNow (meshState 0x8000000 Mesh.reset) 97 5).1 3 = true ∧
    slotOuts (tileNow (meshState 0 { Mesh.reset with run := true, slots := [(0, 5 + 4 * 2 ^ 30)], sets := 1 <<< 13 }) 97 5).1.mesh 5 3 = [1] := by
  decide +kernel
/-- A bank cycle writes what was ejected before it (FlitsReachTheirOutputs). -/
theorem test_ejection_cycle : tileLive (meshState 0 Mesh.reset) 97 = true ∧ cycAt (meshState 0 Mesh.reset) 5 % 2 = 1 := by decide +kernel

/-- A tile whose window 0 lands 64 lines of link die 2, and whose window 1 lands 64 without credits; window 2 is resident. -/
def landTile : Tile :=
  { Tile.reset with pad := { Pad.reset with win := [
    (0, { Win.none with lines := 64, typ := 1, source := 2, quota := 8, credits := 8, nextRel := 10 }),
    (1, { Win.none with base := 64, lines := 64, typ := 1, source := 2, quota := 8, nextRel := 10 }),
    (2, { Win.none with base := 128, lines := 64, typ := 2 })] } }
/-- Lines in no window, in a window that lands none, from another source, too late, too early, without credit, and accepted, each at
the ends of its range (CreditedLinesAreChecked). -/
theorem test_credited_lines :
    let d := fun (n : Nat) (rel : Byte) => ((testFlit 4 0 rel 2).rel - (winGet landTile.pad n).nextRel).toNat
    (testFlit 4 0 0 2).kind = kCred ∧ winOf landTile.pad 192 = none ∧ winOf landTile.pad 191 = some 2 ∧ (winGet landTile.pad 2).typ ≠ 1 ∧
    winOf landTile.pad 63 = some 0 ∧ winOf landTile.pad 64 = some 1 ∧ (winGet landTile.pad 0).typ = 1 ∧
    (winGet landTile.pad 0).source ≠ (testFlit 4 0 0 3).src ∧ (winGet landTile.pad 0).source = (testFlit 4 0 0 2).src ∧
    d 0 138 = 128 ∧ d 0 9 = 255 ∧ d 0 137 = 127 ∧ d 0 14 = 4 ∧ d 0 13 = 3 ∧ d 0 10 = 0 ∧
    (winGet landTile.pad 0).credits ≠ 0 ∧ (winGet landTile.pad 1).credits = 0 := by decide +kernel
/-- A link die injects a line for a tile whose stencil runs (LinesComeFromTheRimAndFromReads). -/
theorem test_rim_line :
    let s := { State.reset with grid := { Grid.reset with
      tiles := [(4, { Tile.reset with mesh := { Mesh.reset with run := true } })]
      cal := [(0, [⟨0, 5, 97⟩])]
      rimQ := [(0, [⟨97, 3, 0, []⟩])] } }
    rimSite 0 0 = some 4 ∧
    (sget [] s.grid.cal 0).find? (fun e => e.port == 0 && e.cyc == cycAt s 5 - 2048 * (tileAt s 4).mesh.beatAt) = some ⟨0, 5, 97⟩ ∧
    (tileAt s 4).mesh.run = true ∧ gridStopped s = false ∧ takeFor 97 (sget [] s.grid.rimQ 0) = some (⟨97, 3, 0, []⟩, []) ∧
    mayWrite s 0 ⟨97, 3, 0, []⟩ = true := by decide +kernel
/-- A read reply whose line is the one asked for, and one whose line is not (LinesComeFromTheRimAndFromReads). -/
theorem test_read_reply :
    (testFlit 3 0 0 0).kind = kRdRep ∧ Tile.reset.pad.hazOn = false ∧ (testFlit 3 0 0 0).err = false ∧
    (testFlit 3 0 0 0).line = (sget (⟨0, 0⟩ : ReadRet) Tile.reset.seq.retn 0).src ∧
    (testFlit 3 9 0 0).line ≠ (sget (⟨0, 0⟩ : ReadRet) Tile.reset.seq.retn 0).src ∧ { testFlit 3 0 0 0 with err := true }.err = true := by
  decide +kernel

/-! ### The hypotheses of the obligations are met: lath, commit groups, registers and boundaries -/

/-- A heartbeat of site 97 to its hub, with a given epoch. -/
def beatMsg (typ : Nat) (epoch : BitVec 16) : List Byte := lathMsg (hubOf State.reset 0) 0 97 2 typ epoch [0]
/-- The module in which site 97 has sent that heartbeat and `fails` acknowledgements of it were lost. -/
def sentState (fails : Nat) : State :=
  { State.reset with lath := { Lath.reset with sent := [⟨97, 98, beatMsg 0x11 0, fails⟩] } }

/-- A message with a failing CRC, one of a reserved type, one that the hub hears and one whose epoch is stale
(LathMessagesAndHeartbeatsAreHeard). -/
theorem test_lath_messages :
    let s1 := { sentState 0 with lath := { (sentState 0).lath with sent := [] } }
    msgOk (beatMsg 0x11 0 ++ [0]) = false ∧ msgOk (beatMsg 0x3F 0) = true ∧
    msgType (beatMsg 0x3F 0) ∉ [1, 2, 3, 8, 9, 10, 11, 0x10, 0x11, 0x18, 0x20, 0x21, 0x22, 0x28] ∧ msgOk (beatMsg 0x11 1) = true ∧
    msgType (beatMsg 0x11 1) = 0x11 ∧ heardBy s1 (hubOf s1 0) (beatMsg 0x11 0) = true ∧ heardBy s1 (hubOf s1 0) (beatMsg 0x11 1) = false := by
  decide +kernel
/-- An acknowledgement is lost for the third and for the fourth time (LathMessagesAndHeartbeatsAreHeard). -/
theorem test_lath_acks :
    let mine := fun (m : LSent) => m.sender == 97 && m.receiver == 98
    (sentState 2).lath.sent.find? mine = some ⟨97, 98, beatMsg 0x11 0, 2⟩ ∧ (sentState 3).lath.sent.find? mine = some ⟨97, 98, beatMsg 0x11 0, 3⟩ := by
  decide +kernel
/-- A member, its hub, and an epoch that agrees with the hub's copy and one that does not (LathMessagesAndHeartbeatsAreHeard). -/
theorem test_lath_nodes : nodeBlock 97 = some 0 ∧ (97 : Nat) ≠ hubOf State.reset 0 ∧ nodeBlock (hubOf State.reset 0) = some 0 ∧
    hubOf State.reset 0 ≠ 8096 ∧ epochCopy (lathDone 97 0x11 State.reset) 97 = 0 := by decide +kernel
/-- A tile that may be fenced, a rim die, a fenced site, and a site whose fence waits in a group (FencesTakeEffectByGroup). -/
theorem test_fence_states :
    let s := { State.reset with cg := { Cg.reset with parts := [⟨8096, 1, [.fence 97 true], 0, false, 0, .none⟩] } }
    isFenced State.reset 97 = false ∧ isFenced State.reset 3840 = true ∧ State.reset.cg.parts = [] ∧
    s.cg.parts.any (fun p => p.items.any (fun i => match i with | .fence z _ => z == 97 | _ => false)) = true := by decide +kernel

/-- A participant of group 7 with one shadow write. -/
def testPart (prepared : Bool) (decision : CgEnd) : CgPart := ⟨97, 7, [.word 97 0x850000 1], 0, prepared, 9, decision⟩
/-- Group 7 with the participants 97 and 98. -/
def testGroup (yes : BitVec 16) (decision : CgEnd) : CgGroup := ⟨7, 9, 0, 0, [97, 98], false, true, [97, 98], yes, 0, 0, false, false, decision⟩
/-- The module with that group. -/
def groupState (yes : BitVec 16) (prepared : Bool) (decision : CgEnd) : State :=
  { State.reset with cg := { Cg.reset with
    groups := [testGroup yes decision]
    parts := [testPart prepared decision] } }

/-- A participant that receives its PREPARE, one that refused and one that is stopped (CommitGroupsAreVotedAndDecided). -/
theorem test_prepare :
    let a : PrepArgs := ⟨7, 9, 0, 0, [97, 98]⟩
    let s1 := cgSent a (groupState 0 false .none)
    groupAt s1.cg a.cgid = some (testGroup 0 .none) ∧ 97 ∈ (testGroup 0 .none).parts ∧ partAt s1.cg 97 a.cgid = some (testPart false .none) ∧
    nodeStopped s1 97 = false ∧ nodeStopped (tileState 97 { Tile.reset with cc := { CCore.reset with st := .stopped } }) 97 = true := by
  decide +kernel
/-- The last vote of a block at its hub, one before the last, and a combined vote that was sent (CommitGroupsAreVotedAndDecided). -/
theorem test_votes :
    let s := groupState 0 true .none
    let h := hubOf s 0
    let c := hubPut ⟨h, 7, 1, 0, 0, [97], false⟩ s.cg
    nodeBlock h = some 0 ∧ h ≠ 8096 ∧ (hubVote s.cg h 7).sent = false ∧ 97 ∉ (hubVote s.cg h 7).voted ∧ blockParts s.cg 7 0 = [97, 98] ∧
    (∀ n ∈ blockParts c 7 0, n ∈ (hubVote c h 7).voted ++ [98]) ∧ 98 ∈ blockParts s.cg 7 0 ∧ 98 ∉ (hubVote s.cg h 7).voted ++ [97] ∧
    (hubVote (hubPut ⟨h, 7, 2, 0, 0, [97, 98], true⟩ s.cg) h 7).sent = true := by decide +kernel
/-- A group that every participant accepts, and one that lacks a vote (CommitGroupsAreVotedAndDecided). -/
theorem test_decisions : groupAt (groupState 2 true .none).cg 7 = some (testGroup 2 .none) ∧ decisionOf (testGroup 2 .none) = 0 ∧
    decisionOf (testGroup 1 .none) ≠ 0 ∧ (testGroup 2 .none).decision = .none ∧ (testGroup 2 .none).prepared = true := by decide +kernel
/-- APPLY before its frame, at the last frame that is in time; a participant that is not prepared (CommitGroupsAreVotedAndDecided). -/
theorem test_apply_in_time : partAt (groupState 2 true .none).cg 97 7 = some (testPart true .none) ∧
    (frameCtr (groupState 2 true .none)).toNat + 1 ≤ (1 : BitVec 48).toNat ∧
    partAt (groupState 2 false .none).cg 97 7 = some (testPart false .none) ∧ (testPart true .none).decision ≠ .apply := by decide +kernel

/-- A report that is in flight, the intake queue with one place left and full (ReportsAreLogged). -/
theorem test_report_intake :
    let a : RptArgs := ⟨97, 0x0E, 0, 5, []⟩
    let f := fun (n : Nat) => { Flt.reset with
      flight := [rptOf a]
      intake := List.replicate n (rptOf a) }
    rptOf a ∈ (f 63).flight ∧ (f 63).intake.length < 64 ∧ rptOf a ∈ (f 64).flight ∧ 64 ≤ (f 64).intake.length := by decide +kernel
/-- A report that coalesces, one that does not, and a full log (ReportsAreLogged). -/
theorem test_report_logged :
    let r : Rpt := ⟨0x0E, 0, 5, [], 97⟩
    let f := logPut { Flt.reset with wr := 1 } 0 ⟨0, 0, 1, 0x0E, 0, 97, 5, []⟩
    coalesces r 999999 (logAt f 0) = true ∧ coalesces r 1000000 (logAt f 0) = false ∧ (f.wr - f.rd).toNat ≠ 4096 ∧
    ({ f with wr := 4096 }.wr - f.rd).toNat = 4096 := by decide +kernel

/-- A word that may be read and written, one and 512 words, and a RETIRED module, which refuses them
(WordsAreReadAndWrittenByAddress). -/
theorem test_words_by_address :
    let s := State.reset
    let r := { s with sec := { s.sec with lc := 3 } }
    (0x200000030000 : BitVec 48).toNat % 8 = 0 ∧ s.svc.warming = false ∧ mayRead s 0x200000030000 = true ∧ regMayWrite s 0x200000030000 = true ∧
    (∀ i < 512, mayRead s (8 * i) = true ∧ regMayWrite s (8 * i) = true) ∧ mayRead r 0 = false ∧ (regReads 0x200000030000 1 s).1.map (fun x => x.2.2) = [true] ∧
    (∃ x ∈ (regReads 0x240000000000 1 s).1, x.2.2 = false) := by decide +kernel
/-- An open session of a kind: 0 the host of tenant 5, 1 an operator, 2 a module. -/
def testSession (kind : BitVec 2) : Session :=
  { mac := 0, ip4 := 0, ip6h := 0, ip6l := 0, agent := 7, aepoch := 3, tenant := 5, kind := kind, sub := 0, alt := 0, window := 64, rto := 100,
    regBase := 0x1000, regLen := 0x1000, keyId := 0, key := 0, data := KChan.reset, ctrl := KChan.reset, rate := 0, silent := 0, prov := false,
    upper := false, span := 0 }
/-- The module with that session as number 0. -/
def sessState (kind : BitVec 2) : State :=
  { State.reset with ld := [(0, { LinkDie.reset with sess := [(0, some (testSession kind))] })] }
/-- An operator's session (WordsAreReadAndWrittenByAddress). -/
theorem test_operator_session : sessAt (sessState 1) (0 : SessId).toNat = some (testSession 1) ∧ (testSession 1).kind = 1 := by decide +kernel
/-- A tile that a select tag names, one that it does not, and writes at the ends of the form (WordsAreReadAndWrittenByAddress). -/
theorem test_cfg_selects :
    let s := tileState 97 { Tile.reset with seq := { Seqr.reset with selTags := [(3, 9)] } }
    selects s 97 9 = true ∧ selects s 97 8 = false ∧ selects s 97 0 = true ∧ selects s 8080 8 = true ∧
    (0xFFFFD8 : BitVec 24).toNat + 8 * 5 ≤ 2 ^ 24 ∧ ¬ (0xFFFFE0 : BitVec 24).toNat + 8 * 5 ≤ 2 ^ 24 := by decide +kernel
/-- A tile that answers (RegisterWritesTakeEffect). -/
theorem test_tile_answers : tileThere State.reset 97 = true ∧ gridStopped State.reset = false := by decide +kernel

/-- A frame that runs, a frozen module, a freeze at its stop frame, one before it, and a module without power
(FrameBoundariesDoWhatIsDue). -/
theorem test_frame_conditions :
    State.reset.svc.frz = 0 ∧ State.reset.pwr.act ≠ 4 ∧ State.reset.pod.align = false ∧
    (let v := { State.reset.svc with
        frz := 1
        stopFrame := 9 }
     v.stopFrame.toNat ≤ 9 % 2 ^ 48 ∧ 8 % 2 ^ 48 < v.stopFrame.toNat) := by decide +kernel
/-- A group that applies whole and one that missed its decision (ApplyBoundariesAreAtomic). -/
theorem test_apply_boundary :
    let s := groupState 2 true .apply
    let u := groupState 2 true .none
    groupAt s.cg 7 = some (testGroup 2 .apply) ∧ s.cg.parts.filter (fun p => p.cgid == 7) = [testPart true .apply] ∧
    (∀ i ∈ (testPart true .apply).items, itemVoid s i = false) ∧ dusted s 97 = false ∧ groupAt u.cg 7 = some (testGroup 2 .none) ∧
    u.cg.parts.filter (fun p => p.cgid == 7) = [testPart true .none] ∧ (∀ i ∈ (testPart true .none).items, itemVoid u i = false) ∧
    dusted u 97 = false ∧ (97 : Nat) ≠ 8096 := by decide +kernel

/-- The header of an image. -/
def testHdr : ImgHeader := ⟨0, 1, 0x11, 1, 0, 0, 0, 0, 0, 0, 0, 0, 0, 0⟩
/-- A region of pipeline 0 and model 0, two tiles wide and one high. -/
def testRegion (id role pos : Nat) : ImgRegion := ⟨id, role, 0, 0, pos, 4, 1, 16, 0, 0, false, [⟨2, 1, 4, 1, 1, 0, 0⟩]⟩
/-- An image with an ENTRY region and a LAYER region of model 0. -/
def testImg : Image :=
  { hdr := testHdr, sects := [], models := [⟨0, 2, 1, 0x22, 0, [⟨0, 2, 1⟩]⟩], regions := [testRegion 1 0 0, testRegion 2 1 1],
    profiles := [⟨0, 2, 0, 4, [0, 0]⟩], tiles := [], blobs := [], macros := [], skims := [], plans := [], rims := [], span := none, alts := [] }
/-- Its course, with the ENTRY region at (12, 1) and the LAYER region at (15, 1). -/
def testCourse : Course := ⟨0, 12, 1, 6, 1, [⟨0, 0, 12, 1, [], 1⟩, ⟨1, 0, 15, 1, [], 1⟩], false⟩
/-- The module with that image in force. -/
def imgState : State :=
  { State.reset with
    load := { Load.reset with img := some testImg }
    plc := { Plc.reset with courses := [testCourse] } }

/-- The boundary of a beat of 4 frames with phase 1, one frame after it, a pipeline without tiles, and the tiles of pipeline 0
(BeatBoundariesRunThePipelines). -/
theorem test_beat_boundary :
    let s := { imgState with frames := 5 }
    pipeSites s 0 = [108, 109, 111, 112] ∧ pipeSites s 1 = [] ∧ beatOf s 0 = (4, 1) ∧ (5 - 1) % 4 = 0 ∧ (6 - 1) % 4 ≠ 0 ∧ s.svc.warming = false ∧
    gridStopped s = false ∧ tileLive s 108 = true ∧ s.pwr.act ≠ 2 := by decide +kernel
/-- A hold that has not begun, one that has, and one with two beats and with one beat to run (BeatBoundariesRunThePipelines). -/
theorem test_holds :
    let g := { Grid.reset with held := [0] }
    let b := { g with begun := [0] }
    0 ∈ g.held ∧ 0 ∉ g.begun ∧ 1 ∉ g.held ∧ 0 ∈ b.begun ∧ sget 0 b.release 0 = 0 ∧ sget 0 { b with release := [(0, 2)] }.release 0 = 0 + 2 ∧
    sget 0 { b with release := [(0, 1)] }.release 0 = 1 := by decide +kernel

/-! ### The hypotheses of the obligations are met: recovery, calibration, fabric and residency -/

/-- A node silent for three intervals, one silent for two, and a block whose hub was promoted (SilentAndFailedTilesAreRecovered). -/
theorem test_silence :
    let l := { Lath.reset with
      heard := [(97, ⟨false, 3⟩), (98, ⟨false, 2⟩)]
      blocks := [(0, ⟨false, 3⟩), (1, ⟨false, 2⟩)]
      promoted := 4
      resets := [97] }
    3 ≤ (sget Heard.fresh l.heard 97).missed ∧ (sget Heard.fresh l.heard 98).missed < 3 ∧ 3 ≤ (sget Heard.fresh l.blocks 0).missed ∧
    l.promoted.getLsbD 0 = false ∧ (sget Heard.fresh l.blocks 1).missed < 3 ∧ l.promoted.getLsbD 2 = true ∧ 97 ∈ l.resets ∧ 98 ∉ l.resets := by
  decide +kernel
/-- A tile that may be reset and one that the good-tile map withholds; a tile that may be dust-sheeted and one whose fence waits
(SilentAndFailedTilesAreRecovered). -/
theorem test_tiles_to_recover :
    let s := State.reset
    let w := { s with cg := { Cg.reset with parts := [⟨8096, 1, [.fence 97 true], 0, false, 0, .none⟩] } }
    s.grid.exposed.getLsbD 97 = true ∧ s.grid.exposed.getLsbD 3840 = false ∧ s.lath.resets = [] ∧ isFenced s 97 = false ∧ s.grid.gated = [] ∧
    (groupWith s (isFenceOf 97)).isSome = false ∧ (groupWith w (isFenceOf 97)).isSome = true ∧ isFenced s 3840 = true := by decide +kernel
/-- The image with a course of model 0 that is resident, after the tile at 108 failed. -/
def failedState (cs : List Course) : State :=
  dustNow 108 { imgState with
    plc := { Plc.reset with courses := cs }
    resid := [(0, { Resid.free with
      st := .resident
      slices := [⟨0, [], [], [], 0, true, false⟩] })] }
/-- A failed tile with a place in a course that shifts, one in a row that is shifted already, one whose course has no legal shift,
and one in no course (SilentAndFailedTilesAreRecovered). -/
theorem test_rehome :
    let s := failedState [testCourse]
    let p : PlacedReg := ⟨0, 0, 12, 1, [], 1⟩
    let q : PlacedReg := ⟨0, 0, 12, 1, [⟨0, 1, true⟩], 1⟩
    let c : Course := { testCourse with regs := [q] }
    let two := dustNow 109 s
    s.load.img = some testImg ∧ tileOf testImg s.plc.courses 108 = some (testCourse, p, 0, 0) ∧ regAt testImg p.reg = some (testRegion 1 0 0) ∧
    (residAt s (testRegion 1 0 0).model).slices ≠ [] ∧ s.plc.rehomeEn = true ∧ p.shifts = [] ∧
    (courseAt s (fencedFor s) testImg s.load.activeProf.toNat 0 [] 12 1).isSome = true ∧
    courseAt two (fencedFor two) testImg two.load.activeProf.toNat 0 [] 12 1 = none ∧ tileOf testImg [c] 108 = some (c, q, 0, 0) ∧
    (∃ h ∈ q.shifts, h.ly = 0) ∧ tileOf testImg s.plc.courses 0 = none := by decide +kernel
/-- A course that finds a place and one for which every site is fenced (SilentAndFailedTilesAreRecovered). -/
theorem test_course_search :
    let s := failedState [testCourse]
    let f := { s with grid := { s.grid with fenced := BitVec.allOnes 8064 } }
    s.plc.courses.find? (fun c => c.pipe == (0 : Byte).toNat) = some testCourse ∧
    (searchCourse s (fencedFor s) testImg s.load.activeProf.toNat 0 s.plc.courses).isSome = true ∧
    searchCourse f (fencedFor f) testImg f.load.activeProf.toNat 0 f.plc.courses = none := by decide +kernel
/-- A node to which an in-doubt group is owed (SilentAndFailedTilesAreRecovered). -/
theorem test_owed : [testPart true .none].filter (fun p => p.node == (97 : Node).val) ≠ [] ∧
    [testPart true .none].filter (fun p => p.node == (8080 : Node).val) = [] := by decide

/-- The module in a run that measures converters and references of the macro 0 of site 97, which is assigned. -/
def calState (e : MEntry) (what : Word) (since : Nat) : State :=
  { tileState 97 { Tile.reset with fab := { Fabric.reset with mt := [(0, e)] } } with
    frames := 70000
    cal := { Cal.reset with
      busy := true
      run := some what
      since := since
      tempValid := true
      temps := (List.range 56).map (fun b => (b, 560))
      startTemps := (List.range 56).map (fun b => (b, 560)) } }
/-- A macro that a run measures, one that it skips as WORN, one whose spare is in use and that is idle, and converters in order
(CalibrationMeasuresAndSteps). -/
theorem test_converter_asked :
    let s := calState { MEntry.fresh with fmt := 1 } 7 0
    s.cal.busy = true ∧ inRun s 97 0 = true ∧ kindOpen s.cal 0 (macKey 97 0) = true ∧ gridStopped s = false ∧ runSkips s 97 0 = false ∧
    (0 : BitVec 8).toNat = s.cal.conv.count (8 * macKey 97 0 + 0) ∧ spareUsed (mtGet (fabAt s 97) 0) 0 = false ∧
    runSkips (calState { MEntry.fresh with worn := true } 7 0) 97 0 = true ∧ spareUsed { MEntry.fresh with conv := 0x80 } 0 = true ∧
    macroIdle (fabAt s 97) 0 (cycAt s 0) = true := by decide +kernel
/-- A reference scan that starts, one of an unassigned macro, and one of a busy macro that waits, with a hold or within 65,536
frames, or is given up one frame later (CalibrationMeasuresAndSteps). -/
theorem test_reference_asked :
    let s := calState { MEntry.fresh with fmt := 1 } 7 4464
    let f := fabAt s 97
    kindOpen s.cal 1 (macKey 97 0) = true ∧ underScan f 0 (cycAt s 0) = false ∧ (mtGet f 0).fmt ≠ 0 ∧ macroIdle f 0 (cycAt s 0) = true ∧
    limitsOk f 0 (cycAt s 0) = true ∧ (mtGet (fabAt (calState MEntry.fresh 7 0) 97) 0).fmt = 0 ∧
    macroIdle { f with act := [(cycAt s 0, 0)] } 0 (cycAt s 0) = false ∧ runHold s.cal = false ∧
    runHold (calState MEntry.fresh 0x40000000007 0).cal = true ∧ s.frames - s.cal.since ≤ 65536 ∧ 65536 < 70000 - 4463 := by decide +kernel
/-- The period of 64 frames, trims below, at and above their targets, and the commands of a run (CalibrationMeasuresAndSteps). -/
theorem test_trims_and_runs :
    (128 : Nat) % 64 = 0 ∧ (127 : Nat) % 64 ≠ 0 ∧ (7 : Word).getLsbD 0 = true ∧ (7 : Word).extractLsb' 1 2 ≠ 0 ∧
    ((7 : Word).extractLsb' 3 3).toNat ≤ 4 ∧ 4 < ((0x2F : Word).extractLsb' 3 3).toNat ∧ (1 : Word).extractLsb' 1 2 = 0 ∧
    (6 : Word).getLsbD 0 = false ∧ (⟨[], 1, 0⟩ : TrimVal).applied < (⟨[], 1, 0⟩ : TrimVal).target := by decide

/-- A page of the fabric window, the erase address of its macro, and an address with site 8,063 and with site 8,064
(WindowWritesProgramAndErase, WindowReadsAndRepairs). -/
theorem test_window_addresses :
    fabLoc (BitVec.setWidth 44 (fabAddr 97 0 5 0 false)) = ⟨0, 5, 0, 97, false⟩ ∧
    fabLoc (BitVec.setWidth 44 (fabAddr 97 0 0 0x3FF false)) = ⟨0x3FF, 0, 0, 97, false⟩ ∧
    fabLoc (BitVec.setWidth 44 (fabAddr 97 0 5 0x3FC false)) = ⟨0x3FC, 5, 0, 97, false⟩ ∧
    (fabLoc (BitVec.setWidth 44 (fabAddr 8063 0 0 0 false))).site < 8064 ∧ 8064 ≤ (fabLoc (BitVec.setWidth 44 (fabAddr 8064 0 0 0 false))).site ∧
    locIsPage ⟨0, 15, 0, 97, true⟩ = true ∧ locIsPage ⟨0, 16, 0, 97, true⟩ = false := by decide +kernel
/-- A window that is open and one that PRODUCTION closes, for a host and by its writes below level 3 (WindowWritesProgramAndErase,
WindowReadsAndRepairs). -/
theorem test_window_open :
    let s := State.reset
    let p := { s with sec := { s.sec with lc := 2 } }
    windowOpen s true true = true ∧ windowOpen p true true = false ∧ windowOpen p true false = false ∧ windowOpen p false true = true ∧
    isFenced s 97 = false ∧ isFenced s 3840 = true := by decide +kernel
/-- An erased page of a macro that takes a program, a page that was written, a macro that refuses one, and operations that are in
progress (WindowWritesProgramAndErase). -/
theorem test_page_programs :
    let f := Fabric.reset
    let g := { f with peOps := [⟨0, some 5, []⟩, ⟨1, none, []⟩] }
    peRefused f 0 100 = false ∧ pageState (pageGet f 0 5) = 0 ∧ pageState (⟨0, 3, 0⟩ : Page) = 1 ∧ pageState (⟨0, 3, 3⟩ : Page) ≠ 0 ∧
    peRefused g 0 100 = true ∧ peOf g 0 = some ⟨0, some 5, []⟩ ∧ peOf g 1 = some ⟨1, none, []⟩ ∧ peOf f 0 = none ∧
    pageState (⟨0, 0, 3⟩ : Page) = 3 := by decide +kernel
/-- Columns that the spares mend, columns that they do not, a full queue of operations, and a spare that is ready and one that is
taken (WindowReadsAndRepairs). -/
theorem test_repairs :
    let f := { Fabric.reset with peOps := [⟨0, none, []⟩] }
    (repairCols MEntry.fresh 1).isSome = true ∧ repairCols MEntry.fresh 3 = none ∧ peFull Fabric.reset 0 100 = false ∧ peFull f 0 100 = true ∧
    spareReady State.reset 97 0 = true ∧ spareReady (tileState 97 { Tile.reset with fab := f }) 97 0 = false ∧
    ({ MEntry.fresh with spareValid := 0x8000 }.spareValid).getLsbD (511 / 32) = true ∧ sliceOf State.reset 97 0 = none := by decide +kernel
/-- A macro that a slice holds (WindowReadsAndRepairs). -/
theorem test_slice_macro :
    sliceOf { State.reset with resid := [(3, { Resid.free with
      slices := [⟨9, [⟨97, 0, 0, 0, 0⟩], [], [], 0, true, false⟩] })] } 97 0 = some (3, 9) := by decide +kernel

/-- An operator who may send images and residency requests (DeliveriesAreTakenAndChecked, ResidencyRequestsAct,
ImagesAreReceivedVerifiedAndDrained). -/
theorem test_operator_open : OperatorOpen (sessState 1) 0 := ⟨⟨testSession 1, by decide +kernel, rfl⟩, by decide, by decide⟩
/-- The management port may send an image (ImagesAreReceivedVerifiedAndDrained). -/
theorem test_management_sends : OperatorSends State.reset none := Or.inl ⟨rfl, by decide, by decide⟩
/-- The security state with an owner key in slot 0 that serves every object. -/
def ownedSec : Sec := { Sec.reset with owners := [(0, ⟨0, 0xFF, false, false, true⟩)] }
/-- A signature under a fixed key that is accepted. -/
theorem fixed_sig (c : Sec) (o : Signed) (k : Nat) (msg sig : List Byte) (l : k < 2) (a : fixedAccepted c.lc o k = true)
    (v : Config.fixedKeyVerifies k (Config.sha384 msg) sig = true) : sigHolds c o k msg sig = true := by
  unfold sigHolds keyAccepted
  simp [l, a, v]
/-- A signature under that owner key. -/
theorem owner_sig (c : Sec) (o : Signed) (msg sig : List Byte) (a : ownerUsable c o 0 = true)
    (v : Config.verifies (ownerKey c 0).key (Config.sha384 msg) sig = true) : sigHolds c o 0x100 msg sig = true := by
  unfold sigHolds keyAccepted
  simp [a, v]
/-- A signature of an object that names no key. -/
theorem any_sig (c : Sec) (o : Signed) (k : Nat) (msg sig : List Byte) (l : k < 2) (h : sigHolds c o k msg sig = true) :
    sigAny c o msg sig = true := by
  unfold sigAny
  exact List.any_eq_true.mpr ⟨k, List.mem_append_left _ (List.mem_range.mpr l), h⟩
/-- A manifest of one shard without its digest and signature: model ID 0x22, version 1, shard 0 of 128 bytes. -/
def testManifest : List Byte :=
  leBytes 4 0x4B57504D ++ leBytes 2 1 ++ leBytes 2 1 ++ leBytes 8 0x22 ++ leBytes 4 1 ++ leBytes 4 0 ++ leBytes 8 0 ++ leBytes 8 128 ++
    List.replicate 56 0 ++ List.replicate 96 0
/-- The header line of its shard: no slice, no macro. -/
def testShard : List Byte := leBytes 4 0x4B575348 ++ leBytes 2 0 ++ leBytes 2 0 ++ leBytes 8 0x22 ++ leBytes 4 1 ++ leBytes 4 0 ++ List.replicate 104 0
/-- A delivery of both, complete, and the last byte missing. -/
def testDelivery (got : Nat) : Delivery := ⟨0, false, none, 192, 128, bytesPut [] 0 testManifest, bytesPut [] 0 testShard, got⟩
/-- An image in which model 0 has no slice. -/
def bareImg : Image := { testImg with
  hdr := { testHdr with spanSize := 1 }
  models := [⟨0, 0, 1, 0x22, 0, []⟩]
  regions := [] }
/-- The module with that image and a delivery. -/
def deliveryState (i : Option Image) (got : Nat) : State :=
  { State.reset with
    load := { Load.reset with img := i }
    delivery := some (testDelivery got) }
/-- A delivery that is complete, one that is not, and data that ends at its end (DeliveriesAreTakenAndChecked). -/
theorem test_delivery :
    (testDelivery 320).manLen + (testDelivery 320).shardLen ≤ (testDelivery 320).got ∧ (testDelivery 319).got < 320 ∧
    (319 : Nat) + 1 ≤ 320 ∧ manifestOk (fun o => sget 0 (testDelivery 320).manifest o) 192 = true := by decide +kernel
/-- The model that a delivery's manifest names. -/
def deliveryModel (s : State) (d : Delivery) : Option ImgModel :=
  s.load.img.bind (fun i => i.models.find? (fun x => x.id.toNat == rdLe (fun o => sget 0 d.manifest o) 8 8))
/-- The verdict names the model of the image. -/
theorem verdict_model (s : State) (d : Delivery) : (shardVerdict s d).2.1 = deliveryModel s d := by
  unfold shardVerdict deliveryModel
  dsimp only
  repeat' split
  all_goals first | rfl | simp_all
/-- The verdict on a plain delivery whose manifest holds. -/
theorem verdict_code (s : State) (d : Delivery) (i : Image) (x : ImgModel) :
    let mr : Rd := fun o => sget 0 d.manifest o
    let r : Rd := fun o => sget 0 d.shard o
    s.load.img = some i → i.hdr.spanPos = 0 → deliveryModel s d = some x → rdLe mr 0x14 4 % 2 = 0 → manifestOk mr d.manLen = true →
    manifestSigned s mr d.manLen = true → rdLe mr 0x20 8 = d.shardLen → shardAgrees s i x mr r = true → shardTags r = true → shardPairs r = true →
    (shardVerdict s d).1 = if rdBytes mr 0x28 48 = digestBytes (Config.sha384 (rdBytes r 0 d.shardLen)) then 0 else 2 := by
  intro mr r hi hp hm he ho hs hl hg ht hq
  unfold deliveryModel at hm
  unfold shardVerdict
  simp only [hi, hp] at *
  simp only [hm, Nat.mul_zero, Nat.add_zero, mr, r] at *
  split_ifs <;> simp_all
/-- A delivery without a model of the image (DeliveriesAreTakenAndChecked). -/
theorem test_delivery_unknown : (shardVerdict (deliveryState none 320) (testDelivery 320)).2.1 = none := verdict_model _ _
/-- A shard whose signature holds and whose digest agrees is accepted, and one whose digest differs is not
(DeliveriesAreTakenAndChecked): the hash and the signature are the model's free functions. -/
theorem test_shard_accepted (key : Config.fixedKeyVerifies 1 (Config.sha384 (testManifest.take 96)) (testManifest.drop 96) = true) :
    let s := deliveryState (some bareImg) 320
    manifestSigned s (fun o => sget 0 (testDelivery 320).manifest o) 192 = true ∧
    (shardVerdict s (testDelivery 320)).2.1 = some ⟨0, 0, 1, 0x22, 0, []⟩ ∧
    (Config.sha384 testShard = 0 → (shardVerdict s (testDelivery 320)).1 = 0) ∧
    (Config.sha384 testShard = 1 → (shardVerdict s (testDelivery 320)).1 = 2) := by
  have e1 : rdBytes (fun o => sget 0 (testDelivery 320).manifest o) 0 (192 - 96) = testManifest.take 96 := by decide +kernel
  have e2 : rdBytes (fun o => sget 0 (testDelivery 320).manifest o) (192 - 96) 96 = testManifest.drop 96 := by decide +kernel
  have e3 : rdBytes (fun o => sget 0 (testDelivery 320).shard o) 0 (testDelivery 320).shardLen = testShard := by decide +kernel
  have h : rdBytes (fun o => sget 0 (testDelivery 320).manifest o) 0x28 48 = digestBytes 0 := by decide +kernel
  have h1 : digestBytes 0 ≠ digestBytes 1 := by decide +kernel
  have k : manifestSigned (deliveryState (some bareImg) 320) (fun o => sget 0 (testDelivery 320).manifest o) 192 = true := by
    unfold manifestSigned
    rw [e1, e2]
    exact any_sig _ _ 1 _ _ (by decide) (fixed_sig _ _ 1 _ _ (by decide) (by decide +kernel) key)
  have m : deliveryModel (deliveryState (some bareImg) 320) (testDelivery 320) = some ⟨0, 0, 1, 0x22, 0, []⟩ := by decide +kernel
  have v := verdict_code (deliveryState (some bareImg) 320) (testDelivery 320) bareImg ⟨0, 0, 1, 0x22, 0, []⟩ rfl rfl m (by decide +kernel)
    (by decide +kernel) k (by decide +kernel) (by decide +kernel) (by decide +kernel) (by decide +kernel)
  rw [e3, h] at v
  refine ⟨k, (verdict_model _ _).trans m, fun z => ?_, fun z => ?_⟩
  · rw [v, z, if_pos rfl]
  · rw [v, z, if_neg h1]
/-- The image in force with model 0 in a state, its slice 0 of an age, and a library copy of one extent. -/
def residState (st : ResState) (age : Nat) (lib : List (List Nat)) (due : Bool) : State :=
  { imgState with
    ld := (sessState 1).ld
    resid := [(0, { Resid.free with
      st := st
      ver := 1
      lib := lib
      shardLen := 128
      slices := [⟨0, [], [], [], age, true, due⟩] })] }
/-- Copies that find extents, and dies that have none left (DeliveriesAreTakenAndChecked). -/
theorem test_copies :
    let s := residState .library 0 [[592]] false
    let full := { s with md := (List.range 16).map (fun n => (n, { MemDie.reset with libMax := 0 })) }
    (residAt s 0).lib ≠ [] ∧ (allocCopies 0 128 s).isSome = true ∧ allocCopies 0 128 full = none := by decide +kernel
/-- A span that a delivery is for, with the module a hawk, and a distribution in progress (DeliveriesAreTakenAndChecked). -/
theorem test_span_delivery :
    let s := { State.reset with
      delivery := some { testDelivery 320 with span := some 2 }
      pod := { Pod.reset with
        st := 3
        spans := [(2, some ⟨9, 0, 2, [0, 1], false⟩)] } }
    sget none s.pod.spans (2 : Byte).toNat = some ⟨9, 0, 2, [0, 1], false⟩ ∧ s.pod.st = 3 ∧ s.pod.dist = none ∧
    sget none State.reset.pod.spans (2 : Byte).toNat = none := by decide +kernel
/-- An operator's request finds a model in each state, with a library copy of its version and without one, with a spare for its groups
and without (ResidencyRequestsAct, SlicesAgeAndAreSwapped). -/
theorem test_requests :
    let s := residState .resident 0 [[592]] false
    (residAt s 0).st = .resident ∧ imgModel s 0 = some (testImg, ⟨0, 2, 1, 0x22, 0, [⟨0, 2, 1⟩]⟩) ∧ (residAt s 0).lib ≠ [] ∧ (residAt s 0).ver = 1 ∧
    canSwap (residAt s 0) = true ∧ canSwap (residAt (residState .resident 0 [] false) 0) = false ∧ modelStreams s 0 = 0 ∧
    (residAt s 0).pin = false ∧ (residAt State.reset 0).st = .free ∧ stagedSel s testImg 0 [] = some [] ∧
    groupOf ⟨0, 2, 1, 0x22, 0, [⟨0, 2, 1⟩]⟩ 1 = some ⟨0, 2, 1⟩ ∧ groupOf ⟨0, 2, 1, 0x22, 0, [⟨0, 2, 1⟩]⟩ 2 = none := by decide +kernel
/-- The requests of an operator in that state (ResidencyRequestsAct). -/
theorem test_request_open : OperatorOpen (residState .library 0 [] false) 0 := ⟨⟨testSession 1, by decide +kernel, rfl⟩, by decide, by decide⟩
/-- A slice that stays below 30 days, reaches them, and reaches 45 days with its refresh due (SlicesAgeAndAreSwapped). -/
theorem test_ages :
    let o := fun (age : Nat) (due : Bool) => (⟨0, [], [], [], age, true, due⟩ : Slice)
    let k := ageStep (sliceTemp State.reset (o 0 false))
    (residAt (residState .resident 7 [] true) 0).slices.find? (fun o => o.id == 0) = some (o 7 true) ∧ 0 < k ∧
    (30 * 86400 * 2 ^ 20 - k - 1) + k < 30 * 86400 * 2 ^ 20 ∧ 30 * 86400 * 2 ^ 20 ≤ (30 * 86400 * 2 ^ 20 - k) + k ∧
    (45 * 86400 * 2 ^ 20 - k - 1) + k < 45 * 86400 * 2 ^ 20 ∧ 45 * 86400 * 2 ^ 20 ≤ (45 * 86400 * 2 ^ 20 - k) + k := by decide +kernel
/-- Evictions that find space, that need a victim and that have none (SlicesAgeAndAreSwapped). -/
theorem test_evictions :
    let l := residState .library 0 [[592]] false
    let r := residState .resident 0 [] false
    nextEvict l .library [] = some 0 ∧ nextEvict r .library [] = none ∧ nextEvict r .resident [] = some 0 ∧ nextEvict l .resident [] = none ∧
    libSpace l < 0xFFFFFFFF ∧ 1 ≤ libSpace l ∧ freeSites r < 8191 ∧ 1 ≤ freeSites r := by decide +kernel

/-! ### The hypotheses of the obligations are met: image load -/

/-- A directory entry of the smallest image. -/
def imgDir (typ count off len : Nat) (crc : Nat) : List Byte :=
  leBytes 2 typ ++ leBytes 2 0 ++ leBytes 4 count ++ leBytes 8 off ++ leBytes 8 len ++ leBytes 4 crc ++ leBytes 4 0
/-- The smallest image: the seven sections that every image has, of them a profile and a power plan of one frame with content. -/
def imgBytes : List Byte :=
  leBytes 4 0x464C4831 ++ leBytes 4 1 ++ leBytes 8 0x11 ++ leBytes 4 1 ++ leBytes 8 0 ++ leBytes 4 0x96 ++ leBytes 8 768 ++ leBytes 4 0x10007 ++
    leBytes 12 0 ++ leBytes 2 1 ++ List.replicate 70 0 ++
    imgDir 1 0 384 0 0 ++ imgDir 2 0 384 0 0 ++ imgDir 3 1 384 16 1114675946 ++ imgDir 4 0 384 0 0 ++ imgDir 5 0 384 0 0 ++
    imgDir 8 1 512 116 4137151128 ++ imgDir 9 0 384 0 0 ++ List.replicate 160 0 ++ leBytes 4 0x10000 ++ List.replicate 252 0
/-- A load that has received it. -/
def loadState : State :=
  { State.reset with
    dram := ((List.range 96).map (fun w => (stagingAddr / 8 + w, SWord.mk (BitVec.ofNat 64 (leNat ((imgBytes.drop (8 * w)).take 8))) .good))).filter
      (fun e => e.2 != SWord.zero)
    load := { Load.reset with
      st := 1
      total := 768
      parts := [(0, 768)] } }
/-- The checks of an image pass where each check but the signature does and the signature holds. -/
theorem verify_passes (s : State) (r : Rd) (n : Nat) (i : Image)
    (h : (List.range 9).all (fun k => k == 5 || k == 6 || ((verifyChecks s r n)[k]?.any (fun c => c.bad.isNone))) = true)
    (crcs : (verifyChecks s r n)[5]?.any (fun c => c.bad.isNone) = true)
    (sig : sigHolds s.sec .image (imgHeader r).keyId (rdBytes r 0 (n - 96)) (rdBytes r (n - 96) 96) = true) :
    firstFail i (verifyChecks s r n) = none := by
  unfold firstFail
  rw [List.findSome?_eq_none_iff]
  intro c hc
  obtain ⟨k, hk, rfl⟩ := List.getElem_of_mem hc
  have l : (verifyChecks s r n).length = 9 := rfl
  have a := List.all_eq_true.mp h k (List.mem_range.mpr (l ▸ hk))
  have a : k = 6 ∨ (verifyChecks s r n)[k]?.any (fun c => c.bad.isNone) = true := by
    by_cases f : k = 5
    · subst f
      exact Or.inr crcs
    · simpa [f] using a
  by_cases e : k = 6
  · subst e
    show ((chk 5 0 (sigHolds s.sec .image (imgHeader r).keyId (rdBytes r 0 (n - 96)) (rdBytes r (n - 96) 96))).bad.map _) = none
    rw [sig]
    rfl
  · simp only [e, false_or, List.getElem?_eq_getElem hk, Option.any_some, Option.isNone_iff_eq_none] at a
    rw [a]
    rfl
/-- The CRC-32C of its power plan, from the registers after each 29 bytes. -/
theorem img_plan_crc : crc32c (rdBytes (imageRd loadState stagingAddr) 512 116) = 4137151128 := by
  have e : rdBytes (imageRd loadState stagingAddr) 512 116 = (imgBytes.drop 512).take 29 ++ (List.replicate 29 0 ++ (List.replicate 29 0 ++
    List.replicate 29 0)) := by decide +kernel
  have a : ((imgBytes.drop 512).take 29).foldl crc32cByte 0xFFFFFFFF = 3930046311 := by decide +kernel
  have b : (List.replicate 29 (0 : Byte)).foldl crc32cByte 3930046311 = 140957596 := by decide +kernel
  have c : (List.replicate 29 (0 : Byte)).foldl crc32cByte 140957596 = 3069161540 := by decide +kernel
  have d : ~~~((List.replicate 29 (0 : Byte)).foldl crc32cByte 3069161540) = 4137151128 := by decide +kernel
  unfold crc32c
  rw [e, List.foldl_append, a, List.foldl_append, b, List.foldl_append, c, d]
/-- The check of the CRCs passes where the CRC of every section holds. -/
theorem verify_crcs (s : State) (r : Rd) (n : Nat) (ss : List ImgSect) (e : (List.range (imgHeader r).nsect).map (imgSect r) = ss)
    (h : ∀ x ∈ (List.range ss.length).zip ss, (crc32c (rdBytes r x.2.off x.2.len)).toNat = x.2.crc) :
    (verifyChecks s r n)[5]?.any (fun c => c.bad.isNone) = true := by
  have f : ((List.range ss.length).zip ss).find? (fun x => (crc32c (rdBytes r x.2.off x.2.len)).toNat != x.2.crc) = none := by
    rw [List.find?_eq_none]
    intro x hx
    simp [h x hx]
  subst e
  show (Option.map Prod.fst _).isNone = true
  rw [f]
  rfl
/-- The CRCs of its sections hold. -/
theorem img_crcs : (verifyChecks loadState (imageRd loadState stagingAddr) 768)[5]?.any (fun c => c.bad.isNone) = true := by
  refine verify_crcs _ _ _ [⟨1, 0, 0, 384, 0, 0, 0⟩, ⟨2, 0, 0, 384, 0, 0, 0⟩, ⟨3, 0, 1, 384, 16, 1114675946, 0⟩, ⟨4, 0, 0, 384, 0, 0, 0⟩,
    ⟨5, 0, 0, 384, 0, 0, 0⟩, ⟨8, 0, 1, 512, 116, 4137151128, 0⟩, ⟨9, 0, 0, 384, 0, 0, 0⟩] (by decide +kernel) ?_
  have z : crc32c (rdBytes (imageRd loadState stagingAddr) 384 0) = 0 := by decide +kernel
  have p : crc32c (rdBytes (imageRd loadState stagingAddr) 384 16) = 1114675946 := by decide +kernel
  simp [List.range_succ, z, p, img_plan_crc]
/-- An image that VERIFY accepts: its signature, over the model's free functions, holds; then its structure holds, it is placed, and
the group of its commit opens (ImagesAreReceivedVerifiedAndDrained). -/
theorem test_image_accepted
    (sig : Config.fixedKeyVerifies 1 (Config.sha384 (rdBytes (imageRd loadState stagingAddr) 0 (768 - 96)))
      (rdBytes (imageRd loadState stagingAddr) (768 - 96) 96) = true) :
    let r := imageRd loadState stagingAddr
    let i := parseImage r
    loadState.load.st = 1 ∧ loadState.load.total ≤ received loadState.load ∧ firstFail i (verifyChecks loadState r 768) = none ∧
    firstFail i (structChecks loadState r i (loadPlace loadState i)) = none ∧ loadPlace loadState i = some (0, []) ∧
    (cgStart [(8096, .image)] (plcOp 1 0 loadState)).isSome = true :=
  ⟨by decide +kernel, by decide +kernel, verify_passes _ _ _ _ (by decide +kernel) img_crcs
    (by
      have k : (imgHeader (imageRd loadState stagingAddr)).keyId = 1 := by decide +kernel
      rw [k]
      exact fixed_sig _ _ 1 _ _ (by decide) (by decide +kernel) sig), by decide +kernel, by decide +kernel, by decide +kernel⟩
/-- An image that fails VERIFY, and one byte short of received (ImagesAreReceivedVerifiedAndDrained). -/
theorem test_image_refused :
    let s := { loadState with dram := [] }
    (firstFail (parseImage (imageRd s stagingAddr)) (verifyChecks s (imageRd s stagingAddr) 768)) = some (1, 0xFF, 0) ∧
    received { Load.reset with parts := [(0, 767)] } < 768 := by decide +kernel
/-- An image that passes VERIFY and fails its structure (ImagesAreReceivedVerifiedAndDrained). -/
theorem test_image_unsound :
    let i := { testImg with
      models := []
      regions := [] }
    (firstFail i (structChecks imgState (imageRd imgState 0) i none)).isSome = true := by decide +kernel
/-- A load that drains with no stream open, and one that waits for a stream (ImagesAreReceivedVerifiedAndDrained). -/
theorem test_drain :
    let s := { State.reset with load := { Load.reset with st := 6 } }
    s.load.st = 6 ∧ s.cal.busy = false ∧ (∀ e ∈ s.resid, e.2.st ≠ .swapping) ∧ openStreams s = 0 ∧ s.load.abort = false := by decide +kernel

/-! ### The hypotheses of the obligations are met: requests, tasks, lanes and rings -/

/-- The first byte of extent 592 of memory die 0, a HOST extent of tenant 5. -/
def hostBase : Nat := dramAddr 0 592 0
/-- The word of DRAM at a byte of it. -/
def hostWord (off : Nat) (v : Word) (e : Ecc) : Nat × SWord := ((hostBase + off) / 8, ⟨v, e⟩)
/-- A task of tenant 5 in slot 0 of engine 0. -/
def testTask (kind : Nat) (st : TaskSt) (par : List Byte) : Task :=
  { slot := 0, req := 0, queue := 0, entry := 0, session := 0, tenant := 5, kind := kind, st := st, result := 0, flags := 0, idx := 0, succ := [],
    sid := 0xFFFF, dep := 0, wait := 0, par := par, stream := some 3, noticed := false, sent := 0, done := 0 }
/-- An open stream of tenant 5 on pipeline 0. -/
def testCtx : Ctx := { Ctx.free with
  tenant := 5
  st := .decode
  gen := 2
  log2n := 4 }
/-- The module with an image whose model 0 is resident, a session of tenant 5, a task, stream 3, and a HOST extent with a parameter
block at 0 (temperature 1, top p 1, repetition 1), a bad word at 0x80, one request record at 0x1000 and an adapter package at 0x2000. -/
def taskState (t : Task) (c : Ctx) : State :=
  { residState .resident 0 [] false with
    ld := (sessState 0).ld
    md := [(0, { MemDie.reset with ext := [(592, extEntry 4 5 0)] })]
    dram := [hostWord 0 0x3F80000000000001 .good, hostWord 8 0x3F800000 .good, hostWord 16 0x3F800000 .good, hostWord 0x80 0 .double,
      hostWord 0x1000 0x3000001 .good, hostWord 0x2000 0x000100014B574150 .good, hostWord 0x2008 0x0001000500000009 .good,
      hostWord 0x2010 0x22 .good, hostWord 0x2018 0x10000000001 .good, hostWord 0x2020 176 .good, hostWord 0x2040 0x5000000000 .good,
      hostWord 0x2048 0x50 .good]
    eng := [(0, { Engine.reset with
      tasks := [t]
      ctx := [(3, c)]
      sq := [(0, { Sq.reset with
        en := true
        base := BitVec.ofNat 48 (hostBase + 0x1000)
        tail := 1
        tenant := 5 })]
      pipes := [(0, { Pipe.reset with
        en := true
        limw := 1 <<< 45
        cap := 1 })] })] }
/-- Its admission for model 0 on pipeline 0 with the parameter block at an offset of the HOST extent. -/
def admitPar (off : Nat) : List Byte :=
  leBytes 2 5 ++ leBytes 1 0 ++ leBytes 1 0 ++ leBytes 16 0 ++ leBytes 8 (hostBase + off) ++ leBytes 8 0x1000 ++ leBytes 2 0 ++ leBytes 1 4 ++ leBytes 9 0

/-- A queue that may be enabled, one of another tenant's memory, and one beyond size code 10 (RequestsAreSubmittedAndTakenIn). -/
theorem test_queue_enable :
    let s := taskState (testTask 1 .ready []) testCtx
    let x := { Sq.reset with
      base := BitVec.ofNat 48 hostBase
      tenant := 5 }
    hostOwned s x.tenant x.base.toNat (64 * sqSize x) = true ∧ hostOwned s 6 x.base.toNat (64 * sqSize x) = false ∧ x.en = false ∧
    x.log2size.toNat ≤ 10 ∧ 10 < ((0x17 : Word).extractLsb' 1 4).toNat ∧ (0x17 : Word).getLsbD 0 = true := by decide +kernel
/-- A host's session of the queue's tenant, whole requests, a queue with room for the last and one without
(RequestsAreSubmittedAndTakenIn). -/
theorem test_submit :
    let s := taskState (testTask 1 .ready []) testCtx
    let rec_ : List Word := 0x3000001 :: List.replicate 7 0
    HostOpen s 0 (testSession 0) ∧ (testSession 0).tenant = (sqAt (engAt s 0) 0).tenant ∧ wholeRequests [rec_] = true ∧ wholeRequests [] = false ∧
    sqUsed (sqAt (engAt s 0) 0) + 62 < sqSize (sqAt (engAt s 0) 0) ∧ sqSize (sqAt (engAt s 0) 0) ≤ sqUsed (sqAt (engAt s 0) 0) + 63 ∧
    (testSession 0).tenant ≠ (sqAt (engAt s 0) 1).tenant :=
  ⟨⟨by decide +kernel, rfl, by decide⟩, by decide +kernel, by decide +kernel, by decide +kernel, by decide +kernel, by decide +kernel, by decide +kernel⟩
/-- A queue with a whole request of one record, and none (RequestsAreSubmittedAndTakenIn). -/
theorem test_intake :
    let s := taskState (testTask 1 .ready []) testCtx
    (sqAt (engAt s 0) 0).en = true ∧ requestLen s (sqAt (engAt s 0) 0) = some 1 ∧ (engAt s 0).tasks.length + 1 ≤ 262144 ∧ (engAt s 0).rr = 0 ∧
    (engAt s 0).stopped = false ∧ s.svc.warming = false ∧ requestLen s (sqAt (engAt s 0) 1) = none := by decide +kernel

/-- A slot that holds a task with a good record (TasksOfTheEngineRun, LaneTasksAskForStepsAndCancelsAct). -/
theorem test_task_held (t : Task) (c : Ctx) (h : t.slot = 0) : TaskHeld (taskState t c) 0 0 t :=
  ⟨by simp [taskOf, taskState, engAt, sget, h], by intro w hw; interval_cases w <;> rfl⟩
/-- An ADMIT that passes its checks, with a place below the cap; one that the checks turn away; one that waits for its commit
(TasksOfTheEngineRun). -/
theorem test_admit :
    let t := testTask 1 .ready (admitPar 0)
    let s := taskState t testCtx
    admitCode s 0 t = 0 ∧ admitCtx s 0 t = some 0 ∧ capFree s (taskPar t 19 1) = true ∧ t.flags.getLsbD 2 = false ∧
    admitCode { s with svc := { s.svc with admitStop := true } } 0 t = 13 ∧ t.sent = 0 ∧ t.stream = some 3 := by decide +kernel
/-- An ADMIT of a full pipeline that asks not to wait (TasksOfTheEngineRun). -/
theorem test_admit_full :
    let t := { testTask 1 .ready (admitPar 0) with flags := 4 }
    let s := taskState t testCtx
    let u := { s with eng := s.eng.map (fun e => (e.1, { e.2 with pipes := e.2.pipes.map (fun p => (p.1, { p.2 with cap := 0 })) })) }
    admitCode u 0 t = 0 ∧ admitCtx u 0 t = some 0 ∧ capFree u (taskPar t 19 1) = false ∧ t.flags.getLsbD 2 = true := by decide +kernel
/-- The image with a projection of two adapter slots, in a state with the package of adapter 9 for tenant 5. -/
def adapterState (st : TaskSt) (ads : SMap Adapter) : State :=
  { taskState { testTask 2 st (leBytes 8 (hostBase + 0x2000) ++ leBytes 4 9 ++ leBytes 1 0) with stream := none } testCtx with
    load := { Load.reset with img := some { testImg with
      regions := [{ testRegion 1 0 0 with aslots := 2 }, testRegion 2 1 1]
      skims := [⟨0, 1, 0, 0, 1, true, 0, 0, 0, 0, 0, 0, 0, 0⟩] } }
    sec := ownedSec
    adapters := ads }
/-- A package in HOST memory, an adapter that is there, a slot that is free, and none (TasksOfTheEngineRun). -/
theorem test_adapter_slots :
    let s := adapterState .ready []
    let held : Adapter := ⟨9, 5, 2, 1, 1, 0, [], none, none⟩
    let u := adapterState .ready [(adKey 0 0, held), (adKey 0 1, held)]
    hostOwned s 5 (hostBase + 0x2000) 0x40 = true ∧ hostOwned s 5 (hostBase + 0x2000) 176 = true ∧ hostOwned s 6 (hostBase + 0x2000) 0x40 = false ∧
    adFind s 0 9 = none ∧ adChoose s 0 = some 0 ∧ adFind u 0 9 = some 0 ∧ adFind u 0 8 = none ∧ adChoose u 0 = none := by decide +kernel
/-- A load in progress whose package is whole, damaged, or not this tenant's (TasksOfTheEngineRun). -/
theorem test_adapter_load :
    let s := adapterState .active [(adKey 0 1, ⟨9, 5, 1, 1, 0, 0, [], none, some (0, 0)⟩)]
    (List.range (adSlots s 0)).find? (fun a => (adAt s 0 a).task == some (0, 0)) = some 1 ∧
    (∀ o < 176, dramBad s (hostBase + 0x2000 + o) = false) ∧ dramBad s (hostBase + 0x80) = true ∧
    adVerify s 1 1 5 9 (fun o => dramByte s (hostBase + 0x2000 + o)) = none := by decide +kernel

/-- A package of one projection verifies where its head, its signature and its CRC hold. -/
theorem ad_verified (s : State) (m a : Nat) (tenant : BitVec 12) (id : BitVec 32) (raw : Rd) (i : Image) (x : ImgModel) (k : ImgSkim) (p : AdProj)
    (hm : imgModel s m = some (i, x)) (he : (raw 7).getLsbD 0 = false) (hp : adProjs raw = [p])
    (hk : i.skims.find? (fun k => k.proj == p.proj && k.adapterCap && i.regions.any (fun g => g.id == k.region && g.model == m)) = some k)
    (head : rdLe raw 0 4 = 0x4B574150 ∧ rdLe raw 4 2 = 1 ∧ rdLe raw 6 1 = 1 ∧ rdLe raw 8 4 = id.toNat ∧ rdLe raw 0x0C 2 % 4096 = tenant.toNat ∧
      rdLe raw 0x10 8 = x.id.toNat ∧ rdLe raw 0x18 4 = x.ver.toNat ∧ rdLe raw 0x20 8 = 176)
    (sig : sigHolds s.sec .adapter (rdLe raw 0x1C 2) (rdBytes raw 0 80) (rdBytes raw 80 96) = true)
    (crc : (crc32c (rdBytes raw p.aOff (adLens k 8).1 ++ rdBytes raw p.bOff (adLens k 8).2)).toNat = p.crc) :
    adVerify s m a tenant id raw = some (adLines s i raw a 8 k p) := by
  obtain ⟨h1, h2, h3, h4, h5, h6, h7, h8⟩ := head
  have r : rankOf 1 = 8 := rfl
  unfold adVerify
  simp only [hm, he, hp, h1, h2, h3, h4, h5, h6, h7, h8, hk, r, sig, crc, Bool.false_eq_true, if_false, beq_self_eq_true, Bool.true_and, Bool.and_true,
    Nat.le_refl, Nat.reduceLeDiff, decide_true, List.length_cons, List.length_nil, Nat.zero_add, Bool.not_true, List.foldl_cons, List.foldl_nil,
    Option.bind_some, if_true, List.nil_append, Nat.reduceSub]
/-- A package that verifies, and cache granules for its lines (TasksOfTheEngineRun): its signature and the tiles of its second stage
are the model's free functions. -/
theorem test_adapter_verified (stage : Config.stage2Tiles 0 = [(0, 0, [0])])
    (sig : let raw : Rd := fun o => dramByte (adapterState .active []) (hostBase + 0x2000 + o)
      Config.verifies 0 (Config.sha384 (rdBytes raw 0 80)) (rdBytes raw 80 96) = true) :
    let s := adapterState .active []
    ∃ ls, adVerify s 0 1 5 9 (fun o => dramByte s (hostBase + 0x2000 + o)) = some ls ∧ (cacheTake 0 ((ls.length + 511) / 512) 5 s).isSome = true := by
  intro s
  have k : rdLe (fun o => dramByte s (hostBase + 0x2000 + o)) 0x1C 2 = 0x100 := by decide +kernel
  refine ⟨_, ad_verified s 0 1 5 9 _ { testImg with
    regions := [{ testRegion 1 0 0 with aslots := 2 }, testRegion 2 1 1]
    skims := [⟨0, 1, 0, 0, 1, true, 0, 0, 0, 0, 0, 0, 0, 0⟩] } ⟨0, 2, 1, 0x22, 0, [⟨0, 2, 1⟩]⟩ ⟨0, 1, 0, 0, 1, true, 0, 0, 0, 0, 0, 0, 0, 0⟩
    ⟨0, 0x50, 0x50, 0⟩ rfl (by decide +kernel) (by decide +kernel) rfl (by decide +kernel) (by rw [k]; exact owner_sig _ _ _ _ (by decide +kernel) sig) (by decide +kernel), ?_⟩
  have l : ∀ (i : Image) (r : Rd) (k : ImgSkim) (p : AdProj), k.k = 0 → k.proj = 0 → memberSites s i (regIndex i k.region) 0 0 = [108] →
      (adLines s i r 1 8 k p).length = 9 := by
    intro i r k p h0 h1 h2
    simp [adLines, h0, h1, stage, h2, scaleLines, List.range_succ]
  rw [l _ _ _ _ rfl rfl (by decide +kernel)]
  decide +kernel
/-- A parameter block that holds, one outside the tenant's memory, a damaged one and a malformed one, and streams that are open and
closed (TasksOfTheEngineRun). -/
theorem test_sample_codes :
    let s := taskState (testTask 5 .ready []) testCtx
    blockCode s 5 hostBase = 0 ∧ blockCode s 6 hostBase = 2 ∧ blockCode s 5 (hostBase + 0x80) = 12 ∧ blockCode s 5 (hostBase + 0x100) = 1 ∧
    ctxOpen (ctxAt s 3) = true ∧ ctxOpen (ctxAt s 4) = false := by decide +kernel
/-- EMIT that ends the stream, and one that does not (TasksOfTheEngineRun). -/
theorem test_emit : taskPar (testTask 6 .ready [1]) 16 1 = 1 ∧ taskPar (testTask 6 .ready [0]) 16 1 ≠ 1 := by decide
/-- The module with a POOL region, a page geometry of one plane and a page table in which page n of stream 3 has no home. -/
def pageState (n : Nat) : State :=
  let s := taskState (testTask 7 .ready [1]) { testCtx with tier := true }
  { s with
    load := { Load.reset with img := some { testImg with
      regions := testImg.regions ++ [testRegion 3 2 1]
      rims := [⟨16, 0, 0, 3, 0, 0⟩] } }
    dram := ((pageTab 3 + 8 * n) / 8, SWord.mk 15 .good) :: s.dram
    geom := [(0, 0x404880)] }
/-- A stream without positions needs three pages of 16 positions (R341): page 0 alone starts below position 1. -/
theorem page_need (g : Word) (dram : Bool) (h : pageSize (pszOf g dram 0) = 16) : pagesNeeded g dram 0 1 = 3 := by
  have p : ∀ n, 16 ≤ pageStart g dram (n + 1) := by
    intro n
    have z : 16 ≤ pageSize (pszOf g dram 0) := by omega
    have m : pageSize (pszOf g dram 0) ∈ (List.range (n + 1)).map (fun k => pageSize (pszOf g dram k)) :=
      List.mem_map.mpr ⟨0, by simp, rfl⟩
    exact z.trans (List.le_sum_of_mem m)
  have o : pageOf g dram 0 = 0 := by
    show (List.range (1023 + 1)).countP (fun n => decide (pageStart g dram n < 0 + 1)) - 1 = 0
    rw [List.range_succ_eq_map, List.countP_cons, List.countP_map, List.countP_eq_zero.mpr]
    · have : pageStart g dram 0 = 0 := rfl
      simp [this]
    · intro n _
      have := p n
      simp only [Function.comp_apply, decide_eq_true_eq, Nat.not_lt, Nat.succ_eq_add_one]
      omega
  show min 1024 (pageOf g dram 0 + 1 + (1 + pageSize (pszOf g dram (pageOf g dram 0)) - 1) / pageSize (pszOf g dram (pageOf g dram 0)) + 1) = 3
  rw [o, h]
  rfl
/-- A migration that finds homes (TasksOfTheEngineRun). -/
theorem test_migrate :
    let s := pageState 0
    ((planHomes 0 (homeStart s 0) true 5 (List.range (pagesNeeded (geomAt s 0) true 0 (chunkOf s 0))) s).any (fun h =>
      (cgStart ((8080, CgItem.migrate 3 (h.1.map (fun h => (h.page, h.entry)))) :: ownItems 5 h.1) h.2).isSome)) = true := by
  intro s
  have c : chunkOf s 0 = 1 := by decide +kernel
  have n : pagesNeeded (geomAt s 0) true 0 1 = 3 := page_need _ _ (by decide +kernel)
  rw [c, n]
  decide +kernel
/-- Homes that are not to be had, with the geometry at reset (TasksOfTheEngineRun). -/
theorem test_no_homes : planHomes 0 0 true 5 [0] (taskState (testTask 7 .ready [1]) testCtx) = none := by decide +kernel
/-- A stream that needs pages, and one that has them (TasksOfTheEngineRun). -/
theorem test_page_home :
    let s := pageState 0
    let u := pageState 3
    let need := pagesNeeded (geomAt s 0) true 0 (chunkOf s 0)
    pagesHomed s 3 < need ∧ need ≤ pagesHomed u 3 ∧ (groupWith s (isPageHome 3)).isSome = false ∧ ctxOpen (ctxAt s 3) = true ∧
    ((planHomes 0 0 true 5 ((List.range need).drop (pagesHomed s 3)) s).any (fun h =>
      (cgStart (homeItems s 3 h.1 ++ ownItems 5 h.1) h.2).isSome)) = true := by
  intro s u need
  have c : chunkOf s 0 = 1 := by decide +kernel
  have n : need = 3 := by
    show pagesNeeded (geomAt s 0) true 0 (chunkOf s 0) = 3
    rw [c]
    exact page_need _ _ (by decide +kernel)
  rw [n]
  decide +kernel

/-- A lane task that asks for steps, one that has asked, one of a stream that is final, and one behind another task
(LaneTasksAskForStepsAndCancelsAct). -/
theorem test_lane_tasks :
    let t := testTask 4 .ready []
    let s := taskState t testCtx
    t.stream = some 3 ∧ ctxOpen (ctxAt s 3) = true ∧ (ctxAt s 3).final = false ∧ t.noticed = false ∧ (ctxAt s 3).fin = 0 ∧
    (ctxAt s 3).cancelAt = none ∧ pendPlaces (ctxAt s 3) < 6 ∧ hasEarlier (engAt s 0) t = false ∧ { testCtx with final := true }.final = true := by
  decide +kernel
/-- A cancellation of the stream's tenant and generation, of another tenant, of another generation, and of a free context
(LaneTasksAskForStepsAndCancelsAct). -/
theorem test_cancel :
    let s := taskState (testTask 4 .ready []) testCtx
    (engAt s 0).stopped = false ∧ ctxOpen (ctxAt s 3) = true ∧ (ctxAt s 3).gen = 2 ∧ (ctxAt s 3).tenant = 5 ∧ (ctxAt s 4).st = .free := by
  decide +kernel
/-- A task whose record is damaged (LaneTasksAskForStepsAndCancelsAct). -/
theorem test_task_damaged :
    let s := { taskState (testTask 4 .ready []) testCtx with dram := [(taskAddr 0 0 / 8, ⟨0, .double⟩)] }
    taskOf (engAt s 0) 0 = some (testTask 4 .ready []) ∧ anyPoison (dramReads s (taskAddr 0 0 / 8) 8).1 = true := by decide +kernel

/-- Tempo words of a pipeline at its home engine and elsewhere (LanesAreFilledAndDelivered). -/
theorem test_tempo :
    let s := taskState (testTask 4 .ready []) testCtx
    homeEng s 0 = some 0 ∧ homeEng s 1 = none ∧ bulkReg s 0 = none ∧ tempoCode { Pipe.reset with tmap0 := 1 } 0 ≠ tempoCode Pipe.reset 0 := by
  decide +kernel
/-- A pipeline whose beat of one frame with phase 0 is due whatever its landing offset is, and a pipeline of phase 200 that is not due
before its phase (LanesAreFilledAndDelivered). -/
theorem test_dispatch (b p n : Nat) :
    let i := { testImg with regions := [{ testRegion 1 0 0 with
      b := b
      p := p }] }
    let s := { imgState with
      load := { Load.reset with img := some i }
      frames := n }
    homeEng s 0 = some 0 ∧ (engAt s 0).stopped = false ∧ s.svc.warming = false ∧ gridStopped s = false ∧ beatOf s 0 = (max 1 b, p) ∧
    ∀ f, beatHeld s 0 f = false ∧ (b = 1 ∧ p = 0 → (beatOf s 0).2 ≤ f ∧ (f - (beatOf s 0).2) % (beatOf s 0).1 = 0) ∧
      (f < p → f < (beatOf s 0).2) := by
  intro i s
  have k : beatOf s 0 = (max 1 b, p) := rfl
  refine ⟨rfl, rfl, rfl, rfl, k, fun f => ⟨rfl, ?_, ?_⟩⟩
  · rintro ⟨rfl, rfl⟩
    rw [k]
    exact ⟨Nat.zero_le f, Nat.mod_one _⟩
  · intro h
    rw [k]
    exact h
/-- Notices of a task and of its end (LanesAreFilledAndDelivered). -/
theorem test_notices :
    let e := { Engine.reset with notices := [⟨0, 3, 0, false, false⟩, ⟨0, 3, 0, false, true⟩] }
    (engAt { State.reset with eng := [(0, e)] } 0).notices = ⟨0, 3, 0, false, false⟩ :: [⟨0, 3, 0, false, true⟩] := by decide +kernel
/-- A decode that has waited long enough, one that has not, and a prefill (LanesAreFilledAndDelivered). -/
theorem test_lane_choice :
    let c := fun (pf : Bool) (wait : Nat) => (⟨⟨3, 0, pf, 0, none, none, wait⟩, 1⟩ : Cand)
    let dc := fun (l : List Cand) => l.filter (fun c => c.cls == 1 && !c.t.pf)
    let pf := fun (l : List Cand) => l.filter (fun c => c.cls == 1 && c.t.pf)
    (dc [c true 0, c false 16]).find? (fun c => decide (16 ≤ c.t.wait)) = some (c false 16) ∧ (∀ d ∈ dc [c true 0, c false 15], d.t.wait < 16) ∧
    (pf [c true 0, c false 15]).head? = some (c true 0) ∧ pf [c false 15] = [] := by decide
/-- The module with a SAMPLE region of a pipeline whose first tile lands lines of memory die 0, and a stream in flight. -/
def sampleState (x : Flight) : State :=
  { taskState (testTask 4 .ready []) { testCtx with flights := [x] } with
    load := { Load.reset with img := some { testImg with regions := [testRegion 1 0 0, testRegion 2 3 1] } }
    grid := { Grid.reset with tiles := [(111, { Tile.reset with pad := { Pad.reset with
      win := [(0, { Win.none with
        lines := 64
        typ := 1
        source := 16 })] } })] } }
/-- A lane's parameters, in flight and not, and a step result that finds its flight (LanesAreFilledAndDelivered). -/
theorem test_sampling :
    let x : Flight := ⟨0, 0, 0, 9, 0, 2, 7, 1, false, false, [], none⟩
    let s := sampleState x
    sampleReg s 0 = some (1, testRegion 2 3 1) ∧ originSite s 1 = some 111 ∧ (landWins s 111 16).length = 1 ∧ sampleFlight s 0 2 9 = some (3, x) ∧
    sampleFlight s 0 2 8 = none ∧
    (ctxAt s 3).flights.find? (fun x => x.lane == 2 && x.pos == 7 && x.ntok == 1 && x.res.isNone) = some x := by decide +kernel
/-- A stream that closes with its group, one still in flight, a record with room at its ring and one without, a batch that is due and
one that is not (RingsAndLocksAreKept). -/
theorem test_rings :
    let c := { testCtx with
      st := .closing
      recs := [⟨1, 15, 0, 0, []⟩]
      batch := [(1, 0)]
      batchAt := 4
      batchFr := 5 }
    let s := taskState (testTask 4 .ready []) c
    (ctxAt s 3).st = .closing ∧ (ctxAt s 3).closing = false ∧ (ctxAt s 3).flights = [] ∧ (ctxAt s 3).recs ≠ [] ∧
    ((15 : BitVec 32) - (ctxAt s 3).head).toNat < 2 ^ (ctxAt s 3).log2n.toNat ∧ 2 ^ (ctxAt s 3).log2n.toNat ≤ ((16 : BitVec 32) - (ctxAt s 3).head).toNat ∧
    (ctxAt s 3).batch ≠ [] ∧ (ctxAt s 3).batchAt + (ctxAt s 3).batchFr.toNat = 9 ∧
    (cgStart [(engNode 0, CgItem.closing 3)] s).isSome = true := by decide +kernel
/-- RCREDIT of the stream's generation and tenant within and beyond its records, and of others (RingsAndLocksAreKept). -/
theorem test_rcredit :
    let s := taskState (testTask 4 .ready []) { testCtx with seq := 2 }
    let arg : Word := 3 + 2 * 2 ^ 14 + 2 * 2 ^ 32
    let past : Word := 3 + 2 * 2 ^ 14 + 3 * 2 ^ 32
    HostOpen s 0 (testSession 0) ∧ bitsAt arg 0 14 = 3 ∧ (ctxAt s 3).gen.toNat = bitsAt arg 14 16 ∧ (ctxAt s 3).tenant = (testSession 0).tenant ∧
    (BitVec.ofNat 32 (bitsAt arg 32 32) - (ctxAt s 3).head).toNat ≤ ((ctxAt s 3).seq - (ctxAt s 3).head).toNat ∧
    ((ctxAt s 3).seq - (ctxAt s 3).head).toNat < (BitVec.ofNat 32 (bitsAt past 32 32) - (ctxAt s 3).head).toNat ∧ ctxOpen (ctxAt s 3) = true :=
  ⟨⟨by decide +kernel, rfl, by decide⟩, by decide +kernel, by decide +kernel, by decide +kernel, by decide +kernel, by decide +kernel, by decide +kernel⟩
/-- A lock that is held and one that is free (RingsAndLocksAreKept). -/
theorem test_locks : (lockAt State.reset 0).held = false ∧
    (lockAt { State.reset with locks := [(0, ⟨true, false, 7, 3, 1⟩)] } 0) = ⟨true, false, 7, 3, 1⟩ := by decide +kernel

/-! ### The hypotheses of the obligations are met: memory dies, links, pods and security -/

/-- A line of the tenant, of another, and of another die (MemoryDiesServeTheirDram). -/
theorem test_dram_lines :
    let s := { State.reset with md := [(0, { MemDie.reset with grants := [⟨592, 0, 1, 5⟩] })] }
    dramDie hostBase = 0 ∧ granOwner s hostBase = some 5 ∧ granOwner s (hostBase + 0x10000) = none ∧ dramDie (hostBase + 0x800000) = 1 ∧
    128 * (BitVec.ofNat 38 (hostBase / 128)).toNat = hostBase := by decide +kernel
/-- A FETCH for a work tile, of the tenant's page and of another's, from good memory (MemoryDiesServeTheirDram). -/
theorem test_fetch :
    let s := { sampleState ⟨0, 0, 0, 9, 0, 2, 7, 1, false, false, [], none⟩ with
      load := { Load.reset with img := some { testImg with regions := [testRegion 1 0 0, testRegion 2 2 1] } }
      geom := [(0, 0x404880)]
      md := [(0, { MemDie.reset with grants := [⟨592, 0, 128, 5⟩] })]
      dram := [] }
    let w1 : Word := BitVec.ofNat 64 (hostBase / 128 + 5 * 2 ^ 38)
    let ls := blockLines (geomKv4 (geomAt s 0)) (geomNpl (geomAt s 0)) (pageSize (min 8 (bitsAt 0 39 4))) (bitsAt 0 43 5)
    fetchTile s (bitsAt 0 5 4) (bitsAt 0 9 6) (bitsAt 0 15 16) = some (111, 0) ∧ (0 : Word).getLsbD 4 = false ∧ (0x10 : Word).getLsbD 4 = true ∧
    linesOwned s (BitVec.ofNat 12 (bitsAt w1 38 12)) (bitsAt w1 0 38) ls = true ∧ linesOwned s 6 (bitsAt w1 0 38) ls = false ∧ ls ≠ [] := by
  decide +kernel
/-- Extents that a host takes and gives back, at the limit and in use (MemoryDiesServeTheirDram). -/
theorem test_extents :
    let s := taskState (testTask 4 .ready []) testCtx
    let d := mdAt s 0
    extClass (extAt d 593) = 0 ∧ extClass 0x54 = 4 ∧ classCount d 4 < { d with hostMax := 2 }.hostMax.toNat ∧
    { d with hostMax := 1 }.hostMax.toNat ≤ classCount d 4 ∧ extClass (extAt d 592) = 4 ∧ extentQueue s 0 592 = true ∧
    extentQueue State.reset 0 592 = false ∧ extClass (extAt d 591) = 1 := by decide +kernel
/-- The module with a BULK region of pipeline 0 at memory die 0, whose weight tiles land 8 lines, and a copy of an empty shard. -/
def bulkState (d : MemDie) (lib : List (List Nat)) : State :=
  { sampleState ⟨0, 0, 0, 9, 0, 2, 7, 1, false, false, [], none⟩ with
    load := { Load.reset with img := some { testImg with regions := [testRegion 1 0 0, testRegion 2 4 1] } }
    resid := [(0, { Resid.free with
      st := .library
      lib := lib })]
    dram := []
    md := [(0, d)] }
/-- A pipeline with a BULK region, with and without a copy on its die, whose items fit (BulkStreamsAreDelivered). -/
theorem test_bulk :
    let s := bulkState MemDie.reset [[592]]
    let xs := bulkItems s (fun o => dramByte s (copyAddr [592] o)) 0 0
    homeEng s 0 = some 0 ∧ (bulkReg s 0).isSome = true ∧ dieBulk s 0 = some (1, testRegion 2 4 1) ∧ dieCopy s 0 0 = some [592] ∧
    dieCopy (bulkState MemDie.reset []) 0 0 = none ∧ xs = [] ∧ dieBulk s 1 = none ∧ bulkTiles s 1 16 ≠ [] := by decide +kernel
/-- An item of a shard that is too long for the landing windows (BulkStreamsAreDelivered). -/
theorem test_bulk_long :
    let s := { bulkState MemDie.reset [[592]] with
      dram := [hostWord 0 0x0001000000000000 .good, hostWord 0x18 1 .good, hostWord 0x98 100 .good] }
    let xs := bulkItems s (fun o => dramByte s (copyAddr [592] o)) 0 0
    bulkCht (bulkTiles s 1 16) = 32 ∧ xs = [⟨0, true, 0, 0, 0, 100, 12800⟩] := by decide +kernel
/-- A pass that begins, one in the middle, and a die that is not valid (BulkStreamsAreDelivered). -/
theorem test_bulk_pass :
    let d := { MemDie.reset with
      bulkValid := true
      nch := 3 }
    let b := fun (f : Nat) => (f - 1) / max 1 4
    d.nch ≠ 0 ∧ b 13 % d.nch.toNat = 0 ∧ b 9 % d.nch.toNat ≠ 0 ∧ MemDie.reset.bulkValid = false := by decide

/-- A link die whose sub-port 0 is up with an IPv4 address, sub-port 1 is down, and port 1 is stopped for a mode change. -/
def testLink : LinkDie := { LinkDie.reset with
  ports := [(0, { Port.reset 0 with
    up := 1
    ecnEn := true }), (1, { Port.reset 0 with modeSt := true })]
  subs := [(0, { Sub.none with ip4 := 7 })]
  ptpEn := true }
/-- Frames at sub-ports that are up and down, with and without an address, and of the greatest length (PortsCarryFrames). -/
theorem test_frames :
    let s := { State.reset with ld := [(0, testLink)] }
    subUp (linkAt s 0) 0 = true ∧ subUp (linkAt s 0) 1 = false ∧ (subAt testLink 0).ip4 ≠ 0 ∧ (subAt testLink 0).ip6h = 0 ∧
    (subAt testLink 8).ip4 = 0 ∧ (9216 : BitVec 16).toNat ≤ 9216 ∧ (1 : BitVec 2).toNat ≤ 1 ∧ ¬ (9217 : BitVec 16).toNat ≤ 9216 := by decide +kernel
/-- Ports in and out of a mode change, sub-ports that a mode defines, sessions that move and that stay, and a follower's clock
(PortsCarryFrames). -/
theorem test_ports :
    let s := { (sessState 0) with ld := [(0, { testLink with sess := [(0, some (testSession 0))] })] }
    (portAt testLink 1).modeSt = true ∧ (portAt testLink 0).modeSt = false ∧ (portAt testLink 0).en = true ∧ 0 < modeSubs (portAt testLink 0).modeAct ∧
    modeSubs (portAt testLink 0).modeAct ≤ 1 ∧ subUp testLink (testSession 0).sub = true ∧ subUp testLink ({ testSession 0 with sub := 1 }).sub = false ∧
    ({ testSession 0 with sub := 1 }).alt < 24 ∧ subUp testLink ({ testSession 0 with sub := 1 }).alt = true ∧ ecnOn s 0 (testSession 0) = true ∧
    testLink.ptpEn = true ∧ testLink.ptpGm = false ∧ testLink.ptpSub.toNat = 0 ∧
    ptpSource { s with ld := [(0, { testLink with ptpLocked := true })] } = some 0 := by decide +kernel
/-- A packet of session 0 in order. -/
def testPacket (op : Byte) (psn : BitVec 32) : KlpArgs := ⟨1, op, 0, 0, 0, 0, psn, 0, 0, 0, 0, [], 0, false⟩
/-- A packet whose tag holds, in and out of order, and packets whose session or form fails (PacketsAreCheckedAndOrdered). -/
theorem test_packets (tag : Config.cmac 0 (klpHeader (testPacket 1 0)) = 0) :
    let x := testSession 0
    let s := sessState 0
    let a := testPacket 1 0
    a.ver = 1 ∧ a.payload.length ≤ 4096 ∧ a.session.toNat / 256 = 0 ∧ sessAt s a.session.toNat = some x ∧
    Config.cmac x.key (klpHeader a ++ a.payload) = a.tag ∧ klpStale s x a = false ∧ a.psn = (chanAt (a.flags.getLsbD 0) x).expect ∧
    (testPacket 1 1).psn ≠ (chanAt ((testPacket 1 1).flags.getLsbD 0) x).expect ∧ a.op ∈ klpOps.map (BitVec.ofNat 8) ∧
    sessAt s 1 = none ∧ { a with ver := 2 }.ver ≠ 1 :=
  ⟨rfl, by decide, rfl, by decide +kernel, (congrArg (Config.cmac 0) (List.append_nil (klpHeader (testPacket 1 0)))).trans tag, by decide +kernel, rfl, by decide, by decide,
    by decide +kernel, by decide⟩
/-- A packet of a SPAN session with a stale epoch whose tag fails or holds, ACK, NAK, and packets to send again
(PacketsAreCheckedAndOrdered). -/
theorem test_packets_stale :
    let x := testSession 2
    let s := { sessState 2 with pod := { Pod.reset with epoch := 9 } }
    (testPacket 1 0).epoch ≠ sessEpoch s x ∧ x.kind = 2 ∧ (testPacket 4 0).op = 4 ∧ (testPacket 5 0).op = 5 ∧
    chanFlight 64 KChan.reset = [] ∧ KChan.reset.unacked = [] := by decide +kernel
/-- A request to open an operator's session, signed with an owner key. -/
def testOpen : OpenArgs :=
  { mac := 0, ip4 := 0, ip6h := 0, ip6l := 0, agent := 7, aepoch := 3, tenant := 0, kind := 1, alt := 0xFF, window := 16, rto := 0, regBase := 0,
    regLen := 0, epub := List.replicate 97 0, keyId := 0x100, sig := [] }
/-- An OPEN whose signature holds, a free session, and a malformed one at the end of each range (SessionsOpenAndClose). -/
theorem test_open (sig : Config.verifies 0 (Config.sha384 (openBytes testOpen)) [] = true) :
    openRefusal { State.reset with sec := ownedSec } testOpen = none ∧ freeSess (linkAt State.reset 0) = some 0 ∧
    { testOpen with window := 15 }.window.toNat < 16 ∧ 1024 < { testOpen with window := 1025 }.window.toNat ∧
    4096 ≤ { testOpen with tenant := 4096 }.tenant.toNat ∧ 4 ≤ { testOpen with kind := 4 }.kind.toNat := by
  refine ⟨?_, by decide +kernel, by decide, by decide, by decide, by decide⟩
  have h : sigHolds ownedSec (.session (testOpen.kind == 1)) testOpen.keyId.toNat (openBytes testOpen) testOpen.sig = true :=
    owner_sig _ _ _ _ (by decide +kernel) sig
  unfold openRefusal
  simp only [h]
  decide +kernel
/-- A die without a free session, and sessions that time out and that do not (SessionsOpenAndClose). -/
theorem test_sessions :
    freeSess { LinkDie.reset with sess := (List.range 256).map (fun i => (i, some (testSession 0))) } = none ∧
    ({ testSession 0 with silent := 3 }).silent = 3 ∧ (testSession 0).silent < 3 ∧ sessAt (sessState 0) 0 = some (testSession 0) ∧
    sessAt (sessState 0) 1 = none := by decide +kernel
/-- A host's words of its own memory and of another's, to the end of the extent (VerbsReachMemoryHistoryAndSpan). -/
theorem test_host_words :
    let s := taskState (testTask 4 .ready []) testCtx
    sessAt s 0 = some (testSession 0) ∧ s.svc.warming = false ∧ hostBase % 8 = 0 ∧ hostBase + 0x800000 ≤ 2 ^ 43 ∧
    hostOwned s (testSession 0).tenant (hostBase + 0x800000 - 4096) 4096 = true ∧
    hostOwned s (testSession 0).tenant (hostBase + 0x800000 - 4088) 4096 = false ∧ s.sec.lc.toNat < 2 := by decide +kernel
/-- The token history of the host's stream, beyond its length and up to its end, and of a stream that is not its own
(VerbsReachMemoryHistoryAndSpan). -/
theorem test_history :
    let s := taskState (testTask 4 .ready []) testCtx
    let arg : Word := 3 + 2 * 2 ^ 14 + (2 ^ 20 - 1) * 2 ^ 32
    bitsAt arg 0 14 = 3 ∧ (ctxAt s 3).tenant = (testSession 0).tenant ∧ (ctxAt s 3).gen.toNat = bitsAt arg 14 16 ∧ bitsAt arg 32 21 + 1 ≤ 2 ^ 20 ∧
    2 ^ 20 < bitsAt arg 32 21 + 2 ∧ ctxOpen (ctxAt s 3) = true ∧ (ctxAt s 3).len.toNat ≤ bitsAt arg 32 21 ∧ (0x3FFFF : BitVec 32).toNat < 2 ^ 18 ∧
    (ctxAt s 4).tenant ≠ (testSession 0).tenant := by decide +kernel
/-- A LAND route to a placed tile and to none, in time and late, with a credit and without, and lines that wait at a gateway
(VerbsReachMemoryHistoryAndSpan). -/
theorem test_land :
    let s := { imgState with grid := { Grid.reset with credit := [(creditKey 0 108 2, 1)] } }
    let route : Word := 1 * 2 ^ 6 + 2 * 2 ^ 38
    let d := { LinkDie.reset with
      sess := [(4, some { testSession 2 with span := 1 })]
      gate := [⟨route, 0, [], 0⟩] }
    routeSite s route = some 108 ∧ routeSite s 0 = none ∧ ((127 : Byte) - BitVec.ofNat 8 s.frames).toNat < 128 ∧
    128 ≤ ((128 : Byte) - BitVec.ofNat 8 s.frames).toNat ∧ sget 0 s.grid.credit (creditKey 0 108 2) ≠ 0 ∧
    sget 0 s.grid.credit (creditKey 0 108 3) = 0 ∧ (testSession 2).kind = 2 ∧ (∀ l ∈ d.gate, l.route = route) ∧ d.gate ≠ [] ∧
    spanSess d (bitsAt route 0 6) = some 4 := by decide +kernel

/-- The module in a pod with a POD session to the hawk, and with a member table. -/
def podState (st : BitVec 3) (hawk : Option Nat) (t : SMap Member) : State :=
  { sessState 3 with pod := { Pod.reset with
    st := st
    epoch := 5
    hawkSess := hawk
    table := t } }
/-- A session to the hawk, one that is not, and a provisional one (PodsFormAndSwitch, SpansProbesAndFrequenciesFollowTheHawk). -/
theorem test_hawk_open : HawkOpen (podState 2 (some 0) []) 0 (testSession 3) ∧ PodOpen (podState 3 none []) 0 (testSession 3) ∧
    (podState 3 none []).pod.hawkSess ≠ some 0 ∧ ({ testSession 3 with prov := true }).prov = true :=
  ⟨⟨⟨by decide +kernel, rfl, rfl⟩, rfl⟩, ⟨by decide +kernel, rfl, rfl⟩, by decide, rfl⟩
/-- Epochs ahead and behind at the ends of the half circle, an able standby with a synced copy, and an orphan's time
(PodsFormAndSwitch). -/
theorem test_pod :
    let s := podState 3 none []
    let y := { podState 2 (some 0) [] with
      svc := { Svc.reset with straps := 3 }
      pod := { Pod.reset with
        st := 2
        hawkLost := true
        synced := some (5, [], []) } }
    epochAhead 6 5 = true ∧ epochAhead 32772 5 = true ∧ epochAhead 32773 5 = false ∧ epochAhead 5 5 = false ∧ epochRef false s = 5 ∧
    podRole y = 3 ∧ podRole s ≠ 3 ∧ y.pod.hawkLost = true ∧ y.pod.st = 2 := by decide +kernel
/-- A member of a hawk whose session is gone, and one that leaves (PodsFormAndSwitch). -/
theorem test_members :
    let m : Member := ⟨1, true, false, true, 0, 0, 0, false, some 1⟩
    let s := podState 3 none [(4, m)]
    leads false s = true ∧ leads true s = false ∧ memberAt false s 4 = m ∧ m.valid = true ∧ m.fenced = false ∧ m.session = some 1 ∧ sessAt s 1 = none ∧
    (memberTab false (podState 3 none [(4, { m with session := some 0 })])).find? (fun e => e.2.session == some 0) =
      some (4, { m with session := some 0 }) ∧ (memberTab false s).find? (fun e => e.2.session == some 0) = none := by decide +kernel
/-- Frames of an epoch change that have passed and that have not, epochs that wait, and a grid that runs (PodsFormAndSwitch). -/
theorem test_epochs :
    let s := { podState 2 (some 0) [] with
      frames := 9
      pod := { Pod.reset with pendEpoch := some (6, 20) } }
    9 ≤ (frameCtr s).toNat ∧ (frameCtr s).toNat < 10 ∧ s.pod.pendEpoch = some (6, 20) ∧ State.reset.pod.pendEpoch = none ∧
    (∀ e ∈ State.reset.grid.tiles, e.2.mesh.run = false) ∧ (∃ e ∈ (seqState seqTile).grid.tiles, e.2.mesh.run = true) := by decide +kernel
/-- A span of two, a malformed one, a frequency code at its end and codes in force and pending (SpansProbesAndFrequenciesFollowTheHawk). -/
theorem test_spans :
    let arg : Word := 1 * 2 ^ 8 + 2 * 2 ^ 14
    let s := { State.reset with cg := { Cg.reset with parts := [⟨8096, 1, [.freq 3], 0, false, 0, .none⟩] } }
    bitsAt arg 14 6 ≤ 2 ∧ bitsAt arg 8 6 < bitsAt arg 14 6 ∧ 1 < bitsAt arg 14 6 ∧ bitsAt 8 0 8 ≤ 8 ∧ 8 < bitsAt 9 0 8 ∧
    sget none [((0 : Nat), some (⟨9, 0, 2, [0, 1], false⟩ : Span))] 0 = some ⟨9, 0, 2, [0, 1], false⟩ ∧ (freqPending s).isSome = true ∧
    768 - 1 + 1 ≤ 768 ∧ 768 < 768 + 1 := by decide +kernel
/-- A probe set without its signature. -/
def testProbeSet : List Byte := leBytes 4 0x4B505253 ++ leBytes 4 1 ++ leBytes 4 7 ++ List.replicate 756 0
/-- A probe set whose signature, over the model's free functions, holds, and one that is off the layout
(SpansProbesAndFrequenciesFollowTheHawk, ProbesAndHistoryAct). -/
theorem test_probe_set (sig : Config.fixedKeyVerifies 0 (Config.sha384 (testProbeSet.take 672)) (testProbeSet.drop 672) = true) :
    probeRefusal State.reset testProbeSet = none ∧ probeSetOk [] = false ∧ probeSetOk testProbeSet = true := by
  have h : probeSetSigned State.reset testProbeSet = true :=
    any_sig _ _ 0 _ _ (by decide) (fixed_sig _ _ 0 _ _ (by decide) (by decide +kernel) sig)
  have o : probeSetOk testProbeSet = true := by decide +kernel
  refine ⟨?_, by decide +kernel, o⟩
  unfold probeRefusal
  simp only [h, o]
  decide +kernel

/-- The inbox of a signed command on target n, with challenge 0 and the owner key of slot 0. -/
def signedSec (lc : BitVec 2) (cmd n : Nat) : Sec :=
  { ownedSec with
    lc := lc
    inbox := [(0, 0x53434D31), (2, BitVec.ofNat 64 (cmd * 2 ^ 32 + n * 2 ^ 40 + 0x100 * 2 ^ 48))] }
/-- A signed command with its fields, whose signature holds, does what it says. -/
theorem signed_ok (c : Sec) (cmd : Byte) (o : Signed) (h : sigHolds c o (inboxLe c 22 2) (inboxBytes c 0 32) (inboxBytes c 32 96) = true)
    (e : inboxLe c 0 4 = 0x53434D31) (f : inboxLe c 20 1 = cmd.toNat) (g : inboxLe c 24 8 = 0) (n : inboxLe c 4 8 = Config.stackSn.toNat)
    (k : inboxLe c 12 8 = c.chal.toNat) : signedCheck c cmd o = .ok := by
  simp [signedCheck, h, e, f, g, n, k]
/-- A signed command that holds where the module's serial number is 0 and its signature holds, in their free functions; one that is
not laid out, one with another challenge (SecurityCommandsAct). -/
theorem test_signed (sn : Config.stackSn = 0)
    (sig : Config.verifies 0 (Config.sha384 (inboxBytes (signedSec 1 1 2) 0 32)) (inboxBytes (signedSec 1 1 2) 32 96) = true) :
    signedCheck (signedSec 1 1 2) 1 .lifecycle = .ok ∧ inboxLe (signedSec 1 1 2) 12 8 ≠ { signedSec 1 1 2 with chal := 1 }.chal.toNat ∧
    inboxLe Sec.reset 0 4 ≠ 0x53434D31 := by
  refine ⟨signed_ok _ _ _ ?_ (by decide +kernel) (by decide +kernel) (by decide +kernel) ?_ (by decide +kernel), by decide +kernel, by decide +kernel⟩
  · have k : inboxLe (signedSec 1 1 2) 22 2 = 0x100 := by decide +kernel
    rw [k]
    exact owner_sig _ _ _ _ (by decide +kernel) sig
  · rw [sn]
    decide +kernel
/-- Transitions and slots that a signed command may name, and those that it may not (SecurityCommandsAct). -/
theorem test_signed_targets :
    lcMay (signedSec 1 1 2) 2 = true ∧ lcMay (signedSec 2 1 1) 1 = false ∧ (ownerKey (signedSec 1 3 0) 0).written = true ∧
    lcSlots (signedSec 1 3 0) = [0] ∧ ownerAccepted 2 = true ∧ ownerAccepted 3 = false ∧ inboxLe (signedSec 1 2 3) 21 1 = 3 := by decide +kernel
/-- The inbox of a key install that erases slot 0's keys. -/
def installSec : Sec := { ownedSec with inbox := [(12, 3 * 2 ^ 8 + 0x100 * 2 ^ 32)] }
/-- An install of kind 3 with its fields, whose signature holds, does what it says. -/
theorem install_ok (s : State) (h : sigHolds s.sec .keywrap (inboxLe s.sec 100 2) (inboxBytes s.sec 0 152) (inboxBytes s.sec 152 96) = true)
    (e : inboxLe s.sec 97 1 = 3) (f : inboxLe s.sec 98 2 = 0) (g : inboxLe s.sec 102 2 = 0) (k : inboxLe s.sec 104 8 = s.sec.chal.toNat) :
    installCheck s = .ok := by
  simp [installCheck, h, e, f, g, k]
/-- A key install that erases a slot's keys, whose signature holds in its free function (SecurityCommandsAct). -/
theorem test_install
    (sig : Config.verifies 0 (Config.sha384 (inboxBytes installSec 0 152)) (inboxBytes installSec 152 96) = true) :
    installCheck { State.reset with sec := installSec } = .ok := by
  refine install_ok _ ?_ (by decide +kernel) (by decide +kernel) (by decide +kernel) (by decide +kernel)
  have k : inboxLe installSec 100 2 = 0x100 := by decide +kernel
  show sigHolds installSec .keywrap (inboxLe installSec 100 2) (inboxBytes installSec 0 152) (inboxBytes installSec 152 96) = true
  rw [k]
  exact owner_sig _ _ _ _ (by decide +kernel) sig
/-- An image in force when the roll-back minimum is raised (SecurityCommandsAct). -/
theorem test_rollback : imgState.load.img = some testImg := rfl

/-- Probes that are due: the set installed and the frame's turn, and not (ProbesAndHistoryAct). -/
theorem test_probe_due : State.reset.flt.probeEn = true ∧ State.reset.hist.setId = 0 ∧ (8 : Nat) % 2 ^ min 6 State.reset.flt.probeDiv.toNat = 0 ∧
    (2 : Nat) % 2 ^ min 6 State.reset.flt.probeDiv.toNat ≠ 0 := by decide
/-- An answer that agrees with its reference, and one that does not (ProbesAndHistoryAct). -/
theorem test_probe_answers :
    let p := { Probe.reset with again := some (0, 4) }
    crc32c ([].flatMap (fun y : Lane32 => leBytes 4 y.toNat)) = sget 0 p.refs 0 ∧
    crc32c ([].flatMap (fun y : Lane32 => leBytes 4 y.toNat)) ≠ sget 0 { p with refs := [(0, 1)] }.refs 0 ∧ p.again = some (0, 4) ∧
    Probe.reset.again = none := by decide +kernel
/-- A list of one value reads as that value or, beyond its end, as the default. -/
theorem lget_const {α β : Type} (l : List α) (v d : β) (i : Nat) : lget d (l.map (fun _ => v)) i = v ∨ lget d (l.map (fun _ => v)) i = d := by
  unfold lget
  rw [List.getD_eq_getElem?_getD, List.getElem?_map]
  cases l[i]? with
  | none => exact .inr rfl
  | some _ => exact .inl rfl
/-- An input line of zero bytes drives no row. -/
theorem undriven (x : List Byte) (h : ∀ i, lget 0 x i = 0#8) (g b : Nat) : driven x g b = 0 := by
  unfold driven
  simp only [h]
  simp
/-- An undriven macro outputs, for every column, what the adder tree gives on sums of zero. -/
theorem undriven_outs (f : Fabric) (m : Nat) (x : List Byte) (sa : BitVec 16) (h : ∀ i, lget 0 x i = 0#8) (k : Byte)
    (hk : ∀ j c, scaleCode f m j c = k) (hf : (mtGet f m).fmt = 0) :
    (opCompute f m x sa).outs = (List.range 512).map (fun _ => treeOut sa [k, k, k, k] [0, 0, 0, 0]) := by
  have p : ∀ j b c, planeSum f m (mtGet f m) x j b c = ⟨0, []⟩ := by
    intro j b c
    unfold planeSum
    rw [undriven x h, undriven x h]
    split <;> simp [clipList]
  have q : ∀ j c, blockSat (blockRaw (lget [] (lget [] ((List.range 4).map (fun _ => (List.range 512).map (fun _ => (List.range 8).map
      (fun _ => (⟨0, []⟩ : PSum))))) j) c)) = 0 := by
    have e : ∀ i, lget ⟨0, []⟩ ((List.range 8).map (fun _ => (⟨0, []⟩ : PSum))) i = ⟨0, []⟩ := fun i => (lget_const _ _ _ _).elim id id
    have e2 : ∀ i, lget ⟨0, []⟩ ([] : List PSum) i = ⟨0, []⟩ := fun i => by simp [lget]
    intro j c
    have z : lget [] (lget [] ((List.range 4).map (fun _ => (List.range 512).map (fun _ => (List.range 8).map (fun _ => (⟨0, []⟩ : PSum))))) j) c =
        (List.range 8).map (fun _ => ⟨0, []⟩) ∨
        lget [] (lget [] ((List.range 4).map (fun _ => (List.range 512).map (fun _ => (List.range 8).map (fun _ => (⟨0, []⟩ : PSum))))) j) c = [] := by
      generalize hr : List.range 512 = r
      rcases lget_const (List.range 4) (r.map (fun _ => (List.range 8).map (fun _ => (⟨0, []⟩ : PSum)))) [] j with w | w <;> rw [w]
      · exact lget_const _ _ _ _
      · exact .inr (by simp [lget])
    rcases z with z | z <;> rw [z] <;> simp only [blockRaw, e, e2] <;> decide
  simp only [opCompute, p, q, hk, hf, outCount]
  rfl
/-- The columns that differ from given outputs, where a column is an output. -/
theorem diff_of_outs (s : State) (site m l : Nat) (outs : List Lane32) (hf : (mtGet (exactFab s site m) m).fmt = 0)
    (h : (opCompute (exactFab s site m) m ((List.range 128).map (byteOf ((List.range 16).map (fun w => sget 0 s.hist.probeLines (16 * l + w)))))
      (halfOf [sget 0 s.hist.probeLines 64] l)).outs = outs) :
    diffCols s site m l = ((List.range outs.length).filter (fun c => lget 0 outs c ≠
      laneOf ((List.range 256).map (fun w => sget 0 (tileAt s site).probe.capture w)) c)).flatMap (fun c => [c]) := by
  subst h
  simp [diffCols, hf]
/-- A tile whose probe captured n words of ones. -/
def probeState (n : Nat) : State := tileState 97 { Tile.reset with
  probe := { Probe.reset with capture := (List.range n).map (fun w => (w, 0x100000001)) } }
theorem probe_line : ∀ i, lget 0 ((List.range 128).map (byteOf ((List.range 16).map (fun w => sget (0 : Word) [] (16 * 0 + w))))) i = 0#8 := by
  intro i
  rcases Nat.lt_or_ge i 128 with l | l
  · exact (by decide +kernel : ∀ i < 128, lget 0 ((List.range 128).map (byteOf ((List.range 16).map (fun w => sget (0 : Word) [] (16 * 0 + w))))) i = 0#8) i l
  · exact List.getD_eq_default _ _ (by simpa using l)
theorem probe_diffs (n : Nat) : diffCols (probeState n) 97 0 0 = ((List.range ((List.range 512).map (fun _ => (0 : Lane32))).length).filter (fun c =>
    lget 0 ((List.range 512).map (fun _ => (0 : Lane32))) c ≠
      laneOf ((List.range 256).map (fun w => sget 0 (tileAt (probeState n) 97).probe.capture w)) c)).flatMap (fun c => [c]) := by
  refine diff_of_outs _ _ _ _ _ rfl ?_
  rw [show (probeState n).hist.probeLines = [] from rfl, undriven_outs _ _ _ _ probe_line 0 ?_ rfl]
  · rw [show treeOut (halfOf [sget 0 ([] : SMap Word) 64] 0) [0, 0, 0, 0] [0, 0, 0, 0] = 0 by decide +kernel]
  · intro j c
    show ((0 : BitVec _) >>> (8 * ((512 * j + c) % 128))).setWidth 8 = 0
    simp
/-- An erased macro's probe differs in no column, and one that captured two words in four (ProbesAndHistoryAct). -/
theorem test_probe_columns : (diffCols (probeState 0) 97 0 0).length = 0 ∧ (diffCols (probeState 2) 97 0 0).length = 4 := by
  rw [probe_diffs, probe_diffs]
  decide +kernel
/-- A third event within its time makes a unit permanent, a second does not, and a repeated event changes nothing
(ProbesAndHistoryAct). -/
theorem test_events :
    let u : UnitId := ⟨1, 97⟩
    let s := fun (l : List HistEvent) => { State.reset with hist := { Hist.reset with events := l } }
    (chargeEvent u 3 (s [⟨u, 1, 0⟩, ⟨u, 2, 0⟩])).2 = true ∧ (chargeEvent u 3 (s [⟨u, 1, 0⟩])).2 = false ∧
    repeats (s [⟨u, 3, 0⟩]).hist ⟨u, 3, 0⟩ = true ∧ repeats (s []).hist ⟨u, 3, 0⟩ = false ∧ State.reset.flt.remapEn = true := by decide +kernel
/-- A deputy that acts at the third silence, and a warm reset that may go on (ProbesAndHistoryAct). -/
theorem test_deputy : (mdAt State.reset 0).deputyActed = false ∧ State.reset.flt.deputy = false ∧ State.reset.flt.fatal = false ∧
    State.reset.flt.warmEn = true ∧ State.reset.svc.warming = false ∧ State.reset.svc.warmN = 0 := by decide

/-- A sensor whose reading counts, and one whose multiplexer has just moved (ZoneMinimumIsKept, SensorsAverageAndRegulatorsStep). -/
theorem test_sensor :
    let z := senseStep 700 Sense.reset
    z.valid = true ∧ z.mux = 0 ∧ z.out = false ∧ State.reset.grid.exposed.getLsbD 97 = true ∧ (zoneAt State.reset (zoneOf 97)).minValid = false ∧
    (senseStep 700 { Sense.reset with sinceMux := 1 }).valid = false ∧ 2 ≤ Sense.reset.sinceMux ∧ filtLen Sense.reset ≤ Sense.reset.sinceFilt ∧
    Sense.reset.mux.toNat < 2 ∧ { Sense.reset with sinceFilt := 3 }.sinceFilt < filtLen Sense.reset := by decide +kernel
/-- A lower and an equal reading beside a held minimum, two readings of a zone, and the word that clears it (ZoneMinimumIsKept). -/
theorem test_minimum :
    let z := zoneCapture 97 700 5 (zoneAt State.reset 0)
    z.minValid = true ∧ z.min = 700 ∧ (699 : BitVec 11).toNat < z.min.toNat ∧ z.min.toNat ≤ (700 : BitVec 11).toNat ∧
    ([(97, 700, 5), (98, 690, 6)] : List (Nat × Nat × Word)) ≠ [] ∧ (0x800000 : Word).getLsbD 23 = true := by decide +kernel
/-- A zone with a reading and one without, setpoints within their bounds, and a weak site (SensorsAverageAndRegulatorsStep). -/
theorem test_regulator :
    let t := { Tile.reset with sense := { Sense.reset with
      value := 690
      valid := true } }
    let s := tileState 97 t
    lowest (zoneReadings s (zoneOf 97)) = some 690 ∧ lowest (zoneReadings State.reset 0) = none ∧ 2 * 690 + 40 < vTarget2 (vCode s) ∧
    (∀ n ∈ [620, 800], 620 ≤ n ∧ n ≤ 800) ∧ (∀ n ∈ [700, 740], ∀ m ∈ [700, 740], n ≤ m + 40) ∧ vTarget2 (vCode s) = 1440 := by decide +kernel
/-- Feeds, a fault in a domain, retries, gauges and temperatures at the ends of their ranges (SupplyFollowsItsRules). -/
theorem test_supply :
    State.reset.pwr.feedA = true ∧ State.reset.pwr.feedB = true ∧ State.reset.pwr.latched = false ∧ (4 : BitVec 4).toNat ≤ 4 ∧
    (15 : BitVec 6).toNat < 16 ∧ 16 ≤ (16 : BitVec 6).toNat ∧ (8499 : BitVec 16).toNat + 1500 < (10000 : BitVec 16).toNat ∧
    ¬ ((8500 : BitVec 16).toNat + 1500 < (10000 : BitVec 16).toNat) ∧ (1521 : BitVec 12).toInt = 1521 ∧ (1681 : BitVec 12).toInt = 1681 ∧
    (9999 : BitVec 16).toNat < 10000 ∧ State.reset.pwr.qOff = false := by decide
/-- A member whose PLL locks and unlocks (SupplyFollowsItsRules). -/
theorem test_lock :
    let c := { Clk.reset with inRun := 1023 }
    (podState 2 none []).pod.st = 2 ∧ Clk.reset.offGrid = false ∧ 1023 ≤ c.inRun ∧ Clk.reset.inRun < 1023 ∧ (200 : BitVec 32).toInt ≤ 200 ∧
    200 < (201 : BitVec 32).toInt ∧ (alignStep 201 0 { Clk.reset with
      podLock := true
      outRun := 15 }).podLock = false := by decide +kernel
/-- Power states that change, and streams that keep the module awake (PowerStatesChangeAsAllowed). -/
theorem test_pstates : State.reset.svc.warming = false ∧ State.reset.pwr.act = 0 ∧ busySids State.reset = [] ∧
    busySids (taskState (testTask 4 .ready []) testCtx) ≠ [] ∧ State.reset.flt.fatal = false ∧ State.reset.pwr.pstate.toNat < 2 := by decide +kernel
/-- A governor above its cap, one far enough below it, and one between (PowerStatesChangeAsAllowed). -/
theorem test_governor :
    let p := { Pwr.reset with
      hist := [30001]
      belowFr := 4095 }
    let c := { Clk.reset with k := 3 }
    powerCap Pwr.reset = some 30000 ∧ (meter 30001 { p with hist := [] }).pin.toNat = 30001 ∧ (meter 30000 { p with hist := [] }).pin.toNat = 30000 ∧
    (meter 28499 { p with hist := [] }).belowFr = 4096 ∧ (meter 28500 { p with hist := [] }).belowFr = 0 ∧ Pwr.reset.sinceStep = 128 ∧
    c.kreq.toNat < c.k.toNat ∧ powerCap { p with act := 2 } = none := by decide +kernel

/-- A module that lost both feeds, with energy for its journal and without, and one that rises (ResetsAndFreezesAct). -/
theorem test_last_gasp :
    let p := { Pwr.reset with
      feedA := false
      feedB := false }
    p.feedA = false ∧ p.feedB = false ∧ p.act ≠ 4 ∧ 2000 ≤ p.ev.toNat ∧ { p with ev := 1999 }.ev.toNat < 2000 ∧ pwrRises p = false ∧
    pwrRises Pwr.reset = true ∧ haltStage 1 = some 3 ∧ haltStage 0 = none := by decide
/-- A life cycle that waits for the cold reset, sites and ports at the ends of their ranges (ResetsAndFreezesAct). -/
theorem test_reset_ranges : State.reset.sec.lcPend = false ∧ (8063 : BitVec 13).toNat < 8064 ∧ 8064 ≤ (8064 : BitVec 13).toNat ∧ (47 : BitVec 6).toNat < 48 ∧
    48 ≤ (48 : BitVec 6).toNat ∧ State.reset.svc.warming = false ∧ State.reset.pwr.act ≠ 4 := by decide
/-- A freeze that starts, one below debug level 2, and one that is due (ResetsAndFreezesAct). -/
theorem test_freeze :
    let c := { Sec.reset with level := 2 }
    2 ≤ c.level.toNat ∧ Sec.reset.level.toNat < 2 ∧ State.reset.svc.frz = 0 ∧ State.reset.svc.pinEn = true ∧ (1 : BitVec 16) ≠ 0 ∧
    ({ Svc.reset with
      frz := 1
      stopFrame := 9 }).stopFrame.toNat ≤ 9 % 2 ^ 48 := by decide
/-- A detector that runs and holds a hazard, and a strap that opens the test port (DetectorTestPortAndBoardAct). -/
theorem test_detector :
    let s := { tileState 97 { Tile.reset with pad := { Pad.reset with haz := [(3, (1, 5, 2))] } } with
      svc := { Svc.reset with
        hazEn := true
        straps := 0x20000 }
      sec := { Sec.reset with level := 2 }
      clk := { Clk.reset with k := 8 } }
    hazLive s = true ∧ (sget (0, 0, 0) (tileAt s 97).pad.haz 3).1 ≠ 0 ∧ s.svc.hazStop = false ∧ strapTest s = true ∧ strapTest State.reset = false ∧
    hazLive State.reset = false ∧ s.sec.lc.toNat ≤ 1 := by decide +kernel
/-- A word that the test port reads, one that the state refuses, and one off the words (DetectorTestPortAndBoardAct). -/
theorem test_test_port :
    let v := { Svc.reset with frz := 2 }
    v.frz = 2 ∧ v.tapSel.toNat % 8 = 0 ∧ { v with tapSel := 4 }.tapSel.toNat % 8 ≠ 0 ∧
    mayRead { State.reset with
      svc := v
      sec := { Sec.reset with lc := 3 } } 0 = false := by decide +kernel
/-- A lamp that is judged and one that is not (DetectorTestPortAndBoardAct). -/
theorem test_lamp : 3 ≤ ({ Led.reset with duty := 3 }).duty.toNat ∧ ({ Led.reset with duty := 2 }).duty.toNat < 3 ∧
    ({ Led.reset with stretch := true }).stretch = true ∧ (255 + 1) % 256 = 0 := by decide
/-- The fuses of the module after reset, and those of a pending transition forward, only go forward (BurntStateNeverGoesBack). -/
theorem test_fuses : State.reset.sec.forward ∧ ({ State.reset.sec with
    lcPend := true
    lcNext := 2 } : Sec).forward := by
  unfold Sec.forward
  decide


/-! ### The whole module -/

/-- A module that keeps the invariant with a waiting command, a DRAM word, a power state and a pending transition
(StepsKeepTheInvariant). -/
theorem test_invariant : ModuleInv { State.reset with
    pending := [.frameBoundary]
    dram := [(5, ⟨7, SWord.zero.ecc⟩)]
    pwr := { Pwr.reset with act := 2 }
    sec := { Sec.reset with
      lcPend := true
      lcNext := 2 } } :=
  ⟨by decide, ⟨by decide, by decide, by decide, by decide⟩, by
    unfold Sec.forward
    decide, by
    unfold QueueWf
    decide⟩
/-- Memories out of their form, and modes off the legal ones, are not of the invariant (StepsKeepTheInvariant). -/
theorem test_not_invariant : ¬ Memory.wf [(5, ⟨7, SWord.zero.ecc⟩), (4, ⟨7, SWord.zero.ecc⟩)] ∧ ¬ Memory.wf [(5, SWord.zero)] ∧ ¬ ((5 : BitVec 3).toNat ≤ 4) := by decide

end Sys2Proof.Tests
end

section
/-! What a global address names, how the blocks of the service die are read and written by it, and what a field of a written word
reads back as (R11, R41). -/

namespace Sys2Proof.Machine

/-! ### Addresses of words (R41) -/

/-- A word of module DRAM lies at eight times its index. -/
theorem regAddr_dram {w : Nat} (h : w < 2 ^ 40) : regAddr (8 * w) = .dram w := by
  unfold regAddr
  simp only
  rw [if_pos (by omega)]
  congr 1; omega

/-- A tile's window begins 16 MiB after the one of the site before it. -/
theorem regAddr_tile (z : Site) {off : Nat} (h : off < 2 ^ 24) : regAddr (0x100000000000 + 0x1000000 * z + off) = .tile z off := by
  have hz := z.isLt
  unfold regAddr
  simp only
  rw [if_neg (by omega), if_pos (by omega), if_pos (by omega)]
  congr 1 <;> omega

/-- Nothing is mapped above the windows of the memory dies. -/
theorem regAddr_above {a : Nat} (h : 0x240000000000 ≤ a) : regAddr a = .none := by
  unfold regAddr
  simp only
  iterate 6 rw [if_neg (by omega)]

/-! ### Blocks of the service die's window (R41) -/

section
variable (ag ep : BitVec 16) (v : Word) (s : State)

theorem svcRead_svcBlock {off : Nat} (h : off < 0x20000) : svcRead s off = svcBlockRead s off := if_pos h

theorem svcWrite_svcBlock {off : Nat} (h : off < 0x20000) : svcWrite ag ep off v s = svcBlockPut off v s := if_pos h

theorem svcRead_plc {off : Nat} (h : off < 0x10000) : svcRead s (0x30000 + off) = plcBlockRead s off := by
  unfold svcRead
  rw [if_neg (by omega), if_neg (by omega), if_pos (by omega), Nat.add_sub_cancel_left]

theorem svcWrite_plc {off : Nat} (h : off < 0x10000) : svcWrite ag ep (0x30000 + off) v s = plcBlockPut off v s := by
  unfold svcWrite
  rw [if_neg (by omega), if_neg (by omega), if_pos (by omega), Nat.add_sub_cancel_left]

theorem svcRead_sec {off : Nat} (h : off < 0x10000) : svcRead s (0x50000 + off) = secBlockRead s.sec off := by
  unfold svcRead
  iterate 4 rw [if_neg (by omega)]
  rw [if_pos (by omega), Nat.add_sub_cancel_left]

theorem svcWrite_sec {off : Nat} (h : off < 0x10000) : svcWrite ag ep (0x50000 + off) v s = secBlockPut off v s := by
  unfold svcWrite
  iterate 4 rw [if_neg (by omega)]
  rw [if_pos (by omega), Nat.add_sub_cancel_left]

theorem svcRead_flt {off : Nat} (h : off < 0x10000) : svcRead s (0x60000 + off) = fltBlockRead s off := by
  unfold svcRead
  iterate 5 rw [if_neg (by omega)]
  rw [if_pos (by omega), Nat.add_sub_cancel_left]

theorem svcWrite_flt {off : Nat} (h : off < 0x10000) : svcWrite ag ep (0x60000 + off) v s = fltBlockPut off v s := by
  unfold svcWrite
  iterate 5 rw [if_neg (by omega)]
  rw [if_pos (by omega), Nat.add_sub_cancel_left]

end

/-- A register write at a mapped, aligned offset of the service die's window acts in that window, as agent 0 (R11, R415). -/
theorem registerWrite_svc (a : BitVec 48) {off : Nat} {s : State} (v : Word) (ha : a.toNat = 0x200000000000 + off) (h : off < 2 ^ 24)
    (h8 : off % 8 = 0) (hr : (svcRead s off).isSome = true) : exec (.registerWrite a v) s = .next (svcWrite 0 0 off v s) := by
  rw [registerWrite_aligned a v s (by omega), ha, regPut_svc off h _ _ _ _ _ hr]

/-! ### Fields of a written word (R11) -/

/-- Bits lo to lo + n - 1 of a word are the word under a mask. -/
theorem extractLsb'_shiftLeft_eq_and (v : Word) (lo n : Nat) :
    (v.extractLsb' lo n).setWidth 64 <<< lo = v &&& ((BitVec.allOnes n).setWidth 64 <<< lo) := by
  ext i hi
  simp only [BitVec.getElem_shiftLeft, BitVec.getElem_and, BitVec.getElem_setWidth, BitVec.getLsbD_extractLsb', BitVec.getLsbD_allOnes]
  by_cases h : i < lo
  · simp [h]
  · have : lo + (i - lo) = i := by omega
    simp [h, this, hi, Bool.and_comm]

/-- A field that took its bits of a written word reads as these bits. -/
theorem ofNat_extract (v : Word) (lo n : Nat) :
    BitVec.ofNat 64 ((v.extractLsb' lo n).toNat * 2 ^ lo) = v &&& ((BitVec.allOnes n).setWidth 64 <<< lo) := by
  rw [ofNat_field, extractLsb'_shiftLeft_eq_and]

/-- A flag that took its bit of a written word reads as this bit. -/
theorem ofNat_getLsbD (v : Word) (lo : Nat) :
    BitVec.ofNat 64 (b1 (v.getLsbD lo) * 2 ^ lo) = v &&& ((BitVec.allOnes 1).setWidth 64 <<< lo) := by
  have h : BitVec.ofBool (v.getLsbD lo) = v.extractLsb' lo 1 := by
    ext i hi
    obtain rfl : i = 0 := by omega
    simp
  rw [ofNat_flag, h, extractLsb'_shiftLeft_eq_and]

/-- PLC_CTRL reads back the bits written to its fields (R346). -/
theorem plcCtrl_reads_back (v : Word) :
    fields [(0, b1 (v.getLsbD 0)), (1, b1 (v.getLsbD 1)), (16, (v.extractLsb' 16 16).toNat)] = v &&& 0xFFFF0003 := by
  simp only [fields, List.foldl_cons, List.foldl_nil, ofNat_getLsbD, ofNat_extract, BitVec.ofNat_eq_ofNat, BitVec.zero_or,
    ← BitVec.and_or_distrib_left]
  rfl

/-- FLT_CTRL reads back the bits written to its fields (R570). -/
theorem fltCtrl_reads_back (v : Word) :
    fields [(0, b1 (v.getLsbD 0)), (1, (v.extractLsb' 1 3).toNat), (4, b1 (v.getLsbD 4)), (5, b1 (v.getLsbD 5))] = v &&& 0x3F := by
  simp only [fields, List.foldl_cons, List.foldl_nil, ofNat_getLsbD, ofNat_extract, BitVec.ofNat_eq_ofNat, BitVec.zero_or,
    ← BitVec.and_or_distrib_left]
  rfl

end Sys2Proof.Machine
end

section
/-! Writes of single registers and memory words, and their obligation (R28, R346, R449, R543, R570, R627). -/

namespace Sys2Proof.Machine

/-! ### Register writes by block (R345-R347, R542-R544, R570, R620) -/

section
variable (a : BitVec 48) (off : Nat) (v : Word) {s : State}

theorem registerWrite_svcBlock (ha : a.toNat = 0x200000000000 + off) (h : off < 0x20000) (h8 : off % 8 = 0)
    (hr : (svcBlockRead s off).isSome = true) : exec (.registerWrite a v) s = .next (svcBlockPut off v s) := by
  rw [registerWrite_svc a v ha (by omega) h8 (by rwa [svcRead_svcBlock s h]), svcWrite_svcBlock 0 0 v s h]

theorem registerWrite_plc (ha : a.toNat = 0x200000030000 + off) (h : off < 0x10000) (h8 : off % 8 = 0)
    (hr : (plcBlockRead s off).isSome = true) : exec (.registerWrite a v) s = .next (plcBlockPut off v s) := by
  rw [registerWrite_svc a (off := 0x30000 + off) v (by omega) (by omega) (by omega) (by rwa [svcRead_plc s h]), svcWrite_plc 0 0 v s h]

theorem registerWrite_sec (ha : a.toNat = 0x200000050000 + off) (h : off < 0x10000) (h8 : off % 8 = 0)
    (hr : (secBlockRead s.sec off).isSome = true) : exec (.registerWrite a v) s = .next (secBlockPut off v s) := by
  rw [registerWrite_svc a (off := 0x50000 + off) v (by omega) (by omega) (by omega) (by rwa [svcRead_sec s h]), svcWrite_sec 0 0 v s h]

theorem registerWrite_flt (ha : a.toNat = 0x200000060000 + off) (h : off < 0x10000) (h8 : off % 8 = 0)
    (hr : (fltBlockRead s off).isSome = true) : exec (.registerWrite a v) s = .next (fltBlockPut off v s) := by
  rw [registerWrite_svc a (off := 0x60000 + off) v (by omega) (by omega) (by omega) (by rwa [svcRead_flt s h]), svcWrite_flt 0 0 v s h]

end

section
variable (v : Word) (s : State)

/-! ### PLC_ and FLT_ (R346, R570) -/

theorem registerWrite_plcCtrl : exec (.registerWrite 0x200000030000 v) s = .next { s with plc := { s.plc with
    rehomeEn := v.getLsbD 0
    wearRotEn := v.getLsbD 1
    rotThresh := v.extractLsb' 16 16 } } := by
  rw [registerWrite_plc _ 0 v rfl (by decide) (by decide) rfl, ← ofNat_bitsAt]; rfl

theorem regGet_plcCtrl : (regGet 0x200000030000 s).1 =
    some ⟨fields [(0, b1 s.plc.rehomeEn), (1, b1 s.plc.wearRotEn), (16, s.plc.rotThresh.toNat)], false⟩ :=
  regGet_svc 0x30000 (by decide) s

theorem registerWrite_rehomeCounters : exec (.registerWrite 0x200000030010 v) s = .next { s with plc := { s.plc with
    rehome := satW1C s.plc.rehome (v.getLsbD 16)
    fail := satW1C s.plc.fail (v.getLsbD 48) } } :=
  registerWrite_plc _ 0x10 v rfl (by decide) (by decide) rfl

theorem registerWrite_fltCtrl : exec (.registerWrite 0x200000060000 v) s = .next { s with flt := { s.flt with
    probeEn := v.getLsbD 0
    probeDiv := v.extractLsb' 1 3
    remapEn := v.getLsbD 4
    warmEn := v.getLsbD 5 } } := by
  rw [registerWrite_flt _ 0 v rfl (by decide) (by decide) rfl, ← ofNat_bitsAt]; rfl

theorem regGet_fltCtrl : (regGet 0x200000060000 s).1 =
    some ⟨fields [(0, b1 s.flt.probeEn), (1, s.flt.probeDiv.toNat), (4, b1 s.flt.remapEn), (5, b1 s.flt.warmEn)], false⟩ :=
  regGet_svc 0x60000 (by decide) s

theorem registerWrite_errRd : exec (.registerWrite 0x200000060018 v) s = .next { s with flt :=
    if (s.flt.wr - v.setWidth 16).toNat ≤ 4096 then { s.flt with rd := v.setWidth 16 } else s.flt } :=
  registerWrite_flt _ 0x18 v rfl (by decide) (by decide) rfl

/-! ### The inbox of signed commands (R543) -/

theorem secBlockRead_inbox (c : Sec) (i : Fin 32) : secBlockRead c (0x100 + 8 * i) = some (sget 0 c.inbox i) := by
  have hi := i.isLt
  unfold secBlockRead
  iterate 7 rw [if_neg (by omega)]
  rw [if_pos (by omega), show (0x100 + 8 * i.val - 0x100) / 8 = i by omega]

theorem secBlockPut_inbox (i : Fin 32) : secBlockPut (0x100 + 8 * i) v s =
    { s with sec := { s.sec with inbox := sset 0 s.sec.inbox i v } } := by
  have hi := i.isLt
  unfold secBlockPut
  iterate 5 rw [if_neg (by omega)]
  rw [if_pos (by omega), show (0x100 + 8 * i.val - 0x100) / 8 = i by omega]
  rfl

theorem registerWrite_inbox (i : Fin 32) : exec (.registerWrite (BitVec.ofNat 48 (0x200000050100 + 8 * i)) v) s =
    .next { s with sec := { s.sec with inbox := sset 0 s.sec.inbox i v } } := by
  have hi := i.isLt
  have ha : (BitVec.ofNat 48 (0x200000050100 + 8 * i.val)).toNat = 0x200000050000 + (0x100 + 8 * i) := by
    rw [BitVec.toNat_ofNat]; omega
  rw [registerWrite_sec _ _ v ha (by omega) (by omega) (by rw [secBlockRead_inbox]; rfl), secBlockPut_inbox]

/-- Word j of the inbox, read by its address. -/
theorem regGet_inbox (j : Fin 32) : (regGet (0x200000050100 + 8 * j) s).1 = some ⟨sget 0 s.sec.inbox j, false⟩ := by
  have hj := j.isLt
  rw [show 0x200000050100 + 8 * j.val = 0x200000000000 + (0x50000 + (0x100 + 8 * j)) by omega, regGet_svc _ (by omega),
    svcRead_sec s (by omega), secBlockRead_inbox]
  rfl

/-! ### The indicators (R627) -/

theorem svcBlockRead_led (i : Fin 4) : svcBlockRead s (0x40 + 8 * i) = some (ledReg (ledAt s i)) := by
  have hi := i.isLt
  unfold svcBlockRead
  simp only
  iterate 5 rw [if_neg (by omega)]
  rw [if_pos (by omega), show (0x40 + 8 * i.val - 0x40) / 8 = i by omega]

theorem svcBlockPut_led (i : Fin 4) : svcBlockPut (0x40 + 8 * i) v s = ledPut i v s := by
  have hi := i.isLt
  unfold svcBlockPut
  iterate 3 rw [if_neg (by omega)]
  rw [if_pos (by omega), show (0x40 + 8 * i.val - 0x40) / 8 = i by omega]

theorem registerWrite_led (i : Fin 4) : exec (.registerWrite (BitVec.ofNat 48 (0x200000000040 + 8 * i)) v) s = .next (ledPut i v s) := by
  have hi := i.isLt
  have ha : (BitVec.ofNat 48 (0x200000000040 + 8 * i.val)).toNat = 0x200000000000 + (0x40 + 8 * i) := by
    rw [BitVec.toNat_ofNat]; omega
  rw [registerWrite_svcBlock _ _ v ha (by omega) (by omega) (by rw [svcBlockRead_led]; rfl), svcBlockPut_led]

/-! ### Scratchpad and module DRAM (R28, R451) -/

/-- A word written to the scratchpad of a tile whose window answers (R28). -/
theorem regPut_pad (d3 : Bool) (ag ep : BitVec 16) (z : Site) (i : Fin 0x100000) (ht : tileThere s z = true) (hg : gridStopped s = false) :
    regPut d3 ag ep (0x100000000000 + 0x1000000 * z + 8 * i) v s =
      tilePut s z { tileAt s z with pad := padPut (tileAt s z).pad i ⟨v, false⟩ } := by
  have hi := i.isLt
  unfold regPut
  simp only [regAddr_tile z (show 8 * i.val < 2 ^ 24 by omega), ht, hg, Bool.not_true, Bool.false_eq_true, if_false]
  rw [if_pos (by omega)]
  unfold tileWrite
  simp only
  rw [if_pos (by omega), Nat.mul_div_cancel_left _ (by decide)]

theorem regPut_dram (d3 : Bool) (ag ep : BitVec 16) {w : Nat} (h : w < 2 ^ 40) : regPut d3 ag ep (8 * w) v s = dramWrite s w v := by
  unfold regPut
  simp only [regAddr_dram h]

theorem registerWrite_pad (z : Site) (i : Fin 0x100000) (ht : tileThere s z = true) (hg : gridStopped s = false) :
    exec (.registerWrite (BitVec.ofNat 48 (0x100000000000 + 0x1000000 * z + 8 * i)) v) s =
      .next (tilePut s z { tileAt s z with pad := padPut (tileAt s z).pad i ⟨v, false⟩ }) := by
  have hi := i.isLt
  have hz := z.isLt
  have ha : (BitVec.ofNat 48 (0x100000000000 + 0x1000000 * z.val + 8 * i)).toNat = 0x100000000000 + 0x1000000 * z + 8 * i := by
    rw [BitVec.toNat_ofNat]; omega
  rw [registerWrite_aligned _ v s (by omega), ha, regPut_pad v s _ _ _ z i ht hg]

theorem registerWrite_dram (w : Fin (2 ^ 40)) : exec (.registerWrite (BitVec.ofNat 48 (8 * w)) v) s = .next (dramWrite s w v) := by
  have ha : (BitVec.ofNat 48 (8 * w.val)).toNat = 8 * w := by rw [BitVec.toNat_ofNat]; omega
  rw [registerWrite_aligned _ v s (by omega), ha, regPut_dram v s _ _ _ w.isLt]

/-- A word of a scratchpad after a word without a mark was stored. -/
theorem sget_padPut (p : Pad) (i j : Nat) : sget SWord.zero (padPut p i ⟨v, false⟩).words j =
    if j = i then { bits := v, ecc := .good } else sget SWord.zero p.words j := sget_sset _ _ _ _ _

/-- A write of module DRAM changes its words and the record of its errors alone. -/
theorem dramWrite_frame (w : Nat) : dramWrite s w v = { s with
    dram := (dramWrite s w v).dram
    md := (dramWrite s w v).md } := by
  unfold dramWrite
  simp only
  split <;> rfl

end

/-- Settles O24: each write is the one of its block at the register's offset, and what reads back is the written word under the mask of
the register's fields. -/
theorem registerWritesTakeEffect : Obligations.RegisterWritesTakeEffect := by
  unfold Obligations.RegisterWritesTakeEffect
  refine ⟨fun v s => ⟨registerWrite_plcCtrl v s, ?plcCtrl⟩, registerWrite_rehomeCounters,
    fun v s => ⟨registerWrite_fltCtrl v s, ?fltCtrl⟩, registerWrite_errRd,
    fun i v s => ⟨registerWrite_inbox v s i, fun j => ?inbox⟩, fun i v s => ?led,
    fun z i v s ht hg => ⟨registerWrite_pad v s z i ht hg, fun j => sget_padPut v _ i j⟩,
    fun w v s => ⟨registerWrite_dram v s w, dramWrite_frame v s w, fun j => dramWrite_word s w j v⟩⟩
  case plcCtrl => rw [regGet_plcCtrl, plcCtrl_reads_back]
  case fltCtrl => rw [regGet_fltCtrl, fltCtrl_reads_back]
  case inbox =>
    simp only [regGet_inbox, sget_sset, Fin.val_inj]
    split <;> rfl
  case led => rw [registerWrite_led, ← ofNat_bitsAt]; rfl

end Sys2Proof.Machine
end

section
/-! Register verbs and configuration messages, and their obligation (R42, R262, R263, R487). -/

namespace Sys2Proof.Machine

/-! ### Register writes that are discarded (R42) -/

/-- Off the 8-byte grid, or above the mapped windows, a register write is recorded as an address error and has no other effect. -/
theorem registerWrite_unmapped (addr : BitVec 48) (v : Word) (s : State) (h : addr.toNat % 8 ≠ 0 ∨ 0x240000000000 ≤ addr.toNat) :
    exec (.registerWrite addr v) s = .next (addrErr s svcNode (BitVec.ofNat 64 addr.toNat)) := by
  by_cases h8 : addr.toNat % 8 = 0
  · have ha := regAddr_above (h.resolve_left (not_not.2 h8))
    rw [registerWrite_aligned addr v s h8]
    unfold regPut
    rw [ha]
  · show execRegisterWrite addr v s = _
    unfold execRegisterWrite
    rw [if_pos h8, ← BitVec.ofNat_toNat]

/-! ### Configuration messages (R262, R263) -/

section
variable (a : CfgArgs) (s : State)

/-- The offset and length that a node takes of a configuration message (R262, R263). -/
def cfgForm (off n : Nat) : Prop := off % 8 = 0 ∧ 1 ≤ n ∧ n ≤ 5 ∧ off + 8 * n ≤ 2 ^ 24

theorem not_cfgForm_iff (off n : Nat) : ¬ cfgForm off n ↔ off % 8 ≠ 0 ∨ n = 0 ∨ 5 < n ∨ 2 ^ 24 < off + 8 * n := by
  unfold cfgForm; omega

theorem execCfgWr_unselected (h : selects (lathDone svcNode 0x20 s) a.node a.sel = false) :
    execCfgWr a s = .next (lathDone svcNode 0x20 s) := by
  unfold execCfgWr
  simp only [h, Bool.not_false, if_true]

theorem execCfgWr_malformed (h : selects (lathDone svcNode 0x20 s) a.node a.sel = true)
    (hf : ¬ cfgForm a.off.toNat a.data.length) : execCfgWr a s = .next (addrErr (lathDone svcNode 0x20 s) a.node
      (BitVec.ofNat 64 (nodeWindow a.node + a.off.toNat))) := by
  unfold execCfgWr
  simp only [h, (not_cfgForm_iff _ _).1 hf, Bool.not_true, Bool.false_eq_true, if_false, if_true]

/-- A selected node takes the words of a message on the form: into shadow state, or at once. -/
theorem execCfgWr_takes (h : selects (lathDone svcNode 0x20 s) a.node a.sel = true) (hf : cfgForm a.off.toNat a.data.length) :
    execCfgWr a s = .next (if a.shadow then
      onCg (fun c => ((List.range a.data.length).zip a.data).foldl (fun acc iv =>
        shadowWrite a.node a.cgid (.word a.node (a.off.toNat + 8 * iv.1) iv.2) acc) c) (lathDone svcNode 0x20 s)
    else
      ((List.range a.data.length).zip a.data).foldl (fun acc iv =>
        regPut ((lathDone svcNode 0x20 s).sec.level == 3) 0 0 (nodeWindow a.node + a.off.toNat + 8 * iv.1) iv.2 acc)
        (lathDone svcNode 0x20 s)) := by
  unfold execCfgWr
  simp only [h, mt (not_cfgForm_iff _ _).2 (not_not.2 hf), Bool.not_true, Bool.false_eq_true, if_false]
  split <;> rfl

end

section
variable (node : Node) (off : BitVec 24) (count : Byte) (tag : BitVec 16)

/-- CFG_RSP leaves a node for the service die, with a status and words (R263). -/
def cfgRspSend (st : Nat) (ws : List Word) (epochOf u : State) : State :=
  lathSend node (lathMsg svcNode 0 node 3 0x22 (lathNode epochOf node).epoch
    (leBytes 2 tag.toNat ++ [BitVec.ofNat 8 st, 0, 0, 0, 0, 0] ++ wordBytes ws)) u

variable {s : State}

/-- The form of a read as the model evaluates it. -/
theorem cfgForm_decide (off n : Nat) : (decide (off % 8 = 0) && decide (1 ≤ n) && decide (n ≤ 5) && decide (off + 8 * n ≤ 2 ^ 24)) = true ↔
    cfgForm off n := by
  simp [cfgForm, and_assoc]

theorem execCfgRd_malformed (hf : ¬ cfgForm off.toNat count.toNat) :
    let t := lathDone svcNode 0x21 s
    execCfgRd node off count tag s = .next (latch (cfgRspSend node tag 1 [] t
      (addrErr t node (BitVec.ofNat 64 (nodeWindow node + off.toNat)))) ⟨1, [], []⟩) := by
  have hb := eq_false_of_ne_true (mt (cfgForm_decide off.toNat count.toNat).1 hf)
  unfold execCfgRd
  simp only [hb]
  rfl

theorem execCfgRd_refused (hf : cfgForm off.toNat count.toNat)
    (hm : ∃ i < count.toNat, mayRead (lathDone svcNode 0x21 s) (nodeWindow node + off.toNat + 8 * i) = false) :
    let t := lathDone svcNode 0x21 s
    execCfgRd node off count tag s = .next (latch (cfgRspSend node tag 2 [] t t) ⟨2, [], []⟩) := by
  have hb := (cfgForm_decide off.toNat count.toNat).2 hf
  have hall : (List.range count.toNat).all (fun i => mayRead (lathDone svcNode 0x21 s) (nodeWindow node + off.toNat + 8 * i)) = false := by
    simpa using hm
  unfold execCfgRd
  simp only [hb, hall]
  rfl

/-- A read never answers the status of a refusal. -/
theorem cfgStatus_ne_two (l : List (RWord × Nat × Bool)) : cfgStatus l ≠ 2 := by
  unfold cfgStatus
  split
  · decide
  · split <;> decide

theorem cfgStatus_of_unmapped {l : List (RWord × Nat × Bool)} (h : ∃ x ∈ l, x.2.2 = false) : cfgStatus l = 1 :=
  if_pos (by simpa using h)

theorem cfgStatus_of_mapped {l : List (RWord × Nat × Bool)} (h : ∀ x ∈ l, x.2.2 = true) :
    cfgStatus l = if l.any (fun x => x.1.poison) then 3 else 0 :=
  if_neg (by simpa using h)

/-- A read that the security state lets through answers its words, unless one of them lies on no register. -/
theorem execCfgRd_reads (hf : cfgForm off.toNat count.toNat)
    (hm : ∀ i < count.toNat, mayRead (lathDone svcNode 0x21 s) (nodeWindow node + off.toNat + 8 * i) = true) :
    let t := lathDone svcNode 0x21 s
    let a := nodeWindow node + off.toNat
    let r := regReads a count.toNat t
    let ws := if cfgStatus r.1 = 1 then [] else r.1.map Prod.fst
    execCfgRd node off count tag s = .next (latch (cfgRspSend node tag (cfgStatus r.1) (bitsOf ws) t (readErrs a r.1 r.2))
      ⟨cfgStatus r.1, ws, if ws.isEmpty then [] else tagsOf t r.1⟩) := by
  have hb := (cfgForm_decide off.toNat count.toNat).2 hf
  have hall : (List.range count.toNat).all (fun i => mayRead (lathDone svcNode 0x21 s) (nodeWindow node + off.toNat + 8 * i)) = true := by
    simpa using hm
  unfold execCfgRd
  simp only [hb, hall, Bool.not_true, Bool.and_false, Bool.not_false, Bool.and_true, Bool.false_eq_true, if_false, if_true,
    cfgStatus_ne_two, or_false]
  rfl

/-- With a word that lies on no register the answer is status 1 without data. -/
theorem execCfgRd_unmapped (hf : cfgForm off.toNat count.toNat)
    (hm : ∀ i < count.toNat, mayRead (lathDone svcNode 0x21 s) (nodeWindow node + off.toNat + 8 * i) = true) :
    let t := lathDone svcNode 0x21 s
    let a := nodeWindow node + off.toNat
    let r := regReads a count.toNat t
    (∃ x ∈ r.1, x.2.2 = false) →
      execCfgRd node off count tag s = .next (latch (cfgRspSend node tag 1 [] t (readErrs a r.1 r.2)) ⟨1, [], []⟩) := by
  intro t a r hx
  rw [execCfgRd_reads node off count tag hf hm]
  simp only [r, a, t, cfgStatus_of_unmapped hx, if_true]
  rfl

/-- With every word on a register the answer carries the words, and status 3 where one is poisoned. -/
theorem execCfgRd_mapped (hf : cfgForm off.toNat count.toNat)
    (hm : ∀ i < count.toNat, mayRead (lathDone svcNode 0x21 s) (nodeWindow node + off.toNat + 8 * i) = true) :
    let t := lathDone svcNode 0x21 s
    let a := nodeWindow node + off.toNat
    let r := regReads a count.toNat t
    let ws := r.1.map Prod.fst
    let st := if r.1.any (fun x => x.1.poison) then 3 else 0
    (∀ x ∈ r.1, x.2.2 = true) →
      execCfgRd node off count tag s = .next (latch (cfgRspSend node tag st (bitsOf ws) t (readErrs a r.1 r.2)) ⟨st, ws, tagsOf t r.1⟩) := by
  intro t a r ws st hx
  have hst : cfgStatus r.1 = st := cfgStatus_of_mapped hx
  have h1 : st ≠ 1 := by unfold st; split <;> decide
  have hlen : ws.length = count.toNat := (List.length_map _).trans (regReads_length a count.toNat t)
  have hne : ws.isEmpty = false := List.isEmpty_eq_false_iff.2 (List.ne_nil_of_length_pos (by rw [hlen]; exact hf.2.1))
  rw [execCfgRd_reads node off count tag hf hm]
  show Host.Outcome.next (latch (cfgRspSend node tag (cfgStatus r.1) (bitsOf (if cfgStatus r.1 = 1 then [] else ws)) t (readErrs a r.1 r.2))
      ⟨cfgStatus r.1, if cfgStatus r.1 = 1 then [] else ws, if (if cfgStatus r.1 = 1 then [] else ws).isEmpty then [] else tagsOf t r.1⟩) = _
  simp only [hst, h1, hne, if_false, Bool.false_eq_true]

end

/-! ### Register verbs (R487) -/

section
variable (sess : Option SessId) (ag ep : BitVec 16) (addr : BitVec 48) (s : State)
    (hs : (sess = none ∧ ag = 0 ∧ ep = 0) ∨
      ∃ i x, sess = some i ∧ sessAt s i.toNat = some x ∧ x.kind = 1 ∧ x.agent = ag ∧ x.aepoch = ep)
    (ha : addr.toNat % 8 = 0) (hw : s.svc.warming = false)
include hs ha hw

theorem execRegRd_of_operator (n : BitVec 32) (h1 : 1 ≤ n.toNat) (h2 : n.toNat ≤ 512) (h3 : addr.toNat + 8 * n.toNat ≤ 2 ^ 48)
    (hm : ∀ i < n.toNat, mayRead s (addr.toNat + 8 * i) = true) :
    let r := regReads addr.toNat n.toNat s
    execRegRd sess addr n s = .next (latch (readErrs addr.toNat r.1 r.2)
      ⟨if r.1.any (fun x => !x.2.2) then 1 else 0, r.1.map Prod.fst, tagsOf s r.1⟩) := by
  obtain ⟨hg, -⟩ := regGate_of_operator s sess ag ep addr.toNat n.toNat (mayRead s) hs ha hw h1 h2 h3 hm
  unfold execRegRd
  rw [hg]
  rfl

theorem execRegWr_of_operator (data : List Word) (h1 : 1 ≤ data.length) (h2 : data.length ≤ 512)
    (h3 : addr.toNat + 8 * data.length ≤ 2 ^ 48) (hm : ∀ i < data.length, regMayWrite s (addr.toNat + 8 * i) = true) :
    execRegWr sess addr data s = .next (latch (((List.range data.length).zip data).foldl (fun acc iv =>
      regPut (s.sec.level == 3) ag ep (addr.toNat + 8 * iv.1) iv.2 acc) s) ⟨0, [], []⟩) := by
  obtain ⟨hg, hag⟩ := regGate_of_operator s sess ag ep addr.toNat data.length (regMayWrite s) hs ha hw h1 h2 h3 hm
  unfold execRegWr
  rw [hg, hag]
  rfl

end

/-- Settles O23: each verb and message is its meaning under the condition that selects one of its branches. -/
theorem wordsAreReadAndWrittenByAddress : Obligations.WordsAreReadAndWrittenByAddress := by
  unfold Obligations.WordsAreReadAndWrittenByAddress
  refine ⟨⟨fun sess ag ep addr s hs ha hw => ⟨?regRd, ?regWr⟩, fun addr v s => ⟨?aligned, ?unmapped⟩⟩,
    fun a s => ⟨?unselected, ?malformed, ?shadow, ?live⟩, fun node off count tag s => ⟨?rdMalformed, ?rdRefused, ?rdReads⟩, ?cfgRsp⟩
  case regRd => exact execRegRd_of_operator sess ag ep addr s hs ha hw
  case regWr => exact execRegWr_of_operator sess ag ep addr s hs ha hw
  case aligned => exact registerWrite_aligned addr v s
  case unmapped => exact registerWrite_unmapped addr v s
  case unselected => exact execCfgWr_unselected a s
  case malformed => exact execCfgWr_malformed a s
  case shadow =>
    intro h hf hsh
    exact (execCfgWr_takes a s h hf).trans (by rw [if_pos hsh]; rfl)
  case live =>
    intro h hf hsh
    exact (execCfgWr_takes a s h hf).trans (by rw [if_neg (ne_true_of_eq_false hsh)]; rfl)
  case rdMalformed => exact execCfgRd_malformed node off count tag
  case rdRefused => exact execCfgRd_refused node off count tag
  case rdReads =>
    exact fun hf hm => ⟨execCfgRd_unmapped node off count tag hf hm, execCfgRd_mapped node off count tag hf hm⟩
  case cfgRsp => exact fun tag status words s => ⟨_, rfl, rfl⟩

end Sys2Proof.Machine
end

section
/-! The frame boundary and its obligation (R8, R208, R503). -/

namespace Sys2Proof.Machine

/-! ### Frame boundaries (R8, R208) -/

/-- Frame boundaries occur unless the module is frozen, has reached the stop frame of a freeze, or has no power (R582, R613). -/
theorem clockRuns_iff (s : State) : clockRuns s = true ↔
    s.svc.frz ≠ 2 ∧ (s.svc.frz ≠ 1 ∨ s.frames % 2 ^ 48 < s.svc.stopFrame.toNat) ∧ s.pwr.act ≠ 4 := by
  unfold clockRuns frameCtr
  simp [and_assoc]

/-- A stopped clock, as the ways to stop it. -/
theorem not_clockRuns_iff (s : State) : clockRuns s = false ↔
    s.svc.frz = 2 ∨ (s.svc.frz = 1 ∧ s.svc.stopFrame.toNat ≤ s.frames % 2 ^ 48) ∨ s.pwr.act = 4 := by
  rw [← Bool.not_eq_true, clockRuns_iff]
  simp only [not_and_or, not_or, not_not, not_lt, ne_eq]

theorem execFrameBoundary_stopped {s : State} (h : clockRuns s = false) : execFrameBoundary s = .next s := by
  unfold execFrameBoundary
  rw [h]
  rfl

/-- What falls due at a boundary, in the order of its parts (R208, R371, R411). -/
theorem execFrameBoundary_runs {s : State} (h : clockRuns s = true) :
    let s1 := frameAlign (frameAdvance s)
    let s2 := epochsDue (groupsDue ((busySids s1).foldl streamDue s1))
    let s3 := tilesDue (sweepCache (dropLost ((busySids s2).foldl (fun u sid => ctxFinish sid (streamRetry sid u)) s2)))
    execFrameBoundary s =
      .next (bootDue (pstateDue (warmDue ((s3.resid.map Prod.fst).foldl (fun u m => loadDone m u) (loadReady s3))))) := by
  unfold execFrameBoundary
  rw [h]
  rfl

/-- A module that does not wait for the pod's grid keeps its own frames (R503). -/
theorem frameAlign_of_not_align {s : State} (h : s.pod.align = false) : frameAlign s = s := by
  unfold frameAlign
  rw [h]
  rfl

/-- The clock of such a module after a boundary. -/
theorem frameAlign_frameAdvance_clock {s : State} (h : s.pod.align = false) :
    (frameAlign (frameAdvance s)).frames = s.frames + 1 ∧ (frameAlign (frameAdvance s)).time = s.time + frameUnits s.clk.k := by
  rw [frameAlign_of_not_align (s := frameAdvance s) h]
  exact ⟨rfl, rfl⟩

/-- Settles O25: a boundary acts where the tile clock runs, and its clock advances by one frame before anything falls due. -/
theorem frameBoundariesDoWhatIsDue : Obligations.FrameBoundariesDoWhatIsDue := by
  unfold Obligations.FrameBoundariesDoWhatIsDue
  intro s
  exact ⟨fun h => execFrameBoundary_stopped ((not_clockRuns_iff s).2 h), fun hf hs hp =>
    ⟨execFrameBoundary_runs ((clockRuns_iff s).2 ⟨hf, hs, hp⟩), frameAlign_frameAdvance_clock⟩⟩

end Sys2Proof.Machine
end

section
/-! Loads and stores of the control core, and their obligation (R35, R36, R282). -/

namespace Sys2Proof.Machine

/-! ### LD, ST and their later events, each as a step of its tile (R35, R36, R282) -/

section
variable (h : CcHdr) (a : TileAt) (s : State)

theorem exec_ld (rd ra : BitVec 5) (imm : BitVec 12) :
    exec (.ld h rd ra imm) s = ccDo s h (fun site x g => ccLd site x g rd ra imm) := rfl
theorem exec_st (rs ra : BitVec 5) (imm : BitVec 12) :
    exec (.st h rs ra imm) s = ccDo s h (fun site x g => ccSt site x g rs ra imm) := rfl
theorem exec_ccLoadBankRead : exec (.ccLoadBankRead a) s = .next (tileDo s a.site (ccLoadRead a.site (cycAt s a.k))) := rfl
theorem exec_storeQueueDrain : exec (.storeQueueDrain a) s = .next (tileDo s a.site (ccDrain a.site (cycAt s a.k))) := rfl

end

/-! ### Addresses and due accesses (R35, R36, R282) -/

/-- An aligned address of the scratchpad passes the checks of LD and ST (R282). -/
theorem addrCheck_inside {a : Word} (h : a.toNat < 0x800000) (h8 : a.toNat % 8 = 0) : addrCheck a = .inr (a.toNat / 8) := by
  unfold addrCheck
  rw [if_neg (Nat.not_le.2 h), if_neg (not_not.2 h8)]

/-- The last word of a list that starts with zeros. -/
theorem lget_replicate_append (d v : RWord) (n : Nat) : lget d (List.replicate n d ++ [v]) n = v := by
  simp [lget]

/-- The read of a tile whose oldest load is due: an odd cycle, at least 2 after its issue (R35, R36). -/
theorem ccLoadRead_due {site x : Nat} {t u : Tile} {o : List TOut} {l : LoadOp} {rest : List LoadOp} (hs : tileSync site x t = (u, o))
    (hl : u.cc.loads = l :: rest) (hx : x % 2 = 1) (hi : l.issued + 2 ≤ x) :
    let clash := sameWord u.pad x (BitVec.ofNat 16 (l.word / 16)) (1 <<< (l.word % 16))
    let b := bankRead site (if clash then padHaz u.pad 5 x 0 else u.pad) l.word
    let w := match l.fwd with | some v => (⟨v, false⟩ : RWord) | none => b.2.1
    ccLoadRead site x t = ({ u with pad := b.1, cc := gPut { u.cc with loads := rest } l.rd w }, o ++ b.2.2) := by
  unfold ccLoadRead
  simp only [hs, hl]
  exact if_pos ⟨hx, hi⟩

/-- The drain of a tile whose oldest store is due: an even cycle, at least 2 after its issue, with its bank's write port free (R36). -/
theorem ccDrain_due {site x : Nat} {t u : Tile} {o : List TOut} {n w : Nat} {v : Word} {rest : List (Nat × Nat × Word)}
    (hs : tileSync site x t = (u, o)) (hq : u.pad.storeQ = (n, w, v) :: rest) (hx : x % 2 = 0) (hn : n + 2 ≤ x)
    (hp : portUsed u.pad (bankOf (BitVec.ofNat 16 (w / 16))) x = false) :
    ccDrain site x t = ({ u with
      pad := sendWrite { u.pad with storeQ := rest }
        ⟨x, .store, BitVec.ofNat 16 (w / 16), 1 <<< (w % 16), List.replicate (w % 16) RWord.zero ++ [⟨v, false⟩]⟩ }, o) := by
  unfold ccDrain
  simp only [hs, hq, hx, hn, hp, true_and, Bool.not_false, if_true]

/-- Settles O6: an aligned address inside the scratchpad takes neither fault, and a load or a store that is due acts on its word alone. -/
theorem loadsAndStoresReachTheBank : Obligations.LoadsAndStoresReachTheBank := by
  unfold Obligations.LoadsAndStoresReachTheBank
  refine ⟨?load, ?bankRead, ?store, ?drain⟩
  case load =>
    intro h rd ra imm s hr t a ha h8 ld
    have hc : addrCheck (effAddr (ccTile h s).cc ra imm) = .inr (a.toNat / 8) := addrCheck_inside ha h8
    rw [exec_ld]
    refine ccDo_runs_to hr _ ?_ rfl
    simp only [hc]
    rfl
  case bankRead =>
    intro at_ s l rest hl x t hq hx hi clash b w
    rw [exec_ccLoadBankRead]
    exact event_to hl (ccLoadRead_due rfl hq hx hi)
  case store =>
    intro h rs ra imm s hr t a ha h8 hq
    have hc : addrCheck (effAddr (ccTile h s).cc ra imm) = .inr (a.toNat / 8) := addrCheck_inside ha h8
    rw [exec_st]
    refine ccDo_runs_to hr _ ?_ rfl
    simp only [hc]
    exact if_neg (Nat.not_le.2 hq)
  case drain =>
    intro at_ s n w v rest hl x t line hq hx hn hp
    refine ⟨⟨x, .store, line, 1 <<< (w % 16), List.replicate (w % 16) RWord.zero ++ [⟨v, false⟩]⟩, rfl, rfl, rfl,
      lget_replicate_append _ _ _, ?_⟩
    rw [exec_storeQueueDrain]
    refine event_to hl ?_
    rw [List.append_nil]
    exact ccDrain_due rfl hq hx hn hp

end Sys2Proof.Machine
end

section
/-! Messages and system registers of the control core, and their obligation (R39, R275, R279, R283, R284). -/

namespace Sys2Proof.Machine

/-! ### The message and system-register instructions, each as a step of its tile (R275, R279, R283, R284) -/

section
variable (h : CcHdr) (s : State)

theorem exec_desc (ra rb : BitVec 5) : exec (.desc h ra rb) s = ccDo s h (fun site x g => ccDesc site x g ra rb) := rfl
theorem exec_cret (ra win : BitVec 5) : exec (.cret h ra win) s = ccDo s h (fun site x g => ccCret site x g ra win) := rfl
theorem exec_lsend (n ra : BitVec 5) (name code : BitVec 6) :
    exec (.lsend h n ra name code) s = ccDo s h (fun site x g => ccLsend site x g n ra name code) := rfl
theorem exec_rdsr (rd : BitVec 5) (n : BitVec 3) :
    exec (.rdsr h rd n) s = ccDo s h (fun site x g => ccRdsr site x s.frames g rd n) := rfl
theorem exec_wrsr (ra : BitVec 5) (n : BitVec 3) : exec (.wrsr h ra n) s = ccDo s h (fun site x g => ccWrsr site x g ra n) := rfl
theorem exec_rdlane (rd ra : BitVec 5) : exec (.rdlane h rd ra) s = ccDo s h (fun site x g => ccRdlane site x g rd ra) := rfl

end

/-! ### Operands and legal forms (R39, R211, R275, R284) -/

/-- The lines that CRET may add, of the low 16 bits of its register (R39). -/
theorem creditAdded_low16 (w : Win) (v : Word) :
    creditAdded w (v.setWidth 16).toNat = min (v.toNat % 65536) (w.quota.toNat - w.credits.toNat) := by
  simp only [creditAdded, BitVec.toNat_setWidth, Nat.reducePow]

/-- The active lane-table entry that a register names (R211, R279). -/
theorem laneGet_low6 (t : Tile) (v : Word) : laneGet t (v.setWidth 6) = sget 0 t.seq.laneAct (v.toNat % 64) := by
  simp only [laneGet, BitVec.toNat_setWidth, Nat.reducePow]

/-- An LSEND of up to 4 words of the register file reads its sources (R284). -/
theorem ccLsend_legal (site x : Nat) (guard : BitVec 4) {n ra : BitVec 5} (name code : BitVec 6) (t : Tile) (hn : n.toNat ≤ 4)
    (hra : ra.toNat + n.toNat ≤ 32) :
    let srcs := (List.range n.toNat).map (fun i => ra + BitVec.ofNat 5 i)
    ccLsend site x guard n ra name code t = ccIssue site x guard srcs [] (fun t =>
      if !nameValid t name then ({ t with cc := ccNext t.cc x }, [])
      else if 4 ≤ t.cc.lathQ.length then (t, [])
      else ({ t with cc := ccNext { t.cc with lathQ := t.cc.lathQ ++ [.report name code (srcs.map (gVal t.cc))] } x }, [])) t := by
  have hbad : (decide (4 < n.toNat) || decide (31 < ra.toNat + n.toNat - 1)) = false := by
    simp only [Bool.or_eq_false_iff, decide_eq_false_iff_not]; omega
  unfold ccLsend
  simp only [hbad, Bool.false_eq_true, if_false]

/-- A tile after WRSR of a flag register that it may write: 0 FCC, 1 FDA, 2 FFU (R275). -/
def wrsrTile (x : Nat) (ra : BitVec 5) (n : BitVec 3) (t : Tile) : Tile :=
  let f : FlagBits := (gVal t.cc ra).setWidth 6
  if n = 0 then { t with cc := ccNext { t.cc with fcc := flagWrite t.cc.fcc x f } x }
  else if n = 1 then { t with da := { t.da with fda := flagWrite t.da.fda x f }, cc := ccNext t.cc x }
  else { t with fu := { t.fu with ffu := flagWrite t.fu.ffu x f }, cc := ccNext t.cc x }

/-- WRSR of a register that it may write reads its source and replaces that register (R275). -/
theorem ccWrsr_legal (site x : Nat) (guard : BitVec 4) (ra : BitVec 5) {n : BitVec 3} (hn : n.toNat ≤ 2) (t : Tile) :
    ccWrsr site x guard ra n t = ccIssue site x guard [ra] [] (fun t => (wrsrTile x ra n t, [])) t := by
  unfold ccWrsr wrsrTile
  simp only [decide_eq_false (Nat.not_lt.2 hn), Bool.false_eq_true, if_false]
  congr 1
  funext t
  split_ifs <;> rfl

/-- Settles O7: each instruction runs, and the depth of its queue, the kind of its window or the state of its name selects one branch of its
meaning. -/
theorem messagesAndSystemRegisters : Obligations.MessagesAndSystemRegisters := by
  unfold Obligations.MessagesAndSystemRegisters
  refine ⟨?desc, ?cret, ?lsend, ?rdsr, ?wrsr, ?rdlane⟩
  case desc =>
    intro h ra rb s hr c hq
    rw [exec_desc]
    exact ccDo_runs_to hr _ (if_neg (Nat.not_le.2 hq)) rfl
  case cret =>
    intro h ra win s hr t w n
    have hn : creditAdded w ((gVal t.cc ra).setWidth 16).toNat = n := creditAdded_low16 w _
    rw [← hn, exec_cret]
    exact ⟨fun ht h0 hq => ccDo_runs_to hr _ ((if_neg (not_or.2 ⟨not_not.2 ht, h0.ne'⟩)).trans (if_neg (Nat.not_le.2 hq))) rfl,
      fun hw => ccDo_runs_to hr _ (if_pos hw) rfl⟩
  case lsend =>
    intro h n ra name code s hn hra srcs hr t
    have hf := ccLsend_legal h.site (cycAt s h.k) h.g name code (tileAt s h.site) hn hra
    rw [exec_lsend]
    refine ⟨fun hv hq => ccDo_runs_to hr _ ?valid hf, fun hv => ccDo_runs_to hr _ ?invalid hf⟩
    case valid => exact (if_neg (by rw [hv]; decide)).trans (if_neg (Nat.not_le.2 hq))
    case invalid => exact if_pos (by rw [hv]; rfl)
  case rdsr =>
    intro h rd s hr t put
    have read (n : BitVec 3) {v : Word} (hv : sysReg (ccTile h s) (cycAt s h.k) s.frames n = some v) :
        exec (.rdsr h rd n) s = put v := by
      rw [exec_rdsr]
      refine ccDo_runs_to hr _ ?_ rfl
      simp only [hv]
      rfl
    exact ⟨read 0 rfl, read 1 rfl, read 2 rfl, read 3 rfl, read 4 rfl, read 5 rfl, read 6 rfl⟩
  case wrsr =>
    intro h ra s hr t f c
    have write (n : BitVec 3) (hn : n.toNat ≤ 2) {u : Tile} (hu : wrsrTile (cycAt s h.k) ra n (ccTile h s) = u) :
        exec (.wrsr h ra n) s = .next (ccTo h s u []) := by
      rw [exec_wrsr]
      exact ccDo_runs_to hr _ (hu ▸ rfl) (ccWrsr_legal _ _ _ ra hn _)
    exact ⟨write 0 (by decide) rfl, write 1 (by decide) rfl, write 2 (by decide) rfl⟩
  case rdlane =>
    intro h rd ra s hr c
    rw [exec_rdlane]
    refine ccDo_runs_to hr _ ?_ rfl
    simp only [laneGet_low6]
    rfl

end Sys2Proof.Machine
end

section
/-! Lines from the rim and from reads, and their obligation (R38, R39, R203, R214, R215, R224, R284). -/

namespace Sys2Proof.Machine

/-- A hazard is not counted while the detector does not compare (R325). -/
theorem hazAdd_off {t : Tile} (h : t.pad.hazOn = false) (code cyc idx : Nat) : hazAdd t code cyc idx = t := by
  unfold hazAdd padHaz
  rw [if_neg (ne_true_of_eq_false h)]

/-- An ejected RDREP goes to its requester's read-return entry (R203, R214). -/
theorem ejectWrite_rdRep {f : Flit} (hk : f.kind = kRdRep) (site x : Nat) (t : Tile) (outs : List TOut) :
    ejectWrite site x (t, outs) f = (rdRep x t f, outs) := by
  unfold ejectWrite
  rw [hk]
  rfl

/-- A tile with the words of a read reply on their way to a line (R34, R203). -/
def replyWritten (x : Nat) (line : BitVec 16) (ws : List RWord) (t : Tile) : Tile :=
  { t with pad := sendWrite t.pad ⟨x, .mesh, line, 0xFFFF, ws⟩ }

/-- The read-return entry that a reply names by its tag (R203, R214). -/
def replyEntry (t : Tile) (f : Flit) : ReadRet := sget ⟨0, 0⟩ t.seq.retn f.tag.toNat

section
variable {f : Flit} (x : Nat) (t : Tile)

/-- A reply that the server could not serve is written marked, without a comparison (R214). -/
theorem rdRep_err (he : f.err = true) : rdRep x t f = replyWritten x (replyEntry t f).dest (markAll f.words) t := if_pos he

/-- A reply of another line than the one asked for is counted and written marked (R214). -/
theorem rdRep_miss (hoff : t.pad.hazOn = false) (he : f.err = false) (hl : f.line ≠ (replyEntry t f).src) :
    rdRep x t f = replyWritten x (replyEntry t f).dest (markAll f.words) { t with mesh := { t.mesh with miss := satInc t.mesh.miss } } := by
  have hmiss := hazAdd_off (t := { t with mesh := { t.mesh with miss := satInc t.mesh.miss } }) hoff 8 x 0
  refine (if_neg (ne_true_of_eq_false he)).trans ((if_pos hl).trans ?_)
  rw [hmiss]
  rfl

/-- A reply of the line asked for is written as it is (R214). -/
theorem rdRep_match (he : f.err = false) (hl : f.line = (replyEntry t f).src) :
    rdRep x t f = replyWritten x (replyEntry t f).dest f.words t :=
  (if_neg (ne_true_of_eq_false he)).trans (if_neg (not_not.2 hl))

end

/-- A rim die that holds a line for the destination of its calendar's entry and may write it injects it (R38, R215). -/
theorem execRimInjection_sends {rim : BitVec 6} {port : BitVec 3} {k : FrameCycle} {s : State} {site : Nat} {e : CalEnt} {l : RimLine}
    {rest : List RimLine} (hsite : rimSite rim.toNat port.toNat = some site)
    (hcal : (sget [] s.grid.cal rim.toNat).find? (fun e => e.port == port.toNat &&
      e.cyc == cycAt s k - 2048 * (tileAt s site).mesh.beatAt) = some e)
    (hrun : (tileAt s site).mesh.run = true) (hstop : gridStopped s = false)
    (htake : takeFor e.dst (sget [] s.grid.rimQ rim.toNat) = some (l, rest)) (hmay : mayWrite s rim.toNat l = true) :
    execRimInjection rim port k s = .next (launch
      (onGrid (fun g => { g with rimQ := sset [] g.rimQ rim.toNat rest }) (payCredit s rim.toNat l))
      site portRim (cycAt s k) (credFlit rim.toNat l)) := by
  unfold execRimInjection
  simp only [hsite, hcal, hrun, hstop, htake, hmay, Bool.not_true, Bool.false_or, Bool.false_eq_true, if_false, if_true]

/-- A CREDIT message of a source agent leaves its queue, and its lines go back to the agent (R39, R224). -/
theorem execCredit_returns (site : Site) {source : Byte} (win : BitVec 5) (lines : BitVec 16) (s : State) (h : source.toNat ≤ 32) :
    execCredit site source win lines s = .next (creditBack
      (tileRun s site (dropMsg (fun m => m == .credit source win lines))) source.toNat site win.toNat lines.toNat) :=
  congrArg Host.Outcome.next (if_pos h)

/-- Settles O18: an injection and a credit that pass every check act, and an ejected reply falls under one of the three cases of R214. -/
theorem linesComeFromTheRimAndFromReads : Obligations.LinesComeFromTheRimAndFromReads := by
  unfold Obligations.LinesComeFromTheRimAndFromReads
  refine ⟨⟨?rim, ?credit⟩, ?reply⟩
  case rim =>
    exact fun rim port k s site e l rest => execRimInjection_sends
  case credit =>
    exact fun site source win lines s hsrc => execCredit_returns site win lines s hsrc
  case reply =>
    intro site x t f outs hk hoff r e written
    have hr : r = (rdRep x t f, outs) := ejectWrite_rdRep hk site x t outs
    refine ⟨fun he => ?_, fun he hl => ?_, fun he hl => ?_⟩
    · rw [hr, rdRep_err x t he]; rfl
    · rw [hr, rdRep_miss x t hoff he hl]; rfl
    · rw [hr, rdRep_match x t he hl]; rfl

end Sys2Proof.Machine
end

section
/-! The state after reset, and its obligation (R37, R274, R374, R417, R571, R597). -/

namespace Sys2Proof.Machine

/-- The invariant holds after reset. -/
theorem moduleInv_reset : ModuleInv State.reset where
  mem := SWf.nil _
  legal := ⟨by decide, by decide, by decide, by decide⟩
  life := fun h => absurd h Bool.false_ne_true
  queue := List.forall_mem_nil _

/-- A predicate register of a core after reset (R274). -/
theorem pGet_reset (p : BitVec 3) : pGet CCore.reset p = decide (p = 0) := by
  unfold pGet
  by_cases h : p = 0
  · rw [if_pos h, decide_eq_true h]
  · rw [if_neg h, decide_eq_false h]
    rfl

/-- A general register of a core after reset (R274). -/
theorem gGet_reset (r : BitVec 5) : gGet CCore.reset r = RWord.zero := ite_self _

/-- Settles O59: the invariant by its parts, and every store empty, so that each reads as its default. -/
theorem resetStandsAsTheRulesSay : Obligations.ResetStandsAsTheRulesSay :=
  ⟨moduleInv_reset, rfl, fun _ _ => rfl, fun _ => rfl, fun _ => gGet_reset, fun _ => pGet_reset, fun _ => ⟨rfl, rfl⟩, fun _ => ⟨rfl, rfl⟩,
    fun _ => ⟨rfl, rfl⟩, rfl, rfl, rfl, rfl, rfl⟩

end Sys2Proof.Machine
end

section
/-! Macro operations from MOP to their completion, and their obligation (R69, R71, R75, R76, R90, R91, R293). -/

namespace Sys2Proof.Machine

/-! ### A MOP that is performed (R69, R71, R75, R76, R293) -/

theorem exec_mop (h : SeqHdr) (aline sline dline : BitVec 16) (tier : BitVec 3) (lm : BitVec 10) (sel : BitVec 6) (s : State) :
    exec (.mop h aline sline dline tier lm sel) s = seqDo s h (mopStart h aline sline dline tier lm sel) := rfl

/-- The fabric of a tile once an operation on macro m has started at cycle x, with the activation bytes `a`, the scale `sa` and their
mark (R69, R75, R90). -/
def mopStarted (site x m : Nat) (dline : BitVec 16) (a : List Byte) (sa : BitVec 16) (pois : Bool) (f : Fabric) : Fabric :=
  let c := opCompute f m a sa
  c.sats.foldl (clipEvent site m true) (c.clips.foldl (clipEvent site m false) { f with
    ops := f.ops ++ [⟨x, m, dline, c.outs.map (fun y => ⟨y, pois⟩), c.invScale⟩]
    act := f.act.filter (fun z => decide (x < z.1 + 78)) ++ [(x, m)]
    busyFrom := sset 0 f.busyFrom m (gapFree f m x)
    opsCnt := f.opsCnt + 1 })

/-- While the hazard detector does not compare, a refused operation is counted, answers NaN and is reported, and no more (R76). -/
theorem mopRefuse_off {t : Tile} (hoff : t.pad.hazOn = false) (h : SeqHdr) (e : SeqRun) (state : Bool) (m n : Nat) (dline : BitVec 16)
    (pois : Bool) :
    mopRefuse h e state m n dline pois t =
      let f1 := if state then { t.fab with notRes := satInc t.fab.notRes } else { t.fab with conc := satInc t.fab.conc }
      ({ t with fab := { f1 with ops := t.fab.ops ++ [⟨e.cyc, m, dline, List.replicate n ⟨nan32, pois⟩, 0⟩] } },
        [.rpt 0x08 (fabAddr h.site m 0 0 false) [BitVec.ofNat 64 h.idx.toNat]]) := by
  unfold mopRefuse
  simp only
  rw [hazAdd_off]
  exact hoff

section
variable {h : SeqHdr} {s : State} {e : SeqRun} {t u : Tile} {outs sent : List TOut} {aline sline : BitVec 16} {tier : BitVec 3}
  {lm : BitVec 10} {sel : BitVec 6} {a : List Byte} {sa : BitVec 16} {pois : Bool} {m : Nat}
  (dline : BitVec 16) (hr : SeqRuns h s e t outs) (heven : e.cyc % 2 = 0) (hidle : e.idle = false)
  (hreads : mopReads h e (aline + e.add) sline sel t = (u, a, sa, pois, sent)) (hm : macroOf u tier lm = some m)
include hr heven hidle hreads hm

/-- An operation on a macro that may run it, within the limits of R71, starts. -/
theorem mop_starts (hrun : entryRuns (mtGet u.fab m) = true) (hlim : limitsOk u.fab m e.cyc = true) :
    exec (.mop h aline sline dline tier lm sel) s =
      .next (tileTo s h.site { u with fab := mopStarted h.site e.cyc m dline a sa pois u.fab } (outs ++ sent)) := by
  rw [exec_mop]
  refine entry_to hr (even := true) (fun _ => heven) rfl rfl ?_
  simp only [hidle, hreads, hm, hrun, hlim, Bool.not_true, Bool.false_eq_true, if_false]
  rfl

/-- Beyond the limits of R71 an operation is refused as one too many. -/
theorem mop_beyond_limits (hrun : entryRuns (mtGet u.fab m) = true) (hlim : limitsOk u.fab m e.cyc = false) :
    let q := mopRefuse h e false m (outCount (mtGet u.fab m).fmt) dline pois u
    exec (.mop h aline sline dline tier lm sel) s = .next (tileTo s h.site q.1 (outs ++ (sent ++ q.2))) := by
  rw [exec_mop]
  refine entry_to hr (even := true) (fun _ => heven) rfl rfl ?_
  simp only [hidle, hreads, hm, hrun, hlim, Bool.not_true, Bool.not_false, Bool.false_eq_true, if_false, if_true]

/-- On an assigned macro that may not run it an operation is refused as not resident. -/
theorem mop_not_resident (hrun : entryRuns (mtGet u.fab m) = false) (hfmt : (mtGet u.fab m).fmt ≠ 0) :
    let q := mopRefuse h e true m (outCount (mtGet u.fab m).fmt) dline pois u
    exec (.mop h aline sline dline tier lm sel) s = .next (tileTo s h.site q.1 (outs ++ (sent ++ q.2))) := by
  rw [exec_mop]
  refine entry_to hr (even := true) (fun _ => heven) rfl rfl ?_
  simp only [hidle, hreads, hm, hrun, hfmt, Bool.not_false, Bool.false_eq_true, if_false, if_true]

end

/-! ### The completion and the clip report (R69, R91) -/

/-- The lines that an operation writes 76 cycles after its start, 32 outputs a line from its destination on (R69). -/
def mopLines (o : MacroOp) (t : Tile) : Tile × List TOut :=
  (List.range (o.outs.length / 32)).foldl (fun acc q =>
    let r := seqWrite .fabric (o.t0 + 76) false (BitVec.allOnes 16) acc.1 (lineAdd o.dline q) (packLanes (o.outs.drop (32 * q)) 16)
    (r.1, acc.2 ++ r.2)) (t, [])

/-- The oldest operation, once it is due, leaves its list, counts its invalid scales and writes its lines (R69, R75). -/
theorem mopDone_due {site x : Nat} {t u : Tile} {sent : List TOut} {o : MacroOp} {rest : List MacroOp} (hs : tileSync site x t = (u, sent))
    (hops : u.fab.ops = o :: rest) (hdue : o.t0 + 76 ≤ x) :
    let w := mopLines o { u with fab := { u.fab with ops := rest, invScale := satAdd u.fab.invScale o.invScale } }
    mopDone site x t = (w.1, sent ++ w.2) := by
  unfold mopDone
  simp only [hs, hops, hdue, if_true]
  rfl

/-- A tile whose clip report is due sends it when reports are enabled, and owes it no more (R91). -/
theorem clipReport_due {t : Tile} {n : Nat} {first : Word} (hdue : t.fab.clipDue = some (n, first)) :
    clipReport t = ({ t with fab := { t.fab with clipDue := none } },
      if t.fab.clipRptEn then [.rpt 0x07 first [BitVec.ofNat 64 n]] else []) := by
  unfold clipReport
  simp only [hdue]

/-- A step of a tile whose units run stores the tile and sends what it sends. -/
theorem tileDo_to {s : State} {site : Nat} (hl : tileLive s site = true) {f : Tile → Tile × List TOut} {t : Tile} {outs : List TOut}
    (hf : f (tileAt s site) = (t, outs)) : tileDo s site f = tileTo s site t outs := by
  simp only [tileDo, hl, if_true, tileRun, hf, tileTo]

theorem exec_macroOpComplete (a : TileAt) (s : State) :
    exec (.macroOpComplete a) s = .next (tileDo s a.site (mopDone a.site (cycAt s a.k))) := rfl

theorem exec_clipReport (site : Site) (s : State) : exec (.clipReport site) s = .next (tileDo s site clipReport) := rfl

/-- Settles O10: a MOP takes the one of three branches that its macro's entry and the limits select; a completion and a clip report that
are due act on their tile alone. -/
theorem macroOperationsStartAndComplete : Obligations.MacroOperationsStartAndComplete := by
  unfold Obligations.MacroOperationsStartAndComplete
  refine ⟨?mop, ?complete, ?clip⟩
  case mop =>
    intro h s e t outs hr heven hidle aline sline dline tier lm sel
    generalize hreads : mopReads h e (aline + e.add) sline sel t = r
    obtain ⟨u, a, sa, pois, sent⟩ := r
    intro _ f _ go refusal m hm
    refine ⟨fun hrun hlim => ?starts, fun hoff hrun hlim => ?beyond, fun hoff hrun hfmt => ?notResident⟩
    case starts =>
      rw [mop_starts dline hr heven hidle hreads hm hrun hlim, ← List.append_nil sent]
      rfl
    case beyond =>
      rw [mop_beyond_limits dline hr heven hidle hreads hm hrun hlim, mopRefuse_off hoff]
      rfl
    case notResident =>
      rw [mop_not_resident dline hr heven hidle hreads hm hrun hfmt, mopRefuse_off hoff]
      rfl
  case complete =>
    intro at_ s o rest hl t hops hdue t1 w
    rw [exec_macroOpComplete]
    exact event_to hl (mopDone_due rfl hops hdue)
  case clip =>
    intro site s n first hl t hdue
    rw [exec_clipReport, tileDo_to hl (clipReport_due hdue)]

end Sys2Proof.Machine
end

section
/-! The fabric programming window: who is let through, what a program and an erase do, and their obligation (R55, R78, R141-R151). -/

namespace Sys2Proof.Machine

/-! ### The gate of the window (R42, R141, R142) -/

section
variable {s : State} {host write form : Bool} {l : FabLoc}

theorem windowGate_denied (h : windowOpen s host write = false) : windowGate s host write form l = .denied := by
  simp only [windowGate, h, Bool.not_false, if_true]

theorem windowGate_noSite (h : windowOpen s host write = true) (hz : 8064 ≤ l.site) : windowGate s host write form l = .noSite := by
  simp only [windowGate, h, hz, Bool.not_true, Bool.false_eq_true, if_false, if_true]

theorem windowGate_fenced (h : windowOpen s host write = true) (hz : l.site < 8064) (hf : isFenced s l.site = true) :
    windowGate s host write form l = .fenced := by
  simp only [windowGate, h, Nat.not_le.2 hz, hf, Bool.not_true, Bool.false_eq_true, if_false, if_true]

/-- At a site that exists and is not fenced the form of an access decides. -/
theorem windowGate_by_form (h : windowOpen s host write = true) (hz : l.site < 8064) (hf : isFenced s l.site = false) :
    windowGate s host write form l = if form then .open_ else .badForm := by
  simp only [windowGate, h, Nat.not_le.2 hz, hf, Bool.not_true, Bool.false_eq_true, if_false]

end

section
variable {s : State} {host form : Bool} {addr : BitVec 44} {body : FabLoc → State}

theorem windowWrite_denied (h : windowOpen s host true = false) : windowWrite s host form addr body = answer s 2 [] := by
  simp only [windowWrite, windowGate_denied h, answerCode]

theorem windowWrite_noSite (h : windowOpen s host true = true) (hz : 8064 ≤ (fabLoc addr).site) :
    windowWrite s host form addr body = addrErr s svcNode (addr.setWidth 64) := by
  simp only [windowWrite, windowGate_noSite h hz]

theorem windowWrite_fenced (h : windowOpen s host true = true) (hz : (fabLoc addr).site < 8064)
    (hf : isFenced s (fabLoc addr).site = true) :
    windowWrite s host form addr body = answer (addrErr s svcNode (addr.setWidth 64)) 4 [] := by
  simp only [windowWrite, windowGate_fenced h hz hf, answerCode]

theorem windowWrite_badForm (h : windowOpen s host true = true) (hz : (fabLoc addr).site < 8064)
    (hf : isFenced s (fabLoc addr).site = false) (hform : form = false) :
    windowWrite s host form addr body = addrErr s svcNode (addr.setWidth 64) := by
  simp only [windowWrite, windowGate_by_form h hz hf, hform, Bool.false_eq_true, if_false]

theorem windowWrite_opens (h : windowOpen s host true = true) (hz : (fabLoc addr).site < 8064)
    (hf : isFenced s (fabLoc addr).site = false) (hform : form = true) : windowWrite s host form addr body = body (fabLoc addr) := by
  simp only [windowWrite, windowGate_by_form h hz hf, hform, if_true]

end

/-- The form of an access to a page at a column of the window. -/
theorem pageForm_iff (l : FabLoc) (c : Nat) : (l.col == c && locIsPage l) = true ↔ l.col = c ∧ locIsPage l = true := by
  rw [Bool.and_eq_true, beq_iff_eq]

/-- The form of an access to a macro's erase address (R141). -/
theorem eraseForm_iff (l : FabLoc) : (l.col == 0x3FF && !l.strip && l.row == 0) = true ↔ l.col = 0x3FF ∧ l.strip = false ∧ l.row = 0 := by
  simp only [Bool.and_eq_true, beq_iff_eq, Bool.not_eq_true', and_assoc]

/-- The form of an erase: the erase address with a line of zeros (R141). -/
theorem eraseLine_iff (l : FabLoc) (line : List Word) :
    (l.col == 0x3FF && !l.strip && l.row == 0 && line.all (fun w => w == 0)) = true ↔
      l.col = 0x3FF ∧ l.strip = false ∧ l.row = 0 ∧ ∀ w ∈ line, w = 0 := by
  rw [Bool.and_eq_true, eraseForm_iff, List.all_eq_true]
  simp only [beq_iff_eq, and_assoc]

/-! ### Programs and erases begin (R141, R144, R145) -/

/-- What a page write that the window lets through does (R141, R145). -/
def programAt (s : State) (line : List Word) (l : FabLoc) : State :=
  let f := fabAt s l.site
  if peRefused f l.mac (cycAt s 0) || pageState (pageGet f l.mac (locPage l)) != 0 then answerCode s 3
  else onFab s l.site (peStart l.mac (some (locPage l)) line)

/-- What an erase that the window lets through does (R141, R145). -/
def eraseAt (s : State) (host : Bool) (l : FabLoc) : State :=
  if peRefused (fabAt s l.site) l.mac (cycAt s 0) then answerCode s 3 else onFab s l.site (eraseStart l.mac (!host))

section
variable (host : Bool) (addr : BitVec 44) (line : List Word) (s : State)

theorem exec_pageProgram : exec (.pageProgram host addr line) s =
    .next (windowWrite s host ((fabLoc addr).col == 0 && locIsPage (fabLoc addr)) addr (programAt s line)) := rfl

theorem exec_macroErase : exec (.macroErase host addr line) s =
    .next (windowWrite s host ((fabLoc addr).col == 0x3FF && !(fabLoc addr).strip && (fabLoc addr).row == 0 && line.all (fun w => w == 0))
      addr (eraseAt s host)) := rfl

end

section
variable {s : State} {l : FabLoc}

theorem programAt_begins (line : List Word) (hr : peRefused (fabAt s l.site) l.mac (cycAt s 0) = false)
    (hp : pageState (pageGet (fabAt s l.site) l.mac (locPage l)) = 0) :
    programAt s line l = onFab s l.site (peStart l.mac (some (locPage l)) line) := by
  simp only [programAt, hr, hp, bne_self_eq_false, Bool.or_self, Bool.false_eq_true, if_false]

theorem programAt_refused (line : List Word)
    (h : peRefused (fabAt s l.site) l.mac (cycAt s 0) = true ∨ pageState (pageGet (fabAt s l.site) l.mac (locPage l)) ≠ 0) :
    programAt s line l = answer s 3 [] :=
  if_pos (Bool.or_eq_true_iff.2 (h.imp_right bne_iff_ne.2))

theorem eraseAt_begins (host : Bool) (hr : peRefused (fabAt s l.site) l.mac (cycAt s 0) = false) :
    eraseAt s host l = onFab s l.site (eraseStart l.mac (!host)) :=
  if_neg (ne_true_of_eq_false hr)

theorem eraseAt_refused (host : Bool) (hr : peRefused (fabAt s l.site) l.mac (cycAt s 0) = true) : eraseAt s host l = answer s 3 [] :=
  if_pos hr

end

/-! ### Programs and erases end (R142, R144, R151, R153) -/

section
variable {site : Site} {mac : MacroIx} {s : State}

theorem pageProgramComplete_idle (h : peOf (fabAt s site) mac.toNat = none) (failing : BitVec 528) :
    exec (.pageProgramComplete site mac failing) s = .next s := by
  show execPageProgramComplete site mac failing s = _
  simp only [execPageProgramComplete, h]

theorem eraseComplete_idle (h : peOf (fabAt s site) mac.toNat = none) (ok : Bool) : exec (.eraseComplete site mac ok) s = .next s := by
  show execEraseComplete site mac ok s = _
  simp only [execEraseComplete, h]

variable {o : PeOp} (ho : peOf (fabAt s site) mac.toNat = some o)
include ho

/-- While a macro is being erased no program of it ends. -/
theorem pageProgramComplete_of_erase (hp : o.page = none) (failing : BitVec 528) :
    exec (.pageProgramComplete site mac failing) s = .next s := by
  show execPageProgramComplete site mac failing s = _
  simp only [execPageProgramComplete, ho, hp]

/-- A program without failing columns leaves its page VALID and answers OK. -/
theorem pageProgramComplete_verified {p : Nat} (hp : o.page = some p) :
    exec (.pageProgramComplete site mac 0) s = .next (answer (onFab s site (fun f =>
      pagePut (peEnd mac.toNat f) mac.toNat p ⟨pageCells (mtGet (fabAt s site) mac.toNat) p (lineBits o.image), 3, 3⟩)) 0 []) := by
  show execPageProgramComplete site mac 0 s = _
  simp only [execPageProgramComplete, ho, hp, if_true, answerCode]

/-- A program with failing columns leaves its page without DONE, reports them and answers VERIFY_FAIL. -/
theorem pageProgramComplete_failed {p : Nat} (hp : o.page = some p) {failing : BitVec 528} (hf : failing ≠ 0) :
    exec (.pageProgramComplete site mac failing) s = .next (answer (sendRpt (onFab s site (fun f =>
      pagePut (peEnd mac.toNat f) mac.toNat p ⟨pageCells (mtGet (fabAt s site) mac.toNat) p (lineBits o.image), 3, 0⟩)) site 0x10
      (fabAddr site mac.toNat (if p < 128 then p else p - 128) 0 (128 ≤ p)) (failCols failing)) 1 []) := by
  show execPageProgramComplete site mac failing s = _
  simp only [execPageProgramComplete, ho, hp, hf, if_false, answerCode]

/-- While a page of a macro is being programmed no erase of it ends. -/
theorem eraseComplete_of_program {p : Nat} (hp : o.page = some p) (ok : Bool) : exec (.eraseComplete site mac ok) s = .next s := by
  show execEraseComplete site mac ok s = _
  simp only [execEraseComplete, ho, hp, Option.isSome_some, if_true]

theorem eraseComplete_verified (hp : o.page = none) :
    exec (.eraseComplete site mac true) s = .next (answer (onFab s site (eraseOk mac.toNat)) 0 []) := by
  show execEraseComplete site mac true s = _
  simp only [execEraseComplete, ho, hp, Option.isSome_none, Bool.false_eq_true, if_false, if_true, answerCode]

theorem eraseComplete_failed (hp : o.page = none) :
    exec (.eraseComplete site mac false) s = .next (answer (onFab s site (fun f => wornPut mac.toNat (peEnd mac.toNat f))) 2 []) := by
  show execEraseComplete site mac false s = _
  simp only [execEraseComplete, ho, hp, Option.isSome_none, Bool.false_eq_true, if_false, answerCode]

end

/-- Settles O30: the gate selects the refusal or the operation of a write, and the operation in progress selects what an end does. -/
theorem windowWritesProgramAndErase : Obligations.WindowWritesProgramAndErase := by
  unfold Obligations.WindowWritesProgramAndErase
  refine ⟨?begins, ?ends⟩
  case begins =>
    intro host addr line s l log f pg er
    have page_of : pg → (l.col == 0 && locIsPage l) = true := (pageForm_iff l 0).2
    have erase_of : er → (l.col == 0x3FF && !l.strip && l.row == 0 && line.all (fun w => w == 0)) = true := (eraseLine_iff l line).2
    rw [exec_pageProgram, exec_macroErase]
    refine ⟨fun h => ?denied, fun h hz => ?noSite, fun h hz hf => ?fenced, fun h hz hf => ⟨fun hn => ?badPage, fun hn => ?badErase,
      fun hp hr h0 => ?programs, fun hp hr => ?programRefused, fun he hr => ?erases, fun he hr => ?eraseRefused⟩⟩
    case denied => rw [windowWrite_denied h, windowWrite_denied h]; exact ⟨rfl, rfl⟩
    case noSite => rw [windowWrite_noSite h hz, windowWrite_noSite h hz]; exact ⟨rfl, rfl⟩
    case fenced => rw [windowWrite_fenced h hz hf, windowWrite_fenced h hz hf]; exact ⟨rfl, rfl⟩
    case badPage => rw [windowWrite_badForm h hz hf (eq_false_of_ne_true (mt (pageForm_iff l 0).1 hn))]; rfl
    case badErase => rw [windowWrite_badForm h hz hf (eq_false_of_ne_true (mt (eraseLine_iff l line).1 hn))]; rfl
    case programs => rw [windowWrite_opens h hz hf (page_of hp), programAt_begins line hr h0]; rfl
    case programRefused => rw [windowWrite_opens h hz hf (page_of hp), programAt_refused line hr]
    case erases => rw [windowWrite_opens h hz hf (erase_of he), eraseAt_begins host hr]
    case eraseRefused => rw [windowWrite_opens h hz hf (erase_of he), eraseAt_refused host hr]
  case ends =>
    intro site mac s m f
    refine ⟨fun h => ⟨pageProgramComplete_idle h, eraseComplete_idle h⟩,
      fun o p ho hp => ⟨?verified, fun failing hfail => ?failed, eraseComplete_of_program ho hp⟩,
      fun o ho hp => ⟨?erased, ?worn, pageProgramComplete_of_erase ho hp⟩⟩
    case verified => exact pageProgramComplete_verified ho hp
    case failed => exact pageProgramComplete_failed ho hp hfail
    case erased => exact eraseComplete_verified ho hp
    case worn => exact eraseComplete_failed ho hp

end Sys2Proof.Machine
end

section
/-! Reads of the fabric programming window and repairs of macros, and their obligation (R79, R80, R84, R141, R146, R149, R153). -/

namespace Sys2Proof.Machine

/-! ### Reads of the window (R141, R149) -/

section
variable {s : State} {host form : Bool} {addr : BitVec 44} {body : FabLoc → State}

theorem windowRead_denied (h : windowOpen s host false = false) :
    windowRead s host form addr body = answer s 2 (List.replicate 16 RWord.zero) := by
  simp only [windowRead, windowGate_denied h]

/-- A read of no site or of a fenced one is logged and answers zeros, whatever its form. -/
theorem windowRead_unreachable (h : windowOpen s host false = true)
    (hz : 8064 ≤ (fabLoc addr).site ∨ isFenced s (fabLoc addr).site = true) :
    windowRead s host form addr body = answer (addrErr s svcNode (addr.setWidth 64)) 1 (List.replicate 16 RWord.zero) := by
  by_cases hs : 8064 ≤ (fabLoc addr).site
  · simp only [windowRead, windowGate_noSite h hs]
  · simp only [windowRead, windowGate_fenced h (Nat.not_le.1 hs) (hz.resolve_left hs)]

theorem windowRead_badForm (h : windowOpen s host false = true) (hz : (fabLoc addr).site < 8064)
    (hf : isFenced s (fabLoc addr).site = false) (hform : form = false) :
    windowRead s host form addr body = answer (addrErr s svcNode (addr.setWidth 64)) 1 (List.replicate 16 RWord.zero) := by
  simp only [windowRead, windowGate_by_form h hz hf, hform, Bool.false_eq_true, if_false]

theorem windowRead_opens (h : windowOpen s host false = true) (hz : (fabLoc addr).site < 8064)
    (hf : isFenced s (fabLoc addr).site = false) (hform : form = true) : windowRead s host form addr body = body (fabLoc addr) := by
  simp only [windowRead, windowGate_by_form h hz hf, hform, if_true]

end

/-- The words of a line without marks. -/
def unmarked (ws : List Word) : List RWord := ws.map (fun w => ⟨w, false⟩)

/-- What a page read that the window lets through answers (R141, R149). -/
def pageReadAt (s : State) (l : FabLoc) : State :=
  let f := fabAt s l.site
  let p := pageGet f l.mac (locPage l)
  if pageState p = 1 ∨ pageState p = 3 then
    answer { s with draws := s.draws + 1 } 0 (unmarked (packBytes ((List.range 128).map (Config.badPage s.draws)) 16))
  else answer s 0 (unmarked (bitsLine (pageImage (mtGet f l.mac) (locPage l) p)))

section
variable (host : Bool) (addr : BitVec 44) (s : State)

theorem exec_pageRead : exec (.pageRead host addr) s =
    .next (windowRead s host ((fabLoc addr).col == 0 && locIsPage (fabLoc addr)) addr (pageReadAt s)) := rfl

theorem exec_pageStateRead : exec (.pageStateRead host addr) s =
    .next (windowRead s host ((fabLoc addr).col == 0x3FC && locIsPage (fabLoc addr)) addr (fun l =>
      answer s 0 (byteLine (pageState (pageGet (fabAt s l.site) l.mac (locPage l)))))) := rfl

theorem exec_eraseStatusRead : exec (.eraseStatusRead host addr) s =
    .next (windowRead s host ((fabLoc addr).col == 0x3FF && !(fabLoc addr).strip && (fabLoc addr).row == 0) addr (fun l =>
      answer s 0 (byteLine (b1 ((peOf (fabAt s l.site) l.mac).any (fun o => o.page.isNone)))))) := rfl

end

section
variable {s : State} {l : FabLoc}

/-- An ERASED or VALID page reads as its image. -/
theorem pageReadAt_sensed (h : pageState (pageGet (fabAt s l.site) l.mac (locPage l)) = 0 ∨
    pageState (pageGet (fabAt s l.site) l.mac (locPage l)) = 2) :
    pageReadAt s l = answer s 0 (unmarked (bitsLine (pageImage (mtGet (fabAt s l.site) l.mac) (locPage l)
      (pageGet (fabAt s l.site) l.mac (locPage l))))) :=
  if_neg (by omega)

/-- An INTERRUPTED or INCONSISTENT page reads as free values. -/
theorem pageReadAt_free (h : pageState (pageGet (fabAt s l.site) l.mac (locPage l)) = 1 ∨
    pageState (pageGet (fabAt s l.site) l.mac (locPage l)) = 3) :
    pageReadAt s l = answer { s with draws := s.draws + 1 } 0 (unmarked (packBytes ((List.range 128).map (Config.badPage s.draws)) 16)) :=
  if_pos h

end

/-! ### Repairs (R79, R80, R84, R146, R153) -/

section
variable {site : Site} {mac : MacroIx} {failing : BitVec 528} {s : State}

theorem exec_verifyFailRepair : exec (.verifyFailRepair site mac failing) s = execVerifyFailRepair site mac failing s := rfl

theorem verifyFailRepair_repairs {e : MEntry} (he : repairCols (mtGet (fabAt s site) mac.toNat) failing = some e)
    (hfull : peFull (fabAt s site) mac.toNat (cycAt s 0) = false) :
    exec (.verifyFailRepair site mac failing) s = .next (onFab s site (fun f => eraseStart mac.toNat true (mtPut f mac.toNat e))) := by
  rw [exec_verifyFailRepair]
  unfold execVerifyFailRepair
  simp only
  rw [he]
  exact if_neg (ne_true_of_eq_false hfull)

theorem verifyFailRepair_waits {e : MEntry} (he : repairCols (mtGet (fabAt s site) mac.toNat) failing = some e)
    (hfull : peFull (fabAt s site) mac.toNat (cycAt s 0) = true) : exec (.verifyFailRepair site mac failing) s = .next s := by
  rw [exec_verifyFailRepair]
  unfold execVerifyFailRepair
  simp only
  rw [he]
  exact if_pos hfull

theorem verifyFailRepair_wears (he : repairCols (mtGet (fabAt s site) mac.toNat) failing = none) :
    exec (.verifyFailRepair site mac failing) s = .next (moveMacro site mac.toNat (onFab s site (wornPut mac.toNat))) := by
  rw [exec_verifyFailRepair]
  unfold execVerifyFailRepair
  simp only
  rw [he]

end

section
variable {s : State} {site m col : Nat}

/-- An unassigned macro without a spare for the column becomes WORN, and its image moves. -/
theorem replaceColumn_moves (hv : (mtGet (fabAt s site) m).spareValid.getLsbD (col / 32) = true) (hfmt : (mtGet (fabAt s site) m).fmt = 0) :
    replaceColumn site m col s = moveMacro site m (onFab s site (wornPut m)) := by
  simp only [replaceColumn, hv, hfmt, if_true]

/-- An assigned macro without a spare for the column becomes WORN, and the slice that holds it is due. -/
theorem replaceColumn_due (hv : (mtGet (fabAt s site) m).spareValid.getLsbD (col / 32) = true) (hfmt : (mtGet (fabAt s site) m).fmt ≠ 0) :
    replaceColumn site m col s = (sliceOf s site m).elim (onFab s site (wornPut m)) (fun mi =>
      residUpd mi.1 (sliceUpd mi.2 (fun sl => { sl with due := true })) (onFab s site (wornPut m))) := by
  simp only [replaceColumn, hv, hfmt, if_true, if_false]
  cases sliceOf s site m <;> rfl

theorem replaceColumn_waits (hv : (mtGet (fabAt s site) m).spareValid.getLsbD (col / 32) = false) (hr : spareReady s site m = false) :
    replaceColumn site m col s = s := by
  simp only [replaceColumn, hv, hr, Bool.not_false, Bool.false_eq_true, if_false, if_true]

/-- The pipelines that a replacement of a column holds: those of the model that uses the macro, when it is assigned (R79). -/
def replacePipes (s : State) (site m : Nat) : List Nat :=
  match sliceOf s site m with
  | some mi => if (mtGet (fabAt s site) m).fmt = 0 then [] else modelPipes s mi.1
  | none => []

/-- A column whose spare is free and ready is replaced by it under a hold. -/
theorem replaceColumn_replaces (hv : (mtGet (fabAt s site) m).spareValid.getLsbD (col / 32) = false) (hr : spareReady s site m = true) :
    replaceColumn site m col s = (replacePipes s site m).foldl (fun u q => endHold q u)
      (cgWhole (onFab ((replacePipes s site m).foldl (fun u q => holdPipe q u) s) site (fun f =>
        let g := spareProgram m (col / 32) (col % 32) f
        mtPut g m (spareMap (mtGet g m) (col / 32) (col % 32))))) := by
  simp only [replaceColumn, hv, hr, Bool.not_true, Bool.false_eq_true, if_false]
  rfl

end

theorem exec_spareColumnReplacement (site : Site) (mac : MacroIx) (col : BitVec 9) (s : State) :
    exec (.spareColumnReplacement site mac col) s = .next (replaceColumn site mac.toNat col.toNat s) := rfl

/-- Settles O31: the gate selects what a read answers, the spares left select the repair, and the spare of a column's span selects between
its replacement and a worn macro. -/
theorem windowReadsAndRepairs : Obligations.WindowReadsAndRepairs := by
  unfold Obligations.WindowReadsAndRepairs
  refine ⟨?reads, ?repairs, ?replaces⟩
  case reads =>
    intro host addr s l zeros log f p byte0
    rw [exec_pageRead, exec_pageStateRead, exec_eraseStatusRead]
    refine ⟨fun h => ?denied, fun h hz => ?unreachable, fun h hz hf => ⟨fun hn => ?badPage, fun hn => ?badState, fun hn => ?badErase,
      fun hc hp hs => ?sensed, fun hc hp hs => ?free, fun hc hp => ?state, fun hc hs hr => ?erase⟩⟩
    case denied => rw [windowRead_denied h, windowRead_denied h, windowRead_denied h]; exact ⟨rfl, rfl, rfl⟩
    case unreachable => rw [windowRead_unreachable h hz, windowRead_unreachable h hz, windowRead_unreachable h hz]; exact ⟨rfl, rfl, rfl⟩
    case badPage => rw [windowRead_badForm h hz hf (eq_false_of_ne_true (mt (pageForm_iff l 0).1 hn))]; rfl
    case badState => rw [windowRead_badForm h hz hf (eq_false_of_ne_true (mt (pageForm_iff l 0x3FC).1 hn))]; rfl
    case badErase => rw [windowRead_badForm h hz hf (eq_false_of_ne_true (mt (eraseForm_iff l).1 hn))]; rfl
    case sensed => rw [windowRead_opens h hz hf ((pageForm_iff l 0).2 ⟨hc, hp⟩), pageReadAt_sensed hs]; rfl
    case free => rw [windowRead_opens h hz hf ((pageForm_iff l 0).2 ⟨hc, hp⟩), pageReadAt_free hs]; exact ⟨_, rfl⟩
    case state => rw [windowRead_opens h hz hf ((pageForm_iff l 0x3FC).2 ⟨hc, hp⟩)]; rfl
    case erase => rw [windowRead_opens h hz hf ((eraseForm_iff l).2 ⟨hc, hs, hr⟩)]; rfl
  case repairs =>
    intro site mac failing s m f
    exact ⟨fun e he => verifyFailRepair_repairs he, fun e he => verifyFailRepair_waits he, verifyFailRepair_wears⟩
  case replaces =>
    intro site mac col s m k e worn
    rw [exec_spareColumnReplacement]
    refine ⟨fun hv hfmt => ?moves, fun hv hfmt => ⟨fun hs => ?unused, fun mi hs => ?due⟩, fun hv hr => ?waits, fun hv hr => ?replaced⟩
    case moves => rw [replaceColumn_moves hv hfmt]
    case unused => rw [replaceColumn_due hv hfmt, hs]; rfl
    case due => rw [replaceColumn_due hv hfmt, hs]; rfl
    case waits => rw [replaceColumn_waits hv hr]
    case replaced => rw [replaceColumn_replaces hv hr]; rfl

end Sys2Proof.Machine
end

section
/-! Probe sets, probe slots and what a mismatch charges (R80, R511, R557, R558, R560). -/

namespace Sys2Proof.Machine

/-! ### Probe sets (R511, R557) -/

section
variable {bytes : List Byte} {s : State}

theorem probeSetInstall_refused {r : Nat} (h : probeRefusal (probeForward 0 bytes s) bytes = some r) :
    exec (.probeSetInstall bytes) s = .next (answer (probeForward 0 bytes s) r []) := by
  show execProbeSetInstall bytes s = _
  simp only [execProbeSetInstall, h, answerCode]

theorem probeSetInstall_installs (h : probeRefusal (probeForward 0 bytes s) bytes = none) :
    exec (.probeSetInstall bytes) s = .next (answer (probeInstall bytes (probeForward 0 bytes s)) 0 []) := by
  show execProbeSetInstall bytes s = _
  simp only [execProbeSetInstall, h, answerCode]

theorem probeRefusal_malformed (h : probeSetOk bytes = false) : probeRefusal s bytes = some 1 := by
  simp only [probeRefusal, h, Bool.not_false, if_true]

theorem probeRefusal_unsigned (h : probeSetOk bytes = true) (hs : probeSetSigned s bytes = false) : probeRefusal s bytes = some 2 := by
  simp only [probeRefusal, h, hs, Bool.not_true, Bool.not_false, Bool.false_eq_true, if_false, if_true]

theorem ite_some_eq_none_iff {α : Type} {c : Prop} [Decidable c] {a : α} {o : Option α} :
    (if c then some a else o) = none ↔ ¬ c ∧ o = none := by
  by_cases h : c
  · simp only [h, if_true, reduceCtorEq, not_true, false_and]
  · simp only [h, if_false, not_false_eq_true, true_and]

/-- A set is taken that has the form, a signature and a newer number, while none waits. -/
theorem probeRefusal_eq_none_iff : probeRefusal s bytes = none ↔ probeSetOk bytes = true ∧ probeSetSigned s bytes = true ∧
    s.hist.setId.toNat < (probeSetId bytes).toNat ∧ s.flt.setPending = false := by
  simp only [probeRefusal, ite_some_eq_none_iff, Bool.not_eq_true', Bool.not_eq_false, Bool.not_eq_true, Nat.not_le, and_true]

end

/-! ### Probe slots (R558, R560) -/

theorem exec_probeSlot (site : Site) (s : State) : exec (.probeSlot site) s =
    if s.flt.probeEn = true ∧ s.hist.setId ≠ 0 ∧ s.frames % 2 ^ min 6 s.flt.probeDiv.toNat = 0 then .next (tileDo s site (probeSlot s site))
    else .next s := rfl

/-- The CRC of a probe's outputs (R558). -/
def outsCrc (outs : List Lane32) : BitVec 32 := crc32c (outs.flatMap (fun y => leBytes 4 y.toNat))

/-- The capture of a probe whose outputs were not those of its reference (R560). -/
def probeCaptured (frame : Nat) (outs : List Lane32) (p : Probe) : Probe :=
  let cap : List (Word × Nat) := (packBytes (outs.flatMap (fun y => leBytes 4 y.toNat)) 256).zip (List.range 256)
  { p with
    capture := cap.foldl (fun (mp : SMap Word) (wi : Word × Nat) => sset 0 mp wi.2 wi.1) p.capture
    missAt := frame }

section
variable (site frame : Nat) {m l : Nat} {outs : List Lane32} {p : Probe}

theorem probeJudge_passes (h : outsCrc outs = sget 0 p.refs (4 * m + l)) :
    probeJudge site frame m l outs p = ({ p with
      again := none
      soft := if p.again.isSome then satInc p.soft else p.soft
      passAt := sset 0 p.passAt m frame }, []) :=
  if_pos h

/-- A first mismatch is repeated. -/
theorem probeJudge_repeats (h : outsCrc outs ≠ sget 0 p.refs (4 * m + l)) (ha : p.again = none) :
    probeJudge site frame m l outs p = ({ probeCaptured frame outs p with again := some (m, l) },
      [.rpt 0x12 (fabAddr site m 0 0 false) [BitVec.ofNat 64 l]]) :=
  (if_neg h).trans (if_neg (by rw [ha]; decide))

/-- A mismatch of a repeated probe is confirmed. -/
theorem probeJudge_confirms (h : outsCrc outs ≠ sget 0 p.refs (4 * m + l)) (ha : p.again.isSome = true) :
    probeJudge site frame m l outs p = ({ probeCaptured frame outs p with
      again := some (m, l + 4)
      conf := satInc p.conf }, [.rpt 0x13 (fabAddr site m 0 0 false) [BitVec.ofNat 64 l]]) :=
  (if_neg h).trans (if_pos ha)

end

/-! ### Confirmed mismatches (R80, R560) -/

section
variable {site : Site} {s : State}

theorem probeMismatch_idle (h : (tileAt s site).probe.again = none) : exec (.probeMismatch site) s = .next s := by
  show execProbeMismatch site s = _
  simp only [execProbeMismatch, h]

/-- A mismatch that is not confirmed yet charges nothing. -/
theorem probeMismatch_unconfirmed {m l : Nat} (h : (tileAt s site).probe.again = some (m, l)) (hl : l < 4) :
    exec (.probeMismatch site) s = .next s := by
  show execProbeMismatch site s = _
  simp only [execProbeMismatch, h, hl, if_true]

/-- The module once a confirmed mismatch of a tile is counted and its probe free again (R560). -/
def mismatchTaken (s : State) (site : Nat) : State :=
  onFlt (fun f => { f with confirmed := if f.confirmed = 0xFFFF then 0xFFFF else f.confirmed + 1 })
    (tilePut s site { tileAt s site with probe := { (tileAt s site).probe with again := none } })

/-- The frames of a macro's last passed probe and of the mismatch, as detail of a record (R562). -/
def mismatchDetail (s : State) (site m : Nat) : List Word :=
  [BitVec.ofNat 64 (sget 0 (tileAt s site).probe.passAt m), BitVec.ofNat 64 (tileAt s site).probe.missAt]

variable {m l : Nat} (h : (tileAt s site).probe.again = some (m, l)) (hl : 4 ≤ l)
include h hl

/-- One to four columns that differ are charged each. -/
theorem probeMismatch_columns (hc : diffCols s site m (l - 4) ≠ []) (h4 : (diffCols s site m (l - 4)).length ≤ 4) :
    exec (.probeMismatch site) s = .next ((diffCols s site m (l - 4)).foldl
      (fun acc c => probeCharge site m (some c) (mismatchDetail s site m) acc) (mismatchTaken s site)) := by
  show execProbeMismatch site s = _
  simp only [execProbeMismatch, h, Nat.not_lt.2 hl, List.isEmpty_eq_false_iff.2 hc, h4, decide_true, Bool.not_false, Bool.and_self,
    if_false, if_true]
  rfl

/-- Without a column that differs, or with more than four, the macro is charged. -/
theorem probeMismatch_macro (hc : diffCols s site m (l - 4) = [] ∨ 4 < (diffCols s site m (l - 4)).length) :
    exec (.probeMismatch site) s = .next (probeCharge site m none (mismatchDetail s site m) (mismatchTaken s site)) := by
  have hn : (!(diffCols s site m (l - 4)).isEmpty && decide ((diffCols s site m (l - 4)).length ≤ 4)) = false := by
    rcases hc with hc | hc
    · rw [hc]; rfl
    · rw [decide_eq_false (Nat.not_le.2 hc), Bool.and_false]
  show execProbeMismatch site s = _
  simp only [execProbeMismatch, h, Nat.not_lt.2 hl, hn, Bool.false_eq_true, if_false]
  rfl

end

end Sys2Proof.Machine
end

section
/-! The history of units, silent dies, the deputy and the warm reset, and their obligation with the probes (R511, R553-R566). -/

namespace Sys2Proof.Machine

/-! ### Events of the history band (R563, R566) -/

/-- The history band with one more event. -/
def histWith (e : HistEvent) (h : Hist) : Hist := { h with events := h.events ++ [e] }

section
variable {u : UnitId} {code : BitVec 6} {s : State}

theorem chargeEvent_repeated (h : repeats s.hist ⟨u, code, s.flt.opt⟩ = true) : chargeEvent u code s = (s, false) := if_pos h

/-- A new event is recorded, and with it the unit where the event makes it permanent. -/
theorem chargeEvent_new (h : repeats s.hist ⟨u, code, s.flt.opt⟩ = false) :
    chargeEvent u code s =
      let h1 := histWith ⟨u, code, s.flt.opt⟩ s.hist
      if 3 ≤ recentEvents h1 u s.flt.opt ∧ u ∉ s.hist.permanent then
        ({ s with hist := { h1 with permanent := h1.permanent ++ [u] } }, true)
      else ({ s with hist := h1 }, false) := by
  unfold chargeEvent
  simp only [h, Bool.false_eq_true, if_false, Bool.and_eq_true, decide_eq_true_eq, Bool.not_eq_true', List.contains_eq_mem,
    decide_eq_false_iff_not]
  rfl

/-- A new event is recorded once, and makes its unit permanent exactly as the third recent one of a unit that was not (R563). -/
theorem chargeEvent_new_effect (h : repeats s.hist ⟨u, code, s.flt.opt⟩ = false) :
    let r := chargeEvent u code s
    r.1.hist.events = s.hist.events ++ [⟨u, code, s.flt.opt⟩] ∧
      (r.2 = true ↔ 3 ≤ recentEvents r.1.hist u s.flt.opt ∧ u ∉ s.hist.permanent) ∧ (r.2 = true → u ∈ r.1.hist.permanent) := by
  intro r
  by_cases hp : 3 ≤ recentEvents (histWith ⟨u, code, s.flt.opt⟩ s.hist) u s.flt.opt ∧ u ∉ s.hist.permanent
  · have hr : r = _ := (chargeEvent_new h).trans (if_pos hp)
    rw [hr]
    exact ⟨rfl, iff_of_true rfl hp, fun _ => List.mem_append_right _ (List.mem_singleton_self u)⟩
  · have hr : r = _ := (chargeEvent_new h).trans (if_neg hp)
    rw [hr]
    exact ⟨rfl, iff_of_false Bool.false_ne_true hp, fun hf => absurd hf Bool.false_ne_true⟩

end

section
variable {kind : BitVec 4} {addr : Word} {code : BitVec 6} {s : State}

/-- An event that makes no unit permanent is charged and no more. -/
theorem historyEvent_charged (h : (chargeEvent ⟨kind, addr⟩ code s).2 = false) :
    exec (.historyEvent kind addr code) s = .next (chargeEvent ⟨kind, addr⟩ code s).1 := by
  show execHistoryEvent kind addr code s = _
  simp only [execHistoryEvent, h, Bool.not_false, if_true]

/-- A unit that an event makes permanent is recorded, after its repair where remapping is on. -/
theorem historyEvent_permanent (h : (chargeEvent ⟨kind, addr⟩ code s).2 = true) :
    let t := (chargeEvent ⟨kind, addr⟩ code s).1
    let a := if t.flt.remapEn then permAction kind.toNat addr.toNat t else (t, 0)
    exec (.historyEvent kind addr code) s =
      .next (sigWrite code ⟨kind, addr⟩ true (recentEvents t.hist ⟨kind, addr⟩ t.flt.opt) a.2 [] a.1) := by
  show execHistoryEvent kind addr code s = _
  simp only [execHistoryEvent, h, Bool.not_true, Bool.false_eq_true, if_false]

end

theorem exec_optRecord (s : State) : exec .optRecord s = .next { s with hist := { s.hist with opt := s.flt.opt } } := rfl

/-! ### Silent rim dies (R553) -/

theorem exec_rimSilent (rim : BitVec 6) (s : State) : exec (.rimSilent rim) s = .next (rimSilent rim.toNat s) := rfl

/-- No rim die has a code of 32 or more. -/
theorem rimSilent_none {code : Nat} (h : 32 ≤ code) (s : State) : rimSilent code s = s := by
  simp only [rimSilent, show ¬ code < 16 by omega, Nat.not_lt.2 h, if_false]

/-- A silent memory die is charged and reported, its engine stops, and the fault is of class X (R553). -/
theorem rimSilent_memory {code : Nat} (h : 16 ≤ code) (h32 : code < 32) (s : State) :
    rimSilent code s = classX 0x1C (engUpd (code - 16) (fun e => { e with stopped := true })
      (chargeEvent (unitRim code) 0x1C (svcRpt s 0x1C (BitVec.ofNat 64 (rimNode code)) [])).1) := by
  simp only [rimSilent, Nat.not_lt.2 h, h32, if_false, if_true]

theorem classX_eng (c : BitVec 6) (s : State) : (classX c s).eng = s.eng := rfl

@[simp] theorem engAt_engUpd_same (n : Nat) (f : Engine → Engine) (s : State) : engAt (engUpd n f s) n = f (engAt s n) :=
  sget_sset_same _ _ _ _

/-- The engine of a silent memory die has stopped. -/
theorem rimSilent_stops {code : Nat} (h : 16 ≤ code) (h32 : code < 32) (s : State) :
    (engAt (rimSilent code s) (code - 16)).stopped = true := by
  rw [rimSilent_memory h h32, engAt, classX_eng, ← engAt, engAt_engUpd_same]

/-! ### The deputy (R554, R555) -/

/-- The streams of a die's engine that its deputy ends. -/
def deputyStreams (s : State) (n : Nat) : List Nat := (openSids s).filter (fun sid => sidEng sid == n && !(ctxAt s sid).final)

/-- The module once a deputy has stopped its engine, ended its streams and marked itself. -/
def deputyTaken (s : State) (n : Nat) : State :=
  let s1 := (deputyStreams s n).foldl (fun acc sid => streamFault sid 12 4 acc) (engUpd n (fun e => { e with stopped := true }) s)
  onFlt (fun f => { f with
    alertN := true
    deputy := true }) (mdPut s1 n { mdAt s1 n with deputyActed := true })

/-- The record of a deputy that acted. -/
def deputyRecord (n : Nat) (s : State) : State := sieEvent (sigWrite 0x0D (unitRim (16 + n)) false 0 9 [] s)

section
variable {die : Die} {silence : BitVec 2} {s : State}

theorem deputyWatchdog_rests (h : silence ≠ 3 ∨ (mdAt s die).deputyActed = true) : exec (.deputyWatchdog die silence) s = .next s :=
  if_pos h

variable (h3 : silence = 3) (ha : (mdAt s die).deputyActed = false)
include h3 ha

/-- On full silence a deputy acts, once; a module with a hawk tells it. -/
theorem deputyWatchdog_acts : exec (.deputyWatchdog die silence) s = .next (deputyRecord die (s.pod.hawkSess.elim (deputyTaken s die)
    (fun id => klpSend id true 0x47 (BitVec.ofNat 64 die.val) (distressBytes s die (deputyStreams s die).length silence)
      (deputyTaken s die)))) := by
  show execDeputyWatchdog die silence s = _
  unfold execDeputyWatchdog
  rw [if_neg (not_or.2 ⟨not_not.2 h3, ne_true_of_eq_false ha⟩)]
  cases s.pod.hawkSess <;> rfl

end

/-! ### The warm reset (R556) -/

section
variable (a : WarmArgs) {s : State}

theorem exec_warmReset (s : State) : exec (.warmReset a) s = .next (warmReset a s) := rfl

/-- The number of further events in a row that a warm reset finds (R556). -/
def warmCount (s : State) : Nat := a.again + if s.svc.warming ∧ !a.asked then s.svc.warmN + 1 else 0

theorem warmCount_eq (s : State) :
    warmCount a s = a.again + if s.svc.warming = true ∧ a.asked = false then s.svc.warmN + 1 else 0 := by
  simp only [warmCount, Bool.not_eq_true']

theorem warmReset_rests (h : s.flt.deputy = true ∨ s.flt.fatal = true) : warmReset a s = s := if_pos h

variable (hd : s.flt.deputy = false) (hx : s.flt.fatal = false)
include hd hx

/-- Without WARM_EN an event stops admission and no more. -/
theorem warmReset_disabled (ha : a.asked = false) (hw : s.flt.warmEn = false) :
    warmReset a s = onFlt (fun f => { f with alertN := true }) { s with svc := { s.svc with admitStop := true } } := by
  simp only [warmReset, hd, hx, ha, hw, Bool.not_false, Bool.false_eq_true, or_self, and_self, if_false, if_true]

/-- A reset that is asked for or enabled is performed, unless two further events fell in the same recovery. -/
theorem warmReset_enabled (h : a.asked = true ∨ s.flt.warmEn = true) : warmReset a s =
    if 2 ≤ warmCount a s then classX a.cause s
    else warmNow a.cause a.asked a.ms.toNat { s with svc := { s.svc with warmN := warmCount a s } } := by
  have hn : ¬ ((!a.asked) = true ∧ (!s.flt.warmEn) = true) := by
    rw [Bool.not_eq_true', Bool.not_eq_true']
    exact fun ⟨ha, hw⟩ => h.elim (ne_true_of_eq_false ha) (ne_true_of_eq_false hw)
  exact (if_neg (not_or.2 ⟨ne_true_of_eq_false hd, ne_true_of_eq_false hx⟩)).trans (if_neg hn)

end

/-- Settles O50: each command takes the branch that the state of its probe, unit, die or module selects. -/
theorem probesAndHistoryAct : Obligations.ProbesAndHistoryAct := by
  unfold Obligations.ProbesAndHistoryAct
  refine ⟨?install, ?refusal, ?slot, ?judge, ?mismatch, ?event, exec_optRecord, ?silent, ?deputy, ?warm⟩
  case install => exact fun bytes s => ⟨fun r => probeSetInstall_refused, probeSetInstall_installs⟩
  case refusal => exact fun bytes s => ⟨probeRefusal_malformed, probeRefusal_unsigned, probeRefusal_eq_none_iff.1⟩
  case slot =>
    intro site s on
    rw [exec_probeSlot]
    exact ⟨fun h => if_pos h, fun h => if_neg h⟩
  case judge =>
    intro site frame m l outs p crc r
    refine ⟨fun h => ?passes, fun h => ⟨fun ha => ?repeats, fun ha => ?confirms⟩⟩
    case passes =>
      have hr : r = _ := probeJudge_passes site frame h
      rw [hr]
      exact ⟨rfl, rfl, rfl, rfl, sget_sset_same _ _ _ _⟩
    case repeats =>
      have hr : r = _ := probeJudge_repeats site frame h ha
      rw [hr]
      exact ⟨rfl, rfl, rfl⟩
    case confirms =>
      have hr : r = _ := probeJudge_confirms site frame h ha
      rw [hr]
      exact ⟨rfl, rfl, rfl⟩
  case mismatch =>
    intro site s m l p cols detail s2
    exact ⟨probeMismatch_idle, probeMismatch_unconfirmed, probeMismatch_columns, probeMismatch_macro⟩
  case event =>
    intro kind addr code s u r n
    refine ⟨historyEvent_charged, fun hr hm => ?repaired, fun hr hm => ?recorded, chargeEvent_repeated, chargeEvent_new_effect⟩
    case repaired => rw [historyEvent_permanent hr, if_pos hm]
    case recorded => rw [historyEvent_permanent hr, if_neg (ne_true_of_eq_false hm)]
  case silent =>
    intro rim s
    refine ⟨exec_rimSilent rim s, fun h => rimSilent_none h s, fun h h32 => ⟨?fatal, rimSilent_stops h h32 s⟩⟩
    case fatal =>
      rw [rimSilent_memory h h32]
      obtain ⟨-, hfatal, -⟩ := classX_effect 0x1C (engUpd (rim.toNat - 16) (fun e => { e with stopped := true })
        (chargeEvent (unitRim rim.toNat) 0x1C (svcRpt s 0x1C (BitVec.ofNat 64 (rimNode rim.toNat)) [])).1)
      exact hfatal
  case deputy =>
    intro die silence s
    refine ⟨deputyWatchdog_rests, fun h3 ha => ⟨fun hn => ?alone, fun id hid => ?told⟩⟩
    case alone => rw [deputyWatchdog_acts h3 ha, hn]; rfl
    case told => rw [deputyWatchdog_acts h3 ha, hid]; rfl
  case warm =>
    intro a s n
    have hn : warmCount a s = n := warmCount_eq a s
    rw [exec_warmReset]
    refine ⟨fun h => ?rests, fun hd hx => ⟨fun ha hw => ?disabled, fun h h2 => ?second, fun h h2 => ?performed⟩⟩
    case rests => rw [warmReset_rests a h]
    case disabled => rw [warmReset_disabled a hd hx ha hw]
    case second => rw [warmReset_enabled a hd hx h, hn, if_pos h2]
    case performed => rw [warmReset_enabled a hd hx h, hn, if_neg (Nat.not_le.2 h2)]

end Sys2Proof.Machine
end

section
/-! The finish unit's loads and stores, quantised ones included, and their obligation (R96, R118-R120, R303, R310, R635, R636). -/

namespace Sys2Proof.Machine

/-! ### Results of 64 lanes (R310, R636) -/

/-- The tile that sends 64 lanes to a vector register, and the flags of the unmarked ones, for cycle x. -/
def lanesSent (t : Tile) (x r : Nat) (f : Nat → PLane × FlagBits) : Tile :=
  sendEff (sendEff t x (.vreg r ((List.range 64).map (fun i => (i, (f i).1))))) x
    (.ffu (flOr ((List.range 64).map (fun i => if (f i).1.poison then flNone else (f i).2))))

theorem fuPut_lanes (e : SeqRun) (lat r : Nat) (f : Nat → PLane × FlagBits) (t : Tile) :
    (fuPut e lat r ((List.range 64).map (fun i => (i, f i))) t).1 = lanesSent t (e.cyc + lat) r f := by
  simp only [fuPut, lanesSent, List.map_map]
  rfl

/-- Element i of a loaded format, widened; the mark of its word marks it (R112, R310). -/
def loadedLane (f : EFmt) (ws : List RWord) (i : Nat) : PLane × FlagBits :=
  let v := loadElem f (rawElem (efmtBits f) (bitsOf ws) i)
  (⟨v.1, (lget RWord.zero ws (i / (64 / efmtBits f))).poison⟩, v.2)

/-- A lane narrowed for a store, with the flags of the narrowing and the lane's mark (R111, R310). -/
def narrowed (f : EFmt) (rm : Rm) (satb : Bool) (l : PLane) : (Lane32 × FlagBits) × Bool := (storeElem f rm satb l.bits, l.poison)

/-! ### Scales and quantised groups (R96, R118-R121, R310) -/

/-- The byte of its line at which a block's scale begins (R310). -/
def blockScaleByte (f : BlockFmt) (sel : BitVec 8) : Nat := if f = .a8 then 2 * sel.toNat else sel.toNat

/-- The scale of element i among the words of SLINE, with the mark of its word: one of two bytes for A8, one a group of 32 otherwise. -/
def scaleOf (f : BlockFmt) (sel : BitVec 8) (ws : List RWord) (i : Nat) : BitVec 16 × Bool :=
  if f = .a8 then (halfOf (bitsOf ws) sel.toNat, (lget RWord.zero ws (blockScaleByte f sel / 8)).poison)
  else ((byteOf (bitsOf ws) (blockScaleByte f sel + i / 32)).setWidth 16, (lget RWord.zero ws ((blockScaleByte f sel + i / 32) / 8)).poison)

/-- Element i dequantised from the words of LINE and of SLINE; a mark on its word or its scale marks it (R121, R310). -/
def dequantLane (f : BlockFmt) (sel : BitVec 8) (ws ss : List RWord) (i : Nat) : PLane × FlagBits :=
  let v := dequant f (scaleOf f sel ss i).1 ((rawElem (bfmtBits f) (bitsOf ws) i).setWidth 8)
  (⟨v.1, (lget RWord.zero ws (i / (64 / bfmtBits f))).poison || (scaleOf f sel ss i).2⟩, v.2)

/-- The two groups of 32 lanes of a register, quantised, each with the mark of any of its lanes (R118-R120). -/
def quantGroups (f : BlockFmt) (ls : List PLane) : List (QGroup × Bool) :=
  [ls.take 32, ls.drop 32].map (fun g => (quantise f (g.map PLane.bits), g.any PLane.poison))

/-- The codes of quantised groups, each with the mark of its group. -/
def groupCodes (qs : List (QGroup × Bool)) : List (Lane32 × Bool) :=
  qs.flatMap (fun q => q.1.codes.map (fun c => (c.setWidth 32, q.2)))

/-- The one-byte scales of quantised groups, each with the mark of its group. -/
def groupScales (qs : List (QGroup × Bool)) : List (Byte × Bool) := qs.map (fun q => (q.1.scale.setWidth 8, q.2))

/-- The flags of the groups that are not marked (R636). -/
def groupFlags (qs : List (QGroup × Bool)) : FlagBits := flOr (qs.map (fun q => if q.2 then flNone else q.1.flags))

/-- The words of the scale buffer, each marked when one of its bytes is. -/
def scaleWords (t : Tile) : List RWord :=
  let bs := (List.range 128).map (fun i => let b := sget (0, false) t.fu.sbuf i; (b.1.setWidth 32, b.2))
  packElems 8 (bs.take 64) ++ packElems 8 (bs.drop 64)

/-! ### The entries (R310, R635) -/

section
variable (h : SeqHdr) (a : FumArgs) (s : State)

theorem exec_vld : exec (.vld h a) s = seqDo s h (fuVld h a) := rfl
theorem exec_vst : exec (.vst h a) s = seqDo s h (fuVst h a) := rfl
theorem exec_vldq : exec (.vldq h a) s = seqDo s h (fuVldq h a) := rfl
theorem exec_vstq : exec (.vstq h a) s = seqDo s h (fuVstq h a) := rfl
theorem exec_vsts : exec (.vsts h a) s = seqDo s h (fuVsts h a) := rfl

end

section
variable {h : SeqHdr} {a : FumArgs} {s : State} {e : SeqRun} {t : Tile} {outs : List TOut}
  (hr : FuRuns h s e t outs) (heven : e.cyc % 2 = 0)
include hr heven

/-- A VLD of a legal format reads its elements and sends them widened for t + 5. -/
theorem vld_loads {f : EFmt} (hf : efmtOf a.fmt = some f) (hh : hOk (efmtBits f) a.h = true) :
    let r := elemRead h e (efmtBits f) a.h (a.line + e.add) (fuTaken t e.cyc)
    exec (.vld h a) s =
      .next (tileTo s h.site (lanesSent r.1 (e.cyc + 5) a.vreg.toNat (loadedLane f r.2.1)) (outs ++ r.2.2)) := by
  intro r
  rw [exec_vld]
  refine fuRuns_to hr (fun _ => heven) rfl ?_
  simp only [hf, hh, Bool.not_true, Bool.false_eq_true, if_false]
  exact congrArg (·, r.2.2) (fuPut_lanes e 5 a.vreg.toNat (loadedLane f r.2.1) r.1)

/-- A VST of a legal format and rounding mode narrows its lanes and writes them in bank cycle t + 4. -/
theorem vst_stores {f : EFmt} {rm : Rm} (hf : efmtOf a.fmt = some f) (hh : hOk (efmtBits f) a.h = true)
    (hrm : rmOf a.rm = some rm) (hok : storeRmOk f rm = true) :
    let xs := (vlanes (fuTaken t e.cyc) a.vreg.toNat).map (narrowed f rm a.satb)
    let w := elemWrite e (e.cyc + 4) (elemWords (efmtBits f) a.h).1 (packElems (efmtBits f) (xs.map (fun x => (x.1.1, x.2))))
      (a.line + e.add) (fuTaken t e.cyc)
    exec (.vst h a) s = .next (tileTo s h.site
      (sendEff w.1 (e.cyc + 4) (.ffu (flOr (xs.map (fun x => if x.2 then flNone else x.1.2))))) (outs ++ w.2)) := by
  intro xs w
  rw [exec_vst]
  refine fuRuns_to hr (fun _ => heven) rfl ?_
  simp only [hf, hrm, hh, hok, Bool.not_true, Bool.or_self, Bool.false_eq_true, if_false]
  rfl

/-- A VLDQ of a legal format and selector reads its elements, then their scales, and sends the products for t + 6. -/
theorem vldq_loads {f : BlockFmt} (hf : bfmtOf a.fmt = some f) (hsel : selOk f a.sel = true) (hh : hOk (bfmtBits f) a.h = true) :
    let r := elemRead h e (bfmtBits f) a.h (a.line + e.add) (fuTaken t e.cyc)
    let s0 := blockScaleByte f a.sel
    let q := seqRead h.site e.cyc e.taint ((1 <<< (s0 / 8)) ||| (1 <<< ((s0 + 1) / 8))) r.1 a.sline
    exec (.vldq h a) s = .next (tileTo s h.site
      (lanesSent q.1 (e.cyc + 6) a.vreg.toNat (dequantLane f a.sel r.2.1 q.2.1)) (outs ++ (r.2.2 ++ q.2.2))) := by
  intro r s0 q
  rw [exec_vldq]
  refine fuRuns_to hr (fun _ => heven) rfl ?_
  simp only [hf, hh, hsel, Bool.not_true, Bool.or_self, Bool.false_eq_true, if_false]
  exact congrArg (·, r.2.2 ++ q.2.2) (fuPut_lanes e 6 a.vreg.toNat (dequantLane f a.sel r.2.1 q.2.1) q.1)

/-- A VSTQ of a one-byte-scale format quantises two groups, writes their codes in bank cycle t + 10 and sends their scales. -/
theorem vstq_stores {f : BlockFmt} (hf : bfmtOf a.fmt = some f) (hsel : selOk f a.sel = true) (ha8 : f ≠ .a8)
    (hh : hOk (bfmtBits f) a.h = true) :
    let qs := quantGroups f (vlanes (fuTaken t e.cyc) a.vreg.toNat)
    let w := elemWrite e (e.cyc + 10) (elemWords (bfmtBits f) a.h).1 (packElems (bfmtBits f) (groupCodes qs)) (a.line + e.add)
      (fuTaken t e.cyc)
    exec (.vstq h a) s = .next (tileTo s h.site
      (sendEff (sendScales w.1 (e.cyc + 10) a.sel.toNat (groupScales qs)) (e.cyc + 10) (.ffu (groupFlags qs))) (outs ++ w.2)) := by
  intro qs w
  rw [exec_vstq]
  refine fuRuns_to hr (fun _ => heven) rfl ?_
  simp only [hf, hh, hsel, ha8, ne_eq, not_false_eq_true, decide_true, decide_false, Bool.not_true, Bool.and_false, Bool.false_and,
    Bool.or_self, Bool.false_eq_true, if_false]
  rfl

/-- A VSTS writes the scale buffer in bank cycle t + 2. -/
theorem vsts_stores :
    let w := elemWrite e (e.cyc + 2) 0 (scaleWords (fuTaken t e.cyc)) (a.line + e.add) (fuTaken t e.cyc)
    exec (.vsts h a) s = .next (tileTo s h.site w.1 (outs ++ w.2)) :=
  (exec_vsts h a s).trans (fuRuns_to hr (fun _ => heven) rfl rfl)

end

/-- Settles O14: each entry is performed, and its fields being legal select the one branch of its body that acts. -/
theorem finishUnitMemory : Obligations.FinishUnitMemory := by
  unfold Obligations.FinishUnitMemory
  intro h a s e t outs hr heven t0 line lanes
  refine ⟨fun f hf hh => ⟨?load, fun rm hrm hok => ?store⟩, fun f hf hsel => ⟨fun hh => ?loadQuantised, fun ha8 hh => ?storeQuantised⟩,
    ?storeScales⟩
  case load => exact vld_loads hr heven hf hh
  case store => exact vst_stores hr heven hf hh hrm hok
  case loadQuantised => exact vldq_loads hr heven hf hsel hh
  case storeQuantised => exact vstq_stores hr heven hf hsel ha8 hh
  case storeScales => exact vsts_stores hr heven

end Sys2Proof.Machine
end

section
/-! The dense array's entries and their completions, and their obligation (R137, R288, R295-R302). -/

namespace Sys2Proof.Machine

/-! ### An entry of the dense array that runs (R287, R290) -/

/-- An entry of the dense array that runs, with what its body leaves. -/
theorem daRuns_to {h : SeqHdr} {s : State} {e : SeqRun} {t : Tile} {outs : List TOut} (hr : DaRuns h s e t outs)
    {body : SeqRun → Tile → Tile × List TOut} {t' : Tile} {outs' : List TOut} {f : Tile → Tile × List TOut}
    (hf : f = hdrEntry h true (daEntry h.site h.idx.toNat body)) (hb : body e (daTaken t e.cyc) = (t', outs')) :
    seqDo s h f = .next (tileTo s h.site t' (outs ++ outs')) :=
  entry_to hr.runs (fun _ => hr.even) rfl hf ((daEntry_of_runs hr _ _ _).trans hb)

/-- An event of a tile whose units run that sends nothing of its own. -/
theorem event_to_silent {s : State} {a : TileAt} (hl : tileLive s a.site = true) {f : Tile → Tile × List TOut} {t : Tile}
    (hb : f (tileAt s a.site) = (t, (tileNow s a.site a.k).2)) :
    (Host.Outcome.next (tileDo s a.site f) : Host.Outcome State Fault Refusal) = .next (eventTo s a t []) :=
  event_to hl (hb.trans (by rw [List.append_nil]))

/-! ### The entries and the completions, each as a step of its tile -/

section
variable (h : SeqHdr) (at_ : TileAt) (s : State)

theorem exec_ldw (a : LdwArgs) : exec (.ldw h a) s = seqDo s h (daLdw h a) := rfl
theorem exec_lds (sb : Bool) (line : BitVec 16) (gm : BitVec 2) : exec (.lds h sb line gm) s = seqDo s h (daLds h sb line gm) := rfl
theorem exec_sets (pair : BitVec 2) (half : Bool) (line : BitVec 16) (elem : BitVec 6) :
    exec (.sets h pair half line elem) s = seqDo s h (daSets h pair half line elem) := rfl
theorem exec_daMul (a : MulArgs) : exec (.daMul h a) s = seqDo s h (daMul h a (notReady s h.site)) := rfl
theorem exec_daSt (acc : BitVec 3) (line : BitVec 16) (nl : Bool) : exec (.daSt h acc line nl) s = seqDo s h (daSt h acc line nl) := rfl
theorem exec_ldwComplete : exec (.ldwComplete at_) s = .next (tileDo s at_.site (daLdwDone at_.site (cycAt s at_.k))) := rfl
theorem exec_daMulComplete : exec (.daMulComplete at_) s = .next (tileDo s at_.site (daMulDone at_.site (cycAt s at_.k))) := rfl

end

/-! ### Loads and scales (R296-R298, R302) -/

/-- A column-major load is legal; a row-major one takes 8-bit elements and a width of at most 8 × 2^4 (R296). -/
theorem ldwLegal_eq (a : LdwArgs) : ldwLegal a = (!a.ori || (a.ef != 3 && decide (a.wl.toNat ≤ 4))) := by
  rw [ldwLegal, decide_not]
  rfl

section
variable {h : SeqHdr} {s : State} {e : SeqRun} {t : Tile} {outs : List TOut} (hr : DaRuns h s e t outs)
include hr

/-- An LDW clears its buffer, replaces the load in progress by its own and reads the lines that are due. -/
theorem ldw_starts (a : LdwArgs) :
    let ln := a.line + e.add
    let t1 := sbPut (daTaken t e.cyc) a.sb ⟨[], ln, a.nl.toNat + 1, a.ori, a.wl, a.ef, 0, [], false⟩
    let r := ldwReads 33 h.site e.cyc
      { t1 with da := { t1.da with load := some ⟨a.sb, ln, a.nl.toNat + 1, e.cyc, 0, ldwLegal a, e.taint, e.lane⟩ } }
    exec (.ldw h a) s = .next (tileTo s h.site r.1 (outs ++ r.2)) :=
  (exec_ldw h s a).trans (daRuns_to hr rfl rfl)

/-- An LDS of a group mode that is not reserved abandons the load in progress, and its buffer waits for the scales. -/
theorem lds_reads (sb : Bool) (line : BitVec 16) {gm : BitVec 2} (hgm : gm ≠ 3) :
    let r := readRun h.site e.cyc e.taint 16 (line + e.add) (daTaken t e.cyc)
    let t1 := { r.1 with da := { r.1.da with load := none } }
    let b := sbGet t1 sb
    exec (.lds h sb line gm) s = .next (tileTo s h.site
      (sendEff (sbPut t1 sb { b with valid := false }) (e.cyc + 2) (.ldsDone sb gm r.2.1 b.valid)) (outs ++ r.2.2)) := by
  intro r t1 b
  rw [exec_lds]
  refine daRuns_to hr rfl ?_
  rw [if_neg hgm]

/-- A SETS of a pair that is not reserved sends its widened element, and its flags unless it is marked. -/
theorem sets_widens {pair : BitVec 2} (hpair : pair ≠ 0) (half : Bool) (line : BitVec 16) (elem : BitVec 6) :
    let r := seqRead h.site e.cyc e.taint (BitVec.ofNat 16 (2 ^ (elem.toNat / 4))) (daTaken t e.cyc) (line + e.add)
    let w := lget RWord.zero r.2.1 (elem.toNat / 4)
    let v := widenBf16 (halfOf (bitsOf r.2.1) elem.toNat)
    let t1 := sendEff r.1 (e.cyc + 2) (.pair (2 * pair.toNat + half.toNat) ⟨v.1, w.poison⟩)
    exec (.sets h pair half line elem) s =
      .next (tileTo s h.site (if w.poison then t1 else sendEff t1 (e.cyc + 2) (.fda v.2)) (outs ++ r.2.2)) := by
  intro r w v t1
  rw [exec_sets]
  refine daRuns_to hr rfl ((if_neg hpair).trans ?_)
  cases half <;> rfl

/-! ### Products and stores (R137, R299-R302) -/

/-- A MUL of an activation format that is not reserved reads its line and puts its lanes in flight. -/
theorem mul_starts {a : MulArgs} (haf : a.af ≠ 3) :
    let r := seqRead h.site e.cyc e.taint (BitVec.allOnes 16) (daTaken t e.cyc) (a.aline + e.add)
    let b := sbGet r.1 a.sb
    let ln := laneGet r.1 e.lane
    let bad := ln.getLsbD 22 && notReady s h.site b ((ln >>> (14 : Nat)).setWidth 8)
    let lanes := (List.range (sbCols b)).map (mulLane r.1 b (b.valid && mulLegal b a && !bad) a (actLine a.af r.2.1))
    exec (.daMul h a) s = .next (tileTo s h.site
      { r.1 with da := { r.1.da with muls := r.1.da.muls ++ [⟨e.cyc, a.acc, a.am, lanes⟩] } }
      (outs ++ (r.2.2 ++ if bad then [.rpt 0x09 (BitVec.ofNat 64 h.site) [ln]] else []))) := by
  intro r b ln bad lanes
  rw [exec_daMul]
  exact daRuns_to hr rfl (if_neg haf)

/-- A row as an ST in cycle x captures it: with the products issued at least ten cycles before (R301). -/
def rowCaptured (x : Nat) (row : BitVec 3) (t : Tile) : SMap PLane :=
  (t.da.muls.filter (fun o => o.row == row && decide (o.t + 10 ≤ x))).foldl (fun m o => (mulRow m o).1) t.da.acc

/-- An ST writes the captured row, 32 lanes a line. -/
theorem st_writes (acc : BitVec 3) (line : BitVec 16) (nl : Bool) :
    let n := if nl then 32 else 16
    let lanes := (List.range (32 * n)).map (accGet (rowCaptured e.cyc acc (daTaken t e.cyc)) acc)
    let w := (List.range n).foldl (fun p q =>
      let r := seqWrite .da (e.cyc + 4) e.taint (BitVec.allOnes 16) p.1 (lineAdd (line + e.add) q) (packLanes (lanes.drop (32 * q)) 16)
      (r.1, p.2 ++ r.2)) (daTaken t e.cyc, ([] : List TOut))
    exec (.daSt h acc line nl) s = .next (tileTo s h.site w.1 (outs ++ w.2)) :=
  (exec_daSt h s acc line nl).trans (daRuns_to hr rfl rfl)

end

/-! ### The completions (R296, R300, R302) -/

section
variable {site x : Nat} {t u : Tile} {sent : List TOut} (hs : tileSync site x t = (u, sent))
include hs

/-- A load whose last group of 16 lines was read two cycles ago ends, and its buffer is valid when it was legal. -/
theorem daLdwDone_due {o : LdwOp} (hload : u.da.load = some o) (hdue : o.t + 2 * ((o.nl + 15) / 16) ≤ x) :
    let t1 := sbPut u o.sb { sbGet u o.sb with valid := o.legal }
    daLdwDone site x t = ({ t1 with da := { t1.da with load := none } }, sent) := by
  simp only [daLdwDone, hs, hload, hdue, if_true]

/-- The oldest product in flight, once it is due, updates its row and raises its flags. -/
theorem daMulDone_due {o : MulOp} {rest : List MulOp} (hmuls : u.da.muls = o :: rest) (hdue : o.t + 12 ≤ x) :
    let a := mulRow u.da.acc o
    daMulDone site x t = ({ u with da := { u.da with acc := a.1, muls := rest, fda := flagRaise u.da.fda (o.t + 12) a.2 } }, sent) := by
  simp only [daMulDone, hs, hmuls, hdue, if_true]

end

/-- Settles O11: each entry runs on the tile that has taken it, its fields being legal select the branch of its body that acts, and a
completion that is due acts on its tile alone. -/
theorem denseArrayEntriesAct : Obligations.DenseArrayEntriesAct := by
  unfold Obligations.DenseArrayEntriesAct
  refine ⟨⟨fun h s e t outs hr => ⟨fun a => ?ldw, fun sb line gm hgm => ?lds, fun pair half line elem hpair => ?sets⟩, ?ldwComplete⟩,
    fun h s e t outs hr => ⟨fun a haf => ?mul, fun acc line nl => ?st⟩, ?mulComplete⟩
  case ldw =>
    rw [← ldwLegal_eq]
    exact ldw_starts hr a
  case lds => exact lds_reads hr sb line hgm
  case sets => exact sets_widens hr hpair half line elem
  case ldwComplete =>
    intro at_ s o hl t hload hdue t1
    rw [exec_ldwComplete]
    exact event_to_silent hl (daLdwDone_due rfl hload hdue)
  case mul => exact mul_starts hr haf
  case st => exact st_writes hr acc line nl
  case mulComplete =>
    intro at_ s o rest hl t hmuls hdue a
    rw [exec_daMulComplete]
    exact event_to_silent hl (daMulDone_due rfl hmuls hdue)

end Sys2Proof.Machine
end

section
/-! Beat boundaries of a pipeline, and their obligation (R137, R162, R210, R211, R276, R549, R582, R608). -/

namespace Sys2Proof.Machine

/-! ### Holds (R162) -/

section
variable {q : Nat} {g : Grid}

/-- A pipeline that is not held has no hold to begin or end. -/
theorem holdBeat_free (h : q ∉ g.held) : holdBeat q g = g := by
  simp only [holdBeat, List.contains_eq_mem, h, decide_false, Bool.not_false, if_true]

/-- A hold that was requested begins. -/
theorem holdBeat_begins (h : q ∈ g.held) (hb : q ∉ g.begun) : holdBeat q g = { g with begun := g.begun ++ [q] } := by
  simp only [holdBeat, List.contains_eq_mem, h, hb, decide_true, decide_false, Bool.not_true, Bool.not_false, Bool.false_eq_true, if_true,
    if_false]

/-- Without an end in sight a hold that has begun goes on. -/
theorem holdBeat_goes_on (h : q ∈ g.held) (hb : q ∈ g.begun) (hr : sget 0 g.release q = 0) : holdBeat q g = g := by
  simp only [holdBeat, List.contains_eq_mem, h, hb, hr, decide_true, Bool.not_true, Bool.false_eq_true, if_false]

/-- A hold with more than one beat to run loses one. -/
theorem holdBeat_counts {n : Nat} (h : q ∈ g.held) (hb : q ∈ g.begun) (hr : sget 0 g.release q = n + 2) :
    holdBeat q g = { g with release := sset 0 g.release q (n + 1) } := by
  simp only [holdBeat, List.contains_eq_mem, h, hb, hr, decide_true, Bool.not_true, Bool.false_eq_true, if_false]
  rfl

/-- A hold ends with its last beat. -/
theorem holdBeat_ends (h : q ∈ g.held) (hb : q ∈ g.begun) (hr : sget 0 g.release q = 1) :
    holdBeat q g = { g with held := g.held.filter (· != q), begun := g.begun.filter (· != q), release := sdel g.release q,
                            handover := g.handover.filter (· != q) } := by
  simp only [holdBeat, List.contains_eq_mem, h, hb, hr, decide_true, Bool.not_true, Bool.false_eq_true, if_false]

end

/-! ### The tiles of a pipeline (R210, R549, R582) -/

/-- A tile whose units run has a router that runs. -/
theorem routerLive_of_tileLive {s : State} {z : Nat} (h : tileLive s z = true) : routerLive s z = true :=
  (Bool.and_eq_true_iff.1 h).1

/-- Outside P2 a live tile starts an invocation, under the hold of its pipeline. -/
theorem siteBeat_starts {s : State} {z : Nat} (hold hand : Bool) (hl : tileLive s z = true) (hp : s.pwr.act ≠ 2) :
    siteBeat hold hand s z = tilePut s z { tileBeat s.frames hold (tileAt s z) with
      mesh := { (tileBeat s.frames hold (tileAt s z)).mesh with set := hold && hand } } := by
  simp only [siteBeat, routerLive_of_tileLive hl, hl, hp, Bool.not_true, Bool.false_eq_true, if_false, if_true]

/-! ### The boundary (R137, R162, R208, R549, R556, R608) -/

/-- A command that comes at a beat boundary of a pipeline with placed tiles, while they move and no warm reset is recovered from. -/
structure AtBeat (s : State) (q : Nat) : Prop where
  placed : pipeSites s q ≠ []
  settled : s.svc.warming = false
  moving : gridStopped s = false
  phase : (beatOf s q).2 ≤ s.frames
  whole : (s.frames - (beatOf s q).2) % (beatOf s q).1 = 0

/-- The condition on which the model lets a beat boundary pass. -/
theorem not_atBeat_iff (s : State) (q : Nat) :
    ((pipeSites s q).isEmpty = true ∨ s.svc.warming = true ∨ gridStopped s = true ∨ s.frames < (beatOf s q).2 ∨
      (s.frames - (beatOf s q).2) % (beatOf s q).1 ≠ 0) ↔ ¬ AtBeat s q := by
  rw [List.isEmpty_iff]
  constructor
  · rintro h ⟨hp, hw, hg, hf, hm⟩
    rcases h with h | h | h | h | h
    · exact hp h
    · exact absurd hw (ne_false_of_eq_true h)
    · exact absurd hg (ne_false_of_eq_true h)
    · exact absurd hf (Nat.not_le.2 h)
    · exact h hm
  · intro h
    by_contra hn
    simp only [not_or, Bool.not_eq_true, Nat.not_lt, ne_eq, not_not] at hn
    obtain ⟨hp, hw, hg, hf, hm⟩ := hn
    exact h ⟨hp, hw, hg, hf, hm⟩

theorem exec_beatBoundary (q : Byte) (s : State) : exec (.beatBoundary q) s = execBeatBoundary q s := rfl

section
variable {q : Byte} {s : State}

/-- Outside a beat boundary nothing happens. -/
theorem execBeatBoundary_rests (h : ¬ AtBeat s q.toNat) : execBeatBoundary q s = .next s :=
  if_pos ((not_atBeat_iff s q.toNat).2 h)

/-- At a beat boundary holds move on, the tiles start, the READY slots are taken over, and the tiles heard again are listened to. -/
theorem execBeatBoundary_runs (h : AtBeat s q.toNat) :
    let sites := pipeSites s q.toNat
    let s1 := { s with grid := holdBeat q.toNat s.grid }
    let s2 := sites.foldl (siteBeat (s1.grid.held.contains q.toNat) (s1.grid.handover.contains q.toNat)) s1
    let s3 := { s2 with grid := { s2.grid with ready := sset [] s2.grid.ready q.toNat (readySlots s2 (pipeModel s2 q.toNat)) } }
    let s4 := (s3.lath.lifts.filter (fun z => sites.contains z)).foldl (fun u z =>
      if isFenced u z then u else wordsPut (neighbourCfgs u z false) u) s3
    execBeatBoundary q s = .next { s4 with lath := { s4.lath with lifts := s4.lath.lifts.filter (fun z => !sites.contains z) } } :=
  if_neg (fun hc => (not_atBeat_iff s q.toNat).1 hc h)

end

/-- Settles O27: the state is at a beat boundary of the pipeline or not, a hold is in one of its five positions, and a live tile outside P2
takes the branch of its beat that starts it. -/
theorem beatBoundariesRunThePipelines : Obligations.BeatBoundariesRunThePipelines := by
  unfold Obligations.BeatBoundariesRunThePipelines
  refine ⟨fun q s => ⟨fun h => ?rests, fun hp hw hg hf hm => ?runs⟩,
    fun q g => ⟨holdBeat_free, holdBeat_begins, holdBeat_goes_on, fun n => holdBeat_counts, fun h hb hr => ?ends⟩,
    fun hold hand s z => siteBeat_starts hold hand⟩
  case rests =>
    rw [← List.isEmpty_iff] at h
    exact (exec_beatBoundary q s).trans (execBeatBoundary_rests ((not_atBeat_iff s q.toNat).1 h))
  case runs => exact (exec_beatBoundary q s).trans (execBeatBoundary_runs ⟨hp, hw, hg, hf, hm⟩)
  case ends =>
    rw [holdBeat_ends h hb hr]
    simp only [List.mem_filter, bne_self_eq_false, Bool.false_eq_true, and_false, not_false_eq_true, and_self]

end Sys2Proof.Machine
end

section
/-! Residency requests of an operator and their obligation (R155, R156, R166, R167, R170, R487). -/

namespace Sys2Proof.Machine

/-- The module once request op of a session on a model is noted and answered 0 (R487). -/
def requested (s : State) (sess : SessId) (m op : Nat) : State :=
  answer (residUpd m (fun r => { r with
    req := some (sess.toNat, op)
    lastErr := 0 }) s) 0 []

/-- The models that RES_EVICT applies to. -/
theorem evictable_iff (r : Resid) (n : Nat) : ((r.st == .resident || r.st == .library) && !r.pin && n == 0) = true ↔
    (r.st = .resident ∨ r.st = .library) ∧ r.pin = false ∧ n = 0 := by
  simp only [Bool.and_eq_true, Bool.or_eq_true, beq_iff_eq, Bool.not_eq_true', and_assoc]

/-- The models that RES_REFRESH applies to. -/
theorem refreshable_iff (r : Resid) : (r.st == .resident || r.st == .degraded) = true ↔ r.st = .resident ∨ r.st = .degraded := by
  simp only [Bool.or_eq_true, beq_iff_eq]

section
variable {sess : SessId} {m : Byte} {s : State} (ho : OperatorOpen s sess)
include ho

/-! ### Requests that apply and that do not (R487) -/

section
variable {c : Instr} {m op : Nat} {ok : Resid → Bool} {body : State → State} (hc : exec c s = .next (resReq sess m op ok s body))
include hc

/-- A command that is a residency request acts on the module that has noted it. -/
theorem exec_request (h : ok (residAt s m) = true) : exec c s = .next (body (requested s sess m op)) := by
  rw [hc, resReq_accepts ho m op ok body h]
  rfl

theorem exec_request_refused (h : ok (residAt s m) = false) : exec c s = .next (answer s 5 []) := by
  rw [hc, resReq_refuses ho m op ok body h]

end

/-! ### Loads (R170) -/

theorem resLoad_starts (h : (residAt s m.toNat).st = .library) :
    exec (.resLoad sess m) s = .next (endUnless m.toNat .loading (loadModel m.toNat (requested s sess m.toNat 1))) := by
  rw [exec_request ho (c := .resLoad sess m) rfl (beq_iff_eq.2 h)]

theorem resLoad_refused (h : (residAt s m.toNat).st ≠ .library) : exec (.resLoad sess m) s = .next (answer s 5 []) :=
  exec_request_refused ho rfl (beq_eq_false_iff_ne.2 h)

/-! ### Swaps (R166, R167) -/

section
variable (atomic noInPlace : Bool) (ver : BitVec 32)

theorem resSwap_refused (h : (residAt s m.toNat).st ≠ .resident) : exec (.resSwap sess m atomic noInPlace ver) s = .next (answer s 5 []) :=
  exec_request_refused ho rfl (beq_eq_false_iff_ne.2 h)

variable (h : (residAt s m.toNat).st = .resident) {i : Image} {x : ImgModel}
  (hi : imgModel (requested s sess m.toNat 2) m.toNat = some (i, x))
include h hi

/-- Without that version in the library a swap fails with BAD_SHARD. -/
theorem resSwap_without_copy (hc : (residAt (requested s sess m.toNat 2) m.toNat).lib = [] ∨
    (residAt (requested s sess m.toNat 2) m.toNat).ver ≠ ver) :
    exec (.resSwap sess m atomic noInPlace ver) s = .next (resEnd m.toNat (resFail m.toNat 3 (requested s sess m.toNat 2))) := by
  rw [exec_request ho (c := .resSwap sess m atomic noInPlace ver) rfl (beq_iff_eq.2 h)]
  simp only [hi]
  rw [if_pos (hc.imp_left List.isEmpty_iff.2)]

variable {ver} (hl : (residAt (requested s sess m.toNat 2) m.toNat).lib ≠ [])
  (hv : (residAt (requested s sess m.toNat 2) m.toNat).ver = ver)
include hl hv

/-- With that version a swap goes by what the request allows. -/
theorem resSwap_with_copy : exec (.resSwap sess m atomic noInPlace ver) s =
    let t := requested s sess m.toNat 2
    let u := stagedSwap i m.toNat x.groups t
    .next (if atomic = true then if (residAt u m.toNat).lastErr = 0 then u else resEnd m.toNat u
      else if noInPlace = true ∧ (stagedSel t i m.toNat x.groups).isNone = true then resEnd m.toNat (resFail m.toNat 6 t)
      else residUpd m.toNat (fun r => { r with
        st := .swapping
        slices := r.slices.map (fun o => { o with due := true }) }) t) := by
  rw [exec_request ho (c := .resSwap sess m atomic noInPlace ver) rfl (beq_iff_eq.2 h)]
  simp only [hi]
  rw [if_neg (not_or.2 ⟨mt List.isEmpty_iff.1 hl, not_not.2 hv⟩)]

theorem resSwap_atomic : exec (.resSwap sess m true noInPlace ver) s =
    let t := stagedSwap i m.toNat x.groups (requested s sess m.toNat 2)
    .next (if (residAt t m.toNat).lastErr = 0 then t else resEnd m.toNat t) :=
  (resSwap_with_copy ho true noInPlace h hi hl hv).trans rfl

/-- Where the in-place form may not be used, a group without an alternate ends the swap with NO_SPACE. -/
theorem resSwap_without_alternate (hs : stagedSel (requested s sess m.toNat 2) i m.toNat x.groups = none) :
    exec (.resSwap sess m false true ver) s = .next (resEnd m.toNat (resFail m.toNat 6 (requested s sess m.toNat 2))) := by
  simp only [resSwap_with_copy ho false true h hi hl hv, hs, Bool.false_eq_true, if_false, Option.isNone_none, and_self, if_true]

/-- A swap that may go group by group makes every slice due. -/
theorem resSwap_by_groups (hs : noInPlace = false ∨ stagedSel (requested s sess m.toNat 2) i m.toNat x.groups ≠ none) :
    exec (.resSwap sess m false noInPlace ver) s = .next (residUpd m.toNat (fun r => { r with
      st := .swapping
      slices := r.slices.map (fun o => { o with due := true }) }) (requested s sess m.toNat 2)) := by
  have hn : ¬ (noInPlace = true ∧ (stagedSel (requested s sess m.toNat 2) i m.toNat x.groups).isNone = true) := fun ⟨hn, hz⟩ =>
    hs.elim (ne_false_of_eq_true hn) (fun hz' => hz' (Option.isNone_iff_eq_none.1 hz))
  simp only [resSwap_with_copy ho false noInPlace h hi hl hv, Bool.false_eq_true, hn, if_false]

end

/-! ### Evictions (R170) -/

theorem resEvict_leaves (h : (residAt s m.toNat).st = .resident ∨ (residAt s m.toNat).st = .library) (hp : (residAt s m.toNat).pin = false)
    (hn : modelStreams s m.toNat = 0) :
    let t := residUpd m.toNat (fun r => { r with req := none }) (requested s sess m.toNat 3)
    exec (.resEvict sess m) s = .next (resCpl m.toNat 3 sess.toNat
      (if (residAt t m.toNat).st = .resident then evictModel m.toNat t else cgWhole (dropLibrary m.toNat t))) := by
  rw [exec_request ho (c := .resEvict sess m) rfl ((evictable_iff _ _).2 ⟨h, hp, hn⟩)]

theorem resEvict_refused (h : ((residAt s m.toNat).st ≠ .resident ∧ (residAt s m.toNat).st ≠ .library) ∨ (residAt s m.toNat).pin = true ∨
    modelStreams s m.toNat ≠ 0) : exec (.resEvict sess m) s = .next (answer s 5 []) := by
  refine exec_request_refused ho rfl (Bool.eq_false_iff.2 (fun he => ?_))
  obtain ⟨hst, hp, hn⟩ := (evictable_iff _ _).1 he
  rcases h with ⟨hr, hl⟩ | hp' | hn'
  · exact hst.elim hr hl
  · exact ne_true_of_eq_false hp hp'
  · exact hn' hn

/-! ### Refreshes (R155, R156) -/

theorem resRefresh_refused (hr : (residAt s m.toNat).st ≠ .resident) (hd : (residAt s m.toNat).st ≠ .degraded) :
    exec (.resRefresh sess m) s = .next (answer s 5 []) :=
  exec_request_refused ho rfl (Bool.eq_false_iff.2 (fun he => ((refreshable_iff _).1 he).elim hr hd))

/-- Every slice falls due; the request ends at once without a library copy and is worked on otherwise. -/
theorem resRefresh_starts (h : (residAt s m.toNat).st = .resident ∨ (residAt s m.toNat).st = .degraded) :
    let q := residAt (requested s sess m.toNat 4) m.toNat
    let t := q.slices.foldl (fun u o => refreshDue m.toNat o.id u) (requested s sess m.toNat 4)
    exec (.resRefresh sess m) s = .next (if q.lib.isEmpty = true then resEnd m.toNat t
      else residUpd m.toNat (fun r => { r with st := if r.st = .resident then .swapping else r.st }) t) := by
  rw [exec_request ho (c := .resRefresh sess m) rfl ((refreshable_iff _).2 h)]

/-! ### Pins (R487) -/

theorem resPin_sets (h : (residAt s m.toNat).st ≠ .free) : exec (.resPin sess m) s =
    .next (resEnd m.toNat (residUpd m.toNat (fun r => { r with pin := true }) (requested s sess m.toNat 5))) := by
  rw [exec_request ho (c := .resPin sess m) rfl (bne_iff_ne.2 h)]

theorem resUnpin_clears (h : (residAt s m.toNat).st ≠ .free) : exec (.resUnpin sess m) s =
    .next (resEnd m.toNat (residUpd m.toNat (fun r => { r with pin := false }) (requested s sess m.toNat 6))) := by
  rw [exec_request ho (c := .resUnpin sess m) rfl (bne_iff_ne.2 h)]

theorem resPin_refused (h : (residAt s m.toNat).st = .free) : exec (.resPin sess m) s = .next (answer s 5 []) :=
  exec_request_refused ho rfl (bne_eq_false_iff_eq.2 h)

theorem resUnpin_refused (h : (residAt s m.toNat).st = .free) : exec (.resUnpin sess m) s = .next (answer s 5 []) :=
  exec_request_refused ho rfl (bne_eq_false_iff_eq.2 h)

end

/-- Settles O33: the state of the model selects whether a request is accepted, and what the library and the request's options allow selects
how an accepted one acts. -/
theorem residencyRequestsAct : Obligations.ResidencyRequestsAct := by
  unfold Obligations.ResidencyRequestsAct
  intro sess m s ho r start state
  refine ⟨resLoad_starts ho, resLoad_refused ho, fun atomic noInPlace ver => ⟨resSwap_refused ho atomic noInPlace ver, fun h i x hi => ?swap⟩,
    resEvict_leaves ho, resEvict_refused ho, fun h => ?refresh, resRefresh_refused ho, fun h => ⟨resPin_sets ho h, resUnpin_clears ho h⟩,
    fun h => ⟨resPin_refused ho h, resUnpin_refused ho h⟩⟩
  case swap =>
    refine ⟨resSwap_without_copy ho atomic noInPlace ver h hi, fun hl hv => ⟨?atomic, ?noAlternate, ?byGroups⟩⟩
    case atomic => rintro rfl; exact resSwap_atomic ho noInPlace h hi hl hv
    case noAlternate => rintro rfl rfl; exact resSwap_without_alternate ho h hi hl hv
    case byGroups => rintro rfl; exact resSwap_by_groups ho noInPlace h hi hl hv
  case refresh =>
    exact ⟨fun hl => (resRefresh_starts ho h).trans (congrArg _ (if_pos (List.isEmpty_iff.2 hl))),
      fun hl => (resRefresh_starts ho h).trans (congrArg _ (if_neg (mt List.isEmpty_iff.1 hl)))⟩

end Sys2Proof.Machine
end

section
/-! Deliveries, their checks, the library's copies, and their obligation (R157, R160, R170, R457, R487, R510). -/

namespace Sys2Proof.Machine

/-! ### Deliveries (R487) -/

section
variable {sess : SessId} {s : State} (ho : OperatorOpen s sess)
include ho

/-- An operator's verb passes the gate. -/
theorem gated_resGate_of_operator (body : State) : gated (resGate s (some sess)) s body = body := by
  rw [resGate_of_operator ho]
  rfl

section
variable (manLen : BitVec 32) (shardLen : Word) (pin dist : Bool) (span : Byte)

theorem exec_shardBegin : exec (.shardBegin sess manLen shardLen pin dist span) s = .next (
    if s.delivery.isSome then answer s 3 []
    else if dist ∧ (sget none s.pod.spans span.toNat).isNone then answer s 1 []
    else answer { s with
      delivery := some ⟨sess.toNat, pin, if dist then some span.toNat else none, manLen.toNat, shardLen.toNat, [], [], 0⟩ } 0 []) :=
  congrArg Host.Outcome.next (gated_resGate_of_operator ho _)

theorem shardBegin_busy (h : s.delivery ≠ none) :
    exec (.shardBegin sess manLen shardLen pin dist span) s = .next (answer s 3 []) := by
  rw [exec_shardBegin ho, if_pos (Option.isSome_iff_ne_none.2 h)]

variable (h : s.delivery = none)
include h

theorem shardBegin_without_span (hs : sget none s.pod.spans span.toNat = none) :
    exec (.shardBegin sess manLen shardLen pin true span) s = .next (answer s 1 []) := by
  rw [exec_shardBegin ho, h, Option.isSome_none, if_neg Bool.false_ne_true, if_pos ⟨rfl, Option.isNone_iff_eq_none.2 hs⟩]

theorem shardBegin_opens (hs : dist = false ∨ sget none s.pod.spans span.toNat ≠ none) :
    exec (.shardBegin sess manLen shardLen pin dist span) s = .next (answer { s with
      delivery := some ⟨sess.toNat, pin, if dist then some span.toNat else none, manLen.toNat, shardLen.toNat, [], [], 0⟩ } 0 []) := by
  have hn : ¬ (dist = true ∧ (sget none s.pod.spans span.toNat).isNone = true) := fun ⟨hd, hz⟩ =>
    hs.elim (ne_false_of_eq_true hd) (fun hs' => hs' (Option.isNone_iff_eq_none.1 hz))
  rw [exec_shardBegin ho, h, Option.isSome_none, if_neg Bool.false_ne_true, if_neg hn]

end

section
variable (off : Word) (bytes : List Byte)

/-- Data of no delivery or of another session's. -/
theorem shardData_foreign (h : ∀ d, s.delivery = some d → d.sess ≠ sess.toNat) :
    exec (.shardData sess off bytes) s = .next (answer s 5 []) := by
  refine congrArg Host.Outcome.next ((gated_resGate_of_operator ho _).trans ?_)
  cases hd : s.delivery with
  | none => rfl
  | some d => exact if_pos (h d hd)

variable {d : Delivery} (h : s.delivery = some d) (hs : d.sess = sess.toNat)
include h hs

/-- Data of the session's own delivery is bounded by its length. -/
theorem shardData_own : exec (.shardData sess off bytes) s = .next (
    if d.manLen + d.shardLen < off.toNat + bytes.length then answer s 1 []
    else answer { s with delivery := some (deliver1 d off.toNat bytes) } 0 []) := by
  refine congrArg Host.Outcome.next ((gated_resGate_of_operator ho _).trans ?_)
  simp only [h, if_neg (not_not.2 hs), answerCode]

theorem shardData_beyond (hl : d.manLen + d.shardLen < off.toNat + bytes.length) :
    exec (.shardData sess off bytes) s = .next (answer s 1 []) := by
  rw [shardData_own ho off bytes h hs, if_pos hl]

/-- Bytes are kept at their offset, those of the manifest first. -/
theorem shardData_kept (hl : off.toNat + bytes.length ≤ d.manLen + d.shardLen) :
    exec (.shardData sess off bytes) s = .next (answer { s with
      delivery := some { d with
        manifest := bytesPut d.manifest off.toNat (bytes.take (d.manLen - off.toNat))
        shard := bytesPut d.shard (off.toNat - d.manLen) (bytes.drop (d.manLen - off.toNat))
        got := d.got + bytes.length } } 0 []) := by
  rw [shardData_own ho off bytes h hs, if_neg (Nat.not_lt.2 hl)]
  rfl

end

end

/-! ### The check of a complete delivery (R160) -/

/-- A message carries the frame counter, which is the frames modulo its 48 bits (R1). -/
theorem frameCtr_toNat (s : State) : (frameCtr s).toNat = s.frames % 2 ^ 48 := BitVec.toNat_ofNat _ _

section
variable {s : State}

theorem shardCheck_idle (h : s.delivery = none) : exec .shardCheck s = .next s := by
  show execShardCheck s = _
  simp only [execShardCheck, h]

variable {d : Delivery} (h : s.delivery = some d)
include h

theorem shardCheck_waits (hw : d.got < d.manLen + d.shardLen ∨ d.span ≠ none) : exec .shardCheck s = .next s := by
  show execShardCheck s = _
  simp only [execShardCheck, h, Option.isSome_iff_ne_none]
  exact if_pos hw

variable (hg : d.manLen + d.shardLen ≤ d.got) (hs : d.span = none)
include hg hs

/-- A complete delivery for the library is judged, and its sender told. -/
theorem shardCheck_judges : exec .shardCheck s = .next (
    let v := shardVerdict s d
    let s1 := { s with delivery := none }
    v.2.1.elim (klpSend d.sess true 0x33 (fields [(12, v.1), (16, s.frames % 2 ^ 48)]) [] s1)
      (fun x => resCpl x.m 0 d.sess (if v.1 = 0 then cgWhole (acceptShard x.m x d v.2.2 s1) else resFail x.m v.1 s1))) := by
  have hn : ¬ (d.got < d.manLen + d.shardLen ∨ d.span.isSome = true) := by
    rw [hs]
    exact not_or.2 ⟨Nat.not_lt.2 hg, Bool.false_ne_true⟩
  show execShardCheck s = _
  simp only [execShardCheck, h, hn, if_false, ← frameCtr_toNat]
  cases (shardVerdict s d).2.1 <;> rfl

theorem shardCheck_unknown (hv : (shardVerdict s d).2.1 = none) : exec .shardCheck s =
    .next (klpSend d.sess true 0x33 (fields [(12, (shardVerdict s d).1), (16, s.frames % 2 ^ 48)]) [] { s with delivery := none }) := by
  simp only [shardCheck_judges h hg hs, hv, Option.elim_none]

variable {x : ImgModel} (hv : (shardVerdict s d).2.1 = some x)
include hv

theorem shardCheck_accepts (h0 : (shardVerdict s d).1 = 0) : exec .shardCheck s =
    .next (resCpl x.m 0 d.sess (cgWhole (acceptShard x.m x d (shardVerdict s d).2.2 { s with delivery := none }))) := by
  simp only [shardCheck_judges h hg hs, hv, h0, Option.elim_some, if_true]

theorem shardCheck_rejects (h0 : (shardVerdict s d).1 ≠ 0) : exec .shardCheck s =
    .next (resCpl x.m 0 d.sess (resFail x.m (shardVerdict s d).1 { s with delivery := none })) := by
  simp only [shardCheck_judges h hg hs, hv, h0, Option.elim_some, if_false]

end

/-! ### Deliveries for a span (R510) -/

section
variable {span : Byte} {s : State} {d : Delivery} {x : Span} (h : s.delivery = some d) (hx : sget none s.pod.spans span.toNat = some x)
include h hx

theorem shardDistribution_waits (hw : d.span ≠ some span.toNat ∨ d.got < d.manLen + d.shardLen ∨ s.pod.st ≠ 3) :
    exec (.shardDistribution span) s = .next s := by
  show execShardDistribution span s = _
  simp only [execShardDistribution, h, hx]
  exact if_pos hw

variable (hs : d.span = some span.toNat) (hg : d.manLen + d.shardLen ≤ d.got) (hp : s.pod.st = 3)
include hs hg hp

/-- The hawk judges the manifest of a complete package for the span, and begins or goes on with its distribution. -/
theorem shardDistribution_judges : exec (.shardDistribution span) s =
    let mr : Rd := fun o => sget 0 d.manifest o
    .next (if (!manifestOk mr d.manLen) = true ∨ (!manifestSigned s mr d.manLen) = true then
        klpSend d.sess true 0x33 (fields [(12, 1), (16, s.frames % 2 ^ 48)]) [] { s with delivery := none }
      else s.pod.dist.elim (distNext d x (onPod (fun p => { p with
          dist := some ⟨d.sess, [], (List.range x.size).filter (fun p => (lget 0 x.slots p).toNat ≠ s.pod.slot.toNat), 0⟩ }) s))
        (fun _ => distNext d x s)) := by
  have hn : ¬ (d.span ≠ some span.toNat ∨ d.got < d.manLen + d.shardLen ∨ s.pod.st ≠ 3) :=
    not_or.2 ⟨not_not.2 hs, not_or.2 ⟨Nat.not_lt.2 hg, not_not.2 hp⟩⟩
  show execShardDistribution span s = _
  simp only [execShardDistribution, h, hx, hn, if_false, ← frameCtr_toNat]
  split
  · rfl
  · cases s.pod.dist <;> rfl

theorem shardDistribution_rejects (hm : manifestOk (fun o => sget 0 d.manifest o) d.manLen = false ∨
    manifestSigned s (fun o => sget 0 d.manifest o) d.manLen = false) : exec (.shardDistribution span) s =
    .next (klpSend d.sess true 0x33 (fields [(12, 1), (16, s.frames % 2 ^ 48)]) [] { s with delivery := none }) := by
  simp only [shardDistribution_judges h hx hs hg hp, Bool.not_eq_true', hm, if_true]

variable (hm : manifestOk (fun o => sget 0 d.manifest o) d.manLen = true)
  (hk : manifestSigned s (fun o => sget 0 d.manifest o) d.manLen = true)
include hm hk

theorem shardDistribution_continues {e : Dist} (he : s.pod.dist = some e) : exec (.shardDistribution span) s = .next (distNext d x s) := by
  simp only [shardDistribution_judges h hx hs hg hp, hm, hk, he, Bool.not_true, Bool.false_eq_true, or_self, if_false, Option.elim_some]

theorem shardDistribution_begins (he : s.pod.dist = none) : exec (.shardDistribution span) s =
    .next (distNext d x { s with pod := { s.pod with
      dist := some ⟨d.sess, [], (List.range x.size).filter (fun p => (lget 0 x.slots p).toNat ≠ s.pod.slot.toNat), 0⟩ } }) := by
  simp only [shardDistribution_judges h hx hs hg hp, hm, hk, he, Bool.not_true, Bool.false_eq_true, or_self, if_false, Option.elim_none]
  rfl

end

/-! ### Migration of library copies (R457) -/

section
variable {m : Byte} {s : State}

theorem libraryCopyMigration_without_copy (h : (residAt s m.toNat).lib = []) : exec (.libraryCopyMigration m) s = .next s :=
  if_pos (List.isEmpty_iff.2 h)

variable (h : (residAt s m.toNat).lib ≠ [])
include h

/-- Where the extents do not suffice, LAST_ERR is LIBRARY_FULL. -/
theorem libraryCopyMigration_full (ha : allocCopies m.toNat (residAt s m.toNat).shardLen s = none) :
    exec (.libraryCopyMigration m) s = .next (resFail m.toNat 7 s) := by
  show execLibraryCopyMigration m s = _
  simp only [execLibraryCopyMigration, List.isEmpty_eq_false_iff.2 h, ha, Bool.false_eq_true, if_false]

/-- The copies are written before the old extents are freed. -/
theorem libraryCopyMigration_copies {es : List (List Nat)} {t : State}
    (ha : allocCopies m.toNat (residAt s m.toNat).shardLen s = some (es, t)) : exec (.libraryCopyMigration m) s =
    .next (residUpd m.toNat (fun e => { e with lib := es }) ((residAt s m.toNat).lib.foldl (fun u e => extFree e u)
      (es.foldl (fun u e => copyWrite (libRd s (residAt s m.toNat)) (residAt s m.toNat).shardLen e u) t))) := by
  show execLibraryCopyMigration m s = _
  simp only [execLibraryCopyMigration, List.isEmpty_eq_false_iff.2 h, ha, Bool.false_eq_true, if_false]

end

/-- Settles O32: the delivery in progress, its verdict, its manifest or the model's copies select the branch that each command takes. -/
theorem deliveriesAreTakenAndChecked : Obligations.DeliveriesAreTakenAndChecked := by
  unfold Obligations.DeliveriesAreTakenAndChecked
  refine ⟨?begins, ?data, ?check, ?distribution, ?migration⟩
  case begins =>
    intro sess manLen shardLen pin dist span s ho
    refine ⟨shardBegin_busy ho manLen shardLen pin dist span, fun h hd hs => ?noSpan, shardBegin_opens ho manLen shardLen pin dist span⟩
    case noSpan =>
      rw [hd]
      exact shardBegin_without_span ho manLen shardLen pin span h hs
  case data =>
    intro sess off bytes s ho
    exact ⟨shardData_foreign ho off bytes, fun d h hs => ⟨shardData_beyond ho off bytes h hs, shardData_kept ho off bytes h hs⟩⟩
  case check =>
    intro s
    exact ⟨shardCheck_idle, fun d h => ⟨shardCheck_waits h, fun hg hs => ⟨shardCheck_unknown h hg hs,
      fun x => shardCheck_accepts h hg hs, fun x => shardCheck_rejects h hg hs⟩⟩⟩
  case distribution =>
    intro span s d x h hx
    exact ⟨shardDistribution_waits h hx, fun hs hg hp => ⟨shardDistribution_rejects h hx hs hg hp, fun hm hk =>
      ⟨fun e => shardDistribution_continues h hx hs hg hp hm hk, shardDistribution_begins h hx hs hg hp hm hk⟩⟩⟩
  case migration =>
    intro m s
    exact ⟨libraryCopyMigration_without_copy, libraryCopyMigration_full, fun es t h => libraryCopyMigration_copies h⟩

end Sys2Proof.Machine
end

section
/-! Retention, refreshes, swaps and evictions, and their obligation (R154, R156, R163, R165, R166, R171, R172). -/

namespace Sys2Proof.Machine

theorem exec_retentionTick (s : State) : exec .retentionTick s = .next (markWear (s.resid.foldl (fun u e =>
    e.2.slices.foldl (fun v o => ageSlice e.1 o.id v) u) s)) := rfl

/-! ### A slice ages (R154, R156) -/

/-- The age of a slice one second on. -/
def agedTo (s : State) (o : Slice) : Nat := o.age + ageStep (sliceTemp s o)

/-- The module once a slice is one second older. -/
def aged (m id : Nat) (o : Slice) (s : State) : State := residUpd m (sliceUpd id (fun sl => { sl with age := agedTo s o })) s

section
variable {m id : Nat} {s : State} {o : Slice} (h : (residAt s m).slices.find? (fun o => o.id == id) = some o)
include h

theorem ageSlice_lost (hr : o.resident = false) : ageSlice m id s = s := by
  simp only [ageSlice, h, hr, Bool.not_false, if_true]

variable (hr : o.resident = true)
include hr

/-- A resident slice is older by its step; the two limits decide what falls due and what is lost. -/
theorem ageSlice_resident : ageSlice m id s =
    let t := if ageDays 30 ≤ agedTo s o ∧ (!o.due) = true then refreshDue m id (aged m id o s) else aged m id o s
    if ageDays 45 ≤ agedTo s o then degradeSlice m id t else t := by
  simp only [ageSlice, h, hr, Bool.not_true, Bool.false_eq_true, if_false]
  rfl

theorem ageSlice_young (ha : agedTo s o < 30 * 86400 * 2 ^ 20) : ageSlice m id s = aged m id o s := by
  have h30 : ¬ ageDays 30 ≤ agedTo s o := Nat.not_le.2 ha
  have h45 : ¬ ageDays 45 ≤ agedTo s o := by
    unfold ageDays
    omega
  simp only [ageSlice_resident h hr, h30, h45, false_and, if_false]

theorem ageSlice_falls_due (ha : 30 * 86400 * 2 ^ 20 ≤ agedTo s o) (hb : agedTo s o < 45 * 86400 * 2 ^ 20) (hd : o.due = false) :
    ageSlice m id s = refreshDue m id (aged m id o s) := by
  have h30 : ageDays 30 ≤ agedTo s o := ha
  have h45 : ¬ ageDays 45 ≤ agedTo s o := Nat.not_le.2 hb
  simp only [ageSlice_resident h hr, h30, h45, hd, Bool.not_false, and_self, if_true, if_false]

theorem ageSlice_expires (ha : 45 * 86400 * 2 ^ 20 ≤ agedTo s o) (hd : o.due = true) :
    ageSlice m id s = degradeSlice m id (aged m id o s) := by
  have h45 : ageDays 45 ≤ agedTo s o := ha
  simp only [ageSlice_resident h hr, h45, hd, Bool.not_true, Bool.false_eq_true, and_false, if_true, if_false]

end

/-! ### Swaps of groups and slices (R163, R165) -/

section
variable {m group : Byte} {slice : BitVec 16} {s : State}

theorem stagedSwap_idle (h : canSwap (residAt s m.toNat) = false) : exec (.stagedSwap m group) s = .next s := by
  show execStagedSwap m group s = _
  unfold execStagedSwap
  split
  · rfl
  · split
    · rfl
    · exact if_neg (ne_true_of_eq_false h)

theorem inPlaceSwap_idle (h : canSwap (residAt s m.toNat) = false) : exec (.inPlaceSwap m slice) s = .next s := by
  show execInPlaceSwap m slice s = _
  unfold execInPlaceSwap
  split
  · rfl
  · exact if_neg (ne_true_of_eq_false h)

variable {i : Image} {x : ImgModel} (hi : imgModel s m.toNat = some (i, x))
include hi

theorem stagedSwap_swaps {g : ImgGroup} (hg : x.groups[group.toNat]? = some g) (h : canSwap (residAt s m.toNat) = true) :
    exec (.stagedSwap m group) s = .next (stagedSwap i m.toNat [g] s) := by
  show execStagedSwap m group s = _
  simp only [execStagedSwap, hi, hg, h, if_true]

theorem inPlaceSwap_swaps (h : canSwap (residAt s m.toNat) = true) :
    exec (.inPlaceSwap m slice) s = .next (inPlaceSwap i m.toNat slice.toNat s) := by
  show execInPlaceSwap m slice s = _
  simp only [execInPlaceSwap, hi, h, if_true]

/-! ### Refreshes (R156, R166) -/

variable {o : Slice} (ho : (residAt s m.toNat).slices.find? (fun o => o.id == slice.toNat) = some o)
include ho

theorem refresh_not_due (hd : o.due = false) : exec (.refresh m slice) s = .next s := by
  show execRefresh m slice s = _
  simp only [execRefresh, hi, ho, hd, Bool.not_false, if_true]

variable (hd : o.due = true)
include hd

/-- Without a library copy a due refresh is blocked. -/
theorem refresh_blocked (hl : (residAt s m.toNat).lib = []) :
    exec (.refresh m slice) s = .next (refreshDue m.toNat slice.toNat s) := by
  show execRefresh m slice s = _
  simp only [execRefresh, hi, ho, hd, hl, List.isEmpty_nil, Bool.not_true, Bool.false_eq_true, if_false, if_true]

/-- A due refresh is a staged swap where the group has a free alternate, and an in-place swap otherwise. -/
theorem refresh_swaps {g : ImgGroup} (hl : (residAt s m.toNat).lib ≠ []) (hg : groupOf x slice.toNat = some g) :
    exec (.refresh m slice) s = .next (if (stagedSel s i m.toNat [g]).isSome then stagedSwap i m.toNat [g] s
      else inPlaceSwap i m.toNat slice.toNat s) := by
  show execRefresh m slice s = _
  simp only [execRefresh, hi, ho, hd, List.isEmpty_eq_false_iff.2 hl, hg, Bool.not_true, Bool.false_eq_true, if_false]
  exact (apply_ite Host.Outcome.next _ _ _).symm

end

/-! ### Evictions (R171, R172) -/

section
variable (ok : State → Bool) (keep : List Nat) (n : Nat) {s : State}

theorem evictLibrary_enough (h : ok s = true) : evictLibrary ok keep (n + 1) s = s := if_pos h

theorem evictLibrary_none (h : ok s = false) (hv : nextEvict s .library keep = none) : evictLibrary ok keep (n + 1) s = s := by
  simp only [evictLibrary, h, hv, Bool.false_eq_true, if_false]

theorem evictLibrary_one {m : Nat} (h : ok s = false) (hv : nextEvict s .library keep = some m) :
    evictLibrary ok keep (n + 1) s = evictLibrary ok keep n (cgWhole (dropLibrary m s)) := by
  rw [evictLibrary, h, hv, if_neg Bool.false_ne_true]

theorem evictUntil_enough (h : ok s = true) : evictUntil ok (n + 1) s = s := if_pos h

theorem evictUntil_none (h : ok s = false) (hv : nextEvict s .resident [] = none) : evictUntil ok (n + 1) s = s := by
  simp only [evictUntil, h, hv, Bool.false_eq_true, if_false]

theorem evictUntil_one {m : Nat} (h : ok s = false) (hv : nextEvict s .resident [] = some m) :
    evictUntil ok (n + 1) s = evictUntil ok n (evictModel m s) := by
  rw [evictUntil, h, hv, if_neg Bool.false_ne_true]

end

theorem exec_libraryEviction (need : BitVec 32) (s : State) :
    exec (.libraryEviction need) s = .next (evictLibrary (fun u => decide (need.toNat ≤ libSpace u)) [] 256 s) := rfl

theorem exec_modelEviction (need : BitVec 13) (s : State) :
    exec (.modelEviction need) s = .next (evictUntil (fun u => decide (need.toNat ≤ freeSites u)) 256 s) := rfl

/-- Settles O34: a slice's age, state and refresh select what a second does to it, a group's alternate the form of a swap, and an eviction
is unrolled by one victim. -/
theorem slicesAgeAndAreSwapped : Obligations.SlicesAgeAndAreSwapped := by
  unfold Obligations.SlicesAgeAndAreSwapped
  refine ⟨exec_retentionTick, ?age, ?staged, ?inPlace, ?library, ?model⟩
  case age =>
    intro m id s o h a s1
    exact ⟨ageSlice_lost h, ageSlice_young h, ageSlice_falls_due h, ageSlice_expires h⟩
  case staged =>
    intro m group s
    exact ⟨fun i x g hi => stagedSwap_swaps hi, stagedSwap_idle⟩
  case inPlace =>
    intro m slice s
    exact ⟨fun i x => inPlaceSwap_swaps, inPlaceSwap_idle, fun i x o hi ho => ⟨refresh_not_due hi ho, refresh_blocked hi ho,
      fun g hd => refresh_swaps hi ho hd⟩⟩
  case library =>
    intro need s
    rw [exec_libraryEviction]
    refine ⟨fun h => ?enough, fun h hv => ?none, fun m h hv => ?one⟩
    case enough => rw [evictLibrary_enough _ _ _ (decide_eq_true h)]
    case none => rw [evictLibrary_none _ _ _ (decide_eq_false (Nat.not_le.2 h)) hv]
    case one => rw [evictLibrary_one _ _ _ (decide_eq_false (Nat.not_le.2 h)) hv]
  case model =>
    intro need s
    rw [exec_modelEviction]
    refine ⟨fun h => ?enough, fun h hv => ?none, fun m h hv => ?one⟩
    case enough => rw [evictUntil_enough _ _ (decide_eq_true h)]
    case none => rw [evictUntil_none _ _ (decide_eq_false (Nat.not_le.2 h)) hv]
    case one => rw [evictUntil_one _ _ (decide_eq_false (Nat.not_le.2 h)) hv]

end Sys2Proof.Machine
end

section
/-! Silent tiles and hubs, tile resets, dust sheets, re-homing and in-doubt tiles, and their obligation (R161, R234, R334-R346, R549-R552,
R608). -/

namespace Sys2Proof.Machine

/-! ### Silent tiles and hubs (R552) -/

section
variable {node : Node} {s : State}

theorem hbMiss_resets (hn : node.val < 8064) (hm : 3 ≤ (sget Heard.fresh s.lath.heard node).missed) :
    exec (.hbMiss node) s = .next (sendTileReset node false (holdAll (sitePipes s node) s)) :=
  if_pos ⟨hn, hm⟩

theorem hbMiss_rests (h : 8064 ≤ node.val ∨ (sget Heard.fresh s.lath.heard node).missed < 3) : exec (.hbMiss node) s = .next s :=
  if_neg (not_and_or.2 (h.imp Nat.not_lt.2 Nat.not_le.2))

end

section
variable {site : Site} {s : State}

theorem tileResetTimeout_fails (h : site.val ∈ s.lath.resets) :
    exec (.tileResetTimeout site) s = .next (endAll (sitePipes s site) (tileFailed site 0x0D
      { s with lath := { s.lath with resets := s.lath.resets.filter (fun z => z != site.val) } })) :=
  if_pos (List.contains_iff_mem.2 h)

theorem tileResetTimeout_rests (h : site.val ∉ s.lath.resets) : exec (.tileResetTimeout site) s = .next s :=
  if_neg (mt List.contains_iff_mem.1 h)

end

section
variable {b : Block} {s : State}

/-- The module once a block's alternate hub is promoted and its summaries count anew. -/
def promotedHub (b : Block) (s : State) : State := { s with lath := { s.lath with
  promoted := s.lath.promoted ||| (1 <<< b.val)
  blocks := sset Heard.fresh s.lath.blocks b Heard.fresh } }

/-- The block of a promoted hub is marked. -/
theorem promotedHub_marked (b : Block) (s : State) : (promotedHub b s).lath.promoted.getLsbD b = true := by
  have hb : ((1 <<< b.val : Nat) : BitVec 56).getLsbD b = true := by
    rw [BitVec.natCast_eq_ofNat, BitVec.getLsbD_ofNat, Nat.one_shiftLeft, Nat.testBit_two_pow_self, decide_eq_true b.isLt]
    rfl
  show (s.lath.promoted ||| _).getLsbD b = true
  rw [BitVec.getLsbD_or, hb, Bool.or_true]

theorem hubPromotion_promotes (hm : 3 ≤ (sget Heard.fresh s.lath.blocks b).missed) (hp : s.lath.promoted.getLsbD b = false) :
    exec (.hubPromotion b) s = .next (sendTileReset (hubOf s b) false (holdAll (sitePipes (promotedHub b s) (hubOf s b)) (promotedHub b s))) :=
  if_pos ⟨hm, (Bool.not_eq_true' _).mpr hp⟩

theorem hubPromotion_rests (h : (sget Heard.fresh s.lath.blocks b).missed < 3 ∨ s.lath.promoted.getLsbD b = true) :
    exec (.hubPromotion b) s = .next s :=
  if_neg (fun ⟨hm, hp⟩ => h.elim (Nat.not_lt.2 hm) (ne_true_of_eq_false ((Bool.not_eq_true' _).mp hp)))

end

/-! ### Tile resets (R161, R234, R608) -/

section
variable (retrain : Bool) {site : Nat} {s : State}

/-- A tile that the good-tile map withholds, or that is under reset, is left alone. -/
theorem tileResetNow_rests (h : s.grid.exposed.getLsbD site = false ∨ site ∈ s.lath.resets) : tileResetNow site retrain s = s :=
  if_pos (h.imp (Bool.not_eq_true' _).mpr List.contains_iff_mem.2)

/-- A reset tile halts and is cleared, fenced off, written again and waited for. -/
theorem tileResetNow_resets (he : s.grid.exposed.getLsbD site = true) (hr : site ∉ s.lath.resets) :
    let h := tileHalt (tileAt s site)
    let s1 := lathDrop (· == site) (flitsDrop (· == site) (tilePut s site { h with pad := padZero (fun _ => false) h.pad }))
    let s2 := if sitePlaced s.plc.courses site ∧ !isFenced s site then wordsPut (neighbourCfgs s1 site true) s1 else s1
    let s3 := restoreSite site (storesAgain [site] s2)
    let s4 := if retrain then trainPorts (· == site) s3 else s3
    tileResetNow site retrain s = { s4 with lath := { s4.lath with resets := s4.lath.resets ++ [site] } } :=
  if_neg (fun hc => hc.elim (fun h => ne_true_of_eq_false ((Bool.not_eq_true' _).mp h) he) (fun h => hr (List.contains_iff_mem.1 h)))

end

theorem exec_tileReset (site : Site) (retrain : Bool) (s : State) :
    exec (.tileReset site retrain) s = .next (tileResetNow site retrain (lathDone 8096 0x28 s)) := rfl

theorem exec_residentStoreRestore (site : Site) (s : State) : exec (.residentStoreRestore site) s = .next (restoreSite site s) := rfl

/-! ### Dust sheets (R549) -/

/-- Whether a site is fenced, gated or about to be fenced. -/
theorem fenceKnown_iff (s : State) (z : Nat) (p : Prop) : (isFenced s z = true ∨ s.grid.gated.contains z = true ∨ p) ↔
    isFenced s z = true ∨ z ∈ s.grid.gated ∨ p := by
  rw [List.contains_iff_mem]

section
variable {site : Site} {s : State}

theorem dustSheet_rests (h : isFenced s site = true ∨ site.val ∈ s.grid.gated ∨ (groupWith s (isFenceOf site)).isSome = true) :
    exec (.dustSheet site) s = .next s :=
  if_pos ((fenceKnown_iff _ _ _).2 h)

theorem dustSheet_fences (h : ¬ (isFenced s site = true ∨ site.val ∈ s.grid.gated ∨ (groupWith s (isFenceOf site)).isSome = true)) :
    exec (.dustSheet site) s = .next (cgTry (fenceItems s site (rimOf site).isNone) (lathSend 8096
      (lathMsg (hubOf s (blockOf site)) 0 8096 0 0x02 (lathNode s 8096).epoch
        (leBytes 2 site ++ [if (rimOf site).isNone then 0 else 1] ++ leBytes 2 (epochCopy s site + 1).toNat)) s)) :=
  if_neg (mt (fenceKnown_iff _ _ _).1 h)

end

/-! ### Re-homing (R334-R337, R346) -/

/-- Whether a row of a region is shifted. -/
theorem any_shift_iff (l : List Shift) (ly : Nat) : l.any (fun x => x.ly == ly) = true ↔ ∃ x ∈ l, x.ly = ly := by
  simp only [List.any_eq_true, beq_iff_eq]

section
variable {site : Nat} (hold : BitVec 16) {s0 : State}

theorem exec_rehome (site : Site) (hold : BitVec 16) (s : State) : exec (.rehome site hold) s = .next (rehomeSite site hold s) := rfl

/-- Without an image the tile is only dust-sheeted. -/
theorem rehomeSite_without_image (h : (dustNow site s0).load.img = none) : rehomeSite site hold s0 = dustNow site s0 := by
  simp only [rehomeSite, h]

variable {i : Image} (hi : (dustNow site s0).load.img = some i)
include hi

theorem rehomeSite_unplaced (h : tileOf i (dustNow site s0).plc.courses site = none) : rehomeSite site hold s0 = dustNow site s0 := by
  simp only [rehomeSite, hi, h]

variable {c : Course} {p : PlacedReg} {lx ly : Nat} {g : ImgRegion}
  (ht : tileOf i (dustNow site s0).plc.courses site = some (c, p, lx, ly)) (hg : regAt i p.reg = some g)
  (hm : g.model = 0xFF ∨ (residAt (dustNow site s0) g.model).slices ≠ [])
include ht hg hm

/-- A tile that works for a region whose model is on the wafer is re-homed by the case that applies. -/
theorem rehomeSite_placed : rehomeSite site hold s0 =
    let s := dustNow site s0
    if (!s.plc.rehomeEn) = true then rehomeFail s
    else if (p.shifts.any (fun h => h.ly == ly)) = true then
      rehomeRec site g.id hold (if (moveCourse c.pipe site s).plc.lastRes = 1 then 1 else 4) (moveCourse c.pipe site s)
    else (courseAt s (fencedFor s) i s.load.activeProf.toNat c.pipe (s.plc.courses.filter (fun e => e.pipe != c.pipe)) c.x0 c.y0).elim
      (rehomeRec site g.id hold (if (moveCourse c.pipe site s).plc.lastRes = 1 then 1 else 2) (moveCourse c.pipe site s))
      (fun d => shiftCourse i c d g site hold s) := by
  have hn : ¬ (g.model ≠ 0xFF ∧ (residAt (dustNow site s0) g.model).slices.isEmpty = true) := fun ⟨h1, h2⟩ =>
    hm.elim h1 (fun h => h (List.isEmpty_iff.1 h2))
  simp only [rehomeSite, hi, ht, hg, hn, if_false]
  split
  · rfl
  · split
    · rfl
    · cases courseAt (dustNow site s0) _ i _ _ _ _ _ <;> rfl

theorem rehomeSite_disabled (h : (dustNow site s0).plc.rehomeEn = false) : rehomeSite site hold s0 = rehomeFail (dustNow site s0) := by
  simp only [rehomeSite_placed hold hi ht hg hm, h, Bool.not_false, if_true]

variable (hen : (dustNow site s0).plc.rehomeEn = true)
include hen

/-- A row that is shifted already makes its course move. -/
theorem rehomeSite_shifted (h : ∃ x ∈ p.shifts, x.ly = ly) : rehomeSite site hold s0 =
    let t := moveCourse c.pipe site (dustNow site s0)
    rehomeRec site g.id hold (if t.plc.lastRes = 1 then 1 else 4) t := by
  simp only [rehomeSite_placed hold hi ht hg hm, hen, any_shift_iff, h, Bool.not_true, Bool.false_eq_true, if_false, if_true]

variable (hs : ¬ ∃ x ∈ p.shifts, x.ly = ly)
include hs

/-- A row without a shift is shifted over the tile where the course still fits. -/
theorem rehomeSite_shifts {d : Course} (hd : courseAt (dustNow site s0) (fencedFor (dustNow site s0)) i (dustNow site s0).load.activeProf.toNat
    c.pipe ((dustNow site s0).plc.courses.filter (fun e => e.pipe != c.pipe)) c.x0 c.y0 = some d) :
    rehomeSite site hold s0 = shiftCourse i c d g site hold (dustNow site s0) := by
  simp only [rehomeSite_placed hold hi ht hg hm, hen, any_shift_iff, hs, hd, Bool.not_true, Bool.false_eq_true, if_false, Option.elim_some]

/-- A row that cannot be shifted makes its course move. -/
theorem rehomeSite_moves (hd : courseAt (dustNow site s0) (fencedFor (dustNow site s0)) i (dustNow site s0).load.activeProf.toNat
    c.pipe ((dustNow site s0).plc.courses.filter (fun e => e.pipe != c.pipe)) c.x0 c.y0 = none) : rehomeSite site hold s0 =
    let t := moveCourse c.pipe site (dustNow site s0)
    rehomeRec site g.id hold (if t.plc.lastRes = 1 then 1 else 2) t := by
  simp only [rehomeSite_placed hold hi ht hg hm, hen, any_shift_iff, hs, hd, Bool.not_true, Bool.false_eq_true, if_false, Option.elim_none]

end

/-! ### Course moves (R337) -/

section
variable {i : Image} {q failed : Nat} {c : Course} {s : State} (hi : s.load.img = some i)
  (hc : s.plc.courses.find? (fun c => c.pipe == q) = some c)
include hi hc

theorem moveCourse_places {d : Course} (hd : searchCourse s (fencedFor s) i s.load.activeProf.toNat q s.plc.courses = some d) :
    let qs := (q :: (pipeModels s q).flatMap (modelPipes s)).eraseDups
    let s1 := moveWork i (movedSites i c d) failed (s.plc.courses.map (fun e => if e.pipe = q then d else e)) (holdAll qs s)
    let s2 := (pipeModels s1 q).foldl (fun u m => settleModel m u) s1
    moveCourse q failed s = plcOp 4 0 (endAll qs (pagesLost (pageStreams s failed) s2)) := by
  simp only [moveCourse, hi, hc, hd]

/-- Without an origin the models of the course are DEGRADED, the failure is counted and the holds stay. -/
theorem moveCourse_without_origin (hd : searchCourse s (fencedFor s) i s.load.activeProf.toNat q s.plc.courses = none) :
    let qs := (q :: (pipeModels s q).flatMap (modelPipes s)).eraseDups
    let s1 := (pipeModels s q).foldl (fun u m => residUpd m (fun r => { r with st := .degraded }) u) s
    moveCourse q failed s = plcOp 4 1 (holdAll qs (rehomeFail s1)) := by
  simp only [moveCourse, hi, hc, hd]

end

theorem exec_courseMove (q : Byte) (s : State) : exec (.courseMove q) s = .next (moveCourse q.toNat
    ((((s.plc.courses.filter (fun c => c.pipe == q.toNat)).flatMap courseSites).find? (fencedFor s)).getD 8064) s) := rfl

/-! ### In-doubt participants (R551) -/

/-- What is owed to a node. -/
def owedTo (s : State) (node : Nat) : List CgPart := s.cg.owed.filter (fun p => p.node == node)

/-- The module once nothing is owed to a node. -/
def owedTaken (s : State) (node : Nat) : State := { s with cg := { s.cg with owed := s.cg.owed.filter (fun p => p.node != node) } }

section
variable {node : Node} {s : State}

theorem indoubtReinstatement_rests (h : owedTo s node = []) : exec (.indoubtReinstatement node) s = .next s :=
  if_pos (List.isEmpty_iff.2 h)

variable (h : owedTo s node ≠ [])
include h

/-- Another participant than a tile is given the state of the groups that are owed to it. -/
theorem indoubtReinstatement_rim (hn : 8064 ≤ node.val) :
    exec (.indoubtReinstatement node) s = .next ((owedTo s node).foldl owedWrite (owedTaken s node)) :=
  (if_neg (mt List.isEmpty_iff.1 h)).trans (if_neg (Nat.not_lt.2 hn))

/-- A tile is reset under a hold, given that state, heard again and charged. -/
theorem indoubtReinstatement_tile (hn : node.val < 8064) :
    let s0 := owedTaken s node
    let qs := sitePipes s0 node
    let ep := epochCopy s0 node + 1
    let s1 := copySet node ep (holdAll qs s0)
    let s2 := tileResetNow node false s1
    let s3 := { s2 with lath := { s2.lath with resets := s2.lath.resets.filter (fun z => z != node.val) } }
    let s4 := wordsPut (neighbourCfgs s3 node false) ((owedTo s node).foldl owedWrite s3)
    let s5 := lathUpd node (fun n => { n with epoch := ep }) s4
    exec (.indoubtReinstatement node) s =
      .next (endAll qs (chargeEvent (unitTile node) 0x0E (pagesLost (pageStreams s1 node) s5)).1) :=
  (if_neg (mt List.isEmpty_iff.1 h)).trans (if_pos hn)

end

/-- Settles O28: what was missed, what is under reset, fenced, placed or owed, and where a course fits select the branch that each
command takes. -/
theorem silentAndFailedTilesAreRecovered : Obligations.SilentAndFailedTilesAreRecovered := by
  unfold Obligations.SilentAndFailedTilesAreRecovered
  refine ⟨⟨?heartbeat, ?timeout, ?hub, ?reset, exec_residentStoreRestore⟩, ?dust, ?rehome, ?course, ?owed⟩
  case heartbeat => exact fun node s => ⟨hbMiss_resets, hbMiss_rests⟩
  case timeout => exact fun site s => ⟨tileResetTimeout_fails, tileResetTimeout_rests⟩
  case hub => exact fun b s => ⟨fun hm hp => ⟨hubPromotion_promotes hm hp, promotedHub_marked b s⟩, hubPromotion_rests⟩
  case reset =>
    intro site retrain s0 s
    rw [exec_tileReset]
    exact ⟨fun h => congrArg Host.Outcome.next (tileResetNow_rests retrain h),
      fun he hr => congrArg Host.Outcome.next (tileResetNow_resets retrain he hr)⟩
  case dust => exact fun site s => ⟨dustSheet_rests, dustSheet_fences⟩
  case rehome =>
    intro site hold s0 s
    simp only [exec_rehome]
    refine ⟨fun h => ?noImage, fun i hi => ⟨fun h => ?unplaced, fun c p lx ly g ht hg hm =>
      ⟨fun h => ?disabled, fun hen h => ?shifted, fun hen h => ?unshifted⟩⟩⟩
    case noImage => exact congrArg Host.Outcome.next (rehomeSite_without_image hold h)
    case unplaced => exact congrArg Host.Outcome.next (rehomeSite_unplaced hold hi h)
    case disabled => exact congrArg Host.Outcome.next (rehomeSite_disabled hold hi ht hg hm h)
    case shifted => exact congrArg Host.Outcome.next (rehomeSite_shifted hold hi ht hg hm hen h)
    case unshifted =>
      have hs : ¬ ∃ x ∈ p.shifts, x.ly = ly := fun ⟨x, hx, hl⟩ => h x hx hl
      exact ⟨fun d hd => congrArg Host.Outcome.next (rehomeSite_shifts hold hi ht hg hm hen hs hd),
        fun hd => congrArg Host.Outcome.next (rehomeSite_moves hold hi ht hg hm hen hs hd)⟩
  case course =>
    intro q s i c hi hc failed qs
    rw [exec_courseMove]
    exact ⟨fun d hd => congrArg Host.Outcome.next (moveCourse_places hi hc hd),
      fun hd => congrArg Host.Outcome.next (moveCourse_without_origin hi hc hd)⟩
  case owed =>
    intro node s owed
    exact ⟨indoubtReinstatement_rests, fun h => ⟨indoubtReinstatement_rim h, indoubtReinstatement_tile h⟩⟩

end Sys2Proof.Machine
end

section
/-! Trim periods, the runs of the calibration, converters and reference scans, and their obligation (R178-R188, R191-R193, R593). -/

namespace Sys2Proof.Machine

/-! ### Trim periods (R178-R180) -/

section
variable {temps : List (BitVec 12)} {s : State}

theorem trimPeriod_rests (h : s.frames % 64 ≠ 0 ∨ gridStopped s = true) : exec (.trimPeriod temps) s = .next s :=
  if_pos h

/-- The 56 temperatures are taken after the steps that waited are settled, and before anything is judged by them. -/
theorem trimPeriod_steps (hf : s.frames % 64 = 0) (hg : gridStopped s = false) :
    exec (.trimPeriod temps) s = .next (tempPairs (retarget (discardOut (onCal (fun c => { c with
      temps := stab 0 56 (fun b => (lget 0 temps b).toInt)
      tempValid := true }) (settleTrims s))))) :=
  if_neg (not_or.2 ⟨not_not.2 hf, Bool.eq_false_iff.1 hg⟩)

end

/-- At or below the lowest calibrated temperature the target is the value of the lowest set. -/
theorem trimTarget_lowest (t : TrimVal) {x : Int} (h : x ≤ 560) : trimTarget t x = lget 0 t.sets 0 :=
  (trimTarget_low t x h).trans (trimTarget_set t 0 (by decide))

/-- At or above the highest calibrated temperature the target is the value of the highest set. -/
theorem trimTarget_highest (t : TrimVal) {x : Int} (h : 1520 ≤ x) : trimTarget t x = lget 0 t.sets 4 :=
  (trimTarget_high t x h).trans (trimTarget_set t 4 (by decide))

section
variable {t : TrimVal}

theorem stepTrim_at_target (h : t.applied = t.target) : stepTrim t = t := by
  rw [stepTrim, if_neg h.not_lt, if_neg h.not_gt]

theorem stepTrim_below_target (h : t.applied < t.target) : stepTrim t = { t with applied := t.applied + 1 } := by
  rw [stepTrim, if_pos h]

theorem stepTrim_above_target (h : t.target < t.applied) : stepTrim t = { t with applied := t.applied - 1 } := by
  rw [stepTrim, if_neg h.not_gt, if_pos h]

end

/-! ### The start and the end of a run (R181, R191-R193) -/

/-- The fields of CAL_CMD as a write of it leaves them. -/
def calCommanded (v : Word) (c : Cal) : Cal :=
  { c with
    what := v.extractLsb' 1 2
    set := v.extractLsb' 3 3
    scope := v.extractLsb' 6 2
    model := v.extractLsb' 8 8
    site := v.extractLsb' 16 13
    macroIx := v.extractLsb' 29 13
    hold := v.getLsbD 42 }

/-- A run as it begins: its results cleared, its temperatures those of the start. -/
def calBegun (v : Word) (frames : Nat) (c : Cal) : Cal :=
  { c with
    busy := true
    run := some v
    since := frames
    pass := 0
    fail := 0
    skip := 0
    failAddr := 0
    failGroup := 0
    failReason := 0
    failValid := false
    marAddr := 0
    marMin := 0
    marValid := false
    conv := []
    vals := []
    bad := []
    convDone := []
    refDone := []
    skips := []
    startTemps := c.temps }

section
variable {v : Word} {s : State}

theorem calStart_sets_fields (h0 : v.getLsbD 0 = false) : exec (.calStart v) s = .next (onCal (calCommanded v) s) :=
  if_pos (congrArg not h0)

variable (h0 : v.getLsbD 0 = true)
include h0

theorem calStart_refused (h : s.cal.busy = true ∨ (calCommanded v s.cal).what = 0 ∨ 4 < (calCommanded v s.cal).set.toNat) :
    exec (.calStart v) s = .next (onCal (fun c => { calCommanded v c with last := 3 }) s) :=
  (if_neg (by simp [h0])).trans (if_pos h)

theorem calStart_begins (hb : s.cal.busy = false) (hw : (calCommanded v s.cal).what ≠ 0) (hs : (calCommanded v s.cal).set.toNat ≤ 4) :
    exec (.calStart v) s = .next (onCal (fun c => calBegun v s.frames (calCommanded v c)) s) :=
  (if_neg (by simp [h0])).trans
    (if_neg (not_or.2 ⟨Bool.eq_false_iff.1 hb, not_or.2 ⟨hw, Nat.not_lt.2 hs⟩⟩))

end

/-- The macros that a run has measured or skipped for all its kinds. -/
def runDone (c : Cal) : List Nat :=
  (c.convDone ++ c.refDone).eraseDups.filter (fun mk => !kindOpen c 0 mk && !kindOpen c 1 mk)

/-- The skips of a run at its end, with the macros that it has left over. -/
def runSkipped (s : State) : BitVec 16 := sat16Add s.cal.skip (runSize s - (runDone s.cal).length)

section
variable {s : State}

theorem calRunComplete_rests (h : s.cal.busy = false) : exec .calRunComplete s = .next s :=
  if_pos (congrArg not h)

theorem calRunComplete_ends (h : s.cal.busy = true) : exec .calRunComplete s = .next (onCal (fun c => { c with
    skip := runSkipped s
    busy := false
    run := none
    conv := []
    vals := []
    last := if c.fail = 0 ∧ runSkipped s = 0 then 1 else 2 }) s) :=
  if_neg (by simp [h])

end

/-! ### Converters (R184) -/

/-- Whether the run still asks for the converters of a macro. -/
def ConvAsked (s : State) (site m : Nat) : Prop :=
  s.cal.busy = true ∧ inRun s site m = true ∧ kindOpen s.cal 0 (macKey site m) = true ∧ gridStopped s = false

theorem not_convAsked_iff {s : State} {site m : Nat} :
    (!s.cal.busy || !inRun s site m || !kindOpen s.cal 0 (macKey site m) || gridStopped s) = true ↔ ¬ ConvAsked s site m := by
  simp only [ConvAsked, Bool.or_eq_true, Bool.not_eq_true', not_and_or, Bool.not_eq_true, Bool.not_eq_false, or_assoc]

section
variable {site : Site} {mac : MacroIx} {group : BitVec 3} {conv : BitVec 8} {codes : List (BitVec 6)} {s : State}

theorem converterMeasure_rests (h : ¬ ConvAsked s site mac.toNat) : exec (.converterMeasure site mac group conv codes) s = .next s :=
  if_pos (not_convAsked_iff.2 h)

variable (ha : ConvAsked s site mac.toNat)
include ha

theorem converterMeasure_skips (hk : runSkips s site mac.toNat = true) :
    exec (.converterMeasure site mac group conv codes) s = .next (onCal (skipKinds [0, 1] (macKey site mac.toNat)) s) :=
  (if_neg (fun h => not_convAsked_iff.1 h ha)).trans (if_pos hk)

/-- The next converter of its group is judged once its spare is free or its macro idle. -/
theorem converterMeasure_judges (hk : runSkips s site mac.toNat = false)
    (hv : conv.toNat = s.cal.conv.count (8 * macKey site mac.toNat + group.toNat))
    (hi : spareUsed (mtGet (fabAt s site) mac.toNat) group.toNat = false ∨ macroIdle (fabAt s site) mac.toNat (cycAt s 0) = true) :
    let m := mac.toNat
    let g := group.toNat
    let v := conv.toNat
    let n := newConv s.cal site m g v codes
    exec (.converterMeasure site mac group conv codes) s =
      .next (onCal (fun c => convEnd (macKey site m) { c with conv := c.conv ++ [8 * macKey site m + g] })
        (judgeConv site m g v (trimKey site m (ixGain g v)) 12 n.2.1 n.2.2
          (judgeConv site m g v (trimKey site m (ixOfs g v)) 8 n.1 n.2.2 s))) := by
  have hw : ¬ (conv.toNat ≠ s.cal.conv.count (8 * macKey site mac.toNat + group.toNat) ∨
      (spareUsed (mtGet (fabAt s site) mac.toNat) group.toNat = true ∧
        (!macroIdle (fabAt s site) mac.toNat (cycAt s 0)) = true)) := by
    rintro (h | ⟨hu, hn⟩)
    · exact h hv
    · exact hi.elim (Bool.eq_false_iff.1 · hu) (Bool.eq_false_iff.1 (Bool.not_eq_true' _ ▸ hn) ·)
  exact (if_neg (fun h => not_convAsked_iff.1 h ha)).trans ((if_neg (Bool.eq_false_iff.1 hk)).trans (if_neg hw))

end

/-! ### References (R185) -/

/-- Whether the run still asks for the references of a macro that is not under a scan. -/
def ScanAsked (s : State) (site m : Nat) : Prop :=
  s.cal.busy = true ∧ inRun s site m = true ∧ kindOpen s.cal 1 (macKey site m) = true ∧
    underScan (fabAt s site) m (cycAt s 0) = false ∧ gridStopped s = false

theorem not_scanAsked_iff {s : State} {site m : Nat} :
    (!s.cal.busy || !inRun s site m || !kindOpen s.cal 1 (macKey site m) || underScan (fabAt s site) m (cycAt s 0) ||
      gridStopped s) = true ↔ ¬ ScanAsked s site m := by
  simp only [ScanAsked, Bool.or_eq_true, Bool.not_eq_true', not_and_or, Bool.not_eq_true, Bool.not_eq_false, or_assoc]

/-- Whether a macro takes a scan now. -/
def scanQuiet (s : State) (site m : Nat) : Bool :=
  macroIdle (fabAt s site) m (cycAt s 0) && limitsOk (fabAt s site) m (cycAt s 0)

theorem scanQuiet_eq_false_iff {s : State} {site m : Nat} : scanQuiet s site m = false ↔
    macroIdle (fabAt s site) m (cycAt s 0) = false ∨ limitsOk (fabAt s site) m (cycAt s 0) = false :=
  Bool.and_eq_false_iff

/-- The module with the model of a macro held, under HOLD. -/
def scanHeld (s : State) (site m : Nat) : State :=
  if runHold s.cal then holdAll (macroPipes s site m) s else s

section
variable {site : Site} {mac : MacroIx} {same : List (BitVec 64)} {s : State}

theorem referenceScan_rests (h : ¬ ScanAsked s site mac.toNat) : exec (.referenceScan site mac same) s = .next s :=
  if_pos (not_scanAsked_iff.2 h)

variable (ha : ScanAsked s site mac.toNat)
include ha

theorem referenceScan_skips (hk : runSkips s site mac.toNat = true) :
    exec (.referenceScan site mac same) s = .next (onCal (skipKinds [0, 1] (macKey site mac.toNat)) s) :=
  (if_neg (fun h => not_scanAsked_iff.1 h ha)).trans (if_pos hk)

variable (hk : runSkips s site mac.toNat = false)
include hk

theorem referenceScan_unassigned (hm : (mtGet (fabAt s site) mac.toNat).fmt = 0) :
    exec (.referenceScan site mac same) s = .next (onCal (skipKinds [1] (macKey site mac.toNat)) s) :=
  (if_neg (fun h => not_scanAsked_iff.1 h ha)).trans ((if_neg (Bool.eq_false_iff.1 hk)).trans (if_pos hm))

variable (hm : (mtGet (fabAt s site) mac.toNat).fmt ≠ 0)
include hm

/-- A scan of an assigned macro begins, is given up or waits; a hold of its model stands in all three. -/
theorem referenceScan_assigned : exec (.referenceScan site mac same) s =
    if scanQuiet s site mac.toNat = true then .next (onFab (scanHeld s site mac.toNat) site (fun f =>
      { f with scans := f.scans ++ [(cycAt s 0 + 55296, mac.toNat, same)] }))
    else if (!runHold s.cal) = true ∧ 65536 < s.frames - s.cal.since then
      .next (onCal (skipKinds [1] (macKey site mac.toNat)) (scanHeld s site mac.toNat))
    else .next (scanHeld s site mac.toNat) :=
  (if_neg (fun h => not_scanAsked_iff.1 h ha)).trans ((if_neg (Bool.eq_false_iff.1 hk)).trans (if_neg hm))

theorem referenceScan_begins (hi : macroIdle (fabAt s site) mac.toNat (cycAt s 0) = true)
    (hl : limitsOk (fabAt s site) mac.toNat (cycAt s 0) = true) : exec (.referenceScan site mac same) s =
    .next (onFab (scanHeld s site mac.toNat) site (fun f =>
      { f with scans := f.scans ++ [(cycAt s 0 + 55296, mac.toNat, same)] })) :=
  (referenceScan_assigned ha hk hm).trans (if_pos (Bool.and_eq_true_iff.2 ⟨hi, hl⟩))

variable (hq : macroIdle (fabAt s site) mac.toNat (cycAt s 0) = false ∨ limitsOk (fabAt s site) mac.toNat (cycAt s 0) = false)
include hq

theorem referenceScan_given_up (hh : runHold s.cal = false) (ht : 65536 < s.frames - s.cal.since) :
    exec (.referenceScan site mac same) s = .next (onCal (skipKinds [1] (macKey site mac.toNat)) (scanHeld s site mac.toNat)) := by
  simp only [referenceScan_assigned ha hk hm, scanQuiet_eq_false_iff.2 hq, hh, ht, Bool.false_eq_true, Bool.not_false,
    and_self, if_false, if_true]

theorem referenceScan_waits (h : runHold s.cal = true ∨ s.frames - s.cal.since ≤ 65536) :
    exec (.referenceScan site mac same) s = .next (scanHeld s site mac.toNat) := by
  have hn : ¬ ((!runHold s.cal) = true ∧ 65536 < s.frames - s.cal.since) := fun ⟨hh, ht⟩ =>
    h.elim (Bool.eq_false_iff.1 (Bool.not_eq_true' _ ▸ hh)) ht.not_ge
  simp only [referenceScan_assigned ha hk hm, scanQuiet_eq_false_iff.2 hq, hn, Bool.false_eq_true, if_false]

end

/-- Settles O29: the frame counter, the word written, the run in progress, and what its scope and the macro allow select the branch
that each command takes. -/
theorem calibrationMeasuresAndSteps : Obligations.CalibrationMeasuresAndSteps := by
  unfold Obligations.CalibrationMeasuresAndSteps
  refine ⟨⟨?period, ?target, ?step, ?start, ?complete⟩, ?converter, ?scan⟩
  case period => exact fun temps s => ⟨trimPeriod_rests, trimPeriod_steps⟩
  case target =>
    exact fun t x => ⟨fun i hx => hx ▸ trimTarget_set t i i.isLt, trimTarget_lowest t, trimTarget_highest t⟩
  case step => exact fun t => ⟨stepTrim_at_target, stepTrim_below_target, stepTrim_above_target⟩
  case start => exact fun v s => ⟨calStart_sets_fields, calStart_refused, calStart_begins⟩
  case complete => exact fun s => ⟨calRunComplete_rests, calRunComplete_ends⟩
  case converter =>
    exact fun site mac group conv codes s => ⟨converterMeasure_rests, converterMeasure_skips, converterMeasure_judges⟩
  case scan =>
    exact fun site mac same s => ⟨referenceScan_rests, referenceScan_skips, referenceScan_unassigned, fun ha hk hm =>
      ⟨referenceScan_begins ha hk hm, referenceScan_given_up ha hk hm, referenceScan_waits ha hk hm⟩⟩

end Sys2Proof.Machine
end

section
/-! The checks of a credited line, and their obligation (R38, R218). -/

namespace Sys2Proof.Machine

/-- An ejected CRED flit goes to the checks of a credited line (R203). -/
theorem ejectWrite_cred {f : Flit} (hk : f.kind = kCred) (site x : Nat) (t : Tile) (outs : List TOut) :
    ejectWrite site x (t, outs) f = ((credLine site x t f).1, outs ++ (credLine site x t f).2) := by
  unfold ejectWrite
  rw [hk]
  rfl

/-- The release distance d of a line from the release that its window expects, modulo 256 (R218). -/
def relDist (w : Win) (f : Flit) : Nat := (f.rel - w.nextRel).toNat

/-- The credit that a line out of its release range gives back to the window's SOURCE (R218). -/
def lineCredit (w : Win) (n : Nat) : TOut := .credit w.source (BitVec.ofNat 5 n) 1

/-- A landing window once it has accepted a line: a credit less, an arrival more for the line's release (R38, R218). -/
def landed (w : Win) (f : Flit) : Win :=
  arrPut { w with credits := w.credits - 1 } (f.rel.setWidth 2) (arrGet w (f.rel.setWidth 2) + 1)

section
variable {site x : Nat} {t : Tile} {f : Flit}

theorem credLine_outside (hw : winOf t.pad f.line = none) : credLine site x t f = landDropped site t 31 := by
  simp only [credLine, hw]

variable {n : Nat} (hw : winOf t.pad f.line = some n)
include hw

theorem credLine_unlanded (h : (winGet t.pad n).typ ≠ 1 ∨ (winGet t.pad n).source ≠ f.src) :
    credLine site x t f = landDropped site t n := by
  simp only [credLine, hw, if_pos h]

variable (ht : (winGet t.pad n).typ = 1) (hs : (winGet t.pad n).source = f.src)
include ht hs

/-- Past the first check of R38, the release distance and the credits left decide. -/
theorem credLine_landing : credLine site x t f =
    if 128 ≤ relDist (winGet t.pad n) f then
      (hazAdd { t with mesh := { t.mesh with late := satInc t.mesh.late } } 7 x 0, [lineCredit (winGet t.pad n) n])
    else if 4 ≤ relDist (winGet t.pad n) f then
      ((landDropped site t n).1, (landDropped site t n).2 ++ [lineCredit (winGet t.pad n) n])
    else if (winGet t.pad n).credits = 0 then landDropped site t n
    else ({ t with pad := sendWrite (winPut t.pad n (landed (winGet t.pad n) f)) ⟨x, .mesh, f.line, f.wen, f.words⟩ }, []) := by
  have hl : ¬ ((winGet t.pad n).typ ≠ 1 ∨ (winGet t.pad n).source ≠ f.src) := fun h => h.elim (· ht) (· hs)
  simp only [credLine, hw, if_neg hl]
  rfl

theorem credLine_late (hd : 128 ≤ relDist (winGet t.pad n) f) : credLine site x t f =
    (hazAdd { t with mesh := { t.mesh with late := satInc t.mesh.late } } 7 x 0, [lineCredit (winGet t.pad n) n]) :=
  (credLine_landing hw ht hs).trans (if_pos hd)

theorem credLine_early (h4 : 4 ≤ relDist (winGet t.pad n) f) (hd : relDist (winGet t.pad n) f < 128) : credLine site x t f =
    ((landDropped site t n).1, (landDropped site t n).2 ++ [lineCredit (winGet t.pad n) n]) :=
  (credLine_landing hw ht hs).trans ((if_neg hd.not_ge).trans (if_pos h4))

/-- A line in the release range finds a credit or is dropped. -/
theorem credLine_by_credit (hd : relDist (winGet t.pad n) f < 4) : credLine site x t f =
    if (winGet t.pad n).credits = 0 then landDropped site t n
    else ({ t with pad := sendWrite (winPut t.pad n (landed (winGet t.pad n) f)) ⟨x, .mesh, f.line, f.wen, f.words⟩ }, []) :=
  (credLine_landing hw ht hs).trans ((if_neg (by omega)).trans (if_neg hd.not_ge))

end

/-- Settles O17: the window of the line, its kind and source, the release distance and the credits left select one branch of the checks. -/
theorem creditedLinesAreChecked : Obligations.CreditedLinesAreChecked := by
  unfold Obligations.CreditedLinesAreChecked
  intro site x t f outs hk r drop dropped
  have hr {t' : Tile} {outs' : List TOut} (h : credLine site x t f = (t', outs')) : r = (t', outs ++ outs') := by
    rw [show r = _ from ejectWrite_cred hk site x t outs, h]
  refine ⟨fun hw => hr (credLine_outside hw), fun n hw =>
    ⟨fun hn => hr (credLine_unlanded hw hn), fun ht hs => ⟨?late, ?early, ?spent, ?lands⟩⟩⟩
  case late => exact fun hd => hr (credLine_late hw ht hs hd)
  case early => exact fun h4 hd => hr (credLine_early hw ht hs h4 hd)
  case spent => exact fun hd hc => hr ((credLine_by_credit hw ht hs hd).trans (if_pos hc))
  case lands =>
    exact fun hd hc => (hr ((credLine_by_credit hw ht hs hd).trans (if_neg hc))).trans (by rw [List.append_nil]; rfl)

end Sys2Proof.Machine
end

section
/-! Flits at a router and the ejection of a bank cycle, and their obligation (R198, R201, R203, R205, R207, R211, R213, R594). -/

namespace Sys2Proof.Machine

/-! ### Flits at the router (R198, R201, R205, R207) -/

/-- A router that has read a flit's sideband: a failing CRC is counted (R198). -/
def sidebandMesh (ok : Bool) (m : Mesh) : Mesh := if ok then m else { m with linkErr := satInc m.linkErr }

/-- A flit whose sideband has been read: a failing CRC marks its words (R198). -/
def sidebandFlit (f : Flit) : Flit := if f.crcOk then f else { f with words := markAll f.words, crcOk := true }

/-- Once read, a flit counts as whole, with its words marked where its CRC failed. -/
theorem sidebandFlit_of_words (f : Flit) (ok : Bool) (ws : List RWord) :
    sidebandFlit { f with crcOk := ok, words := ws } = { f with crcOk := true, words := if ok then ws else markAll ws } := by
  cases ok <;> rfl

section
variable {site x inp : Nat} {f : Flit} {t0 t : Tile} {sent : List TOut} (hs : tileSync site x t0 = (t, sent)) (hon : portOn t inp = true)
include hs hon

theorem flitArrive_fenced (hf : portFenced t inp = true) :
    flitArrive site x inp f t0 = ({ t with mesh := { t.mesh with fenceErr := satInc t.mesh.fenceErr } }, sent) := by
  simp only [flitArrive, hs, hon, hf, Bool.not_true, Bool.false_eq_true, if_false, if_true]

variable (hf : portFenced t inp = false)
include hf

theorem flitArrive_dropped (ho : slotOuts (sidebandMesh f.crcOk t.mesh) x inp = []) : flitArrive site x inp f t0 =
    (hazAdd { t with mesh := { sidebandMesh f.crcOk t.mesh with drop := satInc (sidebandMesh f.crcOk t.mesh).drop } } 2 x 0, sent) := by
  unfold sidebandMesh at ho
  simp only [flitArrive, hs, hon, hf, ho, Bool.not_true, Bool.false_eq_true, if_false]
  rfl

theorem flitArrive_driven (ho : slotOuts (sidebandMesh f.crcOk t.mesh) x inp ≠ []) : flitArrive site x inp f t0 =
    let outs := slotOuts (sidebandMesh f.crcOk t.mesh) x inp
    let t1 := { t with mesh := sidebandMesh f.crcOk t.mesh }
    (if outs.contains 4 then ejectFlit x t1 (sidebandFlit f) else t1,
      sent ++ (outs.filter (fun o => o != 4)).map (fun o => .send o x (sidebandFlit f))) := by
  obtain ⟨o, os, ho⟩ := List.exists_cons_of_ne_nil ho
  rw [ho]
  unfold sidebandMesh at ho
  simp only [flitArrive, hs, hon, hf, ho, Bool.not_true, Bool.false_eq_true, if_false]
  rfl

end

/-! ### Arrivals and ejections as steps of their tile (R34, R203) -/

/-- Whether a flit on the wire reaches a tile's port in its cycle (R205). -/
def arrives (s : State) (a : TileAt) (port : Fin 6) (f : Flying) : Bool :=
  f.site == a.site.val && f.port == port.val && f.cyc == cycAt s a.k

/-- The module once the flit that reaches a port has left the wire. -/
def offWire (s : State) (a : TileAt) (port : Fin 6) : State := onGrid (fun g => { g with flits := g.flits.eraseP (arrives s a port) }) s

/-- A step of a router that runs stores the tile and sends what it sends. -/
theorem routerDo_to {s : State} {site : Nat} (hl : routerLive s site = true) {f : Tile → Tile × List TOut} {t : Tile}
    {outs : List TOut} (hf : f (tileAt s site) = (t, outs)) : routerDo s site f = tileTo s site t outs := by
  simp only [routerDo, hl, if_true, tileRun, hf, tileTo]

/-- A flit that reaches a router that runs leaves the wire and is a step of its tile (R205). -/
theorem flitArrival_to {a : TileAt} {port : Fin 6} {crcOk : Bool} {s : State} {f : Flying} {t : Tile} {outs : List TOut}
    (hfind : s.grid.flits.find? (arrives s a port) = some f) (hl : routerLive s a.site = true)
    (hb : flitArrive a.site (cycAt s a.k) port { f.flit with
      crcOk := f.flit.crcOk && crcOk
      words := markIf (port.val != 4 && slipped s a.site port) f.flit.words } (tileAt s a.site) = (t, outs)) :
    exec (.flitArrival a port crcOk) s = .next (tileTo (offWire s a port) a.site t outs) := by
  show execFlitArrival a port crcOk s = _
  unfold arrives at hfind
  simp only [execFlitArrival, hfind]
  exact congrArg Host.Outcome.next (routerDo_to (s := offWire s a port) hl hb)

theorem exec_ejectionWrite (a : TileAt) (s : State) :
    exec (.ejectionWrite a) s = .next (tileDo s a.site (ejection a.site (cycAt s a.k))) := rfl

/-- Settles O16: the port and the slot table select what becomes of an arriving flit, and an odd cycle writes what was ejected. -/
theorem flitsReachTheirOutputs : Obligations.FlitsReachTheirOutputs := by
  unfold Obligations.FlitsReachTheirOutputs
  refine ⟨?arrival, ?ejection⟩
  case arrival =>
    intro a port crcOk s f x here hfind hl s1 r t ok ws g m1 go hon
    let f1 : Flit := { f.flit with crcOk := ok, words := ws }
    have hs : tileSync a.site x (tileAt s a.site) = (t, r.2) := rfl
    have hg : sidebandFlit f1 = g := sidebandFlit_of_words f.flit ok ws
    refine ⟨fun hf => ?fenced, fun hf ho => ?dropped, fun hf ho => ?driven⟩
    case fenced => exact flitArrival_to hfind hl ((flitArrive_fenced hs hon hf).trans (by rw [List.append_nil]))
    case dropped =>
      exact flitArrival_to hfind hl ((flitArrive_dropped (f := f1) hs hon hf ho).trans (by rw [List.append_nil]; rfl))
    case driven => exact flitArrival_to hfind hl ((flitArrive_driven (f := f1) hs hon hf ho).trans (by rw [hg]; rfl))
  case ejection =>
    intro a s hl x t hx due t1 w
    exact (exec_ejectionWrite a s).trans (event_to hl (if_pos hx))

end Sys2Proof.Machine
end

section
/-! Lath messages, acknowledgements and heartbeats, and their obligation (R221-R224, R227, R228, R549, R550, R552). -/

namespace Sys2Proof.Machine

/-! ### Messages at a node (R221, R222, R224, R228) -/

/-- A node that counts a dropped message (R222, R224). -/
def crcCounted (node : Nat) (s : State) : State := lathUpd node (fun n => { n with crc := satInc n.crc }) s

/-- A message that is acknowledged: the copy at its sender goes (R222). -/
def acked (sender receiver : Nat) (bytes : List Byte) (s : State) : State :=
  onLath (fun l => { l with sent := l.sent.eraseP (fun m => m.sender == sender && m.receiver == receiver && m.bytes == bytes) }) s

section
variable {sender receiver : Node} {bytes : List Byte} {s : State}

theorem lathMessageReceive_failing (h : msgOk bytes = false) :
    exec (.lathMessageReceive sender receiver bytes) s = .next (crcCounted receiver s) :=
  if_pos ((Bool.not_eq_true' _).mpr h)

variable (h : msgOk bytes = true)
include h

theorem lathMessageReceive_reserved (ht : msgType bytes ∉ lathTypes) :
    exec (.lathMessageReceive sender receiver bytes) s = .next (crcCounted receiver (acked sender receiver bytes s)) := by
  have hc : lathTypes.contains (msgType bytes) = false := Bool.eq_false_iff.2 (mt List.contains_iff_mem.1 ht)
  show execLathMessageReceive sender receiver bytes s = _
  simp only [execLathMessageReceive, h, hc, Bool.not_true, Bool.not_false, Bool.false_eq_true, if_false, if_true]
  rfl

variable (ht : msgType bytes ∈ lathTypes)
include ht

/-- A message of a type of R224 is sent on where its epoch is heard, and dropped elsewhere. -/
theorem lathMessageReceive_by_epoch : exec (.lathMessageReceive sender receiver bytes) s =
    if (!heardBy (acked sender receiver bytes s) receiver bytes) = true then
      .next (dropStale receiver (msgSrc bytes) (acked sender receiver bytes s))
    else .next (forward receiver sender bytes (acked sender receiver bytes s)) := by
  have hc : lathTypes.contains (msgType bytes) = true := List.contains_iff_mem.2 ht
  show execLathMessageReceive sender receiver bytes s = _
  simp only [execLathMessageReceive, h, hc, Bool.not_true, Bool.false_eq_true, if_false]
  rfl

end

/-! ### Lost acknowledgements (R222, R409) -/

/-- A dropped message loses the shadow write that it carried for its group (R409). -/
def writeLost (bytes : List Byte) (s : State) : State :=
  match msgGroup bytes with
  | some c => onCg (groupUpd c (fun g => { g with lost := true })) s
  | none => s

section
variable {sender receiver : Node} {s : State} {m : LSent}
  (hm : s.lath.sent.find? (fun m => m.sender == sender.val && m.receiver == receiver.val) = some m)
include hm

theorem lathAckTimeout_repeats (hf : m.fails < 3) : exec (.lathAckTimeout sender receiver) s = .next (onLath (fun l =>
    { l with sent := l.sent.map (fun n => if n = m then { n with fails := n.fails + 1 } else n) }) s) := by
  show execLathAckTimeout sender receiver s = _
  simp only [execLathAckTimeout, hm, if_pos hf]

theorem lathAckTimeout_gives_up (hf : 3 ≤ m.fails) : exec (.lathAckTimeout sender receiver) s = .next (sendRpt
    (writeLost m.bytes (onLath (fun l => { l with
      sent := l.sent.eraseP (fun m => m.sender == sender.val && m.receiver == receiver.val) }) s))
    sender 0x0C (BitVec.ofNat 64 sender) [BitVec.ofNat 64 receiver]) := by
  show execLathAckTimeout sender receiver s = _
  simp only [execLathAckTimeout, hm, if_neg hf.not_gt]
  rfl

end

/-! ### Heartbeats (R227, R552) -/

theorem b1_eq_toNat (b : Bool) : b1 b = b.toNat := by cases b <;> rfl

/-- The state byte of a node's heartbeat: the core's state and whether a tile's image is loaded, 0 of a rim die (R552). -/
def heartState (s : State) (node : Nat) : Nat :=
  if node < 8064 then ccCode (tileAt s node).cc.st + 4 * (tileAt s node).imageLoaded.toNat else 0

section
variable {node : Node} {s : State}

theorem heartbeatSend_svc (h : node.val = 8096) : exec (.heartbeatSend node) s = .next (lathSend 8096
    (lathMsg 0 2 8096 2 0x11 (lathNode s 8096).epoch (frameBytes s ++ [if s.svc.warming then 1 else 0]))
    (onLath (fun l => { l with blocks := (List.range 56).foldl (fun m b =>
      sset Heard.fresh m b (endInterval (sget Heard.fresh m b))) l.blocks }) s)) := by
  refine (if_pos h).trans ?_
  rw [h]
  rfl

variable {b : Nat} (hb : nodeBlock node = some b) (hn : node.val ≠ 8096)
include hb hn

theorem heartbeatSend_hub (hh : node.val = hubOf s b) : exec (.heartbeatSend node) s = .next (lathSend node
    (lathMsg 8096 0 node 2 0x11 (lathNode s node).epoch (leBytes 18 (summaryBits s b) ++ frameBytes s)) (hubInterval b s)) := by
  refine (if_neg hn).trans ?_
  simp only [hb, if_pos hh]
  rfl

theorem heartbeatSend_member (hh : node.val ≠ hubOf s b) : exec (.heartbeatSend node) s = .next (lathSend node
    (lathMsg (hubOf s b) 0 node 2 0x11 (lathNode s node).epoch ([BitVec.ofNat 8 (heartState s node), 0] ++ frameBytes s)) s) := by
  refine (if_neg hn).trans ?_
  simp only [hb, if_neg hh, b1_eq_toNat]
  rfl

end

section
variable {sender : Node} {epoch : BitVec 16} {s : State}

/-- The service die's heartbeat is heard by every deputy. -/
theorem heartbeat_svc (h : sender.val = 8096) (sum : Option (BitVec 144)) : exec (.heartbeat sender sum epoch) s =
    let s1 := lathDone sender 0x11 s
    .next { s1 with md := stab MemDie.reset 16 (fun n => { mdAt s1 n with svcHeard := s1.frames }) } :=
  if_pos h

variable {b : Nat} (hb : nodeBlock sender = some b) (hn : sender.val ≠ 8096)
include hb hn

theorem heartbeat_summary (bits : BitVec 144) : exec (.heartbeat sender (some bits) epoch) s =
    .next (onLath (fun l => { l with blocks := sset Heard.fresh l.blocks b ⟨true, 0⟩ }) (lathDone sender 0x11 s)) := by
  refine (if_neg hn).trans ?_
  simp only [hb]

theorem heartbeat_stale (he : epoch ≠ epochCopy (lathDone sender 0x11 s) sender) : exec (.heartbeat sender none epoch) s =
    .next (dropStale (hubOf (lathDone sender 0x11 s) b) sender (lathDone sender 0x11 s)) := by
  refine (if_neg hn).trans ?_
  simp only [hb, if_pos he]

theorem heartbeat_heard (he : epoch = epochCopy (lathDone sender 0x11 s) sender) : exec (.heartbeat sender none epoch) s =
    .next (resetHeard sender (onLath (fun l => { l with
      heard := sset Heard.fresh l.heard sender { sget Heard.fresh l.heard sender with now := true } }) (lathDone sender 0x11 s))) := by
  refine (if_neg hn).trans ?_
  simp only [hb, if_neg (not_not.2 he)]
  rfl

end

/-- Settles O19: the form, type and epoch of a message, the losses of an acknowledgement, and the node that sends a heartbeat with its epoch
select the branch that each command takes. -/
theorem lathMessagesAndHeartbeatsAreHeard : Obligations.LathMessagesAndHeartbeatsAreHeard := by
  unfold Obligations.LathMessagesAndHeartbeatsAreHeard
  refine ⟨⟨?message, ?ack⟩, ?send, ?sendSvc, ?heard, ?heardSvc, fun node epoch s0 => rfl⟩
  case message =>
    exact fun sender receiver bytes s => ⟨lathMessageReceive_failing, fun h => ⟨lathMessageReceive_reserved h, fun ht =>
      ⟨fun he => (lathMessageReceive_by_epoch h ht).trans (if_neg (ne_true_of_eq_false ((Bool.not_eq_false' _).mpr he))),
        fun he => (lathMessageReceive_by_epoch h ht).trans (if_pos ((Bool.not_eq_true' _).mpr he))⟩⟩⟩
  case ack => exact fun sender receiver s m hm => ⟨lathAckTimeout_repeats hm, lathAckTimeout_gives_up hm⟩
  case send => exact fun node s b hb hn => ⟨heartbeatSend_member hb hn, heartbeatSend_hub hb hn⟩
  case sendSvc => exact fun s node => heartbeatSend_svc
  case heard => exact fun sender epoch s0 b hb hn => ⟨heartbeat_summary hb hn, heartbeat_heard hb hn, heartbeat_stale hb hn⟩
  case heardSvc => exact fun sender sum epoch s0 h => heartbeat_svc h sum

end Sys2Proof.Machine
end

section
/-! Fences, and their obligation (R201, R228, R404, R405, R549). -/

namespace Sys2Proof.Machine

/-- Opening a group changes no tile and no fence before its boundary (R404, R405). -/
theorem cgTry_grid (items : List (Nat × CgItem)) (s : State) : (cgTry items s).grid = s.grid := by
  by_cases hfull : 64 ≤ s.cg.groups.length ∨ s.flt.deputy
  · simp only [cgTry, cgStart, cgOpen, if_pos hfull, Option.map_none]
  · simp only [cgTry, cgStart, cgOpen, if_neg hfull, Option.map_some, onCg_grid]

/-- Whether an open group fences a node (R405). -/
def fenceWaits (s : State) (node : Nat) : Bool :=
  s.cg.parts.any (fun p => p.items.any (isFenceOf node))

section
variable {node : Node} (only : Bool) (epoch : BitVec 16) {s : State}

theorem fence_opens (hn : node.val < 8064) (hf : isFenced (lathDone 8096 0x02 s) node = false)
    (ho : fenceWaits (lathDone 8096 0x02 s) node = false) : exec (.fence node only epoch) s =
    .next (cgTry (fenceItems (lathDone 8096 0x02 s) node (!only)) (copySet node epoch (lathDone 8096 0x02 s))) :=
  congrArg Host.Outcome.next (if_pos ⟨hn, (Bool.not_eq_true' _).mpr hf, (Bool.not_eq_true' _).mpr ho⟩)

theorem fence_sets_copy (h : 8064 ≤ node.val ∨ isFenced (lathDone 8096 0x02 s) node = true ∨
    fenceWaits (lathDone 8096 0x02 s) node = true) :
    exec (.fence node only epoch) s = .next (copySet node epoch (lathDone 8096 0x02 s)) :=
  congrArg Host.Outcome.next (if_neg (fun ⟨hn, hf, ho⟩ => h.elim hn.not_ge (fun h => h.elim
    (ne_true_of_eq_false ((Bool.not_eq_true' _).mp hf)) (ne_true_of_eq_false ((Bool.not_eq_true' _).mp ho)))))

end

/-- Settles O20: a site that is free of fences opens a group, which leaves the grid as it was; of any other node the copy alone changes. -/
theorem fencesTakeEffectByGroup : Obligations.FencesTakeEffectByGroup := by
  unfold Obligations.FencesTakeEffectByGroup
  intro node only epoch s0 s s1 open_
  refine ⟨fun hn hf ho => ⟨fence_opens only epoch hn hf ho, ?_⟩, fence_sets_copy only epoch⟩
  calc isFenced (cgTry (fenceItems s node (!only)) s1) node
      = isFenced s1 node := congrArg (fun g => g.fenced.getLsbD node) (cgTry_grid _ s1)
    _ = false := hf

end Sys2Proof.Machine
end

section
/-! Every command answers a next state, and its obligation (R205, R278, R290, R322, R487, R541). -/

namespace Sys2Proof.Machine

/-- Each command is its meaning, which keeps what no operation on the module breaks. -/
theorem exec_keeps {s0 s : State} (c : Instr) (h : Kept s0 s) : Keeps s0 (exec c s) := by
  unfold exec
  cases c with
  | add => exact execAdd_keeps (h := h) .. | sub => exact execSub_keeps (h := h) .. | and => exact execAnd_keeps (h := h) ..
  | or => exact execOr_keeps (h := h) .. | xor => exact execXor_keeps (h := h) .. | shl => exact execShl_keeps (h := h) ..
  | shr => exact execShr_keeps (h := h) .. | sar => exact execSar_keeps (h := h) .. | mul => exact execMul_keeps (h := h) ..
  | mulhu => exact execMulhu_keeps (h := h) .. | mulhs => exact execMulhs_keeps (h := h) .. | divu => exact execDivu_keeps (h := h) ..
  | remu => exact execRemu_keeps (h := h) .. | divideComplete => exact execDivideComplete_keeps (h := h) ..
  | min => exact execMin_keeps (h := h) .. | max => exact execMax_keeps (h := h) .. | minu => exact execMinu_keeps (h := h) ..
  | maxu => exact execMaxu_keeps (h := h) .. | clz => exact execClz_keeps (h := h) .. | popc => exact execPopc_keeps (h := h) ..
  | addi => exact execAddi_keeps (h := h) .. | andi => exact execAndi_keeps (h := h) .. | ori => exact execOri_keeps (h := h) ..
  | xori => exact execXori_keeps (h := h) .. | shli => exact execShli_keeps (h := h) .. | shri => exact execShri_keeps (h := h) ..
  | sari => exact execSari_keeps (h := h) .. | lui => exact execLui_keeps (h := h) .. | cmp => exact execCmp_keeps (h := h) ..
  | cmpi => exact execCmpi_keeps (h := h) .. | plog => exact execPlog_keeps (h := h) .. | ld => exact execLd_keeps (h := h) ..
  | ccLoadBankRead => exact execCcLoadBankRead_keeps (h := h) .. | st => exact execSt_keeps (h := h) ..
  | storeQueueDrain => exact execStoreQueueDrain_keeps (h := h) .. | br => exact execBr_keeps (h := h) ..
  | brl => exact execBrl_keeps (h := h) .. | jr => exact execJr_keeps (h := h) .. | desc => exact execDesc_keeps (h := h) ..
  | cret => exact execCret_keeps (h := h) .. | lsend => exact execLsend_keeps (h := h) .. | rdsr => exact execRdsr_keeps (h := h) ..
  | wrsr => exact execWrsr_keeps (h := h) .. | rdlane => exact execRdlane_keeps (h := h) .. | waitc => exact execWaitc_keeps (h := h) ..
  | waitcResume => exact execWaitcResume_keeps (h := h) .. | halt => exact execHalt_keeps (h := h) ..
  | frameBoundary => exact execFrameBoundary_keeps (h := h) .. | beatBoundary => exact execBeatBoundary_keeps (h := h) ..
  | seqNop => exact execSeqNop_keeps (h := h) .. | inj => exact execInj_keeps (h := h) .. | rq => exact execRq_keeps (h := h) ..
  | srv => exact execSrv_keeps (h := h) .. | rel => exact execRel_keeps (h := h) .. | mop => exact execMop_keeps (h := h) ..
  | macroOpComplete => exact execMacroOpComplete_keeps (h := h) .. | clipReport => exact execClipReport_keeps (h := h) ..
  | ldw => exact execLdw_keeps (h := h) .. | ldwComplete => exact execLdwComplete_keeps (h := h) .. | lds => exact execLds_keeps (h := h) ..
  | daMul => exact execDaMul_keeps (h := h) .. | daMulComplete => exact execDaMulComplete_keeps (h := h) ..
  | sets => exact execSets_keeps (h := h) .. | daSt => exact execDaSt_keeps (h := h) .. | fadd => exact execFadd_keeps (h := h) ..
  | fsub => exact execFsub_keeps (h := h) .. | fmul => exact execFmul_keeps (h := h) .. | fma => exact execFma_keeps (h := h) ..
  | fmin => exact execFmin_keeps (h := h) .. | fmax => exact execFmax_keeps (h := h) .. | fabs => exact execFabs_keeps (h := h) ..
  | fneg => exact execFneg_keeps (h := h) .. | frcp => exact execFrcp_keeps (h := h) .. | frsq => exact execFrsq_keeps (h := h) ..
  | fexp => exact execFexp_keeps (h := h) .. | fexp2 => exact execFexp2_keeps (h := h) .. | fsig => exact execFsig_keeps (h := h) ..
  | ftanh => exact execFtanh_keeps (h := h) .. | fsilu => exact execFsilu_keeps (h := h) .. | fgelu => exact execFgelu_keeps (h := h) ..
  | frsum => exact execFrsum_keeps (h := h) .. | frmax => exact execFrmax_keeps (h := h) .. | fcmp => exact execFcmp_keeps (h := h) ..
  | fsel => exact execFsel_keeps (h := h) .. | fbc => exact execFbc_keeps (h := h) .. | fcvt => exact execFcvt_keeps (h := h) ..
  | vtopm => exact execVtopm_keeps (h := h) .. | viota => exact execViota_keeps (h := h) .. | iadd => exact execIadd_keeps (h := h) ..
  | isub => exact execIsub_keeps (h := h) .. | iand => exact execIand_keeps (h := h) .. | ior => exact execIor_keeps (h := h) ..
  | ixor => exact execIxor_keeps (h := h) .. | ishl => exact execIshl_keeps (h := h) .. | ishr => exact execIshr_keeps (h := h) ..
  | imin => exact execImin_keeps (h := h) .. | imax => exact execImax_keeps (h := h) .. | vrng => exact execVrng_keeps (h := h) ..
  | vmov => exact execVmov_keeps (h := h) .. | vld => exact execVld_keeps (h := h) .. | vst => exact execVst_keeps (h := h) ..
  | vldq => exact execVldq_keeps (h := h) .. | vstq => exact execVstq_keeps (h := h) .. | vsts => exact execVsts_keeps (h := h) ..
  | dtake => exact execDtake_keeps (h := h) .. | bld => exact execBld_keeps (h := h) .. | msk => exact execMsk_keeps (h := h) ..
  | rep => exact execRep_keeps (h := h) .. | flitArrival => exact execFlitArrival_keeps (h := h) ..
  | ejectionWrite => exact execEjectionWrite_keeps (h := h) .. | rimInjection => exact execRimInjection_keeps (h := h) ..
  | lathMessageReceive => exact execLathMessageReceive_keeps (h := h) .. | lathAckTimeout => exact execLathAckTimeout_keeps (h := h) ..
  | heartbeatSend => exact execHeartbeatSend_keeps (h := h) .. | heartbeat => exact execHeartbeat_keeps (h := h) ..
  | hbMiss => exact execHbMiss_keeps (h := h) .. | tileResetTimeout => exact execTileResetTimeout_keeps (h := h) ..
  | hubPromotion => exact execHubPromotion_keeps (h := h) .. | credit => exact execCredit_keeps (h := h) ..
  | cfgWr => exact execCfgWr_keeps (h := h) .. | cfgRd => exact execCfgRd_keeps (h := h) .. | cfgRsp => exact execCfgRsp_keeps (h := h) ..
  | errReport => exact execErrReport_keeps (h := h) .. | errorLogEntry => exact execErrorLogEntry_keeps (h := h) ..
  | cgPrepare => exact execCgPrepare_keeps (h := h) .. | cgVote => exact execCgVote_keeps (h := h) ..
  | hubVoteDeadline => exact execHubVoteDeadline_keeps (h := h) .. | cgDecide => exact execCgDecide_keeps (h := h) ..
  | cgApply => exact execCgApply_keeps (h := h) .. | cgDiscard => exact execCgDiscard_keeps (h := h) ..
  | indoubtReinstatement => exact execIndoubtReinstatement_keeps (h := h) .. | fence => exact execFence_keeps (h := h) ..
  | rejoin => exact execRejoin_keeps (h := h) .. | tileReset => exact execTileReset_keeps (h := h) ..
  | freeze => exact execFreeze_keeps (h := h) .. | trimPeriod => exact execTrimPeriod_keeps (h := h) ..
  | calStart => exact execCalStart_keeps (h := h) .. | converterMeasure => exact execConverterMeasure_keeps (h := h) ..
  | referenceScan => exact execReferenceScan_keeps (h := h) .. | calRunComplete => exact execCalRunComplete_keeps (h := h) ..
  | pageProgram => exact execPageProgram_keeps (h := h) .. | pageProgramComplete => exact execPageProgramComplete_keeps (h := h) ..
  | macroErase => exact execMacroErase_keeps (h := h) .. | eraseComplete => exact execEraseComplete_keeps (h := h) ..
  | pageRead => exact execPageRead_keeps (h := h) .. | pageStateRead => exact execPageStateRead_keeps (h := h) ..
  | eraseStatusRead => exact execEraseStatusRead_keeps (h := h) .. | verifyFailRepair => exact execVerifyFailRepair_keeps (h := h) ..
  | spareColumnReplacement => exact execSpareColumnReplacement_keeps (h := h) ..
  | retentionTick => exact execRetentionTick_keeps (h := h) .. | refresh => exact execRefresh_keeps (h := h) ..
  | stagedSwap => exact execStagedSwap_keeps (h := h) .. | inPlaceSwap => exact execInPlaceSwap_keeps (h := h) ..
  | modelEviction => exact execModelEviction_keeps (h := h) .. | libraryEviction => exact execLibraryEviction_keeps (h := h) ..
  | residentStoreRestore => exact execResidentStoreRestore_keeps (h := h) .. | shardCheck => exact execShardCheck_keeps (h := h) ..
  | imgBegin => exact execImgBegin_keeps (h := h) .. | imgData => exact execImgData_keeps (h := h) ..
  | imageVerify => exact execImageVerify_keeps (h := h) .. | drainComplete => exact execDrainComplete_keeps (h := h) ..
  | drainTimeout => exact execDrainTimeout_keeps (h := h) .. | rehome => exact execRehome_keeps (h := h) ..
  | courseMove => exact execCourseMove_keeps (h := h) .. | pageHome => exact execPageHome_keeps (h := h) ..
  | submit => exact execSubmit_keeps (h := h) .. | requestIntake => exact execRequestIntake_keeps (h := h) ..
  | admitTask => exact execAdmitTask_keeps (h := h) .. | adapterLoad => exact execAdapterLoad_keeps (h := h) ..
  | prefill => exact execPrefill_keeps (h := h) .. | decode => exact execDecode_keeps (h := h) ..
  | sample => exact execSample_keeps (h := h) .. | emit => exact execEmit_keeps (h := h) .. | migrate => exact execMigrate_keeps (h := h) ..
  | replay => exact execReplay_keeps (h := h) .. | cancel => exact execCancel_keeps (h := h) ..
  | readyNotice => exact execReadyNotice_keeps (h := h) .. | dispatchDecision => exact execDispatchDecision_keeps (h := h) ..
  | samplingDelivery => exact execSamplingDelivery_keeps (h := h) .. | stepResult => exact execStepResult_keeps (h := h) ..
  | closingCommit => exact execClosingCommit_keeps (h := h) .. | ringRecordWrite => exact execRingRecordWrite_keeps (h := h) ..
  | batchTimeout => exact execBatchTimeout_keeps (h := h) .. | rcredit => exact execRcredit_keeps (h := h) ..
  | tmapWrite => exact execTmapWrite_keeps (h := h) .. | sqEnable => exact execSqEnable_keeps (h := h) ..
  | pipeEnable => exact execPipeEnable_keeps (h := h) .. | acquire => exact execAcquire_keeps (h := h) ..
  | release => exact execRelease_keeps (h := h) .. | fetch => exact execFetch_keeps (h := h) ..
  | dramAppend => exact execDramAppend_keeps (h := h) .. | scrub => exact execScrub_keeps (h := h) ..
  | bulkPass => exact execBulkPass_keeps (h := h) .. | parcelDelivery => exact execParcelDelivery_keeps (h := h) ..
  | extentTableWrite => exact execExtentTableWrite_keeps (h := h) ..
  | libraryCopyMigration => exact execLibraryCopyMigration_keeps (h := h) .. | frameReceive => exact execFrameReceive_keeps (h := h) ..
  | modeApply => exact execModeApply_keeps (h := h) .. | modeChangeComplete => exact execModeChangeComplete_keeps (h := h) ..
  | pauseFrame => exact execPauseFrame_keeps (h := h) .. | ecnRateStep => exact execEcnRateStep_keeps (h := h) ..
  | klpPacketReceive => exact execKlpPacketReceive_keeps (h := h) .. | openSession => exact execOpenSession_keeps (h := h) ..
  | closeSession => exact execCloseSession_keeps (h := h) .. | klpHeartbeat => exact execKlpHeartbeat_keeps (h := h) ..
  | klpHeartbeatSend => exact execKlpHeartbeatSend_keeps (h := h) .. | sessionTimeout => exact execSessionTimeout_keeps (h := h) ..
  | ack => exact execAck_keeps (h := h) .. | nak => exact execNak_keeps (h := h) ..
  | retransmitTimeout => exact execRetransmitTimeout_keeps (h := h) .. | subportDown => exact execSubportDown_keeps (h := h) ..
  | write => exact execWrite_keeps (h := h) .. | read => exact execRead_keeps (h := h) .. | histWr => exact execHistWr_keeps (h := h) ..
  | histRd => exact execHistRd_keeps (h := h) .. | regRd => exact execRegRd_keeps (h := h) .. | regWr => exact execRegWr_keeps (h := h) ..
  | registerWrite => exact execRegisterWrite_keeps (h := h) .. | shardBegin => exact execShardBegin_keeps (h := h) ..
  | shardData => exact execShardData_keeps (h := h) .. | shardDistribution => exact execShardDistribution_keeps (h := h) ..
  | resLoad => exact execResLoad_keeps (h := h) .. | resSwap => exact execResSwap_keeps (h := h) ..
  | resEvict => exact execResEvict_keeps (h := h) .. | resRefresh => exact execResRefresh_keeps (h := h) ..
  | resPin => exact execResPin_keeps (h := h) .. | resUnpin => exact execResUnpin_keeps (h := h) ..
  | land => exact execLand_keeps (h := h) .. | spanSend => exact execSpanSend_keeps (h := h) ..
  | ptpMessage => exact execPtpMessage_keeps (h := h) .. | member => exact execMember_keeps (h := h) ..
  | memberTableWrite => exact execMemberTableWrite_keeps (h := h) .. | epochSet => exact execEpochSet_keeps (h := h) ..
  | sync => exact execSync_keeps (h := h) .. | syncSend => exact execSyncSend_keeps (h := h) ..
  | takeover => exact execTakeover_keeps (h := h) .. | standbyTakeover => exact execStandbyTakeover_keeps (h := h) ..
  | orphanTimeout => exact execOrphanTimeout_keeps (h := h) ..
  | provisionalSessionTimeout => exact execProvisionalSessionTimeout_keeps (h := h) ..
  | memberLost => exact execMemberLost_keeps (h := h) .. | spanSet => exact execSpanSet_keeps (h := h) ..
  | spanDown => exact execSpanDown_keeps (h := h) .. | leave => exact execLeave_keeps (h := h) ..
  | distress => exact execDistress_keeps (h := h) .. | probePush => exact execProbePush_keeps (h := h) ..
  | freq => exact execFreq_keeps (h := h) .. | signedLifecycle => exact execSignedLifecycle_keeps (h := h) ..
  | signedDebug => exact execSignedDebug_keeps (h := h) .. | signedRevoke => exact execSignedRevoke_keeps (h := h) ..
  | keyInstall => exact execKeyInstall_keeps (h := h) .. | raiseRollback => exact execRaiseRollback_keeps (h := h) ..
  | writeOwnerSlot => exact execWriteOwnerSlot_keeps (h := h) .. | debugLevelRequest => exact execDebugLevelRequest_keeps (h := h) ..
  | probeSetInstall => exact execProbeSetInstall_keeps (h := h) .. | probeSlot => exact execProbeSlot_keeps (h := h) ..
  | probeMismatch => exact execProbeMismatch_keeps (h := h) .. | historyEvent => exact execHistoryEvent_keeps (h := h) ..
  | optRecord => exact execOptRecord_keeps (h := h) .. | dustSheet => exact execDustSheet_keeps (h := h) ..
  | rimSilent => exact execRimSilent_keeps (h := h) .. | deputyWatchdog => exact execDeputyWatchdog_keeps (h := h) ..
  | warmReset => exact execWarmReset_keeps (h := h) .. | feedLoss => exact execFeedLoss_keeps (h := h) ..
  | feedReturn => exact execFeedReturn_keeps (h := h) .. | lastGasp => exact execLastGasp_keeps (h := h) ..
  | sensorConversion => exact execSensorConversion_keeps (h := h) .. | zoneRegulation => exact execZoneRegulation_keeps (h := h) ..
  | bond => exact execBond_keeps (h := h) .. | supplyFault => exact execSupplyFault_keeps (h := h) ..
  | softStartRetry => exact execSoftStartRetry_keeps (h := h) .. | governorStep => exact execGovernorStep_keeps (h := h) ..
  | pstateP0 => exact execPstateP0_keeps (h := h) .. | pstateP1 => exact execPstateP1_keeps (h := h) ..
  | pstateP2 => exact execPstateP2_keeps (h := h) .. | pstateP3 => exact execPstateP3_keeps (h := h) ..
  | gaugeCheck => exact execGaugeCheck_keeps (h := h) .. | recal => exact execRecal_keeps (h := h) ..
  | frequencyStep => exact execFrequencyStep_keeps (h := h) .. | hazEn => exact execHazEn_keeps (h := h) ..
  | hazard => exact execHazard_keeps (h := h) .. | podAlignment => exact execPodAlignment_keeps (h := h) ..
  | elasticBufferSlip => exact execElasticBufferSlip_keeps (h := h) .. | temperatureLimit => exact execTemperatureLimit_keeps (h := h) ..
  | coldReset => exact execColdReset_keeps (h := h) .. | rstN => exact execRstN_keeps (h := h) ..
  | strapCheck => exact execStrapCheck_keeps (h := h) .. | svcResetCold => exact execSvcResetCold_keeps (h := h) ..
  | svcResetWarm => exact execSvcResetWarm_keeps (h := h) .. | svcResetTile => exact execSvcResetTile_keeps (h := h) ..
  | svcResetPort => exact execSvcResetPort_keeps (h := h) .. | svcMgmtIp4 => exact execSvcMgmtIp4_keeps (h := h) ..
  | freezeN => exact execFreezeN_keeps (h := h) .. | frzReq => exact execFrzReq_keeps (h := h) ..
  | freezeStop => exact execFreezeStop_keeps (h := h) .. | idcode => exact execIdcode_keeps (h := h) ..
  | bypass => exact execBypass_keeps (h := h) .. | samplePreload => exact execSamplePreload_keeps (h := h) ..
  | extest => exact execExtest_keeps (h := h) .. | frzSel => exact execFrzSel_keeps (h := h) ..
  | frzData => exact execFrzData_keeps (h := h) .. | ledPeriod => exact execLedPeriod_keeps (h := h) ..
  | ppsOut => exact execPpsOut_keeps (h := h) .. | subportUp => exact execSubportUp_keeps (h := h) ..
  | holdupChargeTimeout => exact execHoldupChargeTimeout_keeps (h := h) ..

/-- Settles O57: what a command keeps holds the queue of waiting commands. -/
theorem everyCommandCompletes : Obligations.EveryCommandCompletes := by
  unfold Obligations.EveryCommandCompletes
  intro c s
  obtain ⟨t, ht, hk⟩ := exec_keeps c (Kept.refl s)
  exact ⟨t, ht, hk.queue⟩

end Sys2Proof.Machine
end

section
/-! The receipt of an image, its verification and its drain, and their obligation (R245, R265-R267, R270, R271, R487). -/

namespace Sys2Proof.Machine

/-! ### The sender's verbs (R265, R270, R487) -/

section
variable {sess : Option SessId} {s : State} (ho : OperatorSends s sess)
include ho

/-- A verb of an operator or of the management port passes the gate. -/
theorem gated_resGate_of_sends (body : State) : gated (resGate s sess) s body = body := by
  rw [resGate_of_sends ho]
  rfl

section
variable (len : Word) (abort : Bool) (flash : BitVec 2) (drain : BitVec 16)

theorem exec_imgBegin : exec (.imgBegin sess len abort flash drain) s = .next (
    if s.load.st ≠ 0 then answer s 3 [⟨22, false⟩]
    else if flash = 3 then answer s 1 []
    else answer (loadBegin (sess.map BitVec.toNat) len.toNat abort flash.toNat drain.toNat s) 0 []) :=
  congrArg Host.Outcome.next (gated_resGate_of_sends ho _)

theorem imgBegin_busy (h : s.load.st ≠ 0) : exec (.imgBegin sess len abort flash drain) s = .next (answer s 3 [⟨22, false⟩]) := by
  rw [exec_imgBegin ho, if_pos h]

theorem imgBegin_bad_slot (h : s.load.st = 0) (hf : flash = 3) : exec (.imgBegin sess len abort flash drain) s = .next (answer s 1 []) := by
  rw [exec_imgBegin ho, if_neg (not_not.2 h), if_pos hf]

theorem imgBegin_starts (h : s.load.st = 0) (hf : flash ≠ 3) : exec (.imgBegin sess len abort flash drain) s =
    .next (answer (loadBegin (sess.map BitVec.toNat) len.toNat abort flash.toNat drain.toNat s) 0 []) := by
  rw [exec_imgBegin ho, if_neg (not_not.2 h), if_neg hf]

end

section
variable (off : BitVec 32) (bytes : List Byte)

/-- Bytes for the staging copy are bounded by the load's length and by the 32 bits of an offset. -/
theorem exec_imgData : exec (.imgData sess off bytes) s = .next (
    if s.load.st ≠ 1 ∨ s.load.sess ≠ sess.map BitVec.toNat then answer s 5 []
    else if s.load.total < off.toNat + bytes.length ∨ 2 ^ 32 < off.toNat + bytes.length then answer s 1 []
    else answer (onLoad (fun l => { l with parts := l.parts ++ [(off.toNat, off.toNat + bytes.length)] })
      (dramStore s (stagingAddr + off.toNat) bytes)) 0 []) :=
  congrArg Host.Outcome.next (gated_resGate_of_sends ho _)

theorem imgData_foreign (h : s.load.st ≠ 1 ∨ s.load.sess ≠ sess.map BitVec.toNat) :
    exec (.imgData sess off bytes) s = .next (answer s 5 []) := by
  rw [exec_imgData ho, if_pos h]

variable (h : s.load.st = 1) (hs : s.load.sess = sess.map BitVec.toNat)
include h hs

theorem imgData_beyond (hl : min s.load.total (2 ^ 32) < off.toNat + bytes.length) :
    exec (.imgData sess off bytes) s = .next (answer s 1 []) := by
  rw [exec_imgData ho, if_neg (not_or.2 ⟨not_not.2 h, not_not.2 hs⟩), if_pos (min_lt_iff.1 hl)]

theorem imgData_staged (hl : off.toNat + bytes.length ≤ min s.load.total (2 ^ 32)) : exec (.imgData sess off bytes) s =
    .next (answer (onLoad (fun l => { l with parts := l.parts ++ [(off.toNat, off.toNat + bytes.length)] })
      (dramStore s (stagingAddr + off.toNat) bytes)) 0 []) := by
  obtain ⟨htotal, hoffset⟩ := le_min_iff.1 hl
  rw [exec_imgData ho, if_neg (not_or.2 ⟨not_not.2 h, not_not.2 hs⟩), if_neg (not_or.2 ⟨htotal.not_gt, hoffset.not_gt⟩)]

end

end

/-! ### The checks of a received image (R245, R266, R270) -/

section
variable {s : State}

theorem imageVerify_waits (h : s.load.st ≠ 1 ∨ received s.load < s.load.total) : exec .imageVerify s = .next s := if_pos h

variable (h : s.load.st = 1) (hr : s.load.total ≤ received s.load)
include h hr

/-- A received image is verified, checked and placed in turn, and its commit's group opened. -/
theorem imageVerify_judges : exec .imageVerify s = .next (
    let r := imageRd s stagingAddr
    let i := parseImage r
    let place := loadPlace s i
    let fails : Nat × Nat × Nat → State := fun f => loadEnd f.1 f.2.1 f.2.2 s
    (firstFail i (verifyChecks s r s.load.total)).elim
      ((firstFail i (structChecks s r i place)).elim
        (place.elim (loadEnd 21 ((i.sects.findIdx? (fun x => x.typ == 3)).getD 0xFF) 0 (plcOp 1 1 s))
          (fun p => (cgStart [(svcNode, .image)] (plcOp 1 0 s)).elim (loadEnd 24 0xFF 0 s)
            (fun c => loadReady (onLoad (fun l => { l with
              st := 6
              stagedImg := some i
              stagedProf := p.1
              stagedPlace := p.2
              cgid := some c.1 }) c.2))))
        fails)
      fails) := by
  have hn : ¬ (s.load.st ≠ 1 ∨ received s.load < s.load.total) := not_or.2 ⟨not_not.2 h, Nat.not_lt.2 hr⟩
  show execImageVerify s = _
  simp only [execImageVerify, hn, if_false]
  generalize parseImage (imageRd s stagingAddr) = i
  generalize loadPlace s i = place
  cases firstFail i (verifyChecks s (imageRd s stagingAddr) s.load.total) with
  | some f => rfl
  | none =>
    cases firstFail i (structChecks s (imageRd s stagingAddr) i place) with
    | some f => rfl
    | none =>
      cases place with
      | none => rfl
      | some p => cases cgStart [(svcNode, .image)] (plcOp 1 0 s) <;> rfl

section
variable {i : Image} (hi : parseImage (imageRd s stagingAddr) = i)
include hi

/-- The first check of VERIFY that fails ends the load with its code. -/
theorem imageVerify_rejects {f : Nat × Nat × Nat} (hf : firstFail i (verifyChecks s (imageRd s stagingAddr) s.load.total) = some f) :
    exec .imageVerify s = .next (loadEnd f.1 f.2.1 f.2.2 s) := by
  simp only [imageVerify_judges h hr, hi, hf, Option.elim_some]

variable (hv : firstFail i (verifyChecks s (imageRd s stagingAddr) s.load.total) = none)
include hv

/-- The first structural check that fails ends the load with its code. -/
theorem imageVerify_unsound {f : Nat × Nat × Nat} (hf : firstFail i (structChecks s (imageRd s stagingAddr) i (loadPlace s i)) = some f) :
    exec .imageVerify s = .next (loadEnd f.1 f.2.1 f.2.2 s) := by
  simp only [imageVerify_judges h hr, hi, hv, hf, Option.elim_none, Option.elim_some]

variable (hc : firstFail i (structChecks s (imageRd s stagingAddr) i (loadPlace s i)) = none) {p : Nat × List Course}
  (hp : loadPlace s i = some p)
include hc hp

/-- With its group open the load quiesces, and commits at once where it need not drain. -/
theorem imageVerify_quiesces {c : BitVec 16} {t : State} (hg : cgStart [(svcNode, .image)] (plcOp 1 0 s) = some (c, t)) :
    exec .imageVerify s = .next (loadReady (onLoad (fun l => { l with
      st := 6
      stagedImg := some i
      stagedProf := p.1
      stagedPlace := p.2
      cgid := some c }) t)) := by
  rw [hp] at hc
  simp only [imageVerify_judges h hr, hi, hv, hc, hp, hg, Option.elim_none, Option.elim_some]

theorem imageVerify_without_group (hg : cgStart [(svcNode, .image)] (plcOp 1 0 s) = none) :
    exec .imageVerify s = .next (loadEnd 24 0xFF 0 s) := by
  rw [hp] at hc
  simp only [imageVerify_judges h hr, hi, hv, hc, hp, hg, Option.elim_none, Option.elim_some]

end

end

/-! ### Draining (R267, R270, R271) -/

/-- What a commit does not wait for. -/
theorem loadWaits_eq_false_iff (s : State) : loadWaits s = false ↔ s.cal.busy = false ∧ ∀ e ∈ s.resid, e.2.st ≠ .swapping := by
  simp only [loadWaits, Bool.or_eq_false_iff, List.any_eq_false, beq_iff_eq, ne_eq]

/-- A load has quiesced, nothing that its commit waits for is in progress, and no stream is open or ABORT is set. -/
def ReadyToCommit (s : State) : Prop :=
  s.load.st = 6 ∧ s.cal.busy = false ∧ (∀ e ∈ s.resid, e.2.st ≠ .swapping) ∧ (s.load.abort = true ∨ openStreams s = 0)

/-- The model's test of a quiesced load. -/
theorem readyToCommit_iff (s : State) :
    ReadyToCommit s ↔ s.load.st = 6 ∧ (!loadWaits s) = true ∧ (s.load.abort = true ∨ openStreams s = 0) := by
  rw [ReadyToCommit, Bool.not_eq_true', loadWaits_eq_false_iff, and_assoc (a := s.cal.busy = false)]

section
variable {s : State}

theorem loadReady_commits (h : ReadyToCommit s) : loadReady s = { s with load := { s.load with st := 7 } } :=
  if_pos ((readyToCommit_iff s).1 h)

theorem loadReady_stays (h : ¬ ReadyToCommit s) : loadReady s = s := if_neg (mt (readyToCommit_iff s).2 h)

/-- When a timeout of the drain ends the load. -/
theorem exec_drainTimeout : exec .drainTimeout s =
    if s.load.st = 6 ∧ s.load.abort = false ∧ 0 < openStreams s then .next (loadEnd 23 0xFF 0 s) else .next s := by
  show execDrainTimeout s = _
  simp only [execDrainTimeout, Bool.not_eq_true']

theorem drainTimeout_ends (h : s.load.st = 6 ∧ s.load.abort = false ∧ 0 < openStreams s) :
    exec .drainTimeout s = .next (loadEnd 23 0xFF 0 s) := exec_drainTimeout.trans (if_pos h)

theorem drainTimeout_idle (h : ¬ (s.load.st = 6 ∧ s.load.abort = false ∧ 0 < openStreams s)) :
    exec .drainTimeout s = .next s := exec_drainTimeout.trans (if_neg h)

end

/-- Settles O35: the state of the load and its sender select what a verb answers, the first check that fails or the group of the commit
what becomes of a received image, and the streams and the work in progress whether a drain is over. -/
theorem imagesAreReceivedVerifiedAndDrained : Obligations.ImagesAreReceivedVerifiedAndDrained := by
  unfold Obligations.ImagesAreReceivedVerifiedAndDrained
  refine ⟨?begins, ?data, ?verify, ?drain, ?timeout⟩
  case begins =>
    intro sess len abort flash drain s ho
    exact ⟨imgBegin_busy ho len abort flash drain, imgBegin_bad_slot ho len abort flash drain, imgBegin_starts ho len abort flash drain⟩
  case data =>
    intro sess off bytes s ho
    exact ⟨imgData_foreign ho off bytes, fun h hs => ⟨imgData_beyond ho off bytes h hs, imgData_staged ho off bytes h hs⟩⟩
  case verify =>
    intro s r i place
    exact ⟨imageVerify_waits, fun h hr => ⟨fun f => imageVerify_rejects h hr rfl, fun hv => ⟨fun f => imageVerify_unsound h hr rfl hv,
      fun p c t hc hp => imageVerify_quiesces h hr rfl hv hc hp, fun p hc hp => imageVerify_without_group h hr rfl hv hc hp⟩⟩⟩
  case drain =>
    intro s go
    exact ⟨fun h => congrArg Host.Outcome.next (loadReady_commits h), fun h => congrArg Host.Outcome.next (loadReady_stays h)⟩
  case timeout =>
    intro s out
    exact ⟨drainTimeout_ends, drainTimeout_idle⟩

end Sys2Proof.Machine
end

section
/-! Registers and arithmetic of the control core, and their obligations (R274, R278-R280, R285). -/

namespace Sys2Proof.Machine

/-! ### The two register files (R274, R285) -/

section
variable (c : CCore) (q r : BitVec 5) (n p : BitVec 3)

@[simp] theorem gGet_zero : gGet c 0 = RWord.zero := if_pos rfl
@[simp] theorem gSet_zero (v : Word) : gSet c 0 v = c := by
  unfold gSet
  exact if_pos rfl
@[simp] theorem pGet_zero : pGet c 0 = true := if_pos rfl
@[simp] theorem pSet_zero (b : Bool) : pSet c 0 b = c := if_pos rfl

/-- A general register after a write of one: g0 stays 0, and the register written takes the value unmarked. -/
theorem gGet_gSet (v : Word) :
    gGet (gSet c r v) q = if q = 0 then RWord.zero else if q = r then ⟨v, false⟩ else gGet c q := by
  by_cases hq : q = 0
  · subst hq
    rw [gGet_zero, if_pos rfl]
  · rw [if_neg hq]
    by_cases hr : r = 0
    · subst hr
      rw [gSet_zero, if_neg hq]
    · simp only [gGet, gSet, gPut, if_neg hq, if_neg hr, sget_sset, BitVec.toNat_inj]

/-- A predicate after a write of one: p0 stays 1. -/
theorem pGet_pSet (b : Bool) : pGet (pSet c p b) n = if n = 0 then true else if n = p then b else pGet c n := by
  by_cases hn : n = 0
  · subst hn
    rw [pGet_zero, if_pos rfl]
  · rw [if_neg hn]
    by_cases hp : p = 0
    · subst hp
      rw [pSet_zero, if_neg hn]
    · simp only [pGet, pSet, if_neg hn, if_neg hp, sget_sset, BitVec.toNat_inj]

end

/-- Settles O3: the two read-after-write laws, and register 0 of each file as the constant it is. -/
theorem registerWritesAreRead : Obligations.RegisterWritesAreRead := by
  unfold Obligations.RegisterWritesAreRead
  intro c r q v p n b
  exact ⟨gGet_gSet c q r v, gSet_zero c v, gGet_zero c, pGet_pSet c n p b, pSet_zero c b, pGet_zero c⟩

/-! ### Results of one operand (R279, R280) -/

/-- POPC counts the set bits. -/
theorem popc64_eq (a : Word) : popc64 a = BitVec.ofNat 64 ((List.range 64).filter (fun n => a.getLsbD n)).length :=
  congrArg (BitVec.ofNat 64) List.countP_eq_length_filter

/-- CLZ as the number that its bounds speak of. -/
theorem clz64_eq (a : Word) : clz64 a = BitVec.ofNat 64 (clz64 a).toNat := by
  rw [BitVec.ofNat_toNat, BitVec.setWidth_eq]

/-- LUI shifts its sign-extended immediate by 12, which multiplies it by 4,096. -/
theorem signExtend_shiftLeft_12 (imm : BitVec 17) : imm.signExtend 64 <<< (12 : Nat) = BitVec.ofInt 64 (imm.toInt * 4096) := by
  rw [BitVec.shiftLeft_eq_mul_twoPow, BitVec.ofInt_mul]
  rfl

theorem exec_lui (h : CcHdr) (rd : BitVec 5) (imm : BitVec 17) (s : State) : exec (.lui h rd imm) s =
    ccDo s h (fun site x g => ccIssue site x g [] [rd] (ccResult x 1 rd (imm.signExtend 64 <<< (12 : Nat)))) := rfl

/-- LUI writes its shifted immediate. -/
theorem lui_writes {h : CcHdr} {rd : BitVec 5} {s : State} (hr : CcRuns h [] [rd] s) (imm : BitVec 17) :
    exec (.lui h rd imm) s = .next (ccCore h s (ccStepped h s (gSet (ccTile h s).cc rd (imm.signExtend 64 <<< (12 : Nat))))) :=
  (exec_lui h rd imm s).trans (ccDo_runs_to hr _ rfl rfl)

/-- Settles O2: each instruction issues one operation on its registers or its immediate, for one cycle or for three, and the operation's
result is the one that its rule states. -/
theorem registerInstructionsCompute : Obligations.RegisterInstructionsCompute := by
  unfold Obligations.RegisterInstructionsCompute
  intro h rd ra rb s c a b put put3
  have unary (hr : CcRuns h [ra] [rd] s) (f : Word → Word) {v : Word} (hv : f a = v) :
      ccDo s h (fun site x g => ccAlu1 f site x g rd ra) = put v := hv ▸ ccAlu1_runs hr f
  refine ⟨?registers, ?immediates, ?counts, ?upper⟩
  case registers =>
    intro hr
    have one (f : Word → Word → Word) {v : Word} (hv : f a b = v) :
        ccDo s h (fun site x g => ccAlu f 1 site x g rd ra rb) = put v := hv ▸ ccAlu_one_cycle hr f
    have three (f : Word → Word → Word) {v : Word} (hv : f a b = v) :
        ccDo s h (fun site x g => ccAlu f 3 site x g rd ra rb) = put3 v := hv ▸ ccAlu_three_cycles hr f
    exact ⟨one _ rfl, one _ rfl, one _ rfl, one _ rfl, one _ rfl, one _ rfl, one _ rfl, one _ rfl,
      one _ (signed_min_eq a b), one _ (signed_max_eq a b), one _ (unsigned_min_eq a b), one _ (unsigned_max_eq a b),
      three _ rfl, three _ (mulhu_eq a b), three _ (mulhs_eq a b)⟩
  case immediates =>
    intro hr imm i
    have one (f : Word → Word) {v : Word} (hv : f a = v) : ccDo s h (fun site x g => ccImm f site x g rd ra) = put v := unary hr f hv
    have hi : shAmt (sext12 imm) = imm.toNat % 64 := shAmt_sext12 imm
    exact ⟨one _ rfl, one _ rfl, one _ rfl, one _ rfl, one _ (congrArg (a <<< ·) hi), one _ (congrArg (a >>> ·) hi),
      one _ (congrArg a.sshiftRight hi)⟩
  case counts =>
    intro hr
    exact ⟨unary hr _ (popc64_eq a), _, unary hr _ (clz64_eq a), clz64_bounds a⟩
  case upper =>
    intro hr imm
    rw [← signExtend_shiftLeft_12]
    exact lui_writes hr imm

end Sys2Proof.Machine
end

section
/-! Divisions of the control core, and their obligation (R275, R279-R281). -/

namespace Sys2Proof.Machine

theorem exec_divideComplete (a : TileAt) (s : State) :
    exec (.divideComplete a) s = .next (tileDo s a.site (ccDivDone a.site (cycAt s a.k))) := rfl

/-- A DIVU or REMU on a free divider starts its division and goes on. -/
theorem ccDiv_starts {h : CcHdr} {rd ra rb : BitVec 5} {s : State} (hr : CcRuns h [ra, rb] [rd] s) (hfree : (ccTile h s).cc.div = none)
    (rem : Bool) :
    let c := (ccTile h s).cc
    ccDo s h (fun site x g => ccDiv rem site x g rd ra rb) = .next (ccCore h s (ccStepped h s
      { c with div := some ⟨rem, rd, gVal c ra, gVal c rb, cycAt s h.k + 24⟩ })) := by
  intro c
  refine ccDo_runs_to hr _ ?_ rfl
  simp only [hfree]
  rfl

/-- The quotient or the remainder of two words as numbers; a zero divisor gives all ones, or the dividend (R280). -/
theorem divResult_eq (rem : Bool) (a b : Word) :
    divResult rem a b = if b.toNat = 0 then (if rem then a else BitVec.ofNat 64 (2 ^ 64 - 1))
      else BitVec.ofNat 64 (if rem then a.toNat % b.toNat else a.toNat / b.toNat) := by
  have hzero : b = 0 ↔ b.toNat = 0 := BitVec.toNat_eq
  unfold divResult
  by_cases hb : b.toNat = 0
  · simp only [if_pos hb, if_pos (hzero.2 hb)]
    rfl
  · simp only [if_neg hb, if_neg (mt hzero.1 hb)]
    cases rem
    case false => simp only [Bool.false_eq_true, if_false, ← BitVec.toNat_udiv, BitVec.ofNat_toNat, BitVec.setWidth_eq]
    case true => simp only [if_true, ← BitVec.toNat_umod, BitVec.ofNat_toNat, BitVec.setWidth_eq]

/-- A division that is due writes its result and frees the divider; a zero divisor raises DZ in the cycle that it was due. -/
theorem ccDivDone_due {site x : Nat} {t u : Tile} {sent : List TOut} {d : DivOp} (hs : tileSync site x t = (u, sent))
    (hd : u.cc.div = some d) (hx : d.due ≤ x) :
    ccDivDone site x t = ({ u with cc := { gSet u.cc d.rd (divResult d.rem d.a d.b) with
      div := none
      fcc := if d.b = 0 then flagRaise u.cc.fcc d.due flDZ else u.cc.fcc } }, sent) := by
  simp only [ccDivDone, hs, hd, hx, if_true, gSet_fcc]

/-- Settles O4: a free divider takes the division, and a division that is due ends with its result. -/
theorem divisionTakesItsTime : Obligations.DivisionTakesItsTime := by
  unfold Obligations.DivisionTakesItsTime
  refine ⟨?start, ?done⟩
  case start =>
    intro h rd ra rb s hr hfree c start
    exact ⟨ccDiv_starts hr hfree false, ccDiv_starts hr hfree true⟩
  case done =>
    intro at_ s d hl t hd hx v flags
    have hv : divResult d.rem d.a d.b = v := divResult_eq d.rem d.a d.b
    rw [exec_divideComplete, ← hv]
    exact event_to_silent hl (ccDivDone_due rfl hd hx)

end Sys2Proof.Machine
end

section
/-! Predicates, jumps and waits of the control core, and their obligation (R274, R276, R278, R279). -/

namespace Sys2Proof.Machine

/-! ### The instructions, each as a step of its tile (R276, R279) -/

section
variable (h : CcHdr) (a : TileAt) (s : State)

theorem exec_cmp (fn pd : BitVec 3) (ra rb : BitVec 5) : exec (.cmp h fn pd ra rb) s =
    ccDo s h (fun site x g => if 5 < fn.toNat then ccIllegal site x g else ccCmp (cmpCond fn) site x g pd ra rb) := rfl
theorem exec_cmpi (fn pd : BitVec 3) (ra : BitVec 5) (imm : BitVec 12) : exec (.cmpi h fn pd ra imm) s =
    ccDo s h (fun site x g =>
      if 3 < fn.toNat then ccIllegal site x g else ccCmpi (fun v => cmpiCond fn v (sext12 imm)) site x g pd ra) := rfl
theorem exec_plog (op : BitVec 2) (pd pa pb : BitVec 3) : exec (.plog h op pd pa pb) s =
    ccDo s h (fun site x g => ccIssue site x g [] [] (fun t => ccPred x pd (plog op (pGet t.cc pa) (pGet t.cc pb)) t)) := rfl
theorem exec_br (off : BitVec 22) : exec (.br h off) s = ccDo s h (fun site x g => ccBr site x g off) := rfl
theorem exec_brl (off : BitVec 22) : exec (.brl h off) s = ccDo s h (fun site x g => ccBrl site x g off) := rfl
theorem exec_jr (rd ra : BitVec 5) (imm : BitVec 12) : exec (.jr h rd ra imm) s = ccDo s h (fun site x g => ccJr site x g rd ra imm) := rfl
theorem exec_waitc (ra : BitVec 5) : exec (.waitc h ra) s = ccDo s h (fun site x g => ccWaitc site x g ra) := rfl
theorem exec_waitcResume : exec (.waitcResume a) s = .next (tileDo s a.site (ccResume a.site (cycAt s a.k))) := rfl
theorem exec_halt : exec (.halt h) s = ccDo s h (fun site x g => ccHalt site x g) := rfl

end

/-! ### Conditions (R279) -/

section
variable (a b : Word)

theorem cmpCond_eq : cmpCond 0 a b = decide (a = b) := rfl
theorem cmpCond_ne : cmpCond 1 a b = decide (a ≠ b) := by
  rw [decide_not]
  rfl
theorem cmpCond_lt : cmpCond 2 a b = decide (a.toInt < b.toInt) := rfl
theorem cmpCond_ge : cmpCond 3 a b = decide (b.toInt ≤ a.toInt) := rfl
theorem cmpCond_ltu : cmpCond 4 a b = decide (a.toNat < b.toNat) := rfl
theorem cmpCond_geu : cmpCond 5 a b = decide (b.toNat ≤ a.toNat) := rfl

theorem cmpiCond_eq : cmpiCond 0 a b = decide (a = b) := rfl
theorem cmpiCond_ne : cmpiCond 1 a b = decide (a ≠ b) := cmpCond_ne a b
theorem cmpiCond_ltu : cmpiCond 3 a b = decide (a.toNat < b.toNat) := rfl

/-- The signed comparison with an immediate is the one with the number that the immediate is. -/
theorem cmpiCond_lt (imm : BitVec 12) : cmpiCond 2 a (sext12 imm) = decide (a.toInt < imm.toInt) := by
  have himm : (sext12 imm).toInt = imm.toInt := BitVec.toInt_signExtend_of_le (by decide)
  rw [← himm]
  rfl

end

/-! ### Predicate results (R274, R279) -/

section
variable {h : CcHdr} {s : State}

/-- A CMP of a condition that is not reserved writes its predicate. -/
theorem cmp_writes {ra rb : BitVec 5} (hr : CcRuns h [ra, rb] [] s) {fn : BitVec 3} (hfn : fn.toNat ≤ 5) (pd : BitVec 3) {v : Bool}
    (hv : cmpCond fn (gVal (ccTile h s).cc ra) (gVal (ccTile h s).cc rb) = v) :
    exec (.cmp h fn pd ra rb) s = .next (ccCore h s (ccStepped h s (pSet (ccTile h s).cc pd v))) := by
  rw [exec_cmp, ← hv]
  simp only [if_neg (Nat.not_lt.2 hfn)]
  exact ccDo_runs_to hr _ rfl rfl

/-- A CMPI of a condition that is not reserved writes its predicate. -/
theorem cmpi_writes {ra : BitVec 5} (hr : CcRuns h [ra] [] s) {fn : BitVec 3} (hfn : fn.toNat ≤ 3) (pd : BitVec 3) {imm : BitVec 12}
    {v : Bool} (hv : cmpiCond fn (gVal (ccTile h s).cc ra) (sext12 imm) = v) :
    exec (.cmpi h fn pd ra imm) s = .next (ccCore h s (ccStepped h s (pSet (ccTile h s).cc pd v))) := by
  rw [exec_cmpi, ← hv]
  simp only [if_neg (Nat.not_lt.2 hfn)]
  exact ccDo_runs_to hr _ rfl rfl

/-- A PLOG writes its predicate. -/
theorem plog_writes (hr : CcRuns h [] [] s) {op : BitVec 2} (pd : BitVec 3) {pa pb : BitVec 3} {v : Bool}
    (hv : plog op (pGet (ccTile h s).cc pa) (pGet (ccTile h s).cc pb) = v) :
    exec (.plog h op pd pa pb) s = .next (ccCore h s (ccStepped h s (pSet (ccTile h s).cc pd v))) := by
  rw [exec_plog, ← hv]
  exact ccDo_runs_to hr _ rfl rfl

/-! ### Jumps (R279) -/

/-- The core after a jump in its cycle: the register of the link holds the index after the jump. -/
def ccJumped (h : CcHdr) (s : State) (target : BitVec 14) (link : BitVec 5) : CCore :=
  let c := (ccTile h s).cc
  { gSet c link (BitVec.ofNat 64 (c.pc.toNat + 1)) with pc := target, next := cycAt s h.k + 3 }

/-- A jump whose target lies inside the instruction store takes it. -/
theorem ccDo_jumps {srcs dsts : List (BitVec 5)} (hr : CcRuns h srcs dsts s) {f : Nat → Nat → BitVec 4 → Tile → Tile × List TOut}
    {target : Tile → Int} {link : BitVec 5} (h0 : 0 ≤ target (ccTile h s)) (h1 : target (ccTile h s) < 16384)
    (hf : f h.site (cycAt s h.k) h.g (tileAt s h.site) = ccIssue h.site (cycAt s h.k) h.g srcs dsts
      (fun t => ccJump h.site (cycAt s h.k) (target t) link t) (tileAt s h.site)) :
    ccDo s h f = .next (ccCore h s (ccJumped h s (BitVec.ofInt 14 (target (ccTile h s))) link)) :=
  ccDo_runs_to hr _ (if_pos ⟨h0, h1⟩) hf

theorem ccJumped_zero (target : BitVec 14) :
    ccJumped h s target 0 = { (ccTile h s).cc with pc := target, next := cycAt s h.k + 3 } := by
  simp only [ccJumped, gSet_zero]

theorem br_jumps (hr : CcRuns h [] [] s) {off : BitVec 22} (h0 : 0 ≤ ((ccTile h s).cc.pc.toNat : Int) + off.toInt)
    (h1 : ((ccTile h s).cc.pc.toNat : Int) + off.toInt < 16384) :
    exec (.br h off) s = .next (ccCore h s (ccJumped h s (BitVec.ofInt 14 ((ccTile h s).cc.pc.toNat + off.toInt)) 0)) :=
  (exec_br h s off).trans (ccDo_jumps hr (target := fun t => (t.cc.pc.toNat : Int) + off.toInt) h0 h1 rfl)

theorem brl_jumps (hr : CcRuns h [] [31] s) {off : BitVec 22} (h0 : 0 ≤ ((ccTile h s).cc.pc.toNat : Int) + off.toInt)
    (h1 : ((ccTile h s).cc.pc.toNat : Int) + off.toInt < 16384) :
    exec (.brl h off) s = .next (ccCore h s (ccJumped h s (BitVec.ofInt 14 ((ccTile h s).cc.pc.toNat + off.toInt)) 31)) :=
  (exec_brl h s off).trans (ccDo_jumps hr (target := fun t => (t.cc.pc.toNat : Int) + off.toInt) h0 h1 rfl)

/-- The 14 bits of a target that is judged as a number. -/
theorem ofInt_toNat_eq_setWidth (v : Word) : BitVec.ofInt 14 (v.toNat : Int) = v.setWidth 14 := by
  rw [BitVec.ofInt_natCast, BitVec.ofNat_toNat]

theorem jr_jumps {rd ra : BitVec 5} (hr : CcRuns h [ra] [rd] s) {imm : BitVec 12}
    (h1 : (gVal (ccTile h s).cc ra + sext12 imm).toNat < 16384) :
    exec (.jr h rd ra imm) s =
      .next (ccCore h s (ccJumped h s ((gVal (ccTile h s).cc ra + sext12 imm).setWidth 14) rd)) := by
  rw [exec_jr, ← ofInt_toNat_eq_setWidth]
  exact ccDo_jumps hr (target := fun t => ((gVal t.cc ra + sext12 imm).toNat : Int)) (Int.natCast_nonneg _) (by exact_mod_cast h1) rfl

/-! ### Waits and the end of a program (R276, R279) -/

/-- A WAITC takes its cycle, and stalls where its target lies ahead. -/
theorem waitc_waits {ra : BitVec 5} (hr : CcRuns h [ra] [] s) :
    let t := ccTile h s
    let g : BitVec 15 := (gVal t.cc ra).setWidth 15
    exec (.waitc h ra) s = .next (ccCore h s (ccStepped h s
      (if g.toNat ≤ beatCyc t (cycAt s h.k) then t.cc else { t.cc with wait := some g }))) := by
  intro t g
  rw [exec_waitc]
  refine ccDo_runs_to hr _ ?_ rfl
  have hcore := apply_ite (ccStepped h s) (g.toNat ≤ beatCyc t (cycAt s h.k)) t.cc { t.cc with wait := some g }
  exact congrArg (fun c : CCore => ({ t with cc := c }, ([] : List TOut))) hcore.symm

theorem ccResume_due {site x : Nat} {t u : Tile} {sent : List TOut} {g : BitVec 15} (hs : tileSync site x t = (u, sent))
    (hw : u.cc.wait = some g) (hg : g.toNat ≤ beatCyc u x) : ccResume site x t = ({ u with cc := { u.cc with wait := none } }, sent) := by
  simp only [ccResume, hs, hw, hg, if_true]

theorem halt_idles (hr : CcRuns h [] [] s) :
    exec (.halt h) s = .next (ccCore h s { ccStepped h s (ccTile h s).cc with st := .idle }) :=
  (exec_halt h s).trans (ccDo_runs_to hr _ rfl rfl)

end

/-- Settles O5: each condition selects one comparison, a target inside the store the jump, and the cycle offset the end of a wait. -/
theorem predicatesAndJumpsDecide : Obligations.PredicatesAndJumpsDecide := by
  unfold Obligations.PredicatesAndJumpsDecide
  refine ⟨?predicates, ?branches, ?jump, ?wait, ?resume, fun h s hr => halt_idles hr⟩
  case predicates =>
    intro h pd pa pb ra rb s c a b put
    refine ⟨fun hr => ?cmp, fun hr imm => ?cmpi, fun hr => ?plog⟩
    case cmp =>
      exact ⟨cmp_writes hr (by decide) pd (cmpCond_eq a b), cmp_writes hr (by decide) pd (cmpCond_ne a b),
        cmp_writes hr (by decide) pd (cmpCond_lt a b), cmp_writes hr (by decide) pd (cmpCond_ge a b),
        cmp_writes hr (by decide) pd (cmpCond_ltu a b), cmp_writes hr (by decide) pd (cmpCond_geu a b)⟩
    case cmpi =>
      exact ⟨cmpi_writes hr (by decide) pd (cmpiCond_eq a _), cmpi_writes hr (by decide) pd (cmpiCond_ne a _),
        cmpi_writes hr (by decide) pd (cmpiCond_lt a imm), cmpi_writes hr (by decide) pd (cmpiCond_ltu a _)⟩
    case plog => exact ⟨plog_writes hr pd rfl, plog_writes hr pd rfl, plog_writes hr pd rfl, plog_writes hr pd rfl⟩
  case branches =>
    intro h off s c target go h0 h1
    exact ⟨fun hr => (br_jumps hr h0 h1).trans (by rw [ccJumped_zero]), fun hr => brl_jumps hr h0 h1⟩
  case jump =>
    intro h rd ra imm s hr c target h1
    exact jr_jumps hr h1
  case wait =>
    intro h ra s hr
    exact waitc_waits hr
  case resume =>
    intro at_ s g hl t hw hg
    rw [exec_waitcResume]
    exact event_to_silent hl (ccResume_due rfl hw hg)

end Sys2Proof.Machine
end

section
/-! The finish unit's arithmetic and its obligation (R303, R304, R306, R308, R309, R636). -/

namespace Sys2Proof.Machine

/-! ### Entries whose fields are legal (R304, R308) -/

section
variable {h : SeqHdr} {a : FuArgs}

theorem fuArith_legal {rm : Rm} (hrm : rmOf a.rm = some rm) (f : Rm → Lane32 → Lane32 → Lane32 × FlagBits) :
    fuArith f h a = fuElem h a 4 true [a.va, a.vb] (fun l => f rm (op1 l) (op2 l)) := by
  funext t
  simp only [fuArith, hrm]

theorem fuFma_legal {rm : Rm} (hrm : rmOf a.rm = some rm) :
    fuFma h a = fuElem h a 4 true [a.va, a.vb, a.vc] (fun l => ffma rm (op1 l) (op2 l) (op3 l)) := by
  funext t
  simp only [fuFma, hrm]

theorem fuCvt_legal {rm : Rm} (hrm : rmOf a.rm = some rm) (hc : (fcvt a.vc rm a.satb 0).isSome = true) :
    fuCvt h a = fuElem h a 4 true [a.va] (fun l => (fcvt a.vc rm a.satb (op1 l)).getD (nan32, flNone)) := by
  funext t
  simp only [fuCvt, hrm, hc]

end

/-! ### Entries that run (R303, R304, R309, R636) -/

/-- The selected lanes of an element-by-element result, each marked when an operand lane is, with their flags (R304, R636). -/
def elemLanes (t : Tile) (km : BitVec 2) (regs : List (BitVec 5)) (f : List Lane32 → Lane32 × FlagBits) :
    List (Nat × PLane × FlagBits) :=
  (selected t km).map (fun i =>
    let xs := regs.map (fun r => vget t r.toNat i)
    let r := f (xs.map PLane.bits)
    (i, ⟨r.1, xs.any PLane.poison⟩, r.2))

/-- The tile that sends the lanes of an element-by-element result. -/
def elemSent (e : SeqRun) (a : FuArgs) (lat : Nat) (regs : List (BitVec 5)) (f : List Lane32 → Lane32 × FlagBits) (t : Tile) : Tile :=
  (fuPut e lat a.vd.toNat (elemLanes t a.km regs f) t).1

/-- The comparisons of the selected lanes, with their flags (R304). -/
def cmpLanes (t : Tile) (a : FuArgs) : List (Nat × Bool × FlagBits) :=
  (selected t a.km).map (fun i => (i, fcmp (a.vc.setWidth 2) (vget t a.va.toNat i).bits (vget t a.vb.toNat i).bits))

section
variable {h : SeqHdr} {a : FuArgs} {s : State} {e : SeqRun} {t : Tile} {outs : List TOut} (hr : FuRuns h s e t outs)
include hr

/-- An FU entry whose body sends nothing out of its tile. -/
theorem fuOp_runs {body : SeqRun → Tile → Tile × List TOut} {u : Tile} (hb : body e (fuTaken t e.cyc) = (u, [])) :
    seqDo s h (fuOp h false body) = .next (tileTo s h.site u outs) := by
  rw [fuRuns_to hr (fun hodd => absurd hodd Bool.false_ne_true) rfl hb, List.append_nil]

/-- A legal element-by-element entry sends the lanes of its operation. -/
theorem elem_runs (lat : Nat) (regs : List (BitVec 5)) (f : List Lane32 → Lane32 × FlagBits) :
    seqDo s h (fuElem h a lat true regs f) = .next (tileTo s h.site (elemSent e a lat regs f (fuTaken t e.cyc)) outs) :=
  fuElem_runs hr lat regs f

theorem fuArith_runs {rm : Rm} (hrm : rmOf a.rm = some rm) (f : Rm → Lane32 → Lane32 → Lane32 × FlagBits) :
    seqDo s h (fuArith f h a) =
      .next (tileTo s h.site (elemSent e a 4 [a.va, a.vb] (fun l => f rm (op1 l) (op2 l)) (fuTaken t e.cyc)) outs) := by
  rw [fuArith_legal hrm, elem_runs hr]

theorem fma_runs {rm : Rm} (hrm : rmOf a.rm = some rm) :
    exec (.fma h a) s = .next (tileTo s h.site
      (elemSent e a 4 [a.va, a.vb, a.vc] (fun l => ffma rm (op1 l) (op2 l) (op3 l)) (fuTaken t e.cyc)) outs) := by
  change seqDo s h (fuFma h a) = _
  rw [fuFma_legal hrm, elem_runs hr]

theorem fcvt_runs {rm : Rm} (hrm : rmOf a.rm = some rm) (hc : (fcvt a.vc rm a.satb 0).isSome = true) :
    exec (.fcvt h a) s = .next (tileTo s h.site
      (elemSent e a 4 [a.va] (fun l => (fcvt a.vc rm a.satb (op1 l)).getD (nan32, flNone)) (fuTaken t e.cyc)) outs) := by
  change seqDo s h (fuCvt h a) = _
  rw [fuCvt_legal hrm hc, elem_runs hr]

/-- An element-by-element entry without a rounding mode runs when RM is 0. -/
theorem elem_runs_of_rm_zero (h0 : a.rm = 0) (lat : Nat) (regs : List (BitVec 5)) (f : List Lane32 → Lane32 × FlagBits) :
    seqDo s h (fuElem h a lat (decide (a.rm = 0)) regs f) =
      .next (tileTo s h.site (elemSent e a lat regs f (fuTaken t e.cyc)) outs) := by
  rw [decide_eq_true h0, elem_runs hr]

/-- A reduction of a legal entry broadcasts its result to the selected lanes, marked when one of these lanes is. -/
theorem reduce_runs (h0 : a.rm = 0) (f : Tile → List Nat → Lane32 × FlagBits) :
    let t0 := fuTaken t e.cyc
    let sel := selected t0 a.km
    seqDo s h (fuReduce f h a) = .next (tileTo s h.site (fuPut e 8 a.vd.toNat (sel.map (fun i =>
      (i, ⟨(f t0 sel).1, sel.any (fun i => (vget t0 a.va.toNat i).poison)⟩, (f t0 sel).2))) t0).1 outs) :=
  fuOp_runs hr (if_neg (not_not.2 h0))

/-- An FCMP of a mask register other than k0 sends its comparisons to that register. -/
theorem fcmp_runs (h0 : a.rm = 0) (hd : a.vd ≠ 0) (hd4 : a.vd.toNat < 4) :
    let t0 := fuTaken t e.cyc
    let m : BitVec 64 := (cmpLanes t0 a).foldl (fun acc r => if r.2.1 then acc ||| (1 <<< r.1) else acc) 0
    exec (.fcmp h a) s = .next (tileTo s h.site (sendEff (sendEff t0 (e.cyc + 2) (.mask a.vd.toNat m (kget t0 a.km.toNat)))
      (e.cyc + 2) (.ffu (flOr ((cmpLanes t0 a).map (fun r => r.2.2))))) outs) := by
  have hlegal : ¬ (a.rm ≠ 0 ∨ a.vd = 0 ∨ 4 ≤ a.vd.toNat) := by
    simp only [not_or, not_not, not_le]
    exact ⟨h0, hd, hd4⟩
  exact fuOp_runs hr (if_neg hlegal)

end

/-- Settles O12: legal fields make an entry its operation on each selected lane, a reduction of them, or their comparison. -/
theorem finishUnitArithmetic : Obligations.FinishUnitArithmetic := by
  unfold Obligations.FinishUnitArithmetic
  intro h a s e t outs hr t0 sel put elem un two
  refine ⟨fun rm hrm => ?rounded, fun h0 => ?unrounded⟩
  case rounded =>
    exact ⟨fuArith_runs hr hrm fadd, fuArith_runs hr hrm fsub, fuArith_runs hr hrm fmul, fma_runs hr hrm, fun hc => fcvt_runs hr hrm hc⟩
  case unrounded =>
    have binary (f : Lane32 → Lane32 → Lane32 × FlagBits) : seqDo s h (fuBin f h a) = two 2 f :=
      elem_runs_of_rm_zero hr h0 2 [a.va, a.vb] (fun l => f (op1 l) (op2 l))
    have unary (lat : Nat) (f : Lane32 → Lane32 × FlagBits) : seqDo s h (fuUn lat f h a) = un lat f :=
      elem_runs_of_rm_zero hr h0 lat [a.va] (fun l => f (op1 l))
    exact ⟨binary fmin, binary fmax, unary 2 (fsign true), unary 2 (fsign false), unary 8 frcp, unary 8 frsq, unary 8 fexp,
      unary 8 fexp2, unary 12 fsig, unary 12 ftanh, unary 12 fsilu, unary 12 fgelu,
      ⟨reduce_runs hr h0 (fun t sel => frsum sel.contains (fun i => (vget t a.va.toNat i).bits)),
        reduce_runs hr h0 (fun t sel => frmax (sel.map (fun i => (vget t a.va.toNat i).bits)))⟩, fcmp_runs hr h0⟩

end Sys2Proof.Machine
end

section
/-! The finish unit's integers, moves, sorting and random stream, and their obligation (R303, R304, R309, R440, R636). -/

namespace Sys2Proof.Machine

/-! ### Results that raise no flag (R304, R636) -/

/-- The OR of flags none of which is raised. -/
theorem flOr_eq_none {l : List FlagBits} (h : ∀ f ∈ l, f = flNone) : flOr l = flNone := by
  unfold flOr
  induction l with
  | nil => rfl
  | cons f l ih =>
    rw [List.foldl_cons, h f List.mem_cons_self]
    exact ih fun g hg => h g (List.mem_cons_of_mem f hg)

/-- The tile that sends a result to its selected lanes and raises no flag. -/
def silentSent (e : SeqRun) (a : FuArgs) (lat : Nat) (f : Nat → PLane) (t : Tile) : Tile :=
  sendEff (sendEff t (e.cyc + lat) (.vreg a.vd.toNat ((selected t a.km).map (fun i => (i, f i))))) (e.cyc + lat) (.ffu flNone)

theorem fuPut_silent (e : SeqRun) (a : FuArgs) (lat : Nat) (f : Nat → PLane) (t : Tile) :
    fuPut e lat a.vd.toNat ((selected t a.km).map (fun i => (i, f i, flNone))) t = (silentSent e a lat f t, []) := by
  have hnone : flOr (((selected t a.km).map (fun i => (i, f i, flNone))).map (fun x => if x.2.1.poison then flNone else x.2.2)) = flNone :=
    flOr_eq_none (by simp)
  rw [fuPut, hnone, List.map_map]
  rfl

/-! ### Operations on lanes (R304) -/

/-- The smaller of two signed numbers. -/
theorem ite_slt_eq_min {w : Nat} (a b : BitVec w) : (if b.slt a then b else a) = BitVec.ofInt w (min a.toInt b.toInt) := by
  by_cases h : b.toInt < a.toInt
  · rw [if_pos (BitVec.slt_iff_toInt_lt.2 h), min_eq_right h.le, BitVec.ofInt_toInt]
  · rw [if_neg (mt BitVec.slt_iff_toInt_lt.1 h), min_eq_left (not_lt.1 h), BitVec.ofInt_toInt]

/-- The larger of two signed numbers. -/
theorem ite_slt_eq_max {w : Nat} (a b : BitVec w) : (if a.slt b then b else a) = BitVec.ofInt w (max a.toInt b.toInt) := by
  by_cases h : a.toInt < b.toInt
  · rw [if_pos (BitVec.slt_iff_toInt_lt.2 h), max_eq_right h.le, BitVec.ofInt_toInt]
  · rw [if_neg (mt BitVec.slt_iff_toInt_lt.1 h), max_eq_left (not_lt.1 h), BitVec.ofInt_toInt]

/-- The upper half of a register is named by bit 4 of VC (R304). -/
theorem upperHalf_eq (vc : BitVec 5) : (if vc.getLsbD 4 then 32 else 0) = 32 * (vc.toNat / 16) := by
  revert vc
  decide

/-- The lane that FSEL copies. -/
theorem fselLane_eq (t : Tile) (a : FuArgs) (i : Nat) :
    vget t (if (kget t (a.vc.setWidth 2).toNat).getLsbD i then a.va else a.vb).toNat i =
      if (kget t (a.vc.toNat % 4)).getLsbD i then vget t a.va.toNat i else vget t a.vb.toNat i := by
  rw [BitVec.toNat_setWidth]
  exact apply_ite (fun r : BitVec 5 => vget t r.toNat i) _ _ _

/-! ### Entries that run (R303, R304, R309, R440) -/

/-- The tile that sends one of VTOPM's four results to the selected lanes of a register. -/
def topSent (e : SeqRun) (sel : List Nat) (u : Tile) (r : Nat) (g : Nat → PLane) : Tile :=
  sendEff u (e.cyc + 8) (.vreg r (sel.map (fun i => (i, g i))))

/-- The pairs of VTOPM, those of VD and VD + 1 before those of VA and VB, in order (R309). -/
def topPairs (t : Tile) (a : FuArgs) : List TopPair :=
  topSort ((List.range 64).map (fun i => ⟨vget t a.vd.toNat i, vget t (a.vd.toNat + 1) i⟩) ++
    (List.range 64).map (fun i => ⟨vget t a.va.toNat i, vget t a.vb.toNat i⟩))

section
variable {h : SeqHdr} {a : FuArgs} {s : State} {e : SeqRun} {t : Tile} {outs : List TOut} (hr : FuRuns h s e t outs) (h0 : a.rm = 0)
include hr h0

/-- An element-by-element entry of RM 0 without flags. -/
theorem silentElem_runs (regs : List (BitVec 5)) (f : List Lane32 → Lane32) :
    let xs := fun (i : Nat) => regs.map (fun r => vget (fuTaken t e.cyc) r.toNat i)
    seqDo s h (fuElem h a 2 (decide (a.rm = 0)) regs (fun l => (f l, flNone))) = .next (tileTo s h.site
      (silentSent e a 2 (fun i => ⟨f ((xs i).map PLane.bits), (xs i).any PLane.poison⟩) (fuTaken t e.cyc)) outs) := by
  intro xs
  rw [elem_runs_of_rm_zero hr h0]
  exact congrArg (fun p : Tile × List TOut => Host.Outcome.next (tileTo s h.site p.1 outs))
    (fuPut_silent e a 2 (fun i => ⟨f ((xs i).map PLane.bits), (xs i).any PLane.poison⟩) (fuTaken t e.cyc))

/-- An INT32 operation marks a lane when one of its two operand lanes is marked. -/
theorem fuInt_runs (f : Lane32 → Lane32 → Lane32) :
    let x := vget (fuTaken t e.cyc) a.va.toNat
    let y := vget (fuTaken t e.cyc) a.vb.toNat
    seqDo s h (fuInt f h a) = .next (tileTo s h.site
      (silentSent e a 2 (fun i => ⟨f (x i).bits (y i).bits, (x i).poison || (y i).poison⟩) (fuTaken t e.cyc)) outs) := by
  have hrun := silentElem_runs hr h0 [a.va, a.vb] (fun l => f (op1 l) (op2 l))
  simp only [List.map_cons, List.map_nil, List.any_cons, List.any_nil, Bool.or_false] at hrun
  exact hrun

theorem vmov_runs :
    exec (.vmov h a) s = .next (tileTo s h.site (silentSent e a 2 (vget (fuTaken t e.cyc) a.va.toNat) (fuTaken t e.cyc)) outs) := by
  have hrun := silentElem_runs hr h0 [a.va] op1
  simp only [List.map_cons, List.map_nil, List.any_cons, List.any_nil, Bool.or_false] at hrun
  exact hrun

/-- FSEL copies its lanes with their marks. -/
theorem fsel_runs :
    let t0 := fuTaken t e.cyc
    exec (.fsel h a) s = .next (tileTo s h.site (silentSent e a 2 (fun i =>
      if (kget t0 (a.vc.toNat % 4)).getLsbD i then vget t0 a.va.toNat i else vget t0 a.vb.toNat i) t0) outs) := by
  intro t0
  simp only [← fselLane_eq]
  exact fuOp_runs hr ((if_neg (not_not.2 h0)).trans (fuPut_silent ..))

/-- FBC copies one lane to every selected one. -/
theorem fbc_runs :
    let t0 := fuTaken t e.cyc
    exec (.fbc h a) s = .next (tileTo s h.site
      (silentSent e a 2 (fun _ => vget t0 a.va.toNat (a.vb.toNat + 32 * (a.vc.toNat / 16))) t0) outs) := by
  intro t0
  rw [← upperHalf_eq]
  exact fuOp_runs hr ((if_neg (not_not.2 h0)).trans (fuPut_silent e a 2 _ t0))

theorem viota_runs :
    let x := vget (fuTaken t e.cyc) a.va.toNat 0
    exec (.viota h a) s = .next (tileTo s h.site
      (silentSent e a 2 (fun i => ⟨x.bits + BitVec.ofNat 32 i, x.poison⟩) (fuTaken t e.cyc)) outs) :=
  fuOp_runs hr ((if_neg (not_not.2 h0)).trans (fuPut_silent ..))

/-- VRNG takes its key from four lanes of VA, and the two numbers of its stream from VB. -/
theorem vrng_runs :
    let t0 := fuTaken t e.cyc
    let key := (List.range 4).map (vget t0 a.va.toNat)
    let q := vget t0 a.vb.toNat 0
    let n := vget t0 a.vb.toNat 1
    exec (.vrng h a) s = .next (tileTo s h.site (silentSent e a 12 (fun i =>
      ⟨vrngLane (key.map PLane.bits) q.bits n.bits i, key.any PLane.poison || q.poison || n.poison⟩) t0) outs) :=
  fuOp_runs hr ((if_neg (not_not.2 h0)).trans (fuPut_silent ..))

/-- VTOPM writes the first 64 pairs to the even VD and VD + 1 and the others to VA and VB, which are two other registers. -/
theorem vtopm_runs (heven : a.vd.toNat % 2 = 0) (hab : a.va ≠ a.vb) (ha : a.va.toNat / 2 ≠ a.vd.toNat / 2)
    (hb : a.vb.toNat / 2 ≠ a.vd.toNat / 2) :
    let t0 := fuTaken t e.cyc
    let nth := fun (n : Nat) => lget (⟨PLane.zero, PLane.zero⟩ : TopPair) (topPairs t0 a) n
    let put := topSent e (selected t0 a.km)
    exec (.vtopm h a) s = .next (tileTo s h.site
      (put (put (put (put t0 a.vd.toNat (fun i => (nth i).v)) (a.vd.toNat + 1) (fun i => (nth i).i)) a.va.toNat
        (fun i => (nth (64 + i)).v)) a.vb.toNat (fun i => (nth (64 + i)).i)) outs) := by
  intro t0 nth put
  have hlegal : ¬ (a.rm ≠ 0 ∨ a.vd.toNat % 2 = 1 ∨ a.va.toNat = a.vd.toNat ∨ a.va.toNat = a.vd.toNat + 1 ∨
      a.vb.toNat = a.vd.toNat ∨ a.vb.toNat = a.vd.toNat + 1) := by
    rw [not_or, not_not]
    exact ⟨h0, by omega⟩
  exact fuOp_runs hr ((if_neg hlegal).trans (if_neg (mt BitVec.eq_of_toNat_eq hab)))

end

/-- Settles O13: with RM = 0 each entry runs, and its result is the lanes that its operation copies or computes. -/
theorem finishUnitIntegersAndMoves : Obligations.FinishUnitIntegersAndMoves := by
  unfold Obligations.FinishUnitIntegersAndMoves
  intro h a s e t outs hr h0 t0 sel put x y two
  have int (f : Lane32 → Lane32 → Lane32) : seqDo s h (fuInt f h a) = two f := fuInt_runs hr h0 f
  have signed (f g : Lane32 → Lane32 → Lane32) (hfg : ∀ p q, f p q = g p q) : seqDo s h (fuInt f h a) = two g :=
    funext₂ hfg ▸ int f
  exact ⟨int (fun p q => p + q), int (fun p q => p - q), int (fun p q => p &&& q), int (fun p q => p ||| q), int (fun p q => p ^^^ q),
    int (fun p q => p <<< (q.toNat % 32)), int (fun p q => p.sshiftRight (q.toNat % 32)),
    signed _ (fun p q => BitVec.ofInt 32 (min p.toInt q.toInt)) ite_slt_eq_min,
    signed _ (fun p q => BitVec.ofInt 32 (max p.toInt q.toInt)) ite_slt_eq_max,
    vmov_runs hr h0, fsel_runs hr h0, fbc_runs hr h0, viota_runs hr h0, vrng_runs hr h0, vtopm_runs hr h0⟩

end Sys2Proof.Machine
end

section
/-! Reports on their way to the error log, and their obligation (R284, R547, R564, R565, R631). -/

namespace Sys2Proof.Machine

/-! ### A report reaches the service die (R547, R564) -/

theorem intakeRpt_enters {r : Rpt} {f : Flt} (h : f.intake.length < 64) : intakeRpt r f = { f with intake := f.intake ++ [r] } :=
  if_neg (Nat.not_le.2 h)

theorem intakeRpt_overflows {r : Rpt} {f : Flt} (h : 64 ≤ f.intake.length) : intakeRpt r f = { f with inOvf := satInc f.inOvf } :=
  if_pos h

/-- A report in flight leaves the flight alone: no message of a lath queue is taken for it. -/
theorem exec_errReport_of_mem {a : RptArgs} {s : State} (h : rptOf a ∈ s.flt.flight) :
    exec (.errReport a) s = .next { s with flt := intakeRpt (rptOf a) { s.flt with flight := s.flt.flight.erase (rptOf a) } } := by
  change execErrReport a s = _
  unfold execErrReport
  have hin : (!s.flt.flight.contains (rptOf a)) = false := by simpa using h
  simp only [hin, Bool.false_eq_true, and_false, if_false]
  rfl

/-! ### The oldest report is drained (R564, R565) -/

/-- The entries that a report may coalesce with: the latest 64, the newest first (R565). -/
def logRecent (f : Flt) : List Nat := (List.range (min 64 f.wr.toNat)).map (fun i => f.wr.toNat - 1 - i)

/-- The entry of the log that a report updates, when there is one. -/
def logHit (now : Word) (r : Rpt) (f : Flt) : Option Nat := (logRecent f).find? (fun i => coalesces r now (logAt f i))

/-- A new entry of the log for a report (R564). -/
def logNew (now : Word) (r : Rpt) : LogEntry := ⟨now, 0, 1, r.code, r.detail.length, BitVec.ofNat 16 r.src, r.unit, r.detail⟩

theorem exec_errorLogEntry_of_cons {s : State} {r : Rpt} {rest : List Rpt} (h : s.flt.intake = r :: rest) :
    exec .errorLogEntry s = .next { s with flt := logRpt (moduleNs s) r { s.flt with intake := rest } } := by
  change execErrorLogEntry s = _
  unfold execErrorLogEntry
  rw [h]
  rfl

section
variable {now : Word} {r : Rpt} {f : Flt}

/-- A report that coalesces updates the last time and the count of its entry. -/
theorem logRpt_coalesces {i : Nat} (h : logHit now r f = some i) :
    logRpt now r f = logPut f i { logAt f i with
      lastDt := (now - (logAt f i).first).setWidth 32
      count := if (logAt f i).count = 0xFFFF then 0xFFFF else (logAt f i).count + 1 } := by
  unfold logHit logRecent at h
  unfold logRpt
  simp only [h]

/-- A log that is full of unread entries loses the report. -/
theorem logRpt_lost (h : logHit now r f = none) (hfull : (f.wr - f.rd).toNat = 4096) :
    logRpt now r f = { f with lost := satInc f.lost } := by
  unfold logHit logRecent at h
  unfold logRpt
  simp only [h]
  exact if_pos hfull

/-- Another report takes the next entry. -/
theorem logRpt_appends (h : logHit now r f = none) (hfree : (f.wr - f.rd).toNat ≠ 4096) :
    logRpt now r f = { logPut f f.wr.toNat (logNew now r) with wr := f.wr + 1 } := by
  unfold logHit logRecent at h
  unfold logRpt
  simp only [h]
  exact if_neg hfree

end

/-- An entry of the log after one was stored: indices are taken modulo the 4,096 slots. -/
theorem logAt_logPut (f : Flt) (i j : Nat) (e : LogEntry) :
    logAt (logPut f i e) j = if j % 4096 = i % 4096 then e else logAt f j := sget_sset ..

/-- Settles O22: the room in the intake queue, a coalescing entry and the room in the log select what becomes of a report. -/
theorem reportsAreLogged : Obligations.ReportsAreLogged := by
  unfold Obligations.ReportsAreLogged
  refine ⟨?intake, ?drain⟩
  case intake =>
    intro a s r hr
    rw [exec_errReport_of_mem hr]
    refine ⟨fun h => ?enters, fun h => ?overflows⟩
    case enters => rw [intakeRpt_enters]; exact h
    case overflows => rw [intakeRpt_overflows]; exact h
  case drain =>
    intro s r rest hq f now back hit
    rw [exec_errorLogEntry_of_cons hq]
    refine ⟨fun i hi => ?coalesces, fun hn hfull => ?lost, fun hn hfree => ⟨_, rfl, ?appends, ?others⟩⟩
    case coalesces => exact congrArg (fun g => Host.Outcome.next { s with flt := g }) (logRpt_coalesces hi)
    case lost => exact congrArg (fun g => Host.Outcome.next { s with flt := g }) (logRpt_lost hn hfull)
    case appends =>
      rw [logRpt_appends hn hfree]
      rfl
    case others =>
      rw [logRpt_appends hn hfree]
      exact fun j => logAt_logPut f f.wr.toNat j (logNew now r)

end Sys2Proof.Machine
end

section
/-! Signed commands, key installs, the fuses and the debug levels, and their obligation (R524-R528, R534, R537, R540, R541, R543). -/

namespace Sys2Proof.Machine

/-! ### The end of a GO (R527, R543) -/

/-- A GO that the result does not let act leaves OP, RESULT and a new challenge, and the rest of the module as it was. -/
theorem secAct_refused (op : BitVec 3) {r : SecResult} (f : State → State) (s : State) (h : r ≠ .ok) : secAct op r f s = { s with
    draws := s.draws + 1
    sec := { s.sec with
      op := op
      result := r.code
      chal := Config.challenge s.draws } } := by
  rw [secAct, if_neg h]
  rfl

/-! ### What every signed command is checked for (R525, R527) -/

/-- Whether the inbox holds a command of one kind to this module, with its reserved bytes 0. -/
def laidOut (c : Sec) (cmd : Byte) : Prop :=
  inboxLe c 0 4 = 0x53434D31 ∧ inboxLe c 4 8 = Config.stackSn.toNat ∧ inboxLe c 20 1 = cmd.toNat ∧ inboxLe c 24 8 = 0

section
variable {c : Sec} {cmd : Byte}

theorem signedCheck_bad (o : Signed) (h : ¬ laidOut c cmd) : signedCheck c cmd o = .bad :=
  if_pos (by simpa only [laidOut, not_and_or] using h)

/-- A command that is laid out is judged by its challenge, then by its signature. -/
theorem signedCheck_of_laidOut (o : Signed) (h : laidOut c cmd) : signedCheck c cmd o =
    if inboxLe c 12 8 ≠ c.chal.toNat then .chal
    else if sigHolds c o (inboxLe c 22 2) (inboxBytes c 0 32) (inboxBytes c 32 96) then .ok
    else .sig :=
  if_neg (by simpa only [laidOut, not_or, not_not] using h)

end

/-! ### What each signed command finds (R524, R527, R534, R537, R541) -/

theorem lifecycleCheck_eq (c : Sec) : lifecycleCheck c =
    if signedCheck c 1 .lifecycle = .ok then if c.lcPend = true ∨ lcMay c (inboxLe c 21 1) = false then .state else .ok
    else signedCheck c 1 .lifecycle := by
  unfold lifecycleCheck
  cases signedCheck c 1 .lifecycle <;> simp

theorem debugCheck_eq (c : Sec) : debugCheck c =
    if signedCheck c 2 .debug = .ok then if 3 < inboxLe c 21 1 then .bad else .ok
    else signedCheck c 2 .debug := by
  unfold debugCheck
  cases signedCheck c 2 .debug <;> simp

theorem revokeCheck_eq (c : Sec) : revokeCheck c =
    if signedCheck c 3 .lifecycle = .ok then
      if 8 ≤ inboxLe c 21 1 ∨ (ownerKey c (inboxLe c 21 1)).written = false then .bad
      else if ownerAccepted c.lc = false ∨ lcSlots c = [inboxLe c 21 1] then .state else .ok
    else signedCheck c 3 .lifecycle := by
  unfold revokeCheck
  cases signedCheck c 3 .lifecycle <;> simp

/-- The security unit after a revocation: the sessions that close leave it alone. -/
theorem revokeSlot_sec (n : Nat) (s : State) : (revokeSlot n s).sec = { s.sec with
    owners := supd OwnerKey.none s.sec.owners n (fun k => { k with revoked := true }) } :=
  foldl_keep _ (fun t => t.sec = _) (fun t id ht => (sessClose_sec false id t).trans ht) _ _ rfl

theorem ownerKey_revokeSlot (n : Nat) (s : State) : (ownerKey (revokeSlot n s).sec n).revoked = true := by
  rw [revokeSlot_sec, ownerKey, supd, sget_sset_same]

/-! ### Key installs and the roll-back minimum (R525, R526, R528) -/

/-- A key install that is performed carries the challenge, a signature that holds, a key unless it erases, and names a slot that is
not in use. -/
theorem of_installCheck_ok {s : State} (h : installCheck s = .ok) :
    let c := s.sec
    let kind := inboxLe c 97 1
    let ix := inboxLe c 98 2
    inboxLe c 104 8 = c.chal.toNat ∧ sigHolds c .keywrap (inboxLe c 100 2) (inboxBytes c 0 152) (inboxBytes c 152 96) = true ∧
      (kind ≠ 3 → (wrappedKey c).isSome = true) ∧ (kind = 1 → sealInUse s ix = false) ∧ (kind = 2 → deliveryNames s ix = false) ∧
      1 ≤ kind ∧ kind ≤ 3 := by
  intro c kind ix
  simp only [installCheck] at h
  split_ifs at h with hform hchal hsig hbusy hwrap
  simp only [not_or] at hform
  obtain ⟨hzero, hthree, -⟩ := hform
  obtain ⟨hseal, hdel⟩ := not_or.1 hbusy
  refine ⟨not_not.1 hchal, by simpa using hsig, fun hk => ?key, fun hk => ?tenant, fun hk => ?weight,
    Nat.one_le_iff_ne_zero.2 hzero, Nat.le_of_not_lt hthree⟩
  case key =>
    rw [← Option.not_isNone, Bool.not_eq_true']
    exact eq_false_of_ne_true fun hn => hwrap ⟨hk, hn⟩
  case tenant => exact eq_false_of_ne_true fun hs => hseal ⟨hk, hs⟩
  case weight => exact eq_false_of_ne_true fun hd => hdel ⟨hk, hd⟩

section
variable {s : State}

theorem installKey_seal (h : inboxLe s.sec 97 1 = 1) : installKey s = onSec (fun c => { c with
    seals := sset none c.seals (inboxLe s.sec 98 2) (wrappedKey c) }) s := by
  simp only [installKey, h]

theorem installKey_weight (h : inboxLe s.sec 97 1 = 2) : installKey s = onSec (fun c => { c with
    weights := sset none c.weights (inboxLe s.sec 98 2) (wrappedKey c) }) s := by
  simp only [installKey, h]

theorem installKey_erases (h : inboxLe s.sec 97 1 = 3) : installKey s = onSec (fun c => { c with
    seals := sset none c.seals (inboxLe s.sec 98 2) none
    weights := sset none c.weights (inboxLe s.sec 98 2) none }) s := by
  simp only [installKey, h]

theorem rollbackCheck_of_image {i : Image} (h : s.load.img = some i) : rollbackCheck s =
    if ownerAccepted s.sec.lc = true ∧ s.sec.rbMin.toNat < s.sec.rbNew.toNat ∧ s.sec.rbNew.toNat ≤ i.hdr.secVer then .ok else .bad := by
  simp only [rollbackCheck, h]

end

/-! ### Debug levels (R537, R540) -/

/-- Every state grants levels 0 and 1, whatever the token. -/
theorem levelMay_of_le_one (lc tm : BitVec 2) {l : Nat} (h : l ≤ 1) : levelMay lc tm l = true := by
  unfold levelMay
  split <;> simp [h, Nat.le_succ_of_le h]

/-- A request that is not granted is above level 1. -/
theorem one_lt_of_not_levelMay {lc tm req : BitVec 2} (h : ¬ levelMay lc tm req.toNat = true) : 1 < req.toNat :=
  Nat.lt_of_not_le (mt (levelMay_of_le_one lc tm) h)

section
variable (lc tm req : BitVec 2)

theorem levelFor_le : (levelFor lc tm req).toNat ≤ req.toNat := by
  unfold levelFor
  split_ifs with hreq htwo
  · exact le_rfl
  · exact htwo.1
  · exact (one_lt_of_not_levelMay hreq).le

theorem levelMay_levelFor : levelMay lc tm (levelFor lc tm req).toNat = true := by
  unfold levelFor
  split_ifs with hreq htwo
  · exact hreq
  · exact htwo.2.1
  · exact levelMay_of_le_one lc tm le_rfl

/-- A granted level up to the request is no higher than the level that the request gets. -/
theorem le_levelFor {l : Nat} (hl : l ≤ req.toNat) (hm : levelMay lc tm l = true) : l ≤ (levelFor lc tm req).toNat := by
  unfold levelFor
  have hlt := req.isLt
  split_ifs with hreq htwo
  · exact hl
  all_goals have hne : l ≠ req.toNat := fun e => hreq (e ▸ hm)
  · show l ≤ 2
    omega
  · have h2 : l ≠ 2 := by
      rintro rfl
      exact htwo ⟨hl, hm, BitVec.eq_of_toNat_eq (show req.toNat = 3 by omega)⟩
    show l ≤ 1
    omega

end

/-- Settles O49: each GO ends in `secAct` with what its check finds, and the fields of the inbox and of the fuses select the branch of
the check. -/
theorem securityCommandsAct : Obligations.SecurityCommandsAct := by
  unfold Obligations.SecurityCommandsAct
  refine ⟨fun op r f s => ⟨rfl, rfl, secAct_refused op f s⟩, ?signed, ?commands, fun n s _ => ownerKey_revokeSlot n s, ?install,
    fun s => ⟨rfl, fun i => rollbackCheck_of_image⟩, fun slot s => rfl, ?level⟩
  case signed =>
    intro c cmd o laid signed
    refine ⟨signedCheck_bad o, fun hl hc => ?chal, fun hl hc hs => ?sig, fun hl hc hs => ?ok⟩ <;> rw [signedCheck_of_laidOut o hl]
    case chal => rw [if_pos hc]
    case sig => rw [if_neg (not_not.2 hc), if_neg (ne_true_of_eq_false hs)]
    case ok => rw [if_neg (not_not.2 hc), if_pos hs]
  case commands =>
    intro s c n
    exact ⟨rfl, fun h => (lifecycleCheck_eq c).trans (if_pos h), fun h => (lifecycleCheck_eq c).trans (if_neg h),
      rfl, fun h => (debugCheck_eq c).trans (if_pos h), fun h => (debugCheck_eq c).trans (if_neg h),
      rfl, fun h => (revokeCheck_eq c).trans (if_pos h), fun h => (revokeCheck_eq c).trans (if_neg h)⟩
  case install => exact fun s => ⟨rfl, of_installCheck_ok, installKey_seal, installKey_weight, installKey_erases⟩
  case level =>
    intro req s
    exact ⟨rfl, fun c => ⟨rfl, rfl, levelFor_le _ _ _, levelMay_levelFor _ _ _, fun l => le_levelFor _ _ _⟩⟩

end Sys2Proof.Machine
end

section
/-! The hazard detector, the test access port, the indicator drives and the pulse per second, and their obligation (R324-R326, R615,
R617, R624-R627). -/

namespace Sys2Proof.Machine

/-! ### The hazard detector (R324-R326) -/

theorem hazFreq_member (k : Nat) {s : State} (h : s.pod.st = 2) : hazFreq k s = s := if_pos h

theorem hazFreq_alone (k : Nat) {s : State} (h2 : s.pod.st ≠ 2) (h3 : s.pod.st ≠ 3) : hazFreq k s = freqStep k s := by
  rw [hazFreq, if_neg h2, freqLead, if_neg h3]

theorem hazFreq_hawk (k : Nat) {s : State} (h : s.pod.st = 3) : hazFreq k s =
    freqStep k (sendMembers false 0x49 (fields [(0, k), (16, (s.frames + 16) % 2 ^ 48)]) [] s) := by
  rw [hazFreq, if_neg (by rw [h]; decide), freqLead, if_pos h]

theorem exec_hazEn (on : Bool) (s : State) : exec (.hazEn on) s = .next (
    if s.sec.level.toNat < 2 ∨ on = s.svc.hazEn then s
    else if on then hazRefresh (hazFreq 8 { s with svc := { s.svc with
      hazEn := true
      hazPrev := s.clk.k } })
    else hazRefresh (hazFreq s.svc.hazPrev.toNat { s with svc := { s.svc with hazEn := false } })) := rfl

theorem hazEn_ignored {on : Bool} {s : State} (h : s.sec.level.toNat < 2 ∨ on = s.svc.hazEn) : exec (.hazEn on) s = .next s := by
  rw [exec_hazEn, if_pos h]

section
variable {s : State} (h2 : 2 ≤ s.sec.level.toNat)
include h2

theorem hazEn_enables (h : s.svc.hazEn = false) : exec (.hazEn true) s = .next (hazRefresh (hazFreq 8 { s with svc := { s.svc with
    hazEn := true
    hazPrev := s.clk.k } })) := by
  rw [exec_hazEn, if_neg (not_or.2 ⟨Nat.not_lt.2 h2, by simp [h]⟩), if_pos rfl]

theorem hazEn_disables (h : s.svc.hazEn = true) : exec (.hazEn false) s =
    .next (hazRefresh (hazFreq s.svc.hazPrev.toNat { s with svc := { s.svc with hazEn := false } })) := by
  rw [exec_hazEn, if_neg (not_or.2 ⟨Nat.not_lt.2 h2, by simp [h]⟩), if_neg Bool.false_ne_true]

end

theorem hazLive_iff (s : State) : hazLive s = true ↔ s.svc.hazEn = true ∧ 2 ≤ s.sec.level.toNat ∧ s.clk.k = 8 := by
  simp [hazLive, and_assoc]

/-- What a tile's detector holds of a hazard code: the count, the first one's cycle offset and its store index. -/
def hazHeld (s : State) (site code : Nat) : Nat × Nat × Nat := sget (0, 0, 0) (tileAt s site).pad.haz code

/-- The module once a tile has reported the hazards of a code and forgotten them. -/
def hazReported (s : State) (site : Nat) (code : BitVec 4) : State :=
  let t := tileAt s site
  let e := hazHeld s site code.toNat
  sendRpt (tilePut s site { t with pad := { t.pad with haz := sdel t.pad.haz code.toNat } }) site 0x14 (BitVec.ofNat 64 site)
    [BitVec.ofNat 64 code.toNat, BitVec.ofNat 64 (e.2.1 % 2048), BitVec.ofNat 64 (if code = 3 ∨ code = 4 then e.2.2 else 0),
      BitVec.ofNat 64 e.1]

theorem exec_hazard (site : Site) (code : BitVec 4) (s : State) : exec (.hazard site code) s =
    if (!hazLive s || (hazHeld s site code.toNat).1 == 0) = true then .next s
    else .next (if s.svc.hazStop = true then freezeStart 3 (hazReported s site code) else hazReported s site code) := rfl

section
variable {site : Site} {code : BitVec 4} {s : State}

theorem hazard_rests (h : hazLive s = false ∨ (hazHeld s site code.toNat).1 = 0) : exec (.hazard site code) s = .next s := by
  rw [exec_hazard, if_pos (by simpa using h)]

theorem hazard_reports (hl : hazLive s = true) (hn : (hazHeld s site code.toNat).1 ≠ 0) : exec (.hazard site code) s =
    .next (if s.svc.hazStop = true then freezeStart 3 (hazReported s site code) else hazReported s site code) := by
  rw [exec_hazard, if_neg (by simp [hl, hn])]

end

/-! ### The test access port (R615, R617) -/

section
variable {s : State}

/-- While TEST_EN is 0 an instruction of the port does nothing. -/
theorem tapDo_closed (h : strapTest s = false) (ir : TapIr) (out : List Bool) (f : Svc → Svc) : tapDo ir out f s = s :=
  if_neg (ne_true_of_eq_false h)

theorem tapDo_open (h : strapTest s = true) (ir : TapIr) (out : List Bool) (f : Svc → Svc) : tapDo ir out f s =
    { s with svc := f { s.svc with
      tapIr := ir
      tapOut := out } } := if_pos h

theorem exec_idcode : exec .idcode s = .next (tapDo .idcode (bitsLow 32 0x100964B7) id s) := rfl

theorem exec_frzData : exec .frzData s = .next (tapDo .frzData (bitsLow 64 (frzWord s).1.toNat ++ bitsLow 2 (frzWord s).2)
    (fun v => { v with tapSel := v.tapSel + 8 }) s) := rfl

theorem samplePreload_closed (h : strapTest s = false) (bits : List Bool) : exec (.samplePreload bits) s = .next s :=
  congrArg Host.Outcome.next (if_neg (ne_true_of_eq_false h))

theorem samplePreload_open (h : strapTest s = true) (bits : List Bool) : exec (.samplePreload bits) s = .next { s with
    draws := s.draws + 1
    svc := { s.svc with
      bsr := bits
      tapIr := .samplePreload
      tapOut := captured s bits.length } } :=
  congrArg Host.Outcome.next ((if_pos h).trans (tapDo_open (s := { s with draws := s.draws + 1 }) h _ _ _))

/-- EXTEST is not performed while TEST_EN is 0, nor in PRODUCTION and RETIRED below D3. -/
theorem extest_refused (h : ¬ (strapTest s = true ∧ (s.sec.lc.toNat ≤ 1 ∨ s.sec.level = 3))) : exec .extest s = .next s :=
  congrArg Host.Outcome.next (if_neg h)

theorem extest_open (h : strapTest s = true) (hmay : s.sec.lc.toNat ≤ 1 ∨ s.sec.level = 3) : exec .extest s = .next { s with
    draws := s.draws + 1
    svc := { s.svc with
      tapIr := .extest
      tapOut := captured s s.svc.bsr.length } } :=
  congrArg Host.Outcome.next ((if_pos ⟨h, hmay⟩).trans (tapDo_open (s := { s with draws := s.draws + 1 }) h _ _ _))

end

/-- A word and its tag, shifted out lowest bit first (R617). -/
theorem bitsLow_append_getElem? (w tag : Nat) :
    (∀ i, i < 64 → (bitsLow 64 w ++ bitsLow 2 tag)[i]? = some (w.testBit i)) ∧
    ∀ j, j < 2 → (bitsLow 64 w ++ bitsLow 2 tag)[64 + j]? = some (tag.testBit j) := by
  refine ⟨fun i hi => ?word, fun j hj => ?tag⟩
  case word => rw [List.getElem?_append_left (by rwa [bitsLow_length]), bitsLow_get 64 w i hi]
  case tag =>
    rw [List.getElem?_append_right (by rw [bitsLow_length]; omega), bitsLow_length, Nat.add_sub_cancel_left, bitsLow_get 2 tag j hj]

/-- No word is there outside a freeze, nor off the words' addresses (R615). -/
theorem frzWord_unavailable {s : State} (h : s.svc.frz ≠ 2 ∨ s.svc.tapSel.toNat % 8 ≠ 0) : frzWord s = (0, 3) := by
  unfold frzWord
  by_cases hf : s.svc.frz = 2
  · have ha : s.svc.tapSel.toNat % 8 ≠ 0 := h.resolve_left (not_not.2 hf)
    simp only [hf, ha, ne_eq, not_true, if_false, not_false_eq_true, if_true]
  · exact if_pos hf

/-- A word that the state does not let an operator read is masked (R536, R615). -/
theorem frzWord_masked {s : State} (hf : s.svc.frz = 2) (ha : s.svc.tapSel.toNat % 8 = 0) (hm : mayRead s s.svc.tapSel.toNat = false) :
    frzWord s = (0, 2) := by
  simp only [frzWord, hf, ha, hm, ne_eq, not_true, if_false, Bool.not_false, if_true]

/-! ### Indicator drives (R625-R627) -/

section
variable (n : Fin 4) (c a o : Bool) (s : State)

theorem exec_ledPeriod : exec (.ledPeriod n c a o) s = .next { s with svc := { s.svc with
    leds := sset Led.reset s.svc.leds n (ledStep (!(ledAt s n).fn || ledFn s n) c a o (ledAt s n)) } } := rfl

end

/-- Whether the driver sees a pulse of a lit LED that is long enough: from DUTY 3 on, or the one stretched pulse in 256 periods. -/
def ledJudged (lit : Bool) (l : Led) : Prop := lit = true ∧ (3 ≤ l.duty.toNat ∨ (l.stretch = true ∧ (l.phase + 1) % 256 = 0))

/-- What one pulse shows: OPEN, SHORT or OK. -/
def ledSeen (current50 atSetting over3 : Bool) : BitVec 2 :=
  if current50 = true then 1 else if atSetting = true ∧ over3 = true then 2 else 0

section
variable (c a o : Bool) {lit : Bool} {l : Led}

theorem ledStep_judged (h : ledJudged lit l) : ledStep lit c a o l = { l with
    phase := (l.phase + 1) % 256
    since := 0
    lastDiag := some (ledSeen c a o)
    diag := if l.lastDiag = some (ledSeen c a o) then ledSeen c a o else l.diag } :=
  if_pos (by simpa [ledJudged] using h)

theorem ledStep_unjudged (h : ¬ ledJudged lit l) : ledStep lit c a o l = { l with
    phase := (l.phase + 1) % 256
    since := min 256 (l.since + 1)
    diag := if 256 ≤ l.since + 1 then 3 else l.diag } :=
  if_neg (by simpa [ledJudged] using h)

end

/-- Settles O56: the debug level and the enable select what the detector does, TEST_EN and the state what the test access port does, and
the pulse's length what the driver of an LED learns. -/
theorem detectorTestPortAndBoardAct : Obligations.DetectorTestPortAndBoardAct := by
  unfold Obligations.DetectorTestPortAndBoardAct
  refine ⟨?enable, fun k s => ⟨hazFreq_member k, hazFreq_alone k, hazFreq_hawk k⟩, ?hazard, hazLive_iff, ?closed, ?opened,
    fun s => ⟨frzWord_unavailable, frzWord_masked⟩, ?led, ?diagnosis, fun s => rfl⟩
  case enable =>
    intro on s
    refine ⟨hazEn_ignored, ?_, ?_⟩
    · rintro h2 rfl h
      exact hazEn_enables h2 h
    · rintro h2 rfl h
      exact hazEn_disables h2 h
  case hazard =>
    intro site code s t e ix s2
    refine ⟨hazard_rests, fun hl hn hs => ?report, fun hl hn hs => ?freeze⟩ <;> rw [hazard_reports hl hn]
    case report => rw [if_neg (ne_true_of_eq_false hs)]; rfl
    case freeze => rw [if_pos hs]; rfl
  case closed =>
    intro tdi bits addr s h
    have idle (ir out f) : Host.Outcome.next (tapDo ir out f s) = (.next s : Host.Outcome State Fault Refusal) :=
      congrArg _ (tapDo_closed h ir out f)
    exact ⟨idle _ _ _, idle _ _ _, samplePreload_closed h bits, extest_refused (fun ht => ne_true_of_eq_false h ht.1), idle _ _ _,
      idle _ _ _⟩
  case opened =>
    intro tdi bits addr s h
    refine ⟨?idcode, congrArg _ (tapDo_open h _ _ _), samplePreload_open h bits, extest_open h, fun hlc hd => ?refused,
      congrArg _ (tapDo_open h _ _ _), ?data⟩
    case idcode =>
      rw [exec_idcode, tapDo_open h]
      exact ⟨_, rfl, rfl, bitsLow_length _ _, fun i hi => bitsLow_get _ _ i hi⟩
    case refused => exact extest_refused fun ht => ht.2.elim (Nat.not_le.2 hlc) hd
    case data =>
      rw [exec_frzData, tapDo_open h]
      obtain ⟨hword, htag⟩ := bitsLow_append_getElem? (frzWord s).1.toNat (frzWord s).2
      exact ⟨_, rfl, rfl, by rw [List.length_append, bitsLow_length, bitsLow_length], rfl, hword, htag 0 (by decide), htag 1 (by decide)⟩
  case led =>
    intro n c a o s
    exact ⟨_, exec_ledPeriod n c a o s, sget_sset_same _ _ _ _, fun m hm => sget_sset_other _ _ hm _, rfl⟩
  case diagnosis =>
    intro lit c a o l r d judged
    refine ⟨fun h => ?judged, fun h => ?unjudged⟩
    case judged =>
      have hd : d = _ := ledStep_judged c a o h
      rw [hd]
      exact ⟨rfl, rfl, rfl⟩
    case unjudged =>
      have hd : d = _ := ledStep_unjudged c a o h
      rw [hd]
      exact ⟨rfl, fun h255 => if_pos (Nat.succ_le_succ h255), fun h255 => if_neg (by omega)⟩

end Sys2Proof.Machine
end

section
/-! What every step of the module keeps, and its obligations: the front command, the invariant, and what is burnt (R366, R516, R524,
R526, R534, R541, R582, R589, R615). -/

namespace Sys2Proof.Machine

/-- A step performs the front command with the rest of the queue. -/
theorem step_queued (c : Instr) (s : State) : step (queued c s) = exec c s := rfl

/-- A module that idles leaves its state. -/
theorem step_idle {s : State} (h : s.pending = []) : step s = .next s := by
  unfold step
  rw [h]

/-- A module whose queue is not empty performs its first command with the others waiting. -/
theorem step_front {s : State} {c : Instr} {rest : List Instr} (h : s.pending = c :: rest) :
    step s = exec c { s with pending := rest } := by
  unfold step
  rw [h]

/-- The invariant does not need the command that is taken off the queue. -/
theorem ModuleInv.popped {s : State} {c : Instr} {rest : List Instr} (h : ModuleInv s) (hq : s.pending = c :: rest) :
    ModuleInv { s with pending := rest } :=
  ⟨h.mem, ⟨h.legal.power, h.legal.clock, h.legal.freeze, h.legal.pod⟩, h.life,
    fun d hd => h.queue d (hq ▸ List.mem_cons_of_mem c hd)⟩

/-- What no operation breaks holds the invariant. -/
theorem ModuleInv.kept {s t : State} (h : ModuleInv s) (k : Kept s t) : ModuleInv t :=
  ⟨k.mem h.mem, k.legal h.legal, k.sec.goes h.life, fun c hc => h.queue c (k.queue ▸ hc)⟩

/-- Settles O1: both clauses are the two branches of `step`. -/
theorem stepRunsFrontCommand : Obligations.StepRunsFrontCommand := by
  unfold Obligations.StepRunsFrontCommand
  exact ⟨step_queued, fun _ => step_idle⟩

/-- Settles O58: the front command keeps the queue, the DRAM, the modes and the fuses (`exec_keeps`). -/
theorem stepsKeepTheInvariant : Obligations.StepsKeepTheInvariant := by
  unfold Obligations.StepsKeepTheInvariant
  intro s h
  cases hq : s.pending with
  | nil => exact ⟨s, step_idle hq, h⟩
  | cons c rest =>
    obtain ⟨t, ht, hk⟩ := exec_keeps c (Kept.refl { s with pending := rest })
    exact ⟨t, (step_front hq).trans ht, (h.popped hq).kept hk⟩

/-- Settles O60: what a command keeps holds that the fuses go forward alone. -/
theorem burntStateNeverGoesBack : Obligations.BurntStateNeverGoesBack := by
  unfold Obligations.BurntStateNeverGoesBack
  intro c s h
  obtain ⟨t, ht, hk⟩ := exec_keeps c (Kept.refl s)
  exact ⟨t, ht, hk.sec.goes h, hk.sec.life h, hk.sec.lock, hk.sec.rollback⟩

end Sys2Proof.Machine
end

section
/-! The apply boundary of a commit group, and its obligation (R371, R409, R411, R413, R414). -/

namespace Sys2Proof.Machine

section
variable {cgid : BitVec 16} {s : State} {ps : List CgPart}

/-- No item is void where none of a participant is. -/
theorem itemVoid_none (h : ∀ p ∈ ps, ∀ i ∈ p.items, itemVoid s i = false) : ¬ (ps.flatMap CgPart.items).any (itemVoid s) = true := by
  simpa [List.any_eq_true] using h

/-- A group whose participants all hold the decision makes their items live, and none misses it. -/
theorem groupDue_applies {g : CgGroup} (hps : s.cg.parts.filter (fun p => p.cgid == cgid) = ps) (hg : groupAt s.cg cgid = some g)
    (hd : g.decision = .apply) (hv : ∀ p ∈ ps, ∀ i ∈ p.items, itemVoid s i = false)
    (h : ∀ p ∈ ps, p.prepared = true ∧ p.decision = .apply ∧ dusted s p.node = false) :
    groupDue cgid s = ps.foldl (fun u p => p.items.foldl (itemPut [] p.node) u)
      (onCg (fun c => { cgClose cgid c with applied := c.applied + 1 }) s) := by
  have gets : ps.filter (fun p => p.decision == .apply && !dusted s p.node) = ps := List.filter_eq_self.2 fun p hp => by
    obtain ⟨-, hda, hdu⟩ := h p hp
    simp [hda, hdu]
  have miss : ps.filter (fun p => p.prepared && !(p.decision == .apply && !dusted s p.node) && p.node != svcNode) = [] :=
    List.filter_eq_nil_iff.2 fun p hp => by
      obtain ⟨-, hda, hdu⟩ := h p hp
      simp [hda, hdu]
  unfold groupDue
  simp only [hps, hg, hd, if_neg (itemVoid_none hv), gets, miss, beq_self_eq_true, if_true, List.map_nil, List.foldl_nil]
  rfl

/-- An undecided group whose participants are all prepared makes nothing live, and every one of them misses it. -/
theorem groupDue_times_out {g : CgGroup} (hps : s.cg.parts.filter (fun p => p.cgid == cgid) = ps) (hg : groupAt s.cg cgid = some g)
    (hd : g.decision = .none) (hv : ∀ p ∈ ps, ∀ i ∈ p.items, itemVoid s i = false)
    (h : ∀ p ∈ ps, p.prepared = true ∧ p.decision = .none ∧ p.node ≠ svcNode) :
    groupDue cgid s = ps.foldl (partMissed false) (onCg (fun c => recordDecision cgid 2 0 0 (cgClose cgid c)) s) := by
  have gets : ps.filter (fun p => p.decision == .apply && !dusted s p.node) = [] := List.filter_eq_nil_iff.2 fun p hp => by
    obtain ⟨-, hdn, -⟩ := h p hp
    simp [hdn]
  have miss : ps.filter (fun p => p.prepared && !(p.decision == .apply && !dusted s p.node) && p.node != svcNode) = ps :=
    List.filter_eq_self.2 fun p hp => by
      obtain ⟨hpr, hdn, hn⟩ := h p hp
      simp [hpr, hdn, hn]
  have undecided : (CgEnd.none == CgEnd.apply) = false := rfl
  unfold groupDue
  simp only [hps, hg, hd, if_neg (itemVoid_none hv), gets, miss, undecided, Bool.false_eq_true, if_false, Option.isSome_some, if_true,
    List.foldl_nil]

end

/-- `n` participants of an unapplied group went in doubt between two states: their reports are in flight, and of the commit state only the
count of participants in doubt and its overflow moved (R411, R414). -/
structure InDoubt (n : Nat) (s t : State) : Prop where
  frame : t = { s with cg := t.cg, flt := t.flt }
  record : t.cg = { s.cg with indoubt := t.cg.indoubt, ovf := t.cg.ovf }
  reports : t.flt.flight.length = s.flt.flight.length + n

theorem countDoubt_record (c : Cg) : countDoubt c = { c with indoubt := (countDoubt c).indoubt, ovf := (countDoubt c).ovf } := by
  unfold countDoubt
  split <;> rfl

/-- A participant that is not dust-sheeted and misses an unapplied group is counted in doubt and reports. -/
theorem partMissed_inDoubt {s : State} {p : CgPart} (h : dusted s p.node = false) : InDoubt 1 s (partMissed false s p) := by
  have hp : partMissed false s p = scopeRpt p.node p.cgid (onCg countDoubt s) := by simp [partMissed, h]
  rw [hp]
  exact ⟨rfl, countDoubt_record s.cg, List.length_append⟩

theorem InDoubt.trans {m n : Nat} {s t u : State} (h : InDoubt m s t) (k : InDoubt n t u) : InDoubt (m + n) s u :=
  ⟨by rw [k.frame, h.frame], by rw [k.record, h.record], by rw [k.reports, h.reports, Nat.add_assoc]⟩

/-- Dust sheets are no part of what a participant in doubt changes. -/
theorem InDoubt.dusted {n : Nat} {s t : State} (h : InDoubt n s t) (node : Nat) : dusted t node = dusted s node := by
  rw [h.frame]
  rfl

theorem foldl_partMissed_inDoubt : ∀ (ps : List CgPart) (s : State), (∀ p ∈ ps, dusted s p.node = false) →
    InDoubt ps.length s (ps.foldl (partMissed false) s)
  | [], _, _ => ⟨rfl, rfl, rfl⟩
  | p :: ps, s, h => by
    have first := partMissed_inDoubt (h p List.mem_cons_self)
    have rest := foldl_partMissed_inDoubt ps (partMissed false s p) fun q hq =>
      (first.dusted q.node).trans (h q (List.mem_cons_of_mem p hq))
    rw [List.length_cons, Nat.add_comm]
    exact first.trans rest

/-- The record of a group that timed out (R409, R414). -/
theorem recordDecision_timeout (cgid : BitVec 16) (no : Byte) (node : BitVec 16) (c : Cg) : recordDecision cgid 2 no node c = { c with
    lastCgid := cgid
    lastReason := 2
    discarded := if c.discarded = 0xFFFF then 0xFFFF else c.discarded + 1
    ovf := if c.discarded = 0xFFFF then true else c.ovf } := by
  by_cases h : c.discarded = 65535#16 <;> simp [recordDecision, countDiscard, h]

/-- Settles O26: `groupDue_applies` gives the items made live; of a group that timed out, the participants in doubt change what `InDoubt` says. -/
theorem applyBoundariesAreAtomic : Obligations.ApplyBoundariesAreAtomic := by
  unfold Obligations.ApplyBoundariesAreAtomic
  intro cgid s g hg ps gone hv
  refine ⟨fun hd h => groupDue_applies rfl hg hd hv h, fun hd h => ?timeout⟩
  intro t
  have ht : t = _ := groupDue_times_out (ps := ps) rfl hg hd hv fun p hp =>
    ⟨(h p hp).1, (h p hp).2.1, (h p hp).2.2.1⟩
  have doubt := foldl_partMissed_inDoubt ps (onCg (fun c => recordDecision cgid 2 0 0 (cgClose cgid c)) s) fun p hp => (h p hp).2.2.2
  rw [← ht] at doubt
  have hc := doubt.record
  rw [onCg_cg, recordDecision_timeout] at hc
  refine ⟨doubt.frame, ?_, ?_, ?_, ?_, ?_, ?_, ?_, doubt.reports⟩ <;> rw [hc] <;> rfl

end Sys2Proof.Machine
end

section
/-! Tempo maps, ready notices, dispatch decisions, sampling deliveries and step results, and their obligation (R360-R367, R418, R439). -/

namespace Sys2Proof.Machine

/-! ### Tempo maps (R363, R373, R458) -/

section
variable {engine : Die} {q : Byte} (hi : Bool) {v : Word} {s : State}

theorem tmapWrite_home (hh : homeEng s q.toNat = some engine.val) (hv : v = 0 ∨ bulkReg s q.toNat = none) :
    exec (.tmapWrite engine q hi v) s =
      .next (pipeUpd q.toNat (fun p => drainLanes p (if hi then { p with tmap1 := v } else { p with tmap0 := v })) s) :=
  congrArg Host.Outcome.next (if_neg (not_or.2 ⟨not_not.2 hh, fun ⟨hb, h0⟩ =>
    hv.elim h0 fun hn => ne_true_of_eq_false (Option.isSome_eq_false_iff.2 (Option.isNone_iff_eq_none.2 hn)) hb⟩))

theorem tmapWrite_ignored (h : homeEng s q.toNat ≠ some engine.val ∨ (v ≠ 0 ∧ bulkReg s q.toNat ≠ none)) :
    exec (.tmapWrite engine q hi v) s = .next s :=
  congrArg Host.Outcome.next (if_pos (h.imp_right fun ⟨h0, hb⟩ => ⟨Option.isSome_iff_ne_none.2 hb, h0⟩))

end

/-- One lane of a new tempo map: where its tempo changes it drains until the last stream that entered has left (R363). -/
def drainLane (old new p : Pipe) (k : Nat) : Pipe :=
  if tempoCode old k = tempoCode new k then p
  else { p with drain := sset 0 p.drain k (max (sget 0 p.drain k) (sget 0 p.lastEntry k)) }

theorem drainLanes_eq (old new : Pipe) : drainLanes old new = (List.range 64).foldl (drainLane old new) new := rfl

theorem drainLane_lastEntry (old new p : Pipe) (k : Nat) : (drainLane old new p k).lastEntry = p.lastEntry := by
  unfold drainLane
  split <;> rfl

/-- A lane's step leaves the drain of every other lane. -/
theorem drainLane_drain (old new p : Pipe) (k j : Nat) : sget 0 (drainLane old new p k).drain j =
    if j = k ∧ tempoCode old k ≠ tempoCode new k then max (sget 0 p.drain k) (sget 0 p.lastEntry k) else sget 0 p.drain j := by
  unfold drainLane
  by_cases ht : tempoCode old k = tempoCode new k
  · rw [if_pos ht, if_neg fun h => h.2 ht]
  · rw [if_neg ht]
    by_cases hj : j = k
    · subst hj
      rw [sget_sset_same, if_pos ⟨rfl, ht⟩]
    · rw [sget_sset_other _ _ hj, if_neg fun h => hj h.1]

/-- The first `n` lanes drained, one by one. -/
theorem foldl_drainLane (old new : Pipe) (n : Nat) :
    ((List.range n).foldl (drainLane old new) new).lastEntry = new.lastEntry ∧
    ∀ k, sget 0 ((List.range n).foldl (drainLane old new) new).drain k =
      if k < n ∧ tempoCode old k ≠ tempoCode new k then max (sget 0 new.drain k) (sget 0 new.lastEntry k) else sget 0 new.drain k := by
  induction n with
  | zero => exact ⟨rfl, fun k => (if_neg fun h => Nat.not_lt_zero k h.1).symm⟩
  | succ n ih =>
    obtain ⟨hlast, hdrain⟩ := ih
    rw [List.range_succ, List.foldl_append, List.foldl_cons, List.foldl_nil]
    refine ⟨(drainLane_lastEntry ..).trans hlast, fun k => ?_⟩
    rw [drainLane_drain, hlast, hdrain n, hdrain k]
    by_cases hk : k = n
    · subst hk
      simp
    · have hlt : k < n + 1 ↔ k < n := by omega
      simp only [hk, hlt, false_and, if_false]

theorem drainLanes_drain (old new : Pipe) {k : Nat} (hk : k < 64) : sget 0 (drainLanes old new).drain k =
    if tempoCode old k = tempoCode new k then sget 0 new.drain k else max (sget 0 new.drain k) (sget 0 new.lastEntry k) := by
  rw [drainLanes_eq, (foldl_drainLane old new 64).2 k]
  by_cases ht : tempoCode old k = tempoCode new k <;> simp [ht, hk]

/-! ### Ready notices (R360, R365, R371) -/

section
variable {engine : Die} {s : State} {x : Notice} {rest : List Notice} (h : (engAt s engine).notices = x :: rest)
include h

theorem readyNotice_joins (hc : x.cancel = false) : exec (.readyNotice engine) s = .next (pipeUpd x.pipe (fun p =>
    { p with queue := p.queue ++ [⟨x.sid, x.slot, x.pf, s.frames + 1, none, none, 0⟩] })
    (engUpd engine (fun e => { e with notices := rest }) s)) := by
  change execReadyNotice engine s = _
  simp only [execReadyNotice, h, hc, Bool.false_eq_true, if_false]

theorem readyNotice_leaves (hc : x.cancel = true) : exec (.readyNotice engine) s = .next (pipeUpd x.pipe (fun p =>
    { p with queue := p.queue.map (fun t => if t.sid = x.sid ∧ t.slot = x.slot then { t with gone := some (s.frames + 1) } else t) })
    (engUpd engine (fun e => { e with notices := rest }) s)) := by
  change execReadyNotice engine s = _
  simp only [execReadyNotice, h, hc, if_true]

end

/-! ### Decisions (R162, R365, R366) -/

/-- The frame of the beat that a decision of this frame is for (R365). -/
def decisionFrame (s : State) (q : Nat) : Nat := s.frames + landOffset s q 0

/-- Why a pipeline makes no decision in this frame: its engine, a warm reset, the grid, no beat at the frame, or a hold. -/
def noDecision (s : State) (q h : Nat) : Prop :=
  (engAt s h).stopped = true ∨ s.svc.warming = true ∨ gridStopped s = true ∨ decisionFrame s q < (beatOf s q).2 ∨
    (decisionFrame s q - (beatOf s q).2) % (beatOf s q).1 ≠ 0 ∨ beatHeld s q (decisionFrame s q) = true

section
variable {q : Byte} {s : State} {h : Nat} (hh : homeEng s q.toNat = some h)
include hh

theorem dispatchDecision_rests (hn : noDecision s q.toNat h) : exec (.dispatchDecision q) s = .next s := by
  change execDispatchDecision q s = _
  simp only [execDispatchDecision, hh]
  exact if_pos hn

theorem dispatchDecision_decides (hn : ¬ noDecision s q.toNat h) : exec (.dispatchDecision q) s =
    .next (decide1 q.toNat h ((decisionFrame s q.toNat - (beatOf s q.toNat).2) / (beatOf s q.toNat).1) (decisionFrame s q.toNat) s) := by
  change execDispatchDecision q s = _
  simp only [execDispatchDecision, hh]
  exact if_neg hn

end

section
variable {preempt n : Nat} {l : List Cand} {c : Cand}

theorem laneTask_waited (h : (l.filter (fun c => c.cls == n && !c.t.pf)).find? (fun c => decide (preempt ≤ c.t.wait)) = some c) :
    (laneTask preempt n l).1 = some c := by
  simp only [laneTask, h]

/-- No decode of the class has waited long enough. -/
theorem find_waited_none {dc : List Cand} (h : ∀ d ∈ dc, d.t.wait < preempt) : dc.find? (fun c => decide (preempt ≤ c.t.wait)) = none :=
  List.find?_eq_none.2 fun d hd => by simpa using h d hd

variable (h : ∀ d ∈ l.filter (fun c => c.cls == n && !c.t.pf), d.t.wait < preempt)
include h

theorem laneTask_prefill (hp : (l.filter (fun c => c.cls == n && c.t.pf)).head? = some c) : (laneTask preempt n l).1 = some c := by
  obtain ⟨rest, hr⟩ := List.head?_eq_some_iff.1 hp
  simp only [laneTask, find_waited_none h, hr]

theorem laneTask_decode (hp : l.filter (fun c => c.cls == n && c.t.pf) = []) :
    (laneTask preempt n l).1 = (l.filter (fun c => c.cls == n && !c.t.pf)).head? := by
  simp only [laneTask, find_waited_none h, hp]

end

/-! ### Sampling deliveries and step results (R418, R439) -/

/-- A line of a lane's sampling window, released a landing offset on (R439). -/
def samplingLine (s : State) (q : Nat) (lane z : Nat) (w : Win) (j : Nat) (ws : List RWord) : RimLine :=
  ⟨z, lineAdd w.base (130 * lane + j), BitVec.ofNat 8 (s.frames + landOffset s q 1), ws⟩

section
variable {q : Byte} {lane : BitVec 6} {s : State} {r : Nat × ImgRegion} {z : Nat} {w : Win} {ws : List Win}
  (hr : sampleReg s q.toNat = some r) (hz : originSite s r.1 = some z) (hw : landWins s z r.2.anchor = w :: ws)
include hr hz hw

theorem samplingDelivery_idle (hf : sampleFlight s q.toNat lane.toNat (s.frames + landOffset s q.toNat 1) = none) :
    exec (.samplingDelivery q lane) s = .next (rimPush r.2.anchor ((List.range 130).map (fun j =>
      samplingLine s q.toNat lane.toNat z w j (List.replicate 16 RWord.zero))) s) := by
  change execSamplingDelivery q lane s = _
  simp only [execSamplingDelivery, hr, hz, hw, hf]
  rfl

theorem samplingDelivery_flight {sid : Nat} {x : Flight}
    (hf : sampleFlight s q.toNat lane.toNat (s.frames + landOffset s q.toNat 1) = some (sid, x)) :
    exec (.samplingDelivery q lane) s =
      let rd := dramReads s (streamRec sid / 8) 2080
      .next (ctxUpd sid (fun c => { c with flights := c.flights.map (fun y =>
        if y = x then { y with params := bitsOf (rd.1.take 16) } else y) })
        (rimPush r.2.anchor ((List.range 130).map (fun j =>
          samplingLine s q.toNat lane.toNat z w j ((rd.1.drop (16 * j)).take 16))) rd.2)) := by
  change execSamplingDelivery q lane s = _
  simp only [execSamplingDelivery, hr, hz, hw, hf]
  rfl

end

theorem stepResult_waits {a : StepArgs} {s : State} {x : Flight} (h : (ctxAt s a.sid.toNat).flights.find?
    (fun x => x.lane == a.lane.toNat && x.pos == a.pos.toNat && x.ntok == a.ntok.toNat && x.res.isNone) = some x) :
    exec (.stepResult a) s = .next (ctxUpd a.sid.toNat (fun c => { c with flights := c.flights.map (fun y => if y = x then
      { y with res := some ⟨a.sid.toNat, a.lane.toNat, a.status, a.last, a.prefill, a.token, a.pos.toNat, a.ntok.toNat, a.logp⟩ }
      else y) }) s) := by
  change execStepResult a s = _
  simp only [execStepResult, h]

/-- Settles O39: the home engine, the notice, the frame of the beat, the waiting tasks of a class and the step in flight select the branch
that each command takes. -/
theorem lanesAreFilledAndDelivered : Obligations.LanesAreFilledAndDelivered := by
  unfold Obligations.LanesAreFilledAndDelivered
  refine ⟨fun engine q hi v s => ⟨tmapWrite_home hi, tmapWrite_ignored hi⟩, fun old new k => drainLanes_drain old new,
    fun engine s x rest h => ⟨readyNotice_joins h, readyNotice_leaves h⟩, ?decision,
    fun preempt n l c => ⟨laneTask_waited, laneTask_prefill, laneTask_decode⟩, ?sampling, fun a s x => stepResult_waits⟩
  case decision =>
    intro q s h hh f bp
    refine ⟨fun hs hw hg hf hb hd => dispatchDecision_decides hh ?_, fun hn => dispatchDecision_rests hh ?_⟩
    · simp only [noDecision, hs, hw, hg, Bool.false_eq_true, false_or, not_or]
      exact ⟨hf.not_gt, not_not.2 hb, ne_true_of_eq_false hd⟩
    · exact hn.imp_right fun hn => hn.imp_right Or.inr
  case sampling =>
    intro q lane s r z w ws hr hz hw
    exact ⟨samplingDelivery_idle hr hz hw, fun sid x => samplingDelivery_flight hr hz hw⟩

end Sys2Proof.Machine
end

section
/-! Submission queues, submitted requests and their intake, and their obligation (R355, R356, R375, R487, R489, R518). -/

namespace Sys2Proof.Machine

/-! ### Queues (R375, R518) -/

/-- The configuration that a write leaves in a queue: of an enabled one LOG2SIZE and TENANT stand (R375). -/
def sqConfigured (x : Sq) (v : Word) : Sq :=
  if x.en then x else { x with
    log2size := v.extractLsb' 1 4
    tenant := v.extractLsb' 16 12 }

/-- A write of a queue's configuration, by EN, by the queue's size and by the owner of its range. -/
theorem sqEnable_eq (engine : Die) (queue : BitVec 6) (v : Word) (s : State) : exec (.sqEnable engine queue v) s = .next (
    let x := sqAt (engAt s engine) queue.toNat
    let y := sqConfigured x v
    if v.getLsbD 0 = false then engUpd engine (sqPut queue.toNat { y with en := false }) s
    else if x.en = true then s
    else if 10 < y.log2size.toNat then engUpd engine (sqPut queue.toNat y) s
    else if hostOwned s y.tenant y.base.toNat (64 * sqSize y) = true then
      cancelScan y y.head.toNat (sqUsed y) (engUpd engine (sqPut queue.toNat { y with en := true }) s)
    else tenantViol (engUpd engine (sqPut queue.toNat y) s) 3 y.tenant 0 (8080 + engine.val)) := by
  change execSqEnable engine queue v s = _
  simp only [execSqEnable, sqCfgPut, ofNat_bitsAt]
  rfl

/-! ### Requests of a tenant (R487, R489) -/

/-- The place in a queue that lies `k` entries behind TAIL (R375). -/
def sqPlace (x : Sq) (k : Nat) : Nat := (x.tail.toNat + k) % sqSize x

/-- The records of a request written behind TAIL, their session noted, and TAIL past them (R489). -/
def requestWritten (n q : Nat) (x : Sq) (sess : SessId) (records : List (List Word)) (s : State) : State :=
  let s1 := ((List.range records.length).zip records).foldl (fun u kr => dramStore u (sqEntry x (sqPlace x kr.1)) (wordBytes kr.2)) s
  let s2 := engUpd n (sqPut q { x with
    sess := (List.range records.length).foldl (fun m k => sset 0 m (sqPlace x k) (sess.toNat + 1)) x.sess }) s1
  tailPut n q (sqPlace x records.length) s2

/-- A host's SUBMIT, by the tenant of the queue, the form of the records and the room before HEAD. -/
theorem submit_eq {sess : SessId} (engine : Die) (queue : BitVec 6) (records : List (List Word)) {s : State} {h : Session}
    (ho : HostOpen s sess h) : exec (.submit sess engine queue records) s = .next (
      let x := sqAt (engAt s engine) queue.toNat
      if h.tenant ≠ x.tenant then answer (tenantViol s 4 h.tenant x.tenant (8080 + engine.val)) 2 []
      else if wholeRequests records = false then answer s 1 []
      else if sqSize x ≤ sqUsed x + records.length then answer s 4 []
      else answer (requestWritten engine queue.toNat x sess records s) 0 []) := by
  change execSubmit sess engine queue records s = _
  simp only [execSubmit, hostGate_of_host ho, ho.session, gated, Bool.not_eq_true']
  rfl

/-! ### Intake (R356) -/

/-- A whole request of `n` records at the head of an enabled queue, for which the task store has room (R356). -/
def intakeFits (s : State) (e : Engine) (q n : Nat) : Prop :=
  (sqAt e q).en = true ∧ requestLen s (sqAt e q) = some n ∧ e.tasks.length + n ≤ 262144

/-- The request that an engine finds in a queue. -/
def intakeOf (s : State) (e : Engine) (q : Nat) : Option (Nat × Nat) :=
  if (sqAt e q).en then (requestLen s (sqAt e q)).bind (fun n => if e.tasks.length + n ≤ 262144 then some (q, n) else none) else none

theorem intakeOf_fits {s : State} {e : Engine} {q n : Nat} (h : intakeFits s e q n) : intakeOf s e q = some (q, n) := by
  obtain ⟨hen, hlen, hroom⟩ := h
  simp only [intakeOf, hen, hlen, hroom, if_true, Option.bind_some]

theorem intakeOf_none {s : State} {e : Engine} {q : Nat} (h : ∀ n, ¬ intakeFits s e q n) : intakeOf s e q = none := by
  unfold intakeOf
  split_ifs with hen
  · rw [Option.bind_eq_none_iff]
    exact fun n hlen => if_neg fun hroom => h n ⟨hen, hlen, hroom⟩
  · rfl

/-- The queue that round robin comes to after `k` others. -/
def intakeTurn (e : Engine) (k : Nat) : Nat := (e.rr + k) % 64

/-- The first request that round robin finds. -/
def intakePick (s : State) (e : Engine) : Option (Nat × Nat) := ((List.range 64).map (intakeTurn e)).findSome? (intakeOf s e)

theorem intakePick_none {s : State} {e : Engine} (h : ∀ k < 64, ∀ n, ¬ intakeFits s e (intakeTurn e k) n) : intakePick s e = none := by
  rw [intakePick, List.findSome?_eq_none_iff, List.forall_mem_map]
  exact fun k hk => intakeOf_none (h k (List.mem_range.1 hk))

theorem intakePick_first {s : State} {e : Engine} {k n : Nat} (hk : k < 64) (hfit : intakeFits s e (intakeTurn e k) n)
    (hno : ∀ j < k, ∀ m, ¬ intakeFits s e (intakeTurn e j) m) : intakePick s e = some (intakeTurn e k, n) := by
  have hsplit : List.range 64 = List.range k ++ k :: List.range' (k + 1) (63 - k) := by
    rw [List.range_eq_range', List.range_eq_range', ← List.range'_succ, show 63 - k + 1 = 64 - k by omega]
    simpa [Nat.add_sub_cancel' hk.le] using (List.range'_append_1 (s := 0) (m := k) (n := 64 - k)).symm
  refine findSome_first _ _ (intakeTurn e k) _ ((List.range k).map (intakeTurn e)) ((List.range' (k + 1) (63 - k)).map (intakeTurn e)) ?_ ?_
    (intakeOf_fits hfit)
  · rw [hsplit, List.map_append, List.map_cons]
  · exact List.forall_mem_map.2 fun j hj => intakeOf_none (hno j (List.mem_range.1 hj))

section
variable {engine : Die} {s : State}

theorem requestIntake_stopped (h : (engAt s engine).stopped = true ∨ s.svc.warming = true) :
    exec (.requestIntake engine) s = .next s :=
  if_pos h

/-- An engine that finds no request leaves all as it is. -/
theorem requestIntake_none (h : intakePick s (engAt s engine) = none) : exec (.requestIntake engine) s = .next s := by
  change execRequestIntake engine s = _
  unfold intakePick intakeOf intakeTurn at h
  simp only [execRequestIntake, h, ite_self]

theorem requestIntake_takes {q n : Nat} (hs : (engAt s engine).stopped = false) (hw : s.svc.warming = false)
    (h : intakePick s (engAt s engine) = some (q, n)) : exec (.requestIntake engine) s =
      .next (engUpd engine (fun e => { e with rr := (q + 1) % 64 }) (takeRequest engine q n s)) := by
  change execRequestIntake engine s = _
  unfold intakePick intakeOf intakeTurn at h
  simp only [execRequestIntake, hs, hw, h, Bool.false_eq_true, or_self, if_false]

end

/-- Settles O36: EN, the size and the owner of a queue, the form and the room of a request, and round robin select the branch that each
command takes. -/
theorem requestsAreSubmittedAndTakenIn : Obligations.RequestsAreSubmittedAndTakenIn := by
  unfold Obligations.RequestsAreSubmittedAndTakenIn
  refine ⟨?queue, ?submit, ?intake⟩
  case queue =>
    intro engine queue v s n q x y
    rw [sqEnable_eq]
    have on (h : v.getLsbD 0 = true) : ¬ v.getLsbD 0 = false := ne_false_of_eq_true h
    refine ⟨fun h => ?_, fun h he => ?_, fun h he hs => ?_, fun h he hs ho => ?_, fun h he hs ho => ?_⟩
    · exact congrArg _ (if_pos h)
    · exact congrArg _ ((if_neg (on h)).trans (if_pos he))
    · exact congrArg _ ((if_neg (on h)).trans ((if_neg (ne_true_of_eq_false he)).trans (if_pos hs)))
    · exact congrArg _ ((if_neg (on h)).trans ((if_neg (ne_true_of_eq_false he)).trans ((if_neg hs.not_gt).trans (if_pos ho))))
    · exact congrArg _ ((if_neg (on h)).trans ((if_neg (ne_true_of_eq_false he)).trans ((if_neg hs.not_gt).trans
        (if_neg (ne_true_of_eq_false ho)))))
  case submit =>
    intro sess engine queue records s h ho n q x at_
    rw [submit_eq engine queue records ho]
    refine ⟨fun ht => ?_, fun ht hw => ?_, fun ht hw hfull => ?_, fun ht hw hroom => ?_⟩
    · exact congrArg _ (if_pos ht)
    · exact congrArg _ ((if_neg (not_not.2 ht)).trans (if_pos hw))
    · exact congrArg _ ((if_neg (not_not.2 ht)).trans ((if_neg (ne_false_of_eq_true hw)).trans (if_pos hfull)))
    · exact congrArg _ ((if_neg (not_not.2 ht)).trans ((if_neg (ne_false_of_eq_true hw)).trans (if_neg hroom.not_ge)))
  case intake =>
    exact fun engine s => ⟨requestIntake_stopped, fun h => requestIntake_none (intakePick_none h),
      fun k n hk hfit hno hs hw => requestIntake_takes hs hw (intakePick_first hk hfit hno)⟩

end Sys2Proof.Machine
end

section
/-! Ready notices of lane tasks, cancellations and damaged task records, and their obligation (R353, R360, R368, R369, R371, R429, R546). -/

namespace Sys2Proof.Machine

/-! ### Lane tasks (R360, R368, R429) -/

/-- Every condition of a notice holds (R360, R368, R429). -/
theorem noticeDue_of {s : State} {n : Nat} {t : Task} {c : Ctx} (hr : t.st = .ready) (hn : t.noticed = false) (ho : ctxOpen c = true)
    (h0 : c.fin = 0) (hc : c.cancelAt = none) (hp : pendPlaces c < 6) (he : hasEarlier (engAt s n) t = false) :
    noticeDue s n t c = true := by
  simp [noticeDue, hr, hn, ho, h0, hc, hp, he]

section
variable {kind : Nat} {engine : Die} {slot : BitVec 18} {s : State} {t : Task} {sid : Nat} (ht : TaskHeld s engine slot t)
  (hs : t.stream = some sid)
include ht hs

/-- A lane task whose record is good, by its kind, the end of its stream and whether its notice is due. -/
theorem laneReady_held : laneReady kind engine slot.toNat s =
    if t.kind ≠ kind then s
    else if t.st = .ready ∧ ctxOpen (ctxAt s sid) = true ∧ (ctxAt s sid).final = true then taskFail engine t 7 7 s
    else if noticeDue s engine t (ctxAt s sid) = true then
      notify sid slot.toNat (kind != 4) false (engEdit engine (taskSet { t with noticed := true }) s)
    else s := by
  simp only [laneReady, taskRead_held ht, hs]

/-- A stream that has reached an end refuses its lane task with LENGTH. -/
theorem laneReady_final (hk : t.kind = kind) (hr : t.st = .ready) (ho : ctxOpen (ctxAt s sid) = true)
    (hf : (ctxAt s sid).final = true) : laneReady kind engine slot.toNat s = taskFail engine t 7 7 s := by
  rw [laneReady_held ht hs, if_neg (not_not.2 hk), if_pos ⟨hr, ho, hf⟩]

variable (hf : (ctxAt s sid).final = false)
include hf

theorem laneReady_asks (hk : t.kind = kind) (hd : noticeDue s engine t (ctxAt s sid) = true) : laneReady kind engine slot.toNat s =
    notify sid slot.toNat (t.kind != 4) false (engEdit engine (taskSet { t with noticed := true }) s) := by
  rw [laneReady_held ht hs, if_neg (not_not.2 hk), if_neg fun h => ne_true_of_eq_false hf h.2.2, if_pos hd, hk]

/-- A notice is sent once. -/
theorem laneReady_noticed (hn : t.noticed = true) : laneReady kind engine slot.toNat s = s := by
  have hd : noticeDue s engine t (ctxAt s sid) = false := by simp [noticeDue, hn]
  rw [laneReady_held ht hs, if_neg (c := _ ∧ _) fun h => ne_true_of_eq_false hf h.2.2, if_neg (ne_true_of_eq_false hd), ite_self]

end

/-! ### Cancellations (R369, R371) -/

section
variable {tenant : BitVec 12} {sid : Nat} {gen : BitVec 16} {s : State}

/-- An open context is none of an admission that goes on. -/
theorem not_admitting_of_ctxOpen {c : Ctx} (h : ctxOpen c = true) : c.st ≠ .admitting := by
  intro he
  simp [ctxOpen, he] at h

/-- A cancellation of an open stream, by its end, its generation, an earlier cancellation and its tenant. -/
theorem cancelTake_open (ho : ctxOpen (ctxAt s sid) = true) : cancelTake tenant sid gen s =
    if (ctxAt s sid).fin ≠ 0 ∨ (ctxAt s sid).gen ≠ gen ∨ (ctxAt s sid).cancelAt ≠ none then (10, s)
    else if (ctxAt s sid).tenant ≠ tenant then
      (10, tenantViol s 8 tenant (ctxAt s sid).tenant (8080 + sid / 1024))
    else (0, ctxUpd sid (fun c => { c with cancelAt := some (s.frames + 1) }) s) := by
  have hst := not_admitting_of_ctxOpen ho
  simp only [cancelTake, ho, hst, if_false, Bool.true_and, beq_eq_false_iff_ne.2 hst, Bool.false_and, Bool.or_false,
    Bool.not_and, Bool.or_eq_true, ne_eq, Option.isSome_iff_ne_none, Bool.not_eq_true', beq_eq_false_iff_ne, or_assoc]
  rfl

theorem cancelTake_not_open (h : (ctxAt s sid).st = .free ∨ (ctxAt s sid).st = .closing) : cancelTake tenant sid gen s = (10, s) := by
  obtain h | h := h <;> simp [cancelTake, ctxOpen, h]

end

/-- A CANCEL at an engine that runs answers with the code of the cancellation. -/
theorem cancel_eq {engine : Die} {tenant : BitVec 12} {sid : Sid} {gen : BitVec 16} {s : State} (h : (engAt s engine).stopped = false) :
    exec (.cancel engine tenant sid gen) s =
      .next (answer (cancelTake tenant sid.toNat gen s).2 (cancelTake tenant sid.toNat gen s).1 []) :=
  if_neg (ne_true_of_eq_false h)

/-! ### Damaged records (R353, R546) -/

/-- The commands that read a task's record. -/
def taskCommands (engine : Die) (slot : BitVec 18) : List Instr :=
  [.admitTask engine slot, .adapterLoad engine slot, .sample engine slot, .emit engine slot, .migrate engine slot,
    .prefill engine slot, .decode engine slot, .replay engine slot]

/-- Whichever command finds no task in a record that it reads leaves the state of the read. -/
theorem taskCommands_of_taskRead_none {engine : Die} {slot : BitVec 18} {s u : State} (h : taskRead engine slot.toNat s = (none, u)) :
    ∀ c ∈ taskCommands engine slot, exec c s = .next u := by
  have lane (kind : Nat) : laneReady kind engine slot.toNat s = u := by simp only [laneReady, h]
  simp only [taskCommands, List.forall_mem_cons]
  refine ⟨?admission, ?adapter, ?sample, ?emit, ?migrate, congrArg _ (lane 3), congrArg _ (lane 4), congrArg _ (lane 8),
    fun c hc => absurd hc List.not_mem_nil⟩
  case admission => change execAdmitTask engine slot s = _; simp only [execAdmitTask, h]
  case adapter => change execAdapterLoad engine slot s = _; simp only [execAdapterLoad, h]
  case sample => change execSample engine slot s = _; simp only [execSample, h]
  case emit => change execEmit engine slot s = _; simp only [execEmit, h]
  case migrate => change execMigrate engine slot s = _; simp only [execMigrate, h]

/-- Settles O38: the kind of the task, its stream's end and its notice select what a lane task does; the state, generation and tenant of the
stream what a CANCEL answers. -/
theorem laneTasksAskForStepsAndCancelsAct : Obligations.LaneTasksAskForStepsAndCancelsAct := by
  unfold Obligations.LaneTasksAskForStepsAndCancelsAct
  refine ⟨?lane, ?cancel, fun engine slot s t h hp => taskCommands_of_taskRead_none (taskRead_bad h hp)⟩
  case lane =>
    intro engine slot s t sid ht hs hr ho n c fail ask
    have refused (kind : Nat) (hf : c.final = true) (hk : t.kind = kind) : Host.Outcome.next (laneReady kind n slot.toNat s) = fail :=
      congrArg _ (laneReady_final ht hs hk hr ho hf)
    refine ⟨fun hf => ⟨refused 3 hf, refused 4 hf, refused 8 hf⟩, fun hf hn h0 hc hp he => ?_, fun hf hn => ?_⟩
    · have due := noticeDue_of hr hn ho h0 hc hp he
      have asks (kind : Nat) (hk : t.kind = kind) : Host.Outcome.next (laneReady kind n slot.toNat s) = ask :=
        congrArg _ (laneReady_asks ht hs hf hk due)
      exact ⟨asks 3, asks 4, asks 8⟩
    · have once (kind : Nat) : Host.Outcome.next (laneReady kind n slot.toNat s) = (.next s : Host.Outcome State Fault Refusal) :=
        congrArg _ (laneReady_noticed ht hs hf hn)
      exact ⟨once 3, once 4, once 8⟩
  case cancel =>
    intro engine tenant sid gen s hrun x c
    rw [cancel_eq hrun]
    refine ⟨fun ho h0 hg hc => ?_, fun ho h => ?_, fun h => ?_⟩
    · have live : ¬ (c.fin ≠ 0 ∨ c.gen ≠ gen ∨ c.cancelAt ≠ none) := by simp [h0, hg, hc]
      rw [cancelTake_open ho, if_neg live]
      refine ⟨fun ht => ?_, fun ht => ?_⟩
      · rw [if_neg (not_not.2 ht)]
      · rw [if_pos ht]
    · rw [cancelTake_open ho, if_pos h]
    · rw [cancelTake_not_open h]

end Sys2Proof.Machine
end

section
/-! What memory dies do with their DRAM and their extent tables, and their obligation (R391, R392, R398, R451-R453, R456, R518). -/

namespace Sys2Proof.Machine

/-! ### Appends (R398, R518) -/

section
variable {die : Die} {dline : BitVec 38} {tenant : BitVec 12} (mask : BitVec 128) (line : List Word) {s : State}

theorem dramAppend_elsewhere (h : dramDie (128 * dline.toNat) ≠ die.val) : exec (.dramAppend die dline tenant mask line) s = .next s :=
  if_pos h

variable (h : dramDie (128 * dline.toNat) = die.val)
include h

theorem dramAppend_denied (ho : granOwner s (128 * dline.toNat) ≠ some tenant) : exec (.dramAppend die dline tenant mask line) s =
    .next (tenantViol s 2 tenant ((granOwner s (128 * dline.toNat)).getD 0) (8080 + die.val)) :=
  (if_neg (not_not.2 h)).trans (if_pos ho)

theorem dramAppend_owned (ho : granOwner s (128 * dline.toNat) = some tenant) : exec (.dramAppend die dline tenant mask line) s =
    .next ((List.range 16).foldl (fun acc w => dramMask acc (128 * dline.toNat / 8 + w) ((mask >>> (8 * w)).setWidth 8) (lget 0 line w)) s) :=
  (if_neg (not_not.2 h)).trans (if_neg (not_not.2 ho))

end

/-- A bit of the byte mask of a line's word (R398). -/
theorem wordMask_bit (mask : BitVec 128) (k i : Nat) (hi : i < 8) :
    ((mask >>> (8 * k)).setWidth 8 : Byte).getLsbD i = mask.getLsbD (8 * k + i) := by
  simp [hi]

/-- The bytes of module DRAM after the masked writes of one line: the enabled bytes of the line alone change. -/
theorem lineMasked_byte (s : State) (n : Nat) (mask : BitVec 128) (line : List Word) (b : Nat) :
    dramByte ((List.range 16).foldl (fun acc w => dramMask acc (128 * n / 8 + w) ((mask >>> (8 * w)).setWidth 8) (lget 0 line w)) s) b =
      if 128 * n ≤ b ∧ b < 128 * n + 128 ∧ mask.getLsbD (b - 128 * n) = true then byteOf line (b - 128 * n) else dramByte s b := by
  rw [dramMasks_byte, wordMask_bit _ _ _ (Nat.mod_lt b (by decide))]
  have hrange : 128 * n / 8 ≤ b / 8 ∧ b / 8 < 128 * n / 8 + 16 ↔ 128 * n ≤ b ∧ b < 128 * n + 128 := by omega
  by_cases hb : 128 * n ≤ b ∧ b < 128 * n + 128
  · have hoff : 8 * (b / 8 - 128 * n / 8) + b % 8 = b - 128 * n := by omega
    have hword : (b - 128 * n) / 8 = b / 8 - 128 * n / 8 := by omega
    have hbyte : (b - 128 * n) % 8 = b % 8 := by omega
    simp only [hoff, byteOf, hword, hbyte, ← and_assoc, hrange]
  · rw [if_neg fun h => hb ⟨(hrange.1 ⟨h.1, h.2.1⟩).1, (hrange.1 ⟨h.1, h.2.1⟩).2⟩, if_neg fun h => hb ⟨h.1, h.2.1⟩]

/-! ### Fetches (R391, R392, R518) -/

/-- A line that a die releases to a tile: its landing line and release frame are those of the FETCH. -/
def fetchLine (w0 : Word) (z j : Nat) (ws : List RWord) : RimLine :=
  ⟨z, lineAdd (BitVec.ofNat 16 (bitsAt w0 15 16)) j, BitVec.ofNat 8 (bitsAt w0 31 8), ws⟩

/-- The source lines of a FETCH's block, by the geometry of the pipeline (R392). -/
def fetchBlock (s : State) (w0 : Word) (q : Nat) : List (Option Nat) :=
  blockLines (geomKv4 (geomAt s q)) (geomNpl (geomAt s q)) (pageSize (min 8 (bitsAt w0 39 4))) (bitsAt w0 43 5)

/-- The words of a source line as they stand in module DRAM, zeros where a block has none. -/
def fetchWords (s : State) (dline : Nat) : Option Nat → List RWord
  | none => List.replicate 16 RWord.zero
  | some k => (List.range 16).map (fun i => ⟨(sget SWord.zero s.dram (16 * (dline + k) + i)).bits, false⟩)

/-- One line of a block read and released. -/
def fetchRead (w0 : Word) (z dline : Nat) (acc : List RimLine × State) (jl : Nat × Option Nat) : List RimLine × State :=
  match jl.2 with
  | none => (acc.1 ++ [fetchLine w0 z jl.1 (List.replicate 16 RWord.zero)], acc.2)
  | some k => (acc.1 ++ [fetchLine w0 z jl.1 (dramReads acc.2 (16 * (dline + k)) 16).1], (dramReads acc.2 (16 * (dline + k)) 16).2)

/-- Every word of the source lines reads without an error. -/
def linesGood (s : State) (dline : Nat) (ls : List (Option Nat)) : Prop :=
  ∀ k, some k ∈ ls → ∀ i < 16, (sget SWord.zero s.dram (16 * (dline + k) + i)).ecc = .good

theorem fetchRead_good {s : State} {dline : Nat} {l : Option Nat} (h : linesGood s dline [l]) (w0 : Word) (z j : Nat) (rs : List RimLine) :
    fetchRead w0 z dline (rs, s) (j, l) = (rs ++ [fetchLine w0 z j (fetchWords s dline l)], s) := by
  cases l with
  | none => rfl
  | some k => simp only [fetchRead, fetchWords, dramReads_good s _ 16 (h k List.mem_cons_self)]

/-- Lines without an error are released as they stand, and memory is unchanged. -/
theorem foldl_fetchRead_good {s : State} {dline : Nat} (w0 : Word) (z : Nat) : ∀ (l : List (Nat × Option Nat)) (rs : List RimLine),
    linesGood s dline (l.map Prod.snd) →
    l.foldl (fetchRead w0 z dline) (rs, s) = (rs ++ l.map (fun jl => fetchLine w0 z jl.1 (fetchWords s dline jl.2)), s)
  | [], rs, _ => by simp
  | (j, x) :: l, rs, h => by
    have first : linesGood s dline [x] := fun k hk => h k (List.mem_cons.2 (.inl (List.mem_singleton.1 hk)))
    have rest : linesGood s dline (l.map Prod.snd) := fun k hk => h k (List.mem_cons_of_mem x hk)
    rw [List.foldl_cons, fetchRead_good first, foldl_fetchRead_good w0 z l _ rest, List.map_cons, List.append_assoc]
    rfl

section
variable {w0 w1 : Word} {s : State} {z q : Nat} (h : fetchTile s (bitsAt w0 5 4) (bitsAt w0 9 6) (bitsAt w0 15 16) = some (z, q))
include h

theorem fetch_null (hn : w0.getLsbD 4 = true) : exec (.fetch w0 w1) s = .next (rimPush (16 + bitsAt w0 5 4)
    ((List.range (fetchBlock s w0 q).length).map (fun j => fetchLine w0 z j (List.replicate 16 RWord.zero))) s) := by
  change execFetch w0 w1 s = _
  simp only [execFetch, h, hn, if_true]
  rfl

variable (hn : w0.getLsbD 4 = false)
include hn

theorem fetch_denied (ho : linesOwned s (BitVec.ofNat 12 (bitsAt w1 38 12)) (bitsAt w1 0 38) (fetchBlock s w0 q) = false) :
    exec (.fetch w0 w1) s = .next (rimPush (16 + bitsAt w0 5 4)
      ((List.range (fetchBlock s w0 q).length).map (fun j => fetchLine w0 z j (markAll (List.replicate 16 RWord.zero))))
      (tenantViol s 2 (BitVec.ofNat 12 (bitsAt w1 38 12)) ((granOwner s (128 * bitsAt w1 0 38)).getD 0) (8080 + bitsAt w0 5 4))) := by
  unfold fetchBlock at ho
  change execFetch w0 w1 s = _
  simp only [execFetch, h, hn, ho, Bool.false_eq_true, if_false, Bool.not_false, if_true]
  rfl

theorem fetch_owned (ho : linesOwned s (BitVec.ofNat 12 (bitsAt w1 38 12)) (bitsAt w1 0 38) (fetchBlock s w0 q) = true) :
    exec (.fetch w0 w1) s =
      let r := ((List.range (fetchBlock s w0 q).length).zip (fetchBlock s w0 q)).foldl (fetchRead w0 z (bitsAt w1 0 38)) ([], s)
      .next (rimPush (16 + bitsAt w0 5 4) r.1 r.2) := by
  unfold fetchBlock at ho
  change execFetch w0 w1 s = _
  simp only [execFetch, h, hn, ho, Bool.false_eq_true, if_false, Bool.not_true]
  rfl

theorem fetch_reads (ho : linesOwned s (BitVec.ofNat 12 (bitsAt w1 38 12)) (bitsAt w1 0 38) (fetchBlock s w0 q) = true)
    (hg : linesGood s (bitsAt w1 0 38) (fetchBlock s w0 q)) : exec (.fetch w0 w1) s = .next (rimPush (16 + bitsAt w0 5 4)
      (((List.range (fetchBlock s w0 q).length).zip (fetchBlock s w0 q)).map (fun jl =>
        fetchLine w0 z jl.1 (fetchWords s (bitsAt w1 0 38) jl.2))) s) := by
  have hz : ((List.range (fetchBlock s w0 q).length).zip (fetchBlock s w0 q)).map Prod.snd = fetchBlock s w0 q :=
    List.map_snd_zip (by simp)
  rw [fetch_owned h hn ho, foldl_fetchRead_good w0 z _ [] (hz.symm ▸ hg)]
  rfl

end

/-! ### Scrub and the extent table (R452, R456) -/

section
variable {die : Die} {e : BitVec 16} {v : BitVec 32} {s : State}

/-- The class of an entry of the die's extent table before the write. -/
def extOld (s : State) (die : Die) (e : BitVec 16) : Nat := extClass (extAt (mdAt s die) e.toNat)

/-- A write that gives a FREE extent to a host within HOST_MAX (R456). -/
def extGives (s : State) (die : Die) (e : BitVec 16) (v : BitVec 32) : Prop :=
  extOld s die e = 0 ∧ extClass v = 4 ∧ classCount (mdAt s die) 4 < (mdAt s die).hostMax.toNat

/-- A write that frees a HOST extent in which no enabled queue lies (R456). -/
def extFrees (s : State) (die : Die) (e : BitVec 16) (v : BitVec 32) : Prop :=
  extOld s die e = 4 ∧ extClass v = 0 ∧ extentQueue s die e.toNat = false

theorem extentTableWrite_gives (h : extGives s die e v) : exec (.extentTableWrite die e v) s =
    .next (mdPut s die (extPut (mdAt s die) e.toNat (extEntry 4 (extTenant v) 0))) :=
  congrArg Host.Outcome.next (if_pos h)

theorem extentTableWrite_frees (h : extFrees s die e v) : exec (.extentTableWrite die e v) s =
    .next (mdPut s die (extPut (mdAt s die) e.toNat 0)) := by
  obtain ⟨hold, hv, hq⟩ := h
  have given : ¬ extGives s die e v := fun g => by rw [g.1] at hold; cases hold
  exact congrArg Host.Outcome.next ((if_neg given).trans (if_pos ⟨hold, hv, (Bool.not_eq_true' _).mpr hq⟩))

theorem extentTableWrite_ignored (hg : ¬ extGives s die e v) (hf : ¬ extFrees s die e v) :
    exec (.extentTableWrite die e v) s = .next s :=
  congrArg Host.Outcome.next ((if_neg hg).trans (if_neg fun h => hf ⟨h.1, h.2.1, (Bool.not_eq_true' _).mp h.2.2⟩))

end

/-- Settles O41: the owner of a granule, NULL and the words of a block, SCRUB_EN and the class of an extent select what a memory die does. -/
theorem memoryDiesServeTheirDram : Obligations.MemoryDiesServeTheirDram := by
  unfold Obligations.MemoryDiesServeTheirDram
  refine ⟨?append, ?fetch, fun die s => ⟨fun h => if_pos h, fun h => if_neg (ne_true_of_eq_false h)⟩, ?extent⟩
  case append =>
    exact fun die dline tenant mask line s => ⟨fun h ho => ⟨_, dramAppend_owned mask line h ho, lineMasked_byte s dline.toNat mask line⟩,
      dramAppend_denied mask line, dramAppend_elsewhere mask line⟩
  case fetch =>
    exact fun w0 w1 s z q h => ⟨fetch_null h, fetch_denied h, fetch_reads h⟩
  case extent =>
    intro die e v s d old
    refine ⟨fun h0 hv hc => extentTableWrite_gives ⟨h0, hv, hc⟩, fun h4 hv hq => extentTableWrite_frees ⟨h4, hv, hq⟩, fun h => ?_⟩
    refine extentTableWrite_ignored ?_ ?_
    · rintro ⟨h0 : old = 0, hv, hc⟩
      obtain h | h | h := h
      · exact h.1 h0
      · exact h.2.elim (fun hn => hn hv) hc.not_ge
      · exact absurd (h0.symm.trans h.1) (by decide)
    · rintro ⟨h4 : old = 4, hv, hq⟩
      obtain h | h | h := h
      · exact h.2 h4
      · exact absurd (h4.symm.trans h.1) (by decide)
      · exact h.2.elim (fun hn => hn hv) (ne_true_of_eq_false hq)

end Sys2Proof.Machine
end

section
/-! Sessions that open, close and time out, and their obligation (R417, R431, R482, R483, R486, R497, R501, R529, R536). -/

namespace Sys2Proof.Machine

/-! ### The end of a session (R417, R431, R486) -/

/-- The rings that end with a session change the engines alone (R431). -/
theorem ringsLost_frame (id : Nat) (s : State) : ringsLost id s = { s with eng := (ringsLost id s).eng } := by
  refine foldl_keep _ (fun t => t = { s with eng := t.eng }) (fun t sid ht => ?_) _ s rfl
  split
  · show _ = { s with eng := _ }
    rw [ht]
    rfl
  · exact ht

/-- The delivery that a session carried ends with it (R486). -/
def deliveryEnded (id : Nat) (s : State) : State :=
  match s.delivery with
  | some d => if d.sess = id then { s with delivery := none } else s
  | none => s

theorem deliveryEnded_frame (id : Nat) (s : State) : ∃ d, deliveryEnded id s = { s with delivery := d } := by
  unfold deliveryEnded
  split
  · split
    · exact ⟨none, rfl⟩
    · exact ⟨s.delivery, rfl⟩
  · exact ⟨s.delivery, rfl⟩

/-- The locks of an agent that a lost session abandons (R417). -/
def agentLock (x : Session) (l : Lock) : Bool := x.agent != 0 && l.holder == x.agent && l.aepoch == x.aepoch

/-- The pod state after a session closed: the hawk's session is no longer one (R508). -/
def podWithout (lost : Bool) (id : Nat) (p : Pod) : Pod :=
  if p.hawkSess = some id then { p with
    hawkSess := none
    hawkLost := p.hawkLost || lost } else p

/-- A session closes: its place, its rings, its delivery, its agent's locks where it is lost, and the hawk's session. -/
theorem sessClose_eq (lost : Bool) {id : Nat} {s : State} {x : Session} (h : sessAt s id = some x) :
    sessClose lost id s =
      let t := deliveryEnded id (ringsLost id (sessPut s id none))
      let u := if lost = true then abandonLocks (agentLock x) t else t
      { u with pod := podWithout lost id u.pod } := by
  have hawk (t : State) : { t with pod := podWithout lost id t.pod } = if t.pod.hawkSess = some id then { t with pod := { t.pod with
      hawkSess := none
      hawkLost := t.pod.hawkLost || lost } } else t := by
    unfold podWithout
    split <;> rfl
  simp only [hawk]
  unfold sessClose
  simp only [h]
  rfl

/-- What the close of an open session changes. -/
theorem sessClose_frame (lost : Bool) {id : Nat} {s : State} {x : Session} (h : sessAt s id = some x) :
    ∃ e d, sessClose lost id s = { sessPut s id none with
      locks := if lost = true then (abandonLocks (agentLock x) s).locks else s.locks
      pod := podWithout lost id s.pod
      eng := e
      delivery := d } := by
  obtain ⟨d, hd⟩ := deliveryEnded_frame id (ringsLost id (sessPut s id none))
  refine ⟨(ringsLost id (sessPut s id none)).eng, d, ?_⟩
  rw [sessClose_eq lost h, hd, ringsLost_frame]
  cases lost <;> rfl

theorem sessClose_of_none (lost : Bool) {id : Nat} {s : State} (h : sessAt s id = none) : sessClose lost id s = s := by
  unfold sessClose
  rw [h]

section
variable (lost : Bool) {id : Nat} {s : State} {x : Session} (h : sessAt s id = some x)
include h

theorem sessClose_ld : (sessClose lost id s).ld = (sessPut s id none).ld := by
  obtain ⟨e, d, he⟩ := sessClose_frame lost h
  rw [he]

theorem sessClose_locks : (sessClose lost id s).locks = if lost = true then (abandonLocks (agentLock x) s).locks else s.locks := by
  obtain ⟨e, d, he⟩ := sessClose_frame lost h
  rw [he]

/-- A session that closes is gone. -/
theorem sessAt_sessClose : sessAt (sessClose lost id s) id = none :=
  (sessAt_of_ld (sessClose_ld lost h) id).trans (sessAt_sessPut s id none)

end

/-- A lock after some were abandoned (R417). -/
theorem lockAt_abandonLocks (p : Lock → Bool) (s : State) {n : Nat} (hn : n < 256) :
    lockAt (abandonLocks p s) n = if (lockAt s n).held && p (lockAt s n) then { lockAt s n with
      held := false
      abandoned := true } else lockAt s n := by
  unfold abandonLocks
  exact (sget_stab ..).trans (if_pos hn)

theorem lockAt_of_locks {s t : State} (h : t.locks = s.locks) (n : Nat) : lockAt t n = lockAt s n := by
  unfold lockAt
  rw [h]

/-! ### CLOSE and SESSION_TIMEOUT (R486, R497) -/

/-- A link die that counts a timeout (R497). -/
def timeoutCounted (id : Nat) (s : State) : State := linkUpd (id / 256) (fun d => { d with timeout := satInc d.timeout }) s

section
variable {sess : SessId} {s : State}

theorem sessionTimeout_none (h : sessAt s sess.toNat = none) : exec (.sessionTimeout sess) s = .next s := by
  change execSessionTimeout sess s = _
  simp only [execSessionTimeout, h]

variable {x : Session} (h : sessAt s sess.toNat = some x)
include h

theorem sessionTimeout_early (hs : x.silent < 3) : exec (.sessionTimeout sess) s = .next s := by
  change execSessionTimeout sess s = _
  simp only [execSessionTimeout, h, hs, if_true]

theorem sessionTimeout_closes (hs : 3 ≤ x.silent) :
    exec (.sessionTimeout sess) s = .next (timeoutCounted sess.toNat (sessClose true sess.toNat s)) := by
  change execSessionTimeout sess s = _
  simp only [execSessionTimeout, h, hs.not_gt, if_false]
  rfl

end

/-- Counting a timeout leaves every session. -/
theorem sessAt_timeoutCounted (id : Nat) (s : State) : sessAt (timeoutCounted id s) id = sessAt s id := by
  unfold sessAt timeoutCounted linkUpd
  rw [linkAt_linkPut, if_pos rfl]

theorem linkAt_timeoutCounted (id : Nat) (s : State) : (linkAt (timeoutCounted id s) (id / 256)).timeout = satInc (linkAt s (id / 256)).timeout := by
  unfold timeoutCounted linkUpd
  rw [linkAt_linkPut, if_pos rfl]

/-- A place of a session that changes leaves the counters of its die. -/
theorem linkAt_sessPut (s : State) (id : Nat) (x : Option Session) :
    linkAt (sessPut s id x) (id / 256) = { linkAt s (id / 256) with sess := sset none (linkAt s (id / 256)).sess (id % 256) x } := by
  unfold sessPut
  rw [linkAt_linkPut, if_pos rfl]

/-! ### OPEN (R482, R483, R501, R502, R529, R536) -/

section
variable {die : Die} {sub : SubPort} {a : OpenArgs} {s : State}

theorem openSession_refused {r : Nat} (h : openRefusal s a = some r) : exec (.openSession die sub a) s = .next (answer s r []) := by
  change execOpenSession die sub a s = _
  simp only [execOpenSession, h]
  rfl

/-- An OPEN that no session may have. -/
theorem openRefusal_bad (h : a.agent = 0 ∨ 4 ≤ a.kind.toNat ∨ a.window.toNat < 16 ∨ 1024 < a.window.toNat ∨ 4096 ≤ a.tenant.toNat ∨
    (a.kind ≠ 0 ∧ a.tenant ≠ 0)) : openRefusal s a = some 1 := by
  refine if_pos ?_
  tauto

/-- An OPEN that is not refused is signed, and no session of its agent has a later epoch. -/
theorem of_openRefusal_none (h : openRefusal s a = none) :
    sigHolds s.sec (.session (a.kind == 1)) a.keyId.toNat (openBytes a) a.sig = true ∧
      ∀ e ∈ agentSess s a.agent, (a.aepoch - e.2.aepoch).toNat < 32768 := by
  simp only [openRefusal] at h
  split_ifs at h with hbad hlc hsig hold hpod
  exact ⟨by simpa using hsig, fun e he => by simpa using fun hle => hold (List.any_eq_true.2 ⟨e, he, decide_eq_true hle⟩)⟩

/-- The module after the sessions of other epochs of an agent closed as if they had timed out (R482). -/
def otherEpochsClosed (s : State) (a : OpenArgs) : State :=
  (agentSess s a.agent).foldl (fun acc e => if e.2.aepoch = a.aepoch then acc else sessClose true e.1 acc) s

variable (h : openRefusal s a = none)
include h

theorem openSession_full (hf : freeSess (linkAt (otherEpochsClosed s a) die) = none) :
    exec (.openSession die sub a) s = .next (answer s 4 []) := by
  unfold otherEpochsClosed at hf
  change execOpenSession die sub a s = _
  simp only [execOpenSession, h, hf]
  rfl

theorem openSession_opens {i : Nat} (hf : freeSess (linkAt (otherEpochsClosed s a) die) = some i) :
    exec (.openSession die sub a) s = .next (answer
      (sessOpened a.kind (256 * die.val + i) (openSess s (256 * die.val + i) sub a) (otherEpochsClosed s a)) 0
      (⟨BitVec.ofNat 64 (256 * die.val + i), false⟩ :: clean (packBytes (Config.openResponse s.draws (openBytes a)) 26))) := by
  unfold otherEpochsClosed at hf
  change execOpenSession die sub a s = _
  simp only [execOpenSession, h, hf]
  rfl

end

/-- A session that opens is there under its ID. -/
theorem sessAt_sessOpened (kind : Byte) (id : Nat) (x : Session) (s : State) : sessAt (sessOpened kind id x s) id = some x := by
  unfold sessOpened
  split
  · exact sessAt_sessPut { s with draws := s.draws + 1 } id (some x)
  · exact sessAt_sessPut { s with draws := s.draws + 1 } id (some x)

/-- Settles O45: the refusal and the free place of an OPEN, and a session's silence, select the branch; `sessClose_frame` says what a close
changes. -/
theorem sessionsOpenAndClose : Obligations.SessionsOpenAndClose := by
  unfold Obligations.SessionsOpenAndClose
  refine ⟨?opens, fun sess s => ⟨fun h => ⟨congrArg _ (sessClose_of_none false h), sessionTimeout_none h⟩, fun x h => ?ends⟩⟩
  case opens =>
    exact fun die sub a s => ⟨fun r => openSession_refused, openRefusal_bad, of_openRefusal_none, openSession_full,
      fun i h hf => ⟨sessAt_sessOpened .., openSession_opens h hf⟩⟩
  case ends =>
    refine ⟨⟨_, rfl, sessAt_sessClose false h, sessClose_locks false h⟩, sessionTimeout_early h, fun hs =>
      ⟨_, sessionTimeout_closes h hs, ?gone, ?count, fun n hn => ?lock⟩⟩
    case gone => rw [sessAt_timeoutCounted, sessAt_sessClose true h]
    case count => rw [linkAt_timeoutCounted, linkAt_of_ld (sessClose_ld true h), linkAt_sessPut]
    case lock =>
      have ht : lockAt (timeoutCounted sess.toNat (sessClose true sess.toNat s)) n = lockAt (abandonLocks (agentLock x) s) n :=
        lockAt_of_locks (sessClose_locks true h) n
      rw [ht, lockAt_abandonLocks _ s hn]
      simp [agentLock, and_assoc]

end Sys2Proof.Machine
end

section
/-! Commit groups from PREPARE to their decision and its delivery, and their obligation (R404, R406-R409, R411, R414). -/

namespace Sys2Proof.Machine

/-! ### PREPARE (R406, R407) -/

/-- The vote of a participant: the reason of a refused write, 4 while it is stopped, otherwise YES (R407). -/
def partVote (s : State) (node : Nat) (p : CgPart) : Nat :=
  if p.refused ≠ 0 then p.refused.toNat else if nodeStopped s node then 4 else 0

/-- A participant's shadow state of a group is found again after a change that keeps its names. -/
theorem partAt_partUpd {c : Cg} {node : Nat} {cgid : BitVec 16} {p : CgPart} {f : CgPart → CgPart}
    (hf : ∀ q, (f q).node = q.node ∧ (f q).cgid = q.cgid) (h : partAt c node cgid = some p) :
    partAt (partUpd node cgid f c) node cgid = some (f p) := by
  obtain ⟨hn, hc⟩ : p.node = node ∧ p.cgid = cgid := by simpa using List.find?_some h
  have same : ((fun q : CgPart => q.node == node && q.cgid == cgid) ∘ fun q => if q.node = node ∧ q.cgid = cgid then f q else q) =
      fun q => q.node == node && q.cgid == cgid := by
    funext q
    show (((if _ then f q else q : CgPart).node == node) && ((if _ then f q else q : CgPart).cgid == cgid)) = _
    split <;> simp [hf q]
  unfold partAt partUpd
  rw [List.find?_map, same]
  show Option.map _ (partAt c node cgid) = _
  rw [h, Option.map_some, if_pos ⟨hn, hc⟩]

/-- The prepared participant of a PREPARE (R407). -/
def prepared (frame : BitVec 48) (p : CgPart) : CgPart := { p with prepared := true, frame := frame }

/-- A participant that holds shadow writes is prepared for the frame and votes. -/
theorem cgPrepare_participant {node : Node} {a : PrepArgs} {s : State} {g : CgGroup} {p : CgPart}
    (hg : groupAt (cgSent a s).cg a.cgid = some g) (hm : node.val ∈ g.parts) (hp : partAt (cgSent a s).cg node a.cgid = some p) :
    exec (.cgPrepare node a) s =
      let s2 := onCg (partUpd node a.cgid (prepared a.frame)) (cgSent a s)
      .next (answer s2 (partVote s2 node p) []) := by
  have hin : (!g.parts.contains node.val) = false := by simpa using hm
  have hq : partAt (onCg (partUpd node a.cgid (prepared a.frame)) (cgSent a s)).cg node a.cgid = some (prepared a.frame p) :=
    partAt_partUpd (fun _ => ⟨rfl, rfl⟩) hp
  have hv (s2 : State) (h : partAt s2.cg node a.cgid = some (prepared a.frame p)) : (voteOf s2 node a.cgid).toNat = partVote s2 node p := by
    simp only [voteOf, h, partVote, prepared]
    split_ifs <;> rfl
  change execCgPrepare node a s = _
  simp only [execCgPrepare, hg, hin, hp, Bool.false_eq_true, if_false]
  exact congrArg (fun v => Host.Outcome.next (answer _ v [])) (hv _ hq)

/-! ### Votes (R408) -/

section
variable {at_ sender : Node} {cgid yes : BitVec 16} {no : Byte} {noNode : BitVec 16} {s : State}

/-- The service die adds a vote to its group: the YES counts add, the first NO stays. -/
theorem cgVote_svc (h : at_.val = 8096) : exec (.cgVote at_ sender cgid yes no noNode) s = .next (onCg (groupUpd cgid (fun g =>
    if g.no = 0 ∧ no ≠ 0 then { g with yes := g.yes + yes, no := no, noNode := noNode } else { g with yes := g.yes + yes })) s) :=
  if_pos h

/-- A combined vote with one more vote in it. -/
def voteAdded (sender : Nat) (yes : BitVec 16) (no : Byte) (noNode : BitVec 16) (v : HubVote) : HubVote :=
  { v with
    yes := v.yes + yes
    voted := v.voted ++ [sender]
    no := if v.no = 0 ∧ no ≠ 0 then no else v.no
    noNode := if v.no = 0 ∧ no ≠ 0 then noNode else v.noNode }

theorem addVote_eq (v : HubVote) : addVote sender yes (no.setWidth 16) noNode v = voteAdded sender yes no noNode v := by
  have hz : (no.setWidth 16 : BitVec 16) = 0 ↔ no = 0 := by
    rw [← BitVec.toNat_inj, ← BitVec.toNat_inj]
    simp [Nat.mod_eq_of_lt (show no.toNat < 65536 by omega)]
  have hw : (no.setWidth 16).setWidth 8 = no := by simp
  unfold addVote voteAdded
  by_cases h : v.no = 0 ∧ no ≠ 0
  · simp only [ne_eq, hz, h, hw, if_true, and_self, not_false_eq_true]
  · simp only [ne_eq, hz, hw, if_neg h]

/-- A hub that has not sent adds a new vote, and sends the combined one once every participant of its block has voted. -/
theorem cgVote_hub {b : Nat} (hs : at_.val ≠ 8096) (hb : nodeBlock at_ = some b) (hh : at_.val = hubOf s b)
    (hv : (hubVote s.cg at_ cgid).sent = false) (hn : sender.val ∉ (hubVote s.cg at_ cgid).voted) :
    exec (.cgVote at_ sender cgid yes no noNode) s =
      let w := voteAdded sender yes no noNode (hubVote s.cg at_ cgid)
      let s1 := onCg (hubPut w) s
      .next (if (blockParts s.cg cgid b).all (fun n => w.voted.contains n) then sendVote w s1 else s1) := by
  have hold : ¬ ((hubVote s.cg at_ cgid).sent = true ∨ (hubVote s.cg at_ cgid).voted.contains sender.val = true) := by simp [hv, hn]
  refine (if_neg hs).trans ?_
  simp only [hb, if_neg (not_not.2 hh), if_neg hold, addVote_eq]

end

section
variable {b : Block} {cgid : BitVec 16} {s : State}

theorem hubVoteDeadline_sends (h : (hubVote s.cg (hubOf s b) cgid).sent = false) :
    exec (.hubVoteDeadline b cgid) s = .next (sendVote (hubVote s.cg (hubOf s b) cgid) s) :=
  congrArg Host.Outcome.next (if_neg (ne_true_of_eq_false h))

theorem hubVoteDeadline_sent (h : (hubVote s.cg (hubOf s b) cgid).sent = true) : exec (.hubVoteDeadline b cgid) s = .next s :=
  congrArg Host.Outcome.next (if_pos h)

end

/-! ### The decision (R409, R411) -/

/-- A group applies with every participant's YES and no NO, not withdrawn and with no write lost. -/
theorem decisionOf_apply_iff (g : CgGroup) : decisionOf g = 0 ↔
    g.withdrawn = false ∧ g.lost = false ∧ g.no = 0 ∧ g.yes.toNat = g.parts.length := by
  unfold decisionOf
  split_ifs with hw hl hn hy <;> simp_all

section
variable {cgid : BitVec 16} {s : State} {g : CgGroup} (hg : groupAt s.cg cgid = some g) (hd : g.decision = .none)
  (hp : g.prepared = true)
include hg hd hp

/-- A prepared group without a decision, by the decision that it gets. -/
theorem cgDecide_prepared : exec (.cgDecide cgid) s =
    let c := recordDecision cgid (decisionOf g) g.no g.noNode s.cg
    if decisionOf g = 0 then .next (onCg (fun _ => partUpd svcNode cgid (fun p => { p with decision := .apply })
      (groupUpd cgid (fun g => { g with decision := .apply }) c)) s)
    else .next (onCg (fun _ => partDel svcNode cgid { c with
      groups := c.groups.filter (fun g => g.cgid != cgid)
      hubs := c.hubs.filter (fun v => v.cgid != cgid) }) s) := by
  have open_ : ¬ (g.decision ≠ .none ∨ (!g.prepared) = true) := by simp [hd, hp]
  change execCgDecide cgid s = _
  simp only [execCgDecide, hg, if_neg open_]

end

/-- The record of an applied group (R414). -/
theorem recordDecision_apply (cgid : BitVec 16) (no : Byte) (node : BitVec 16) (c : Cg) : recordDecision cgid 0 no node c = { c with
    lastCgid := cgid
    lastReason := 0 } := rfl

theorem recordDecision_open (cgid : BitVec 16) (r : BitVec 3) (no : Byte) (node : BitVec 16) (c : Cg) :
    (recordDecision cgid r no node c).groups = c.groups ∧ (recordDecision cgid r no node c).hubs = c.hubs ∧
      (recordDecision cgid r no node c).parts = c.parts := by
  simp only [recordDecision, countDiscard]
  split_ifs <;> exact ⟨rfl, rfl, rfl⟩

/-! ### The delivery of a decision (R407, R409, R411) -/

section
variable {node : Node} {cgid : BitVec 16} {s : State} {p : CgPart} (hp : partAt s.cg node cgid = some p)
include hp

theorem cgApply_held {frame : BitVec 48} (h : p.prepared = true) (hf : (frameCtr s).toNat + 1 ≤ frame.toNat) :
    exec (.cgApply node cgid frame) s = .next (onCg (partUpd node cgid (fun q => { q with decision := .apply })) s) := by
  change execCgApply node cgid frame s = _
  simp only [execCgApply, hp, h, if_true, if_neg hf.not_gt]

theorem cgApply_outside (frame : BitVec 48) (h : p.prepared = false) :
    exec (.cgApply node cgid frame) s = .next (scopeRpt node cgid (onCg (partDel node cgid) s)) := by
  change execCgApply node cgid frame s = _
  simp only [execCgApply, hp, h, Bool.false_eq_true, if_false]

theorem cgDiscard_drops {reason : Byte} (h : p.decision ≠ .apply ∨ reason = 5) : exec (.cgDiscard node cgid reason) s =
    .next (if p.prepared then onCg (partDel node cgid) s else scopeRpt node cgid (onCg (partDel node cgid) s)) := by
  have holds : ¬ (p.decision = .apply ∧ reason ≠ 5) := fun ⟨ha, hr⟩ => h.elim (fun hn => hn ha) hr
  change execCgDiscard node cgid reason s = _
  simp only [execCgDiscard, hp, if_neg holds]

end

/-- Settles O21: the participant, the node of a vote, the group's votes and the decision that a participant holds select the branch that each
command takes. -/
theorem commitGroupsAreVotedAndDecided : Obligations.CommitGroupsAreVotedAndDecided := by
  unfold Obligations.CommitGroupsAreVotedAndDecided
  refine ⟨⟨fun node a s g p hg hm hp => cgPrepare_participant hg hm hp, ?vote,
    fun b cgid s => ⟨hubVoteDeadline_sends, hubVoteDeadline_sent⟩⟩, ?decide, ?deliver⟩
  case vote =>
    intro sender at_ cgid yes no noNode s
    refine ⟨cgVote_svc, fun b hs hb hh hv hn => ?_⟩
    rw [cgVote_hub hs hb hh hv hn]
    refine ⟨fun hall => congrArg _ (if_pos ?_), fun hsome => congrArg _ (if_neg ?_)⟩
    · exact List.all_eq_true.2 fun n hn => List.contains_iff_mem.2 (hall n hn)
    · obtain ⟨n, hb, hnot⟩ := hsome
      exact fun hall => hnot (List.contains_iff_mem.1 (List.all_eq_true.1 hall n hb))
  case decide =>
    intro cgid s g hg hd hp
    refine ⟨decisionOf_apply_iff g, fun h0 => ?_, fun h0 => ?_⟩ <;> rw [cgDecide_prepared hg hd hp]
    · simp only [h0, if_true, recordDecision_apply]
      rfl
    · obtain ⟨hgr, hhu, hpa⟩ := recordDecision_open cgid (decisionOf g) g.no g.noNode s.cg
      simp only [if_neg h0, onCg, partDel, hgr, hhu, hpa]
      rfl
  case deliver =>
    intro node cgid s p hp gone report
    exact ⟨fun frame => cgApply_held hp, fun frame => cgApply_outside hp frame, fun reason => cgDiscard_drops hp⟩

end Sys2Proof.Machine
end

section
/-! Closing commits, ring records, batches, ring credits and locks, and their obligation (R415, R416, R423, R426, R428, R430, R433, R518). -/

namespace Sys2Proof.Machine

/-! ### Closing commits (R423) -/

/-- The items of a stream's closing commit: the closing itself and the pages that its tiles own. -/
def closingItems (s : State) (x : Nat) : List (Nat × CgItem) :=
  (engNode (sidEng x), CgItem.closing x) ::
    (((List.range 1024).map (pteAt s x)).flatMap (pteGranules s (ctxAt s x).pipe.toNat)).map (fun sg => (sg.1, CgItem.pageOwn sg.1 sg.2 0))

section
variable {sid : Sid} {s : State}

theorem closingCommit_rests (h : (ctxAt s sid.toNat).st ≠ .closing ∨ (ctxAt s sid.toNat).closing = true ∨ (ctxAt s sid.toNat).flights ≠ []) :
    exec (.closingCommit sid) s = .next s :=
  if_pos (h.imp_right fun h => h.imp_right fun h => by simpa using h)

theorem closingCommit_opens (hst : (ctxAt s sid.toNat).st = .closing) (hc : (ctxAt s sid.toNat).closing = false)
    (hf : (ctxAt s sid.toNat).flights = []) {g : BitVec 16} {u : State} (h : cgStart (closingItems s sid.toNat) s = some (g, u)) :
    exec (.closingCommit sid) s = .next (ctxUpd sid.toNat (fun c => { c with closing := true }) u) := by
  unfold closingItems at h
  change execClosingCommit sid s = _
  simp only [execClosingCommit, hst, hc, hf, List.isEmpty_nil, Bool.not_true, Bool.false_eq_true, ne_eq, not_true, or_self, if_false, h]

/-! ### Ring records and batches (R426, R428, R430) -/

/-- The address of a record's slot in its ring (R428). -/
def ringSlot (c : Ctx) (r : RingRec) : Word := c.raddr + BitVec.ofNat 64 (64 * (r.seq.toNat % 2 ^ c.log2n.toNat))

section
variable {r : RingRec} {rest : List RingRec} (h : (ctxAt s sid.toNat).recs = r :: rest)
include h

theorem ringRecordWrite_writes (hr : (r.seq - (ctxAt s sid.toNat).head).toNat < 2 ^ (ctxAt s sid.toNat).log2n.toNat) :
    exec (.ringRecordWrite sid) s = .next (ctxFinish sid.toNat (ctxUpd sid.toNat (fun c => { c with
      recs := rest
      written := c.written ++ [r] }) (ledPulse (klpSend (ctxAt s sid.toNat).session.toNat false 0x12 (ringSlot (ctxAt s sid.toNat) r)
        (recBytes s sid.toNat (ctxAt s sid.toNat) r) s)))) := by
  change execRingRecordWrite sid s = _
  simp only [execRingRecordWrite, h, if_pos hr]
  rfl

theorem ringRecordWrite_full (hr : 2 ^ (ctxAt s sid.toNat).log2n.toNat ≤ (r.seq - (ctxAt s sid.toNat).head).toNat) :
    exec (.ringRecordWrite sid) s = .next s := by
  change execRingRecordWrite sid s = _
  simp only [execRingRecordWrite, h, if_neg hr.not_gt]

end

theorem batchTimeout_flushes (hb : (ctxAt s sid.toNat).batch ≠ [])
    (h : (ctxAt s sid.toNat).batchAt + (ctxAt s sid.toNat).batchFr.toNat ≤ s.frames) :
    exec (.batchTimeout sid) s = .next (ctxPut s sid.toNat (batchFlush (ctxAt s sid.toNat))) :=
  if_pos ⟨by simpa using hb, h⟩

theorem batchTimeout_rests (h : (ctxAt s sid.toNat).batch = [] ∨
    s.frames < (ctxAt s sid.toNat).batchAt + (ctxAt s sid.toNat).batchFr.toNat) : exec (.batchTimeout sid) s = .next s :=
  if_neg fun ⟨hb, hf⟩ => h.elim (by simpa using hb) hf.not_gt

end

/-! ### Ring credits (R428, R518) -/

/-- The HEAD that a credit carries. -/
def creditHead (arg : Word) : BitVec 32 := BitVec.ofNat 32 (bitsAt arg 32 32)

/-- A credit of a stream that is open or closing, by its generation, its tenant and its HEAD. -/
theorem rcredit_eq {sess : SessId} {arg : Word} {s : State} {h : Session} (ho : HostOpen s sess h)
    (hc : ctxOpen (ctxAt s (bitsAt arg 0 14)) = true ∨ (ctxAt s (bitsAt arg 0 14)).st = .closing) :
    exec (.rcredit sess arg) s = .next (
      let x := bitsAt arg 0 14
      let c := ctxAt s x
      if c.gen.toNat ≠ bitsAt arg 14 16 then answer s 0 []
      else if c.tenant ≠ h.tenant then answer (tenantViol s 6 h.tenant c.tenant (engNode (sidEng x))) 0 []
      else if (creditHead arg - c.head).toNat ≤ (c.seq - c.head).toNat then
        answer (ctxPut s x { c with
          head := creditHead arg
          written := c.written.filter (fun r => decide ((creditHead arg - c.head).toNat ≤ (r.seq - c.head).toNat)) }) 0 []
      else answer s 0 []) := by
  have hst : ¬ (ctxAt s (bitsAt arg 0 14)).st = .free ∧ ¬ (ctxAt s (bitsAt arg 0 14)).st = .admitting := by
    refine ⟨fun he => ?_, fun he => ?_⟩ <;> simp [ctxOpen, he] at hc
  change execRcredit sess arg s = _
  simp only [execRcredit, hostGate_of_host ho, ho.session, gated, hst.1, hst.2, false_or]
  rfl

/-! ### Locks (R415, R416) -/

section
variable {agent aepoch : BitVec 16} {lock : Byte} {s : State}

theorem acquire_eq : exec (.acquire agent aepoch lock) s = .next (let l := lockAt s lock.toNat
    if l.held = false then lockPut lock.toNat ⟨true, l.abandoned, agent, aepoch, l.lepoch + 1⟩ s else s) := by
  change Host.Outcome.next (lockOp agent aepoch lock.toNat 1 s) = _
  simp [lockOp]

theorem release_eq : exec (.release agent aepoch lock) s = .next (let l := lockAt s lock.toNat
    if l.held = true ∧ l.holder = agent ∧ l.aepoch = aepoch then lockPut lock.toNat ⟨false, false, l.holder, l.aepoch, l.lepoch⟩ s
    else s) := by
  change Host.Outcome.next (lockOp agent aepoch lock.toNat 2 s) = _
  simp [lockOp]

theorem release_holder (h : (lockAt s lock.toNat).held = true) (ha : (lockAt s lock.toNat).holder = agent)
    (he : (lockAt s lock.toNat).aepoch = aepoch) : exec (.release agent aepoch lock) s =
    .next (lockPut lock.toNat ⟨false, false, agent, aepoch, (lockAt s lock.toNat).lepoch⟩ s) := by
  subst ha he
  exact release_eq.trans (congrArg _ (if_pos ⟨h, rfl, rfl⟩))

theorem release_other (h : (lockAt s lock.toNat).held = false ∨ (lockAt s lock.toNat).holder ≠ agent ∨
    (lockAt s lock.toNat).aepoch ≠ aepoch) : exec (.release agent aepoch lock) s = .next s :=
  release_eq.trans (congrArg _ (if_neg fun ⟨hh, ha, he⟩ =>
    h.elim (ne_false_of_eq_true hh) fun h => h.elim (fun hn => hn ha) fun hn => hn he))

end

theorem lockAt_lockPut (n m : Nat) (v : Lock) (s : State) : lockAt (lockPut n v s) m = if m = n then v else lockAt s m := sget_sset ..

/-- Settles O40: the context of the stream, the place of a record in its ring, the credit's generation, tenant and HEAD, and the lock's
holder select the branch that each command takes. -/
theorem ringsAndLocksAreKept : Obligations.RingsAndLocksAreKept := by
  unfold Obligations.RingsAndLocksAreKept
  refine ⟨fun sid s => ⟨closingCommit_rests, fun hst hc hf g u => closingCommit_opens hst hc hf⟩,
    fun sid s r rest h => ⟨ringRecordWrite_writes h, ringRecordWrite_full h⟩,
    fun sid s => ⟨batchTimeout_flushes, batchTimeout_rests⟩, ?credit,
    fun agent aepoch lock s => ⟨fun h => acquire_eq.trans (congrArg _ (if_pos h)),
      fun h => acquire_eq.trans (congrArg _ (if_neg (ne_false_of_eq_true h))), release_holder, release_other, fun v m => lockAt_lockPut _ m v s⟩⟩
  intro sess arg s h ho x c head hc
  rw [rcredit_eq ho hc]
  refine ⟨fun hg => ?_, fun hg ht => ?_, fun hg ht hh => ?_, fun hg ht hh => ?_⟩
  · exact congrArg _ (if_pos hg)
  · exact congrArg _ ((if_neg (not_not.2 hg)).trans (if_pos ht))
  · exact congrArg _ ((if_neg (not_not.2 hg)).trans ((if_neg (not_not.2 ht)).trans (if_pos hh)))
  · exact congrArg _ ((if_neg (not_not.2 hg)).trans ((if_neg (not_not.2 ht)).trans (if_neg hh.not_ge)))

end Sys2Proof.Machine
end

section
/-! Frames, modes, sub-ports, pauses, rates and IEEE 1588 exchanges of the link dies, and their obligation (R473-R476, R478, R479, R485,
R495). -/

namespace Sys2Proof.Machine

/-! ### Frames (R473, R476) -/

/-- A port that counts the FEC codewords of a frame (R473). -/
def fecCounted (die sub : Nat) (corrected uncorrected : Bool) (s : State) : State :=
  portUpd die (sub / 8) (fun x => { x with
    corr := if corrected then x.corr + 1 else x.corr
    uncorr := if uncorrected then satInc x.uncorr else x.uncorr }) s

/-- The kinds of frames that a sub-port answers itself, by its enabled addresses (R476). -/
def frameAnswered (v4 v6 : Bool) : FrameKind → Bool
  | .arp => v4
  | .nd => v6
  | .echo => v4 || v6
  | _ => false

/-- The kinds of frames that pass to their own commands, by a sub-port's enabled addresses (R476). -/
def framePassed (v4 v6 : Bool) : FrameKind → Bool
  | .ptp => true
  | .klp => v4 || v6
  | _ => false

section
variable {v4 v6 : Bool} {kind : FrameKind}

theorem frameAnswered_of (h : (kind = .arp ∧ v4 = true) ∨ (kind = .nd ∧ v6 = true) ∨ (kind = .echo ∧ (v4 = true ∨ v6 = true))) :
    frameAnswered v4 v6 kind = true := by
  obtain ⟨rfl, h⟩ | ⟨rfl, h⟩ | ⟨rfl, h⟩ := h
  · exact h
  · exact h
  · exact (Bool.or_eq_true ..).mpr h

/-- A frame that passes to its own command is none that the sub-port answers. -/
theorem framePassed_of (h : kind = .ptp ∨ (kind = .klp ∧ (v4 = true ∨ v6 = true))) :
    framePassed v4 v6 kind = true ∧ frameAnswered v4 v6 kind = false := by
  obtain rfl | ⟨rfl, h⟩ := h
  · exact ⟨rfl, rfl⟩
  · exact ⟨(Bool.or_eq_true ..).mpr h, rfl⟩

/-- A frame of another kind, or of a kind for which the sub-port has no address, is neither. -/
theorem frame_other (h : kind = .other ∨ (kind = .arp ∧ ¬ v4 = true) ∨ (kind = .nd ∧ ¬ v6 = true) ∨
    ((kind = .echo ∨ kind = .klp) ∧ ¬ v4 = true ∧ ¬ v6 = true)) :
    frameAnswered v4 v6 kind = false ∧ framePassed v4 v6 kind = false := by
  obtain rfl | ⟨rfl, h⟩ | ⟨rfl, h⟩ | ⟨rfl | rfl, h4, h6⟩ := h <;> simp_all [frameAnswered, framePassed]

end

/-- Whether a sub-port has an IPv4 address, and whether it has an IPv6 address. -/
def subV4 (d : LinkDie) (sub : Nat) : Bool := (subAt d sub).ip4 != 0
def subV6 (d : LinkDie) (sub : Nat) : Bool := (subAt d sub).ip6h != 0 || (subAt d sub).ip6l != 0

/-- Whether the length and the tags of a frame fit (R476). -/
def frameFits (len : BitVec 16) (tags : BitVec 2) : Bool := decide (len.toNat ≤ 9216) && decide (tags.toNat ≤ 1)

section
variable {die : Die} {sub : SubPort} (kind : FrameKind) (len : BitVec 16) (tags : BitVec 2) (corrected : Bool) {s : State}

theorem frameReceive_down (uncorrected : Bool) (h : subUp (linkAt s die) sub = false) :
    exec (.frameReceive die sub kind len tags corrected uncorrected) s = .next s :=
  if_pos ((Bool.not_eq_true' _).mpr h)

variable (h : subUp (linkAt s die) sub = true)
include h

theorem frameReceive_uncorrectable :
    exec (.frameReceive die sub kind len tags corrected true) s = .next (fecCounted die sub corrected true s) :=
  if_neg (by rw [h]; decide)

/-- A frame that was received whole, by its kind, its form and the addresses of its sub-port. -/
theorem frameReceive_whole : exec (.frameReceive die sub kind len tags corrected false) s = .next (
    let s1 := fecCounted die sub corrected false s
    let d := linkAt s1 die
    if (frameFits len tags && frameAnswered (subV4 d sub) (subV6 d sub) kind) = true then answer s1 0 []
    else if (frameFits len tags && framePassed (subV4 d sub) (subV6 d sub) kind) = true then s1
    else linkPut s1 die { d with other := satInc d.other }) := by
  change execFrameReceive die sub kind len tags corrected false s = _
  simp only [execFrameReceive, h, Bool.not_true, Bool.false_eq_true, if_false]
  cases kind <;> simp only [frameAnswered, framePassed, Bool.and_false, Bool.and_true, Bool.false_eq_true, if_false] <;> rfl

end

/-! ### Modes and sub-ports (R474, R475, R485) -/

section
variable {die : Die} {p : LocalPort} (los : Byte) {s : State}

theorem modeApply_runs (h : (portAt (linkAt s die) p).modeSt = true) : exec (.modeApply die p) s = .next s :=
  congrArg Host.Outcome.next (if_pos h)

theorem modeApply_starts (h : (portAt (linkAt s die) p).modeSt = false) : exec (.modeApply die p) s =
    .next (portsDown die (fun d => portPut p { portAt (portDown p d) p with modeSt := true } (portDown p d)) s) :=
  congrArg Host.Outcome.next (if_neg (ne_true_of_eq_false h))

theorem modeChangeComplete_ends (h : (portAt (linkAt s die) p).modeSt = true) : exec (.modeChangeComplete die p los) s =
    .next (portUpd die p (fun x => { x with
      modeSt := false
      modeAct := x.mode
      los := los &&& BitVec.ofNat 8 (2 ^ modeSubs x.mode - 1) }) s) :=
  if_pos h

theorem modeChangeComplete_rests (h : (portAt (linkAt s die) p).modeSt = false) :
    exec (.modeChangeComplete die p los) s = .next s :=
  if_neg (ne_true_of_eq_false h)

end

section
variable {d : LinkDie} {x : Session}

theorem sessMove_stays (h : subUp d x.sub = true ∨ 24 ≤ x.alt ∨ subUp d x.alt = false) : (sessMove d x).1 = x := by
  have hn : (!subUp d x.sub && decide (x.alt < 24) && subUp d x.alt) = false := by
    obtain h | h | h := h <;> simp [h]
  rw [sessMove, hn]
  rfl

theorem sessMove_moves (h : subUp d x.sub = false) (ha : x.alt < 24) (hu : subUp d x.alt = true) :
    (sessMove d x).1.sub = x.alt ∧ (sessMove d x).1.alt = x.sub := by
  have hm : (!subUp d x.sub && decide (x.alt < 24) && subUp d x.alt) = true := by simp [h, ha, hu]
  rw [sessMove, if_pos hm]
  exact ⟨rfl, rfl⟩

end

section
variable {die : Die} {sub : SubPort} {s : State}

/-- Whether a signal brings up a sub-port: one of the mode in force, on an enabled port, outside a mode change (R475, R500). -/
def subComesUp (x : Port) (sub : Nat) : Prop := x.en = true ∧ x.modeSt = false ∧ sub % 8 < modeSubs x.modeAct

theorem subportUp_rises (h : subComesUp (portAt (linkAt s die) (sub.val / 8)) sub) : exec (.subportUp die sub) s =
    .next (portUpd die (sub.val / 8) (fun x => { x with
      up := x.up ||| (1 : Byte) <<< (sub.val % 8)
      los := x.los &&& ~~~((1 : Byte) <<< (sub.val % 8)) }) s) := by
  obtain ⟨hen, hst, hsub⟩ := h
  exact if_pos (by simp [hen, hst, hsub])

theorem subportUp_rests (h : ¬ subComesUp (portAt (linkAt s die) (sub.val / 8)) sub) : exec (.subportUp die sub) s = .next s :=
  if_neg fun hb => h (by simpa [subComesUp, and_assoc] using hb)

end

/-! ### Pauses and rates (R478, R479) -/

/-- Without PFC_EN nothing is paused, and the port does not pause its peer. -/
theorem pauseFrame_eq (die : Die) (p : LocalPort) (received : Option Byte) (fill : Byte) (s : State) :
    exec (.pauseFrame die p received fill) s = .next (portUpd die p (fun x => { x with
      paused := if x.pfcEn then received.getD x.paused else 0
      pausing := x.pfcEn && decide (75 < fill.toNat) }) s) := by
  refine congrArg (fun f => Host.Outcome.next (portUpd die p f s)) (funext fun x => ?_)
  cases h : x.pfcEn <;> simp

section
variable {sess : SessId} {s : State}

theorem ecnRateStep_none (h : sessAt s sess.toNat = none) : exec (.ecnRateStep sess) s = .next s := by
  change execEcnRateStep sess s = _
  simp only [execEcnRateStep, h]

theorem ecnRateStep_open {x : Session} (h : sessAt s sess.toNat = some x) : exec (.ecnRateStep sess) s =
    if ecnOn s sess.toNat x = true then .next (sessPut s sess.toNat (some { x with rate := min 1000 (x.rate + 50) })) else .next s := by
  change execEcnRateStep sess s = _
  simp only [execEcnRateStep, h]

end

/-! ### IEEE 1588 (R495) -/

/-- The offset of a follower from its master, end to end or with the peer delay (R495). -/
def ptpOff (p2p : Bool) (t1 t2 t3 t4 : Word) : Int :=
  if p2p then (t2 - t1 - (t4 - t3)).toInt else (t2 - t1 - (t4 - t3)).toInt / 2

/-- A die that has taken an exchange. -/
def ptpTaken (s : State) (die : Nat) (t1 t2 t3 t4 : Word) (locked : Bool) : State :=
  linkPut s die { linkAt s die with
    ptpOffset := BitVec.ofInt 32 (ptpOff (linkAt s die).ptpP2p t1 t2 t3 t4)
    ptpLocked := locked }

section
variable {die : Die} {sub : SubPort} (t1 t2 t3 t4 : Word) (locked : Bool) {s : State}

theorem ptpMessage_ignored (h : (linkAt s die).ptpEn = false ∨ (linkAt s die).ptpGm = true ∨ (linkAt s die).ptpSub.toNat ≠ sub.val) :
    exec (.ptpMessage die sub t1 t2 t3 t4 locked) s = .next s :=
  if_pos (by obtain h | h | h := h <;> simp [h])

/-- A follower takes an exchange, and module time follows where the die is its source. -/
theorem ptpMessage_follower (he : (linkAt s die).ptpEn = true) (hg : (linkAt s die).ptpGm = false)
    (hs : (linkAt s die).ptpSub.toNat = sub.val) : exec (.ptpMessage die sub t1 t2 t3 t4 locked) s = .next (
      let s1 := ptpTaken s die t1 t2 t3 t4 locked
      if locked = true ∧ ptpSource s1 = some die.val then timeShift (-(ptpOff (linkAt s die).ptpP2p t1 t2 t3 t4)) s1 else s1) :=
  if_neg (by simp [he, hg, hs])

end

/-- Settles O43: the state of a sub-port and the kind and form of a frame, the mode change of a port, PFC_EN, ECN_EN and the role of a die select
the branch that each command takes. -/
theorem portsCarryFrames : Obligations.PortsCarryFrames := by
  unfold Obligations.PortsCarryFrames
  refine ⟨?frames, fun die p los s => ⟨fun h => ⟨modeApply_runs h, modeChangeComplete_ends los h⟩,
    fun h => ⟨modeChangeComplete_rests los h, modeApply_starts h⟩⟩,
    fun d x => ⟨fun h => sessMove_stays (.inl h), sessMove_moves, fun _ h => sessMove_stays (.inr h)⟩, ?subports, pauseFrame_eq,
    fun sess s => ⟨fun x h => ⟨fun he => (ecnRateStep_open h).trans (if_pos he),
      fun he => (ecnRateStep_open h).trans (if_neg (ne_true_of_eq_false he))⟩, ecnRateStep_none⟩, ?time⟩
  case frames =>
    intro die sub kind len tags corrected uncorrected s p s1 d other v4 v6 fits c
    refine ⟨frameReceive_down kind len tags corrected uncorrected, fun hup hun => ?_, fun hup hun => ?_⟩
    · cases hun
      exact frameReceive_uncorrectable kind len tags corrected hup
    · cases hun
      have hv4 : subV4 d sub = true ↔ v4 := bne_iff_ne
      have hv6 : subV6 d sub = true ↔ v6 := by simp [subV6, v6]
      have hfits : frameFits len tags = true ↔ fits := by simp [frameFits, fits]
      have whole := frameReceive_whole kind len tags corrected hup
      refine ⟨fun hf hk => ?_, fun hf hk => ?_, fun hk => ?_⟩ <;> refine whole.trans (congrArg _ ?_)
      · rw [← hv4, ← hv6] at hk
        exact if_pos ((Bool.and_eq_true ..).mpr ⟨hfits.2 hf, frameAnswered_of hk⟩)
      · rw [← hv4, ← hv6] at hk
        obtain ⟨hp, ha⟩ := framePassed_of hk
        exact (if_neg fun h => ne_true_of_eq_false ha ((Bool.and_eq_true ..).mp h).2).trans
          (if_pos ((Bool.and_eq_true ..).mpr ⟨hfits.2 hf, hp⟩))
      · rw [← hv4, ← hv6] at hk
        obtain hf | hk := hk
        · have unfit {b : Bool} : ¬ (frameFits len tags && b) = true := fun h => hf (hfits.1 ((Bool.and_eq_true ..).mp h).1)
          exact (if_neg unfit).trans (if_neg unfit)
        · obtain ⟨ha, hp⟩ := frame_other hk
          exact (if_neg fun h => ne_true_of_eq_false ha ((Bool.and_eq_true ..).mp h).2).trans
            (if_neg fun h => ne_true_of_eq_false hp ((Bool.and_eq_true ..).mp h).2)
  case subports =>
    intro die sub s bit x
    refine ⟨rfl, fun he hm hs => subportUp_rises ⟨he, hm, hs⟩, fun h => subportUp_rests ?_⟩
    rintro ⟨he, hm, hs⟩
    exact h.elim (ne_false_of_eq_true he) fun h => h.elim (ne_true_of_eq_false hm) hs.not_ge
  case time =>
    intro die sub t1 t2 t3 t4 locked s d off s1
    refine ⟨ptpMessage_ignored t1 t2 t3 t4 locked, fun he hg hs => ?_⟩
    have follows := ptpMessage_follower t1 t2 t3 t4 locked he hg hs
    refine ⟨fun hl hsrc => follows.trans (congrArg _ (if_pos ⟨hl, hsrc⟩)), fun h => follows.trans (congrArg _ (if_neg ?_))⟩
    rintro ⟨hl, hsrc⟩
    exact h.elim (ne_false_of_eq_true hl) fun hn => hn hsrc

end Sys2Proof.Machine
end

section
/-! Packets, their acknowledgement and heartbeats of the lane protocol, and their obligation (R479-R481, R484, R486, R497, R530). -/

namespace Sys2Proof.Machine

/-! ### Packets (R480, R481, R484) -/

/-- A link die that counts a dropped packet: of another form, unauthenticated, or stale (R481). -/
def otherCounted (die : Nat) (s : State) : State := linkUpd die (fun d => { d with other := satInc d.other }) s
def authCounted (die : Nat) (s : State) : State := linkUpd die (fun d => { d with auth := satInc d.auth }) s
def staleCounted (die : Nat) (s : State) : State := linkUpd die (fun d => { d with stale := satInc d.stale }) s

/-- The codes of the verbs are bytes (R487, R514). -/
theorem klpOps_contains {op : Byte} (h : op ∈ klpOps.map (BitVec.ofNat 8)) : klpOps.contains op.toNat = true := by
  obtain ⟨k, hk, rfl⟩ := List.mem_map.1 h
  have hlt : ∀ k ∈ klpOps, k < 256 := by decide
  rw [BitVec.toNat_ofNat, Nat.mod_eq_of_lt (hlt k hk)]
  exact List.contains_iff_mem.2 hk

section
variable {die : Die} {a : KlpArgs} {s : State}

theorem klpPacketReceive_malformed (h : a.ver ≠ 1 ∨ 4096 < a.payload.length) :
    exec (.klpPacketReceive die a) s = .next (otherCounted die s) :=
  if_pos h

variable (hv : a.ver = 1) (hl : a.payload.length ≤ 4096)
include hv hl

/-- An OPEN names no session yet (R530). -/
theorem klpPacketReceive_open (ho : a.op = 1) (hs : a.session = 0xFFFF) : exec (.klpPacketReceive die a) s = .next s :=
  (if_neg fun h => h.elim (fun h => h hv) hl.not_gt).trans (if_pos ⟨ho, hs⟩)

variable (hn : ¬ (a.op = 1 ∧ a.session = 0xFFFF))
include hn

theorem klpPacketReceive_no_session (h : a.session.toNat / 256 ≠ die.val ∨ sessAt s a.session.toNat = none) :
    exec (.klpPacketReceive die a) s = .next (authCounted die s) := by
  have hs : (if a.session.toNat / 256 = die.val then sessAt s a.session.toNat else none) = none :=
    ite_eq_right_iff.2 fun hd => h.resolve_left (not_not.2 hd)
  refine (if_neg fun h => h.elim (fun h => h hv) hl.not_gt).trans ((if_neg hn).trans ?_)
  simp only [hs]
  rfl

variable {x : Session} (hd : a.session.toNat / 256 = die.val) (hx : sessAt s a.session.toNat = some x)
include hd hx

/-- A packet of an open session is judged by its tag, then by its epoch (R481). -/
theorem klpPacketReceive_session : exec (.klpPacketReceive die a) s =
    let id := a.session.toNat
    let ctrl := a.flags.getLsbD 0
    let e := (chanAt ctrl x).expect
    if Config.cmac x.key (klpHeader a ++ a.payload) ≠ a.tag then .next (authCounted die s)
    else if klpStale s x a = true then .next (staleCounted die s)
    else if a.op = 4 then .next (sessPut s id (some (klpTake s id x ctrl a e)))
    else if a.op = 5 then .next (retxRound id ctrl (sessPut s id (some (klpTake s id x ctrl { a with apsn := a.arg.setWidth 32 } e))))
    else if a.psn ≠ e then .next (answer (sessPut s id (some { x with silent := 0 })) 0
      [⟨if a.psn.toNat < e.toNat then 4 else 5, false⟩, ⟨e.setWidth 64, false⟩])
    else
      let s1 := sessPut (if klpOps.contains a.op.toNat then s else otherCounted die s) id (some (klpTake s id x ctrl a (e + 1)))
      let s2 := if a.op = 0x40 ∧ a.flags.getLsbD 1 ∧ a.status = 0 then
          { s1 with pod := { s1.pod with table := memberLive1 id s1.pod.table, utable := memberLive1 id s1.pod.utable } }
        else if a.op = 0x33 then distCpl id a.arg s1
        else s1
      .next (psnEnd id (answer s2 0 [⟨4, false⟩, ⟨(e + 1).setWidth 64, false⟩])) := by
  refine (if_neg fun h => h.elim (fun h => h hv) hl.not_gt).trans ((if_neg hn).trans ?_)
  simp only [if_pos hd, hx]
  rfl

/-- Whether the tag of a packet holds under the key of its session (R481). -/
def tagHolds (a : KlpArgs) (x : Session) : Prop := Config.cmac x.key (klpHeader a ++ a.payload) = a.tag

theorem klpPacketReceive_unauthentic (ht : ¬ tagHolds a x) : exec (.klpPacketReceive die a) s = .next (authCounted die s) :=
  (klpPacketReceive_session hv hl hn hd hx).trans (if_pos ht)

variable (ht : tagHolds a x)
include ht

theorem klpPacketReceive_stale (hs : klpStale s x a = true) : exec (.klpPacketReceive die a) s = .next (staleCounted die s) :=
  (klpPacketReceive_session hv hl hn hd hx).trans ((if_neg (not_not.2 ht)).trans (if_pos hs))

variable (hs : klpStale s x a = false)
include hs

theorem klpPacketReceive_ack (h : a.op = 4) : exec (.klpPacketReceive die a) s = .next (sessPut s a.session.toNat
    (some (klpTake s a.session.toNat x (a.flags.getLsbD 0) a (chanAt (a.flags.getLsbD 0) x).expect))) :=
  (klpPacketReceive_session hv hl hn hd hx).trans ((if_neg (not_not.2 ht)).trans ((if_neg (ne_true_of_eq_false hs)).trans (if_pos h)))

theorem klpPacketReceive_nak (h : a.op = 5) : exec (.klpPacketReceive die a) s =
    .next (retxRound a.session.toNat (a.flags.getLsbD 0) (sessPut s a.session.toNat (some (klpTake s a.session.toNat x
      (a.flags.getLsbD 0) { a with apsn := a.arg.setWidth 32 } (chanAt (a.flags.getLsbD 0) x).expect)))) :=
  (klpPacketReceive_session hv hl hn hd hx).trans ((if_neg (not_not.2 ht)).trans ((if_neg (ne_true_of_eq_false hs)).trans
    ((if_neg fun h4 => absurd (h4.symm.trans h) (by decide)).trans (if_pos h))))

variable (h4 : a.op ≠ 4) (h5 : a.op ≠ 5)
include h4 h5

theorem klpPacketReceive_out_of_order (hp : a.psn ≠ (chanAt (a.flags.getLsbD 0) x).expect) : exec (.klpPacketReceive die a) s =
    .next (answer (sessPut s a.session.toNat (some { x with silent := 0 })) 0
      [⟨if a.psn.toNat < (chanAt (a.flags.getLsbD 0) x).expect.toNat then 4 else 5, false⟩,
        ⟨(chanAt (a.flags.getLsbD 0) x).expect.setWidth 64, false⟩]) :=
  (klpPacketReceive_session hv hl hn hd hx).trans ((if_neg (not_not.2 ht)).trans ((if_neg (ne_true_of_eq_false hs)).trans
    ((if_neg h4).trans ((if_neg h5).trans (if_pos hp)))))

theorem klpPacketReceive_expected (hm : a.op ∈ klpOps.map (BitVec.ofNat 8)) (h40 : a.op ≠ 0x40) (h33 : a.op ≠ 0x33)
    (hp : a.psn = (chanAt (a.flags.getLsbD 0) x).expect) : exec (.klpPacketReceive die a) s =
    .next (psnEnd a.session.toNat (answer (sessPut s a.session.toNat (some (klpTake s a.session.toNat x (a.flags.getLsbD 0) a
      ((chanAt (a.flags.getLsbD 0) x).expect + 1)))) 0
        [⟨4, false⟩, ⟨((chanAt (a.flags.getLsbD 0) x).expect + 1).setWidth 64, false⟩])) := by
  refine (klpPacketReceive_session hv hl hn hd hx).trans ((if_neg (not_not.2 ht)).trans ((if_neg (ne_true_of_eq_false hs)).trans
    ((if_neg h4).trans ((if_neg h5).trans ((if_neg (not_not.2 hp)).trans ?_)))))
  simp only [klpOps_contains hm, if_true, h40, h33, false_and, if_false]

end

/-- A packet of a SPAN or POD session with another epoch is stale, but for MEMBER and TAKEOVER (R481). -/
theorem klpStale_of {s : State} {x : Session} {a : KlpArgs} (hk : x.kind = 2 ∨ x.kind = 3) (h40 : a.op ≠ 0x40) (h43 : a.op ≠ 0x43)
    (he : a.epoch ≠ sessEpoch s x) : klpStale s x a = true := by
  obtain hk | hk := hk <;> simpa [klpStale, hk, he] using ⟨h40, h43⟩

/-! ### Retransmission (R484, R499) -/

section
variable {id : Nat} {ctrl : Bool} {s : State} {x : Session} (hx : sessAt s id = some x)
include hx

theorem retxRound_again (h : chanFlight x.window.toNat (chanAt ctrl x) ≠ []) : retxRound id ctrl s =
    linkUpd (id / 256) (fun d => { d with retx := satAdd d.retx 1 })
      (sessUpd id (chanUpd ctrl (fun _ => { chanAt ctrl x with retx := true })) s) := by
  have hr : chanRetx x.window.toNat (chanAt ctrl x) = ({ chanAt ctrl x with retx := true }, 1) := if_neg (by simpa using h)
  simp only [retxRound, hx, hr]

/-- A channel with nothing in flight has nothing to send again. -/
theorem retxRound_idle (h : chanFlight x.window.toNat (chanAt ctrl x) = []) : retxRound id ctrl s =
    linkUpd (id / 256) (fun d => { d with retx := satAdd d.retx 0 }) (sessUpd id (chanUpd ctrl (fun _ => chanAt ctrl x)) s) := by
  have hr : chanRetx x.window.toNat (chanAt ctrl x) = (chanAt ctrl x, 0) := if_pos (by simpa using h)
  simp only [retxRound, hx, hr]

end

/-- Settles O44: the form, session, tag, epoch and PSN of a packet select what becomes of it; the packets in flight what is sent again. -/
theorem packetsAreCheckedAndOrdered : Obligations.PacketsAreCheckedAndOrdered := by
  unfold Obligations.PacketsAreCheckedAndOrdered
  refine ⟨?packets, fun sess ctrl apsn credit psn s => ⟨rfl, rfl, rfl, fun x hx => ⟨retxRound_again hx, retxRound_idle hx⟩⟩,
    fun sess s => ⟨rfl, rfl⟩⟩
  intro die a s n id c tagOk
  refine ⟨klpPacketReceive_malformed, klpPacketReceive_open, fun hv hl hn => ⟨klpPacketReceive_no_session hv hl hn, ?session⟩⟩
  intro x hd hx ctrl e
  refine ⟨klpPacketReceive_unauthentic hv hl hn hd hx, fun ht hk h40 h43 he =>
    klpPacketReceive_stale hv hl hn hd hx ht (klpStale_of hk h40 h43 he), fun ht hs => ⟨klpPacketReceive_ack hv hl hn hd hx ht hs,
      klpPacketReceive_nak hv hl hn hd hx ht hs, klpPacketReceive_out_of_order hv hl hn hd hx ht hs, ?expected⟩⟩
  exact fun hm h4 h5 h40 h33 hp => klpPacketReceive_expected hv hl hn hd hx ht hs h4 h5 hm h40 h33 hp

end Sys2Proof.Machine
end

section
/-! How pods form, switch their epochs and lose members, and their obligation (R502-R508, R513-R516). -/

namespace Sys2Proof.Machine

/-! ### Who may send a pod verb (R502, R514) -/

section
variable {sess : SessId} {s : State} {r : Nat}

/-- A verb whose gate refuses it is answered with the refusal. -/
theorem hawkVerbs_refused (h : podGate s sess.toNat true = some r) (v w e ms ss bs n) : ∀ c ∈ [Instr.member sess v w,
    .epochSet sess v, .sync sess e ms ss, .spanSet sess v w bs, .spanDown sess n, .probePush sess v bs, .freq sess v],
    exec c s = .next (answer s r []) := by
  have gate (body : State) : (.next (gated (podGate s sess.toNat true) s body) : Host.Outcome State Fault Refusal) = .next (answer s r []) := by
    rw [h]
    rfl
  simp only [List.forall_mem_cons]
  exact ⟨gate _, gate _, gate _, gate _, gate _, gate _, gate _, fun c hc => absurd hc List.not_mem_nil⟩

theorem podVerbs_refused (h : podGate s sess.toNat false = some r) (v bs) :
    ∀ c ∈ [Instr.leave sess, .distress sess v bs], exec c s = .next (answer s r []) := by
  have gate (body : State) : (.next (gated (podGate s sess.toNat false) s body) : Host.Outcome State Fault Refusal) = .next (answer s r []) := by
    rw [h]
    rfl
  simp only [List.forall_mem_cons]
  exact ⟨gate _, gate _, fun c hc => absurd hc List.not_mem_nil⟩

theorem podGate_denied (h : ∀ x, sessAt s sess.toNat = some x → x.kind ≠ 3) (hawk : Bool) : podGate s sess.toNat hawk = some 2 := by
  unfold podGate
  cases hx : sessAt s sess.toNat with
  | none => rfl
  | some x => exact if_pos (h x hx)

variable {x : Session} (hx : sessAt s sess.toNat = some x) (hk : x.kind = 3)
include hx hk

theorem podGate_provisional (hp : x.prov = true) (hawk : Bool) : podGate s sess.toNat hawk = some 5 := by
  simp only [podGate, hx]
  exact (if_neg (not_not.2 hk)).trans (if_pos (.inl hp))

theorem podGate_not_hawk (hh : s.pod.hawkSess ≠ some sess.toNat) : podGate s sess.toNat true = some 5 := by
  simp only [podGate, hx]
  exact (if_neg (not_not.2 hk)).trans (if_pos (.inr ⟨trivial, hh⟩))

end

/-! ### MEMBER, EPOCH_SET and SYNC (R503, R504, R507, R513) -/

/-- A module that takes its place in a pod: FRAME_BASE, and the slot and epoch of the lower or the upper pod (R503, R513). -/
def joined (upper : Bool) (arg base : Word) (s : State) : State :=
  let slot := BitVec.ofNat 7 (bitsAt arg 0 7)
  let epoch := BitVec.ofNat 16 (bitsAt arg 7 16)
  let s1 := onPod (fun p =>
    let q := { p with frameBase := base, baseFrame := 0, align := true, hawkLost := false }
    if upper then { q with upper := true, uslot := slot, uepoch := epoch } else { q with st := 2, slot := slot, epoch := epoch }) s
  { s1 with clk := { s1.clk with offGrid := false } }

/-- A standby that keeps a copy of the hawk's tables (R507). -/
def syncKept (e : BitVec 16) (ms : List (BitVec 7 × List Word)) (ss : List (Byte × List Word)) (s : State) : State :=
  onPod (fun p => { p with
    synced := some (e, ms.foldl (fun m e => sset Member.none m e.1.toNat (memberOfWords e.2)) [],
      ss.foldl (fun m e => sset none m e.1.toNat (some (spanOfWords e.2))) []) }) s

section
variable {sess : SessId} {s : State} {x : Session} (h : HawkOpen s sess x)
include h

theorem gated_podGate_of_hawk (body : State) : gated (podGate s sess.toNat true) s body = body := by
  rw [podGate_of_hawk h]
  rfl

theorem member_eq (arg base : Word) : exec (.member sess arg base) s = .next (
    if s.grid.tiles.any (fun e => e.2.mesh.run) = true then answer s 5 [] else answer (joined x.upper arg base s) 0 []) := by
  refine congrArg Host.Outcome.next ((gated_podGate_of_hawk h _).trans ?_)
  rw [sessUpper_of_pod h.toPodOpen]
  rfl

theorem epochSet_eq (arg : Word) : exec (.epochSet sess arg) s =
    .next (answer (epochSched x.upper (BitVec.ofNat 16 (bitsAt arg 0 16)) (bitsAt arg 16 48) s) 0 []) := by
  refine congrArg Host.Outcome.next ((gated_podGate_of_hawk h _).trans ?_)
  rw [sessUpper_of_pod h.toPodOpen]
  rfl

theorem sync_eq (e : BitVec 16) (ms : List (BitVec 7 × List Word)) (ss : List (Byte × List Word)) : exec (.sync sess e ms ss) s = .next (
    if podRole s ≠ 3 ∧ x.upper = false then answer s 5 [] else answer (syncKept e ms ss s) 0 []) := by
  refine congrArg Host.Outcome.next ((gated_podGate_of_hawk h _).trans ?_)
  simp only [sessUpper_of_pod h.toPodOpen, Bool.not_eq_true']
  rfl

end

theorem epochSched_now {e : BitVec 16} {f : Nat} {s : State} (h : f ≤ (frameCtr s).toNat) :
    (epochSched false e f s).pod = { s.pod with epoch := e } ∧ (epochSched true e f s).pod = { s.pod with uepoch := e } := by
  simp only [epochSched, onPod_pod, if_pos h, Bool.false_eq_true, if_false, if_true, and_self]

/-- Of two epochs that wait the higher stays (R515). -/
def laterEpoch (e : BitVec 16) (f : Nat) : Option (BitVec 16 × Nat) → Option (BitVec 16 × Nat)
  | some x => if epochAhead e x.1 then some (e, f) else some x
  | none => some (e, f)

theorem epochSched_waits {e : BitVec 16} {f : Nat} {s : State} (h : (frameCtr s).toNat < f) :
    (epochSched false e f s).pod = { s.pod with pendEpoch := laterEpoch e f s.pod.pendEpoch } ∧
      (epochSched true e f s).pod = { s.pod with pendUpper := laterEpoch e f s.pod.pendUpper } := by
  simp only [epochSched, onPod_pod, if_neg h.not_ge, Bool.false_eq_true, if_false, if_true]
  exact ⟨rfl, rfl⟩

/-- An epoch switch changes the epochs of the pods alone, those in force or those that wait. -/
theorem epochSched_frame (upper : Bool) (e : BitVec 16) (f : Nat) (s : State) :
    ∃ a b c d, epochSched upper e f s = { s with pod := { s.pod with epoch := a, uepoch := b, pendEpoch := c, pendUpper := d } } := by
  unfold epochSched onPod
  by_cases hf : f ≤ (frameCtr s).toNat <;> cases upper <;> simp only [hf, if_true, if_false, Bool.false_eq_true] <;>
    exact ⟨_, _, _, _, rfl⟩

/-! ### TAKEOVER, standbys and orphans (R502, R504, R508, R513) -/

theorem sessUpd_pod (id : Nat) (f : Session → Session) (s : State) : (sessUpd id f s).pod = s.pod := by
  unfold sessUpd
  split <;> rfl

/-- The close of a session leaves the state of the pod. -/
theorem sessClose_pod_st (lost : Bool) (id : Nat) (s : State) : (sessClose lost id s).pod.st = s.pod.st := by
  cases hx : sessAt s id with
  | none => rw [sessClose_of_none lost hx]
  | some x =>
    obtain ⟨e, d, he⟩ := sessClose_frame lost hx
    rw [he]
    show (podWithout lost id s.pod).st = s.pod.st
    unfold podWithout
    split <;> rfl

/-- A module whose role takes a TAKEOVER: a member, an orphan, or a hawk of a module in an upper pod (R502, R508). -/
def mayBeTaken (s : State) (x : Session) : Prop :=
  s.pod.st = 2 ∨ s.pod.st = 4 ∨ (s.pod.st = 3 ∧ x.upper = true ∧ s.pod.upper = true)

theorem mayBeTaken_iff (s : State) (x : Session) :
    (!(s.pod.st == 2 || s.pod.st == 4 || (s.pod.st == 3 && x.upper && s.pod.upper))) = true ↔ ¬ mayBeTaken s x := by
  rw [Bool.not_eq_true', ← Bool.not_eq_true]
  simp only [mayBeTaken, Bool.or_eq_true, Bool.and_eq_true, beq_iff_eq, or_assoc, and_assoc]

/-- The old hawk's session closes. -/
def oldHawkClosed (sess : Nat) (s : State) : State :=
  match s.pod.hawkSess with
  | some old => if old = sess then s else sessClose false old s
  | none => s

/-- The sender of a TAKEOVER becomes the hawk (R508). -/
def taken (sess : Nat) (x : Session) (s : State) : State :=
  onPod (fun p => { p with
    hawkSess := some sess
    hawkLost := false
    takeFrom := some x.mac.toNat
    st := if p.st = 4 then 2 else p.st }) (sessUpd sess (fun y => { y with prov := false }) (oldHawkClosed sess s))

theorem oldHawkClosed_pod_st (sess : Nat) (s : State) : (oldHawkClosed sess s).pod.st = s.pod.st := by
  unfold oldHawkClosed
  split
  · split
    · rfl
    · exact sessClose_pod_st ..
  · rfl

theorem taken_pod_st (sess : Nat) (x : Session) (s : State) : (taken sess x s).pod.st = if s.pod.st = 4 then 2 else s.pod.st := by
  unfold taken
  rw [onPod_pod, sessUpd_pod, oldHawkClosed_pod_st]

section
variable {sess : SessId} {s : State} {x : Session} (hx : sessAt s sess.toNat = some x) (hk : x.kind = 3)
include hx hk

/-- A TAKEOVER over a POD session, by the module's role and by its epoch. -/
theorem takeover_eq (arg : Word) : exec (.takeover sess arg) s =
    let e := BitVec.ofNat 16 (bitsAt arg 0 16)
    if (!(s.pod.st == 2 || s.pod.st == 4 || (s.pod.st == 3 && x.upper && s.pod.upper))) = true then .next (answer s 5 [])
    else if (!epochAhead e (epochRef x.upper s)) = true then .next (answer s 6 [])
    else .next (answer (epochSched x.upper e (bitsAt arg 16 48) (taken sess.toNat x s)) 0 []) := by
  change execTakeover sess arg s = _
  simp only [execTakeover, hx]
  exact if_neg (not_not.2 hk)

theorem takeover_refused (arg : Word) (h : ¬ mayBeTaken s x) : exec (.takeover sess arg) s = .next (answer s 5 []) :=
  (takeover_eq hx hk arg).trans (if_pos ((mayBeTaken_iff s x).2 h))

theorem takeover_stale (arg : Word) (h : mayBeTaken s x)
    (he : epochAhead (BitVec.ofNat 16 (bitsAt arg 0 16)) (epochRef x.upper s) = false) :
    exec (.takeover sess arg) s = .next (answer s 6 []) :=
  (takeover_eq hx hk arg).trans ((if_neg (mt (mayBeTaken_iff s x).1 (not_not.2 h))).trans (if_pos ((Bool.not_eq_true' _).mpr he)))

theorem takeover_accepted (arg : Word) (h : mayBeTaken s x)
    (he : epochAhead (BitVec.ofNat 16 (bitsAt arg 0 16)) (epochRef x.upper s) = true) :
    exec (.takeover sess arg) s = .next (answer
      (epochSched x.upper (BitVec.ofNat 16 (bitsAt arg 0 16)) (bitsAt arg 16 48) (taken sess.toNat x s)) 0 []) :=
  (takeover_eq hx hk arg).trans ((if_neg (mt (mayBeTaken_iff s x).1 (not_not.2 h))).trans
    (if_neg fun hn => ne_true_of_eq_false ((Bool.not_eq_true' _).mp hn) he))

end

/-- A standby whose hawk was lost, in the lower pod or as a hawk in the upper one (R508, R513). -/
def standbyAble (upper : Bool) (s : State) : Bool :=
  s.pod.hawkLost && (if upper then s.pod.st == 3 && s.pod.upper else podRole s == 3 && (s.pod.st == 2 || s.pod.st == 4))

theorem standbyAble_iff (upper : Bool) (s : State) : standbyAble upper s = true ↔ s.pod.hawkLost = true ∧
    ((upper = true ∧ s.pod.st = 3 ∧ s.pod.upper = true) ∨ (upper = false ∧ podRole s = 3 ∧ (s.pod.st = 2 ∨ s.pod.st = 4))) := by
  unfold standbyAble
  cases upper <;> simp

/-- The synced member table as the new hawk takes it: slot 0 fenced, and no session open yet (R508). -/
def syncedTable (c : BitVec 16 × SMap Member × SMap (Option Span)) : SMap Member :=
  smap Member.none (supd Member.none c.2.1 0 (fun m => { m with fenced := true, live := false })) (fun _ m => { m with session := none })

/-- A standby that has become hawk of a pod, with the synced epoch plus 16 and the synced tables (R508). -/
def standbyRisen (upper : Bool) (c : BitVec 16 × SMap Member × SMap (Option Span)) (s : State) : State :=
  onPod (fun p =>
    let q := { p with hawkLost := false, synced := none, takeovers := satInc p.takeovers, fences := satInc p.fences }
    if upper then { q with uepoch := c.1 + 16, utable := syncedTable c, pendUpper := none, upper := false }
    else { q with st := 3, epoch := c.1 + 16, table := syncedTable c, pendEpoch := none,
                  spans := if c.2.2.isEmpty then q.spans else smap none c.2.2 (fun k x => x.map (fun y =>
                    match sget none q.spans k with | some z => z | none => y)) }) s

/-- The new hawk opens a POD session to a member that is not fenced, and sends it TAKEOVER (R508). -/
def standbyAsks (upper : Bool) (me : Nat) (e : BitVec 16) (f : Nat) (acc : State) (x : Nat × Member) : State :=
  if !x.2.valid || x.2.fenced || x.1 == me || x.1 == 0 then acc
  else match (outDie acc).bind (fun n => openOut n 3 upper 0 x.2 acc) with
    | some r => klpSend r.1 true 0x43 (fields [(0, e.toNat), (16, f)]) [] (memberPut upper x.1 { x.2 with session := some r.1 } r.2)
    | none => acc

section
variable {upper : Bool} {s : State}

theorem standbyTakeover_rests (h : standbyAble upper s = false ∨ s.pod.synced = none) : exec (.standbyTakeover upper) s = .next s := by
  unfold standbyAble at h
  change execStandbyTakeover upper s = _
  unfold execStandbyTakeover
  cases hc : s.pod.synced with
  | none => rfl
  | some c => exact if_pos ((Bool.not_eq_true' _).mpr (h.resolve_right (hc ▸ Option.some_ne_none c)))

theorem standbyTakeover_takes {c : BitVec 16 × SMap Member × SMap (Option Span)} (h : standbyAble upper s = true)
    (hc : s.pod.synced = some c) : ∃ ld, exec (.standbyTakeover upper) s = .next { (syncedTable c).foldl
      (standbyAsks upper (ownSlot upper s) (c.1 + 16) ((s.frames + 8) % 2 ^ 48)) (standbyRisen upper c s) with ld := ld } := by
  unfold standbyAble at h
  change ∃ ld, execStandbyTakeover upper s = _
  unfold execStandbyTakeover
  rw [hc]
  exact ⟨_, if_neg fun hn => ne_true_of_eq_false ((Bool.not_eq_true' _).mp hn) h⟩

end

/-- What a standby that takes over leaves of the pod as it opens its sessions: its role, its count of takeovers and the epochs. -/
def podLead (p : Pod) : BitVec 3 × Bool × Sat 16 × BitVec 16 × BitVec 16 := (p.st, p.hawkLost, p.takeovers, p.epoch, p.uepoch)

theorem openOut_pod {die : Nat} {kind : BitVec 2} {upper : Bool} {span : Nat} {m : Member} {s : State} {r : Nat × State}
    (h : openOut die kind upper span m s = some r) : r.2.pod = s.pod := by
  obtain ⟨sub, -, h⟩ := Option.bind_eq_some_iff.1 h
  obtain ⟨i, -, rfl⟩ := Option.map_eq_some_iff.1 h
  rfl

theorem standbyAsks_podLead (upper : Bool) (me : Nat) (e : BitVec 16) (f : Nat) (acc : State) (x : Nat × Member) :
    podLead (standbyAsks upper me e f acc x).pod = podLead acc.pod := by
  unfold standbyAsks
  split
  · rfl
  · split
    next r hr =>
      obtain ⟨n, -, hr⟩ := Option.bind_eq_some_iff.1 hr
      rw [klpSend_pod, memberPut, onPod_pod, openOut_pod hr]
      cases upper <;> rfl
    next => rfl

/-- A standby that takes over is the hawk, with the synced epoch plus 16. -/
theorem standbyTakeover_leads {upper : Bool} {s : State} {c : BitVec 16 × SMap Member × SMap (Option Span)} (h : standbyAble upper s = true)
    (hc : s.pod.synced = some c) : ∃ t, exec (.standbyTakeover upper) s = .next t ∧ t.pod.st = 3 ∧ t.pod.hawkLost = false ∧
      t.pod.takeovers = satInc s.pod.takeovers ∧ podEpoch upper t = c.1 + 16 := by
  obtain ⟨ld, ht⟩ := standbyTakeover_takes h hc
  refine ⟨_, ht, ?_⟩
  have lead := foldl_keep (standbyAsks upper (ownSlot upper s) (c.1 + 16) ((s.frames + 8) % 2 ^ 48))
    (fun t => podLead t.pod = podLead (standbyRisen upper c s).pod)
    (fun t x ht => (standbyAsks_podLead ..).trans ht) (syncedTable c) (standbyRisen upper c s) rfl
  generalize (syncedTable c).foldl _ _ = t at lead
  simp only [podLead, Prod.mk.injEq] at lead
  obtain ⟨st, lost, takeovers, epoch, uepoch⟩ := lead
  obtain ⟨rfl, hst, -⟩ | ⟨rfl, -⟩ := ((standbyAble_iff upper s).1 h).2
  · exact ⟨st.trans hst, lost, takeovers, uepoch⟩
  · exact ⟨st, lost, takeovers, epoch⟩

theorem orphanTimeout_eq (s : State) : exec .orphanTimeout s =
    .next (if s.pod.hawkLost = true ∧ s.pod.st = 2 then onPod (fun p => { p with st := 4 }) s else s) := rfl

section
variable {sess : SessId} {s : State}

theorem provisionalSessionTimeout_closes {x : Session} (hx : sessAt s sess.toNat = some x) (hp : x.prov = true) :
    exec (.provisionalSessionTimeout sess) s = .next (sessClose false sess.toNat s) := by
  change execProvisionalSessionTimeout sess s = _
  simp only [execProvisionalSessionTimeout, hx, hp, if_true]

theorem provisionalSessionTimeout_rests (h : ∀ x, sessAt s sess.toNat = some x → x.prov = false) :
    exec (.provisionalSessionTimeout sess) s = .next s := by
  change execProvisionalSessionTimeout sess s = _
  unfold execProvisionalSessionTimeout
  cases hx : sessAt s sess.toNat with
  | none => rfl
  | some x => exact congrArg _ (if_neg (ne_true_of_eq_false (h x hx)))

end

/-! ### Members that are lost or leave (R504-R506, R514-R516) -/

/-- An entry of the member table as a write of the hawk leaves it: a VALID write of word 0 lists a fenced module anew (R506). -/
def entryWritten (w : BitVec 2) (m : Member) : Member :=
  if w = 0 ∧ m.valid = true ∧ m.fenced = true then { m with
    fenced := false
    session := none } else m

section
variable {upper : Bool} {slot : BitVec 7} {w : BitVec 2} {v : Word} {s : State}

theorem memberTableWrite_ignored (h : s.pod.st ≠ 3) : exec (.memberTableWrite upper slot w v) s = .next s := if_pos h

theorem memberTableWrite_hawk (h : s.pod.st = 3) : exec (.memberTableWrite upper slot w v) s = .next (tendMember upper slot.toNat
    (memberPut upper slot.toNat (entryWritten w (memberWrite w.toNat v (memberAt upper s slot.toNat))) s)) :=
  if_neg (not_not.2 h)

end

/-- The tables of a pod and its count of fences: what the end of a member's loss leaves. -/
def podTables (p : Pod) : SMap Member × SMap Member × Sat 16 := (p.table, p.utable, p.fences)

theorem memberAt_of_podTables {s t : State} (h : podTables t.pod = podTables s.pod) (upper : Bool) (slot : Nat) :
    memberAt upper t slot = memberAt upper s slot := by
  simp only [podTables, Prod.mk.injEq] at h
  simp only [memberAt, memberTab, h.1, h.2.1]

theorem sendMembers_pod (upper : Bool) (op : Byte) (arg : Word) (payload : List Byte) (s : State) :
    (sendMembers upper op arg payload s).pod = s.pod :=
  foldl_keep _ (fun t => t.pod = s.pod) (fun _ _ ht => (klpSend_pod ..).trans ht) _ s rfl

theorem epochSched_podTables (upper : Bool) (e : BitVec 16) (f : Nat) (s : State) :
    podTables (epochSched upper e f s).pod = podTables s.pod := by
  obtain ⟨a, b, c, d, he⟩ := epochSched_frame upper e f s
  rw [he]
  rfl

theorem epochChange_podTables (upper : Bool) (s : State) : podTables (epochChange upper s).pod = podTables s.pod := by
  have sched (e : BitVec 16) (f : Nat) (arg : Word) : podTables (epochSched upper e f (sendMembers upper 0x41 arg [] s)).pod = podTables s.pod := by
    rw [epochSched_podTables, sendMembers_pod]
  cases upper with
  | false =>
    show podTables (if s.pod.epochMade = true then _ else _ : State).pod = _
    split
    · rfl
    · exact sched ..
  | true =>
    show podTables (if s.pod.upperMade = true then _ else _ : State).pod = _
    split
    · rfl
    · exact sched ..

/-- A live member of a span hears SPAN_DOWN (R505). -/
def spanDownSent (x : Span) (span : Nat) (m : Nat × Nat) (s : State) : State :=
  if x.slots.any (fun b => b.toNat == m.1) then klpSend m.2 true 0x45 (BitVec.ofNat 64 span) [] s else s

theorem spanDownSent_pod (x : Span) (span : Nat) (m : Nat × Nat) (s : State) : (spanDownSent x span m s).pod = s.pod := by
  unfold spanDownSent
  split
  · exact klpSend_pod ..
  · rfl

theorem spansDown_podTables (slot : Nat) (s : State) : podTables (spansDown slot s).pod = podTables s.pod := by
  refine foldl_keep _ (fun t => podTables t.pod = podTables s.pod) (fun t e ht => ?_) _ s rfl
  split
  next x _ =>
    split
    · have sent := foldl_keep (fun t m => spanDownSent x e.1 m t) (fun u => u.pod = t.pod)
        (fun u m hu => (spanDownSent_pod x e.1 m u).trans hu) (liveMembers t.pod.table) t rfl
      unfold spanDownSent at sent
      rw [onPod_pod]
      simp only [podTables, sent]
      exact ht
    · exact ht
  · exact ht

/-- A member that is lost: its entry is fenced without a session, and the hawk counts it. -/
def memberFenced (upper : Bool) (slot : Nat) (s : State) : State :=
  onPod (fun p => { p with fences := satInc p.fences })
    (memberPut upper slot { memberAt upper s slot with fenced := true, live := false, session := none } s)

theorem loseMember_podTables (upper : Bool) (slot : Nat) (s : State) :
    podTables (loseMember upper slot s).pod = podTables (memberFenced upper slot s).pod := by
  have change_ := epochChange_podTables upper (memberFenced upper slot s)
  unfold loseMember
  simp only
  split
  · exact change_
  · exact (spansDown_podTables ..).trans change_

theorem memberAt_memberFenced (upper : Bool) (slot : Nat) (s : State) : memberAt upper (memberFenced upper slot s) slot =
    { memberAt upper s slot with fenced := true, live := false, session := none } := by
  cases upper <;> exact sget_sset_same ..

/-- A member of a pod that the module leads, whose POD session has closed (R505). -/
def memberGone (upper : Bool) (slot : Nat) (s : State) : Prop :=
  leads upper s = true ∧ (memberAt upper s slot).valid = true ∧ (memberAt upper s slot).fenced = false ∧
    ∃ i, (memberAt upper s slot).session = some i ∧ sessAt s i = none

theorem memberLost_eq (upper : Bool) (slot : BitVec 7) (s : State) [Decidable (memberGone upper slot.toNat s)] :
    exec (.memberLost upper slot) s = .next (if memberGone upper slot.toNat s then loseMember upper slot.toNat s else s) := by
  change execMemberLost upper slot s = _
  unfold execMemberLost
  refine congrArg _ (if_congr ?_ rfl rfl)
  cases hi : (memberAt upper s slot.toNat).session with
  | none => simp [memberGone, hi]
  | some i => simp [memberGone, hi, and_assoc]

theorem loseMember_fenced (upper : Bool) (slot : Nat) (s : State) : memberAt upper (loseMember upper slot s) slot =
    { memberAt upper s slot with fenced := true, live := false, session := none } :=
  (memberAt_of_podTables (loseMember_podTables upper slot s) upper slot).trans (memberAt_memberFenced upper slot s)

theorem loseMember_fences (upper : Bool) (slot : Nat) (s : State) : (loseMember upper slot s).pod.fences = satInc s.pod.fences := by
  have tables := loseMember_podTables upper slot s
  simp only [podTables, Prod.mk.injEq] at tables
  obtain ⟨-, -, fences⟩ := tables
  rw [fences]
  cases upper <;> rfl

section
variable {sess : SessId} {s : State} {x : Session} (h : PodOpen s sess x)
include h

/-- LEAVE over a POD session: of a member, of the hawk, and of no one that the pod knows (R505, R506, R514). -/
theorem leave_eq : exec (.leave sess) s = .next (
    match (memberTab x.upper s).find? (fun e => e.2.session == some sess.toNat) with
    | some e => loseMember x.upper e.1 (sessClose false sess.toNat (answer s 0 []))
    | none =>
      if s.pod.hawkSess = some sess.toNat then
        onPod (fun p => if x.upper then { p with upper := false } else { p with st := 5 }) (sessClose false sess.toNat (answer s 0 []))
      else answer s 5 []) := by
  change execLeave sess s = _
  unfold execLeave
  rw [podGate_of_pod h, sessUpper_of_pod h]
  rfl

end

theorem hawkInterval_idle {upper : Bool} {s : State} (h : leads upper s = false) : hawkInterval upper s = s :=
  if_pos ((Bool.not_eq_true' _).mpr h)

/-- Settles O47: `podGate` refuses the verbs; the role, the epoch and the member's entry select each branch, and `podLead` and `podTables` say
what the sends of a takeover and of a loss leave. -/
theorem podsFormAndSwitch : Obligations.PodsFormAndSwitch := by
  unfold Obligations.PodsFormAndSwitch
  refine ⟨?gates, ?member, fun sess arg s x h => epochSet_eq h arg, ?epochs, ?sync, fun s => ⟨rfl, fun upper => hawkInterval_idle⟩,
    fun upper slot w v s => ⟨memberTableWrite_ignored, memberTableWrite_hawk⟩, ?takeover, ?standby, ?orphan,
    fun sess s => ⟨fun x => provisionalSessionTimeout_closes, provisionalSessionTimeout_rests⟩, ?lost, ?leave⟩
  case gates =>
    have verbs {sess s r} (hh : podGate s sess.toNat true = some r) (hp : podGate s sess.toNat false = some r) v w e ms ss bs n :=
      List.forall_mem_append.2 ⟨hawkVerbs_refused (sess := sess) hh v w e ms ss bs n, podVerbs_refused hp v bs⟩
    intro sess v w e ms ss bs n s
    exact ⟨fun h => verbs (podGate_denied h true) (podGate_denied h false) v w e ms ss bs n, fun x hx hk =>
      ⟨fun hp => verbs (podGate_provisional hx hk hp true) (podGate_provisional hx hk hp false) v w e ms ss bs n,
        fun hh => hawkVerbs_refused (podGate_not_hawk hx hk hh) v w e ms ss bs n⟩⟩
  case member =>
    intro sess arg base s x h
    refine ⟨fun hr => (member_eq h arg base).trans (congrArg _ (if_pos (List.any_eq_true.2 hr))), fun hr =>
      ⟨joined x.upper arg base s, (member_eq h arg base).trans (congrArg _ (if_neg ?_)), ?_⟩⟩
    · simpa using hr
    · cases x.upper <;> simp [joined]
  case epochs =>
    intro e f s
    refine ⟨fun h => ?_, fun h => ?_⟩
    · rw [(epochSched_now h).1, (epochSched_now h).2]
      exact ⟨rfl, rfl⟩
    · rw [(epochSched_waits h).1]
      exact ⟨rfl, fun hn => congrArg (laterEpoch e f) hn, fun x hx => congrArg (laterEpoch e f) hx⟩
  case sync =>
    intro sess e ms ss s x h
    exact ⟨fun hr => (sync_eq h e ms ss).trans (congrArg _ (if_neg fun hn => hr.elim hn.1 (fun hu => ne_true_of_eq_false hn.2 hu))),
      fun hr hu => (sync_eq h e ms ss).trans (congrArg _ (if_pos ⟨hr, hu⟩))⟩
  case takeover =>
    intro sess arg s x hx hk
    refine ⟨takeover_refused hx hk arg, takeover_stale hx hk arg, fun h he => ⟨_, takeover_accepted hx hk arg h he, ?_⟩⟩
    obtain ⟨a, b, c, d, hs⟩ := epochSched_frame x.upper (BitVec.ofNat 16 (bitsAt arg 0 16)) (bitsAt arg 16 48) (taken sess.toNat x s)
    rw [hs]
    exact ⟨rfl, rfl, taken_pod_st sess.toNat x s⟩
  case standby =>
    intro upper s
    exact ⟨fun h => standbyTakeover_rests (h.imp_left fun hn => eq_false_of_ne_true (mt (standbyAble_iff upper s).1 hn)),
      fun c h hc => standbyTakeover_leads ((standbyAble_iff upper s).2 h) hc⟩
  case orphan =>
    intro s
    exact ⟨fun hl hs => (orphanTimeout_eq s).trans (congrArg _ (if_pos ⟨hl, hs⟩)), fun h =>
      (orphanTimeout_eq s).trans (congrArg _ (if_neg fun hn => h.elim (fun hl => ne_true_of_eq_false hl hn.1) (fun hs => hs hn.2)))⟩
  case lost =>
    classical
    intro upper slot s
    exact ⟨fun h => (memberLost_eq upper slot s).trans (congrArg _ (if_pos h)), fun h =>
      (memberLost_eq upper slot s).trans (congrArg _ (if_neg h)), loseMember_fenced .., loseMember_fences ..⟩
  case leave =>
    intro sess s x h
    refine ⟨fun e he => ?_, fun he hh => ?_, fun he hh => ?_⟩
    · rw [leave_eq h, he]
    · rw [leave_eq h, he]
      exact congrArg _ (if_pos hh)
    · rw [leave_eq h, he]
      exact congrArg _ (if_neg hh)

end Sys2Proof.Machine
end

section
/-! How spans, probe sets and frequency codes come from the hawk, and their obligation (R505, R509, R511, R512, R514, R589, R590, R598). -/

namespace Sys2Proof.Machine

/-! ### Spans and reports (R505, R509, R514) -/

/-- The position of a module in a span, as a SPAN_SET gives it (R509). -/
def spanSetIn (arg id : Word) (slots : List Byte) (s : State) : State :=
  onPod (fun p => { p with
    spans := sset none p.spans (bitsAt arg 0 8) (some ⟨id, bitsAt arg 8 6, bitsAt arg 14 6, slots.take (bitsAt arg 14 6), false⟩) }) s

section
variable {sess : SessId} {s : State} {x : Session} (h : HawkOpen s sess x)
include h

theorem spanSet_eq (arg id : Word) (slots : List Byte) : exec (.spanSet sess arg id slots) s = .next (
    if slots.length < bitsAt arg 14 6 ∨ bitsAt arg 14 6 ≤ bitsAt arg 8 6 then answer s 1 []
    else answer (openSpans (spanSetIn arg id slots s)) 0 []) :=
  congrArg _ (gated_podGate_of_hawk h _)

theorem spanDown_known {span : Byte} {y : Span} (hy : sget none s.pod.spans span.toNat = some y) : exec (.spanDown sess span) s =
    .next (answer (onPod (fun p => { p with spans := sset none p.spans span.toNat (some { y with down := true }) }) s) 0 []) := by
  refine congrArg _ ((gated_podGate_of_hawk h _).trans ?_)
  rw [onPod, hy]
  rfl

theorem spanDown_unknown {span : Byte} (hn : sget none s.pod.spans span.toNat = none) :
    exec (.spanDown sess span) s = .next (answer s 0 []) := by
  refine congrArg _ ((gated_podGate_of_hawk h _).trans ?_)
  rw [onPod, hn]
  rfl

end

theorem distress_eq {sess : SessId} {s : State} {x : Session} (h : PodOpen s sess x) (arg : Word) (bytes : List Byte) :
    exec (.distress sess arg bytes) s = .next (answer (onPod (fun p => { p with
      distress := sset [] p.distress (16 * sess.toNat + bitsAt arg 0 4) bytes }) s) 0 []) := by
  change execDistress sess arg bytes s = _
  rw [execDistress, podGate_of_pod h]
  rfl

/-! ### Probe sets (R511) -/

/-- The bytes of a probe set that are there once a part has come, and their number. -/
def probeBytes (off : Word) (bytes : List Byte) (s : State) : SMap Byte := bytesPut (probeForward off.toNat bytes s).pod.probe off.toNat bytes
def probeCount (off : Word) (bytes : List Byte) (s : State) : Nat :=
  (if off = 0 then 0 else (probeForward off.toNat bytes s).pod.probeGot) + bytes.length
/-- The state in which a whole set is verified: the bytes gathered are gone. -/
def probeWhole (off : Word) (bytes : List Byte) (s : State) : State :=
  onPod (fun p => { p with
    probe := []
    probeGot := 0 }) (probeForward off.toNat bytes s)

section
variable {sess : SessId} {s : State} {x : Session} (h : HawkOpen s sess x) {off : Word} {bytes : List Byte}
include h

theorem probePush_long (hl : 768 < off.toNat + bytes.length) : exec (.probePush sess off bytes) s = .next (answer s 1 []) :=
  congrArg _ ((gated_podGate_of_hawk h _).trans (if_pos hl))

theorem probePush_gathers (hl : off.toNat + bytes.length ≤ 768) (hg : probeCount off bytes s < 768) :
    exec (.probePush sess off bytes) s = .next (answer (onPod (fun p => { p with
      probe := probeBytes off bytes s
      probeGot := probeCount off bytes s }) (probeForward off.toNat bytes s)) 0 []) :=
  congrArg _ ((gated_podGate_of_hawk h _).trans ((if_neg hl.not_gt).trans (if_pos hg)))

variable (hl : off.toNat + bytes.length ≤ 768) (hg : 768 ≤ probeCount off bytes s)
include hl hg

theorem probePush_refused {r : Nat}
    (hr : probeRefusal (probeWhole off bytes s) (bytesAt (probeBytes off bytes s) 0 768) = some r) :
    exec (.probePush sess off bytes) s = .next (answer (probeWhole off bytes s) r []) := by
  unfold probeWhole probeBytes at hr
  refine congrArg _ ((gated_podGate_of_hawk h _).trans ((if_neg hl.not_gt).trans ((if_neg hg.not_gt).trans ?_)))
  simp only [probeSetLen, hr]
  rfl

theorem probePush_installs
    (hr : probeRefusal (probeWhole off bytes s) (bytesAt (probeBytes off bytes s) 0 768) = none) : exec (.probePush sess off bytes) s =
      .next (answer (probeInstall (bytesAt (probeBytes off bytes s) 0 768) (probeWhole off bytes s)) 0 []) := by
  unfold probeWhole probeBytes at hr
  refine congrArg _ ((gated_podGate_of_hawk h _).trans ((if_neg hl.not_gt).trans ((if_neg hg.not_gt).trans ?_)))
  simp only [probeSetLen, hr]
  rfl

end

/-! ### Frequency codes (R512, R589, R590, R598) -/

theorem freqStep_rests {k : Nat} {s : State} (h : k = s.clk.k.toNat ∨ (freqPending s).isSome = true) : freqStep k s = s :=
  if_pos (.inr h)

theorem freq_eq {sess : SessId} {s : State} {x : Session} (h : HawkOpen s sess x) (arg : Word) : exec (.freq sess arg) s =
    .next (answer (if 8 < bitsAt arg 0 8 then s else freqStep (bitsAt arg 0 8) (kreqPut (bitsAt arg 0 8) s)) 0 []) :=
  congrArg _ (gated_podGate_of_hawk h _)

section
variable {code : BitVec 4} {s : State}

theorem frequencyStep_ignored (h : 8 < code.toNat ∨ s.pod.st = 2) : exec (.frequencyStep code) s = .next s :=
  congrArg _ (if_pos h)

variable (hk : code.toNat ≤ 8)
include hk

theorem frequencyStep_alone (hm : s.pod.st ≠ 2) (hh : s.pod.st ≠ 3) :
    exec (.frequencyStep code) s = .next (freqStep code.toNat (kreqPut code.toNat s)) :=
  congrArg _ ((if_neg fun h => h.elim hk.not_gt hm).trans (congrArg _ (if_neg hh)))

theorem frequencyStep_hawk (hh : s.pod.st = 3) : exec (.frequencyStep code) s = .next (freqStep code.toNat
    (sendMembers false 0x49 (fields [(0, code.toNat), (16, (s.frames + 16) % 2 ^ 48)]) [] (kreqPut code.toNat s))) := by
  have hm : s.pod.st ≠ 2 := by
    rw [hh]
    decide
  exact congrArg _ ((if_neg fun h => h.elim hk.not_gt hm).trans (congrArg _ (if_pos hh)))

end

/-- Settles O48: `podGate` lets the hawk's verbs pass; the operands and the role select each branch. -/
theorem spansProbesAndFrequenciesFollowTheHawk : Obligations.SpansProbesAndFrequenciesFollowTheHawk := by
  unfold Obligations.SpansProbesAndFrequenciesFollowTheHawk
  refine ⟨?spans, fun sess arg bytes s x h => distress_eq h arg bytes, ?probes, ?freq,
    fun code s => ⟨frequencyStep_alone, frequencyStep_hawk, frequencyStep_ignored⟩, fun k s => freqStep_rests⟩
  case spans =>
    intro sess arg id slots span s x h
    exact ⟨fun hb => (spanSet_eq h arg id slots).trans (congrArg _ (if_pos hb)), fun hl hp =>
      (spanSet_eq h arg id slots).trans (congrArg _ (if_neg fun hb => hb.elim hl.not_gt hp.not_ge)), fun y => spanDown_known h, spanDown_unknown h⟩
  case probes =>
    intro sess off bytes s x h
    exact ⟨probePush_long h, probePush_gathers h, fun hl hg => ⟨fun r => probePush_refused h hl hg, probePush_installs h hl hg⟩⟩
  case freq =>
    intro sess arg s x h
    exact ⟨fun hk => (freq_eq h arg).trans (congrArg (fun t => Host.Outcome.next (answer t 0 [])) (if_neg hk.not_gt)), fun hk =>
      (freq_eq h arg).trans (congrArg (fun t => Host.Outcome.next (answer t 0 [])) (if_pos hk))⟩

end Sys2Proof.Machine
end

section
/-! The lowest reading of a zone, and its obligation (R577). -/

namespace Sys2Proof.Machine

/-- A tile's sensor after a conversion. -/
def converted (site : Site) (mv : BitVec 11) (s : State) : State :=
  tilePut s site { tileAt s site with sense := senseStep mv.toNat (tileAt s site).sense }

theorem zoneAt_converted (site : Site) (mv : BitVec 11) (s : State) (n : Nat) : zoneAt (converted site mv s) n = zoneAt s n := rfl

theorem readingCounts_converted (site : Site) (mv : BitVec 11) (s : State) (z : Sense) : readingCounts (converted site mv s) site z = true ↔
    z.valid = true ∧ z.mux = 0 ∧ z.out = false ∧ s.grid.exposed.getLsbD site = true := by
  change (z.valid && z.mux == 0 && !z.out && s.grid.exposed.getLsbD site) = true ↔ _
  simp only [Bool.and_eq_true, beq_iff_eq, Bool.not_eq_true', and_assoc]

/-- A conversion whose reading counts goes to the zone of its tile. -/
theorem sensorConversion_eq (site : Site) (mv : BitVec 11) (s : State) : exec (.sensorConversion site mv) s = .next (
    if readingCounts (converted site mv s) site (senseStep mv.toNat (tileAt s site).sense) then
      zoneUpd (zoneOf site) (zoneCapture site (senseStep mv.toNat (tileAt s site).sense).value.toNat (moduleNs s)) (converted site mv s)
    else converted site mv s) := rfl

/-- The first reading captured begins the record of `zoneCapture_fold`. -/
theorem zoneCapture_first (site v : Nat) (now : Word) {z : Zone} (h : z.minValid = false) :
    let t := zoneCapture site v now z
    t.minValid = true ∧ t.min.toNat = min 1023 v ∧ t.minSite = BitVec.ofNat 13 site ∧ t.minTime = now := by
  rw [(zoneCapture_eq site v now z).1 (.inl h)]
  have bound : min 1023 v < 2 ^ 10 := by omega
  exact ⟨rfl, by rw [BitVec.toNat_ofNat, Nat.mod_eq_of_lt bound], rfl, rfl⟩

/-- The word PWR_ZONEz_MIN of a zone. -/
theorem pwrBlockPut_zoneMin {n : Nat} (h : n < 48) (v : Word) (s : State) : pwrBlockPut (0x100 + 32 * n + 8) v s =
    zoneUpd n (fun z => { z with minValid := z.minValid && !v.getLsbD 23 }) s := by
  have block : (0x100 + 32 * n + 8 - 0x100) / 32 = n := by omega
  unfold pwrBlockPut
  rw [if_neg (by omega), if_neg (by omega), if_neg (by omega), if_neg (by omega), if_pos (by omega), block]

/-- Settles O51: `zoneCapture_eq` and `zoneCapture_fold` say what the zone records. -/
theorem zoneMinimumIsKept : Obligations.ZoneMinimumIsKept := by
  unfold Obligations.ZoneMinimumIsKept
  refine ⟨?conversion, ?sequence, fun n v s hn hv => ?clear⟩
  case conversion =>
    intro site mv s z s1 counts
    have hc : readingCounts (converted site mv s) site z = true ↔ counts := readingCounts_converted ..
    refine ⟨_, sensorConversion_eq site mv s, ?_⟩
    by_cases h : counts
    · rw [if_pos (hc.2 h)]
      refine ⟨rfl, rfl, fun n hn => (zoneAt_zoneUpd ..).trans (if_neg hn), fun hn => absurd h hn, fun _ => ?_⟩
      rw [zoneAt_zoneUpd, if_pos rfl]
      exact zoneCapture_eq site z.value.toNat (moduleNs s) (zoneAt s (zoneOf site))
    · rw [if_neg (mt hc.1 h)]
      exact ⟨rfl, rfl, fun n _ => rfl, fun _ => rfl, fun hn => absurd hn h⟩
  case sequence =>
    intro z rs hz hrs
    obtain ⟨r, rs, rfl⟩ := List.exists_cons_of_ne_nil hrs
    obtain ⟨valid, lowest, site, time⟩ := zoneCapture_first r.1 r.2.1 r.2.2 hz
    exact zoneCapture_fold rs _ r valid lowest site time
  case clear =>
    rw [pwrBlockPut_zoneMin hn, zoneAt_zoneUpd, if_pos rfl]
    simp [hv]

end Sys2Proof.Machine
end

section
/-! How sensors average and zone regulators step, and their obligation (R574-R576, R578, R589). -/

namespace Sys2Proof.Machine

/-! ### Sensors (R575) -/

theorem filtLen_le (z : Sense) : filtLen z ≤ 64 :=
  Nat.pow_le_pow_right (n := 2) (by decide) (Nat.min_le_left 6 _)

/-- A sensor is VALID from the third conversion after a change of MUX, and from the one after the first 2^FILT after a change of FILT. -/
theorem senseStep_valid_iff (mv : Nat) (z : Sense) :
    (senseStep mv z).valid = true ↔ 2 ≤ z.sinceMux ∧ filtLen z ≤ z.sinceFilt ∧ z.mux.toNat < 2 := by
  have hf := filtLen_le z
  simp only [senseStep, Bool.and_eq_true, decide_eq_true_eq, and_assoc]
  omega

/-! ### Zone regulators (R576) -/

section
variable {z : Fin 48} {s : State}

theorem zoneRegulation_idle (h : lowest (zoneReadings s z) = none) : exec (.zoneRegulation z) s = .next s := by
  change execZoneRegulation z s = _
  rw [execZoneRegulation, h]

/-- The setpoint that a regulator wants for its lowest reading, and the one that it gets. -/
def wanted (z v : Nat) (s : State) : Nat := wantSet (zoneAt s z).setpt.toNat (2 * v) (vTarget2 (vCode s))
def gotten (z v : Nat) (s : State) : Nat := boundSet ((zoneNear z).map (fun n => (zoneAt s n).setpt.toNat)) (wanted z v s)

theorem zoneRegulation_moves {v : Nat} (h : lowest (zoneReadings s z) = some v) : exec (.zoneRegulation z) s = .next (zoneUpd z (fun x => { x with
    setpt := BitVec.ofNat 10 (gotten z v s)
    limited := gotten z v s != wanted z v s }) s) := by
  change execZoneRegulation z s = _
  rw [execZoneRegulation, h]
  rfl

end

theorem wantSet_bounds (setpt low2 target2 : Nat) : wantSet setpt low2 target2 ≤ setpt + 5 ∧ setpt ≤ wantSet setpt low2 target2 + 5 ∧
    (low2 ≤ target2 + 10 → target2 ≤ low2 + 10 → wantSet setpt low2 target2 = setpt) := by
  unfold wantSet
  split
  · omega
  · split <;> omega

/-- A setpoint held within 40 mV of one neighbour's. -/
def nearSet (a n : Nat) : Nat := max (n - 40) (min (n + 40) a)

theorem boundSet_eq (near : List Nat) (v : Nat) : boundSet near v = near.foldl nearSet (max 620 (min 800 v)) := rfl

theorem boundSet_range {near : List Nat} (h : ∀ n ∈ near, 620 ≤ n ∧ n ≤ 800) (v : Nat) : 620 ≤ boundSet near v ∧ boundSet near v ≤ 800 := by
  rw [boundSet_eq]
  refine List.foldlRecOn (motive := fun a => 620 ≤ a ∧ a ≤ 800) near nearSet (by omega) fun a ha n hn => ?_
  have := h n hn
  unfold nearSet
  omega

/-- Once a setpoint is within 40 mV of a neighbour's, it stays so under the neighbours that are within 40 mV of that one. -/
theorem foldl_nearSet_near {near : List Nat} {n a : Nat} (h : ∀ m ∈ near, n ≤ m + 40 ∧ m ≤ n + 40) (ha : n ≤ a + 40 ∧ a ≤ n + 40) :
    n ≤ near.foldl nearSet a + 40 ∧ near.foldl nearSet a ≤ n + 40 := by
  refine List.foldlRecOn (motive := fun a => n ≤ a + 40 ∧ a ≤ n + 40) near nearSet ha fun a ha m hm => ?_
  have := h m hm
  unfold nearSet
  omega

theorem boundSet_near {near : List Nat} (h : ∀ n ∈ near, ∀ m ∈ near, n ≤ m + 40) (v : Nat) {n : Nat} (hn : n ∈ near) :
    n ≤ boundSet near v + 40 ∧ boundSet near v ≤ n + 40 := by
  obtain ⟨before, after, rfl⟩ := List.append_of_mem hn
  rw [boundSet_eq, List.foldl_append, List.foldl_cons]
  refine foldl_nearSet_near (fun m hm => ?_) (by unfold nearSet; omega)
  have hm : m ∈ before ++ n :: after := List.mem_append_right _ (List.mem_cons_of_mem _ hm)
  exact ⟨h n hn m hm, h m hm n hn⟩

/-! ### Bonds (R578) -/

/-- A bond is flagged in its zone and its sensor, and reported. -/
def bondReported (site : Site) (s : State) : State :=
  svcRpt (zoneUpd (zoneOf site) (fun x => { x with bond := true, bondSite := BitVec.ofNat 13 site.val })
    (tilePut s site { tileAt s site with sense := { (tileAt s site).sense with bond := true } })) codePower (BitVec.ofNat 64 site.val) []

/-- A tile whose zone is at 0.80 V and whose VLOG reading is still more than 20 mV below V(k). -/
def bondWeak (site : Site) (s : State) : Prop :=
  800 ≤ (zoneAt s (zoneOf site)).setpt.toNat ∧ (tileAt s site).sense.valid = true ∧ (tileAt s site).sense.mux = 0 ∧
    2 * (tileAt s site).sense.value.toNat + 40 < vTarget2 (vCode s)

theorem bond_eq (site : Site) (s : State) [Decidable (bondWeak site s)] : exec (.bond site) s = .next (
    if bondWeak site s then tileFailed site codePower (tilePut (bondReported site s) site { tileAt (bondReported site s) site with
      sense := { (tileAt (bondReported site s) site).sense with out := true } })
    else bondReported site s) := by
  have weak : bondWeak site s ↔ 800 ≤ (zoneAt s (zoneOf site)).setpt.toNat ∧ ((tileAt s site).sense.valid && (tileAt s site).sense.mux == 0 &&
      decide (2 * (tileAt s site).sense.value.toNat + 40 < vTarget2 (vCode s))) = true := by
    simp only [bondWeak, Bool.and_eq_true, beq_iff_eq, decide_eq_true_eq, and_assoc]
  rw [apply_ite Host.Outcome.next]
  exact if_congr weak.symm rfl rfl

/-- Settles O52: `senseStep_valid_iff` says when a sensor is VALID, `boundSet_near` why a setpoint stays by its neighbours'. -/
theorem sensorsAverageAndRegulatorsStep : Obligations.SensorsAverageAndRegulatorsStep := by
  unfold Obligations.SensorsAverageAndRegulatorsStep
  refine ⟨?sensor, fun z s => ⟨zoneRegulation_idle, fun v h => ⟨_, zoneRegulation_moves h, rfl, ?_, ?_⟩⟩, wantSet_bounds,
    fun near v h => ?bounds, ?bond⟩
  case sensor =>
    intro mv z
    have valid := senseStep_valid_iff mv z
    exact ⟨rfl, fun h => eq_false_of_ne_true fun hv => absurd (valid.1 hv).1 (by omega), fun h =>
      eq_false_of_ne_true fun hv => absurd (valid.1 hv).2.1 (by omega), fun hm hf hx => valid.2 ⟨hm, hf, hx⟩⟩
  · exact fun n hn => (zoneAt_zoneUpd ..).trans (if_neg hn)
  · exact (zoneAt_zoneUpd ..).trans (if_pos rfl)
  case bounds =>
    obtain ⟨low, high⟩ := boundSet_range h v
    exact ⟨low, high, fun hn n => boundSet_near hn v⟩
  case bond =>
    classical
    intro site s
    exact ⟨fun h => (bond_eq site s).trans (congrArg _ (if_pos h)), fun h => (bond_eq site s).trans (congrArg _ (if_neg h))⟩

end Sys2Proof.Machine
end

section
/-! How the power states change and the governor steps, and their obligation (R580-R583). -/

namespace Sys2Proof.Machine

/-! ### P-state writes (R582, R583) -/

/-- PWR_CTRL.PSTATE as a write of it leaves it, before the request is judged. -/
def pstateAsked (n : Nat) (s : State) : State := onPwr (fun p => { p with pstate := BitVec.ofNat 3 n }) s

section
variable {n : Nat} {f : State → Option State} {s t : State}

theorem pstateWrite_warming (h : s.svc.warming = true) : pstateWrite n f s = pstateRefused (pstateAsked n s) := if_pos h

variable (h : s.svc.warming = false)
include h

theorem pstateWrite_next (hf : f (pstateAsked n s) = some t) : pstateWrite n f s = t := by
  unfold pstateAsked at hf
  refine (if_neg (ne_true_of_eq_false h)).trans ?_
  simp only [hf]

theorem pstateWrite_refused (hf : f (pstateAsked n s) = none) : pstateWrite n f s = pstateRefused (pstateAsked n s) := by
  unfold pstateAsked at hf
  refine (if_neg (ne_true_of_eq_false h)).trans ?_
  simp only [hf]
  rfl

end

theorem pstateWrite_eq (s : State) (n : Nat) (f : State → Option State) : pstateWrite n f s =
    if s.svc.warming = true then pstateRefused (pstateAsked n s) else (f (pstateAsked n s)).getD (pstateRefused (pstateAsked n s)) := by
  by_cases h : s.svc.warming = true
  · rw [pstateWrite_warming h, if_pos h]
  · rw [if_neg h]
    cases hf : f (pstateAsked n s) with
    | none => exact pstateWrite_refused (eq_false_of_ne_true h) hf
    | some t => exact pstateWrite_next (eq_false_of_ne_true h) hf

section
variable {s : State} (h : s.svc.warming = false)
include h

theorem pstateP0_kept (ha : s.pwr.act = 0 ∨ s.pwr.act = 2) : exec .pstateP0 s = .next (pstateAsked 0 s) := by
  refine congrArg Host.Outcome.next (pstateWrite_next h ?_)
  obtain ha | ha := ha <;> simp [pstateAsked, onPwr, ha]

theorem pstateP0_from_P1 (ha : s.pwr.act = 1) : exec .pstateP0 s = .next (pstateAct 0 (pstateAsked 0 s)) := by
  refine congrArg Host.Outcome.next (pstateWrite_next h ?_)
  simp [pstateAsked, onPwr, ha]

theorem pstateP0_from_P3 (ha : s.pwr.act = 3) : exec .pstateP0 s = .next (standbyWake 0 (pstateAsked 0 s)) := by
  refine congrArg Host.Outcome.next (pstateWrite_next h ?_)
  simp [pstateAsked, onPwr, ha]

theorem pstateP0_refused (ha : 4 ≤ s.pwr.act.toNat) : exec .pstateP0 s = .next (pstateRefused (pstateAsked 0 s)) := by
  obtain ⟨a, ha⟩ := Nat.exists_eq_add_of_le' ha
  refine congrArg Host.Outcome.next (pstateWrite_refused h ?_)
  simp [pstateAsked, onPwr, ha]

theorem pstateP1_kept (ha : s.pwr.act = 1 ∨ s.pwr.act = 2) : exec .pstateP1 s = .next (pstateAsked 1 s) := by
  refine congrArg Host.Outcome.next (pstateWrite_next h ?_)
  obtain ha | ha := ha <;> simp [pstateAsked, onPwr, ha]

theorem pstateP1_from_P0 (ha : s.pwr.act = 0) : exec .pstateP1 s = .next (pstateAct 1 (pstateAsked 1 s)) := by
  refine congrArg Host.Outcome.next (pstateWrite_next h ?_)
  simp [pstateAsked, onPwr, ha]

theorem pstateP1_from_P3 (ha : s.pwr.act = 3) : exec .pstateP1 s = .next (standbyWake 1 (pstateAsked 1 s)) := by
  refine congrArg Host.Outcome.next (pstateWrite_next h ?_)
  simp [pstateAsked, onPwr, ha]

theorem pstateP1_refused (ha : 4 ≤ s.pwr.act.toNat) : exec .pstateP1 s = .next (pstateRefused (pstateAsked 1 s)) := by
  obtain ⟨a, ha⟩ := Nat.exists_eq_add_of_le' ha
  refine congrArg Host.Outcome.next (pstateWrite_refused h ?_)
  simp [pstateAsked, onPwr, ha]

theorem pstateP2_kept (ha : s.pwr.act = 2) : exec .pstateP2 s = .next (pstateAsked 2 s) := by
  refine congrArg Host.Outcome.next (pstateWrite_next h ?_)
  simp [pstateAsked, onPwr, ha]

/-- P2 stops admission and asks for code 8. -/
def idled (s : State) : State := freqStep 8 (pstateAct 2 { pstateAsked 2 s with svc := { s.svc with admitStop := true } })

omit h in
theorem allFree_pstateAsked (n : Nat) (s : State) : allFree (pstateAsked n s) = true ↔ busySids s = [] := List.isEmpty_iff

theorem pstateP2_idles (ha : s.pwr.act.toNat ≤ 1) (hf : busySids s = []) : exec .pstateP2 s = .next (idled s) := by
  refine congrArg Host.Outcome.next (pstateWrite_next h ?_)
  have hf := (allFree_pstateAsked 2 s).2 hf
  have act : (pstateAsked 2 s).pwr.act = s.pwr.act := rfl
  rw [act]
  obtain ha | ha := Nat.le_one_iff_eq_zero_or_eq_one.1 ha <;> rw [ha]
  · exact if_pos hf
  · exact if_pos hf

theorem pstateP2_busy (ha : s.pwr.act.toNat ≤ 1) (hf : busySids s ≠ []) : exec .pstateP2 s = .next (pstateRefused (pstateAsked 2 s)) := by
  refine congrArg Host.Outcome.next (pstateWrite_refused h ?_)
  have hf := mt (allFree_pstateAsked 2 s).1 hf
  have act : (pstateAsked 2 s).pwr.act = s.pwr.act := rfl
  rw [act]
  obtain ha | ha := Nat.le_one_iff_eq_zero_or_eq_one.1 ha <;> rw [ha]
  · exact if_neg hf
  · exact if_neg hf

theorem pstateP2_refused (ha : 3 ≤ s.pwr.act.toNat) : exec .pstateP2 s = .next (pstateRefused (pstateAsked 2 s)) := by
  obtain ⟨a, ha⟩ := Nat.exists_eq_add_of_le' ha
  refine congrArg Host.Outcome.next (pstateWrite_refused h ?_)
  simp [pstateAsked, onPwr, ha]

theorem pstateP3_kept (ha : s.pwr.act = 3) : exec .pstateP3 s = .next (pstateAsked 3 s) := by
  refine congrArg Host.Outcome.next (pstateWrite_next h ?_)
  simp [pstateAsked, onPwr, ha]

theorem pstateP3_from_P2 (ha : s.pwr.act = 2) : exec .pstateP3 s = .next (tilesLost (pstateAct 3 (pstateAsked 3 s))) := by
  refine congrArg Host.Outcome.next (pstateWrite_next h ?_)
  simp [pstateAsked, onPwr, ha]

theorem pstateP3_refused (h2 : s.pwr.act ≠ 2) (h3 : s.pwr.act ≠ 3) : exec .pstateP3 s = .next (pstateRefused (pstateAsked 3 s)) := by
  refine congrArg Host.Outcome.next (pstateWrite_refused h ?_)
  have act : (pstateAsked 3 s).pwr.act = s.pwr.act := rfl
  rw [act]
  split
  next h => exact absurd (BitVec.eq_of_toNat_eq h) h3
  next h => exact absurd (BitVec.eq_of_toNat_eq h) h2
  next => rfl

end
/-! ### Leaving P2, and the loss of the tiles (R582, R583) -/

/-- A tile that lost its power: its fabric alone is kept (R582). -/
theorem tilesLost_tile (s : State) (site : Nat) : tileAt (tilesLost s) site = { Tile.reset with fab := fabKept (tileAt s site).fab } :=
  sget_smap _ _ _ _ (by decide)

theorem pstateDue_wakes {s : State} (ha : s.pwr.act = 2) (hp : s.pwr.pstate.toNat < 2) (hf : s.flt.fatal = false) :
    pstateDue s = freqStep s.clk.kreq.toNat { s with
      pwr := { s.pwr with act := s.pwr.pstate }
      svc := { s.svc with admitStop := false } } := by
  refine (if_pos ⟨ha, hp⟩).trans ?_
  simp only [pstateAct, onPwr, hf, BitVec.ofNat_toNat, BitVec.setWidth_eq]

/-! ### The governor (R580, R581) -/

/-- The state in which the governor judges a frame: its power is measured and the zones are pre-positioned. -/
def metered (power : BitVec 16) (s : State) : State := prePosition { s with pwr := meter power.toNat s.pwr }

/-- The governor steps the code up, where power is over the cap. -/
def govUp (cap : Nat) (s : State) : Prop :=
  cap < s.pwr.pin.toNat ∧ s.clk.k.toNat < 8 ∧ freqPending s = none ∧ 128 ≤ s.pwr.sinceStep
/-- It steps the code down, where power stayed 1,500 W under the cap for 4,096 frames. -/
def govDown (s : State) : Prop :=
  4096 ≤ s.pwr.belowFr ∧ s.clk.kreq.toNat < s.clk.k.toNat ∧ freqPending s = none

section
variable {power : BitVec 16} {s : State}

theorem governorStep_uncapped (h : powerCap (metered power s).pwr = none) : exec (.governorStep power) s = .next (metered power s) := by
  change execGovernorStep power s = _
  unfold metered at h ⊢
  simp only [execGovernorStep, onPwr, h]

theorem governorStep_capped {cap : Nat} (h : powerCap (metered power s).pwr = some cap) [Decidable (govUp cap (metered power s))]
    [Decidable (govDown (metered power s))] : exec (.governorStep power) s = .next (
      if govUp cap (metered power s) then govStep ((metered power s).clk.k.toNat + 1)
        { metered power s with pwr := { (metered power s).pwr with down := satInc (metered power s).pwr.down } }
      else if govDown (metered power s) then govStep ((metered power s).clk.k.toNat - 1) (metered power s)
      else metered power s) := by
  change execGovernorStep power s = _
  unfold execGovernorStep
  change Host.Outcome.next (match powerCap (metered power s).pwr with | none => _ | some _ => _) = _
  rw [h]
  simp only [Option.isNone_iff_eq_none]
  exact congrArg Host.Outcome.next (if_congr Iff.rfl rfl (if_congr Iff.rfl rfl rfl))

end

theorem powerCap_eq (p : Pwr) : powerCap p = if p.act = 0 then some 30000 else if p.act = 1 then some p.capW.toNat else none := by
  unfold powerCap
  split
  next h => exact (if_pos (BitVec.eq_of_toNat_eq h)).symm
  next h =>
    have h : p.act = 1 := BitVec.eq_of_toNat_eq h
    rw [h]
    rfl
  next h0 h1 => rw [if_neg fun h => h0 (by rw [h]; rfl), if_neg fun h => h1 (by rw [h]; rfl)]

/-- Settles O54: the state in force selects each branch of a P-state write, the cap and the average that of the governor. -/
theorem powerStatesChangeAsAllowed : Obligations.PowerStatesChangeAsAllowed := by
  unfold Obligations.PowerStatesChangeAsAllowed
  refine ⟨pstateWrite_eq, ?warming, ?requests, fun s site => ⟨rfl, rfl, rfl, ?_, ?_⟩, fun s => pstateDue_wakes, ?governor,
    fun p w _ => ⟨powerCap_eq p, rfl⟩, fun k s => rfl⟩
  case warming =>
    have refused {s : State} (h : s.svc.warming = true) (n f) :
        ∃ t, Host.Outcome.next (pstateWrite n f s) = (.next t : Host.Outcome State Fault Refusal) ∧ t.pwr.act = s.pwr.act ∧ t.pwr.pstateErr = true ∧ t.grid = s.grid :=
      ⟨_, congrArg _ (pstateWrite_warming h), rfl, rfl, rfl⟩
    exact fun s h => ⟨refused h 0 _, refused h 1 _, refused h 2 _, refused h 3 _⟩
  case requests =>
    exact fun s h => ⟨pstateP0_kept h, pstateP0_from_P1 h, pstateP0_from_P3 h, pstateP0_refused h, pstateP1_kept h, pstateP1_from_P0 h,
      pstateP1_from_P3 h, pstateP1_refused h, pstateP2_kept h, pstateP2_idles h, pstateP2_busy h, pstateP2_refused h, pstateP3_kept h,
      pstateP3_from_P2 h, pstateP3_refused h⟩
  · rw [tilesLost_tile]
    rfl
  · rw [tilesLost_tile]
  case governor =>
    classical
    intro power s
    refine ⟨governorStep_uncapped, fun cap h => ⟨fun hu => ?_, fun hu hd => ?_, fun hu hd => ?_⟩⟩
    · exact (governorStep_capped h).trans (congrArg Host.Outcome.next (if_pos hu))
    · exact (governorStep_capped h).trans (congrArg Host.Outcome.next ((if_neg hu).trans (if_pos hd)))
    · exact (governorStep_capped h).trans (congrArg Host.Outcome.next ((if_neg hu).trans (if_neg hd)))

end Sys2Proof.Machine
end

section
/-! How the supply, the pod clock, the elastic buffers and the temperature are watched, and their obligation (R571, R572, R579, R584, R585,
R591, R594, R629). -/

namespace Sys2Proof.Machine

/-! ### ALERT_N (R572, R602, R629) -/

section
variable {s : State}

theorem alertOn_of_alertN (h : s.flt.alertN = true) : alertOn s = true := by simp only [alertOn, h, Bool.true_or]

theorem alertOn_of_tempAlert (h : s.pwr.tempAlert = true) : alertOn s = true := by
  simp only [alertOn, h, Bool.or_true, Bool.true_or]

theorem alertOn_of_one_feed (h : s.pwr.feedA ≠ s.pwr.feedB) : alertOn s = true := by
  simp only [alertOn, bne_iff_ne.2 h, Bool.or_true, Bool.true_or]

end

/-! ### Feeds (R571, R572) -/

/-- Whether a feed is present: A, or B. -/
def feedOn (b : Bool) (p : Pwr) : Bool := if b then p.feedB else p.feedA

theorem feedOn_of_lost (b : Bool) (s : State) : ((feedPut b false s).pwr.feedA || (feedPut b false s).pwr.feedB) = feedOn (!b) s.pwr := by
  cases b
  · exact Bool.false_or ..
  · exact Bool.or_false ..

theorem feedLoss_eq (b : Bool) (s : State) : exec (.feedLoss b) s = .next (
    if feedOn b s.pwr = true ∧ feedOn (!b) s.pwr = true then svcRpt (feedPut b false s) codePower (if b then 1 else 0) []
    else feedPut b false s) := by
  rw [← feedOn_of_lost]
  rfl

/-- With one feed left, the loss of the other is an alert. -/
theorem alertOn_feedPut {b : Bool} {s t : State} (h : feedOn (!b) s.pwr = true) (ht : t.pwr = (feedPut b false s).pwr) : alertOn t = true := by
  refine alertOn_of_one_feed ?_
  rw [ht]
  cases b <;> simpa [feedPut, onPwr, feedOn] using h

theorem feedReturn_eq (b : Bool) (s : State) : exec (.feedReturn b) s =
    .next { s with pwr := if b then { s.pwr with feedB := true } else { s.pwr with feedA := true } } := rfl

/-! ### Supply faults (R579) -/

section
variable {d : BitVec 4} {u : BitVec 6} {k : BitVec 2} {s : State}

/-- A supply fault counts for the units of VLOG, VARR, VLNK and VMIF, until a latch-off. -/
def faultCounts (d : BitVec 4) (s : State) : Prop := 1 ≤ d.toNat ∧ d.toNat ≤ 4 ∧ s.pwr.latched = false

theorem faultCounts_iff : ¬ (d.toNat = 0 ∨ 4 < d.toNat ∨ s.pwr.latched = true) ↔ faultCounts d s := by
  rw [not_or, not_or, Bool.not_eq_true, not_lt]
  exact and_congr_left fun _ => Nat.one_le_iff_ne_zero.symm

theorem supplyFault_ignored (h : ¬ faultCounts d s) : exec (.supplyFault d u k) s = .next s :=
  if_pos (not_not.1 (mt faultCounts_iff.1 h))

section
variable (h : faultCounts d s)
include h

theorem supplyFault_foldback : exec (.supplyFault d u 0) s = .next (onPwr (faultPut d u false) s) := if_neg (faultCounts_iff.2 h)

theorem supplyFault_service : exec (.supplyFault d u 1) s = .next (latchOff (onPwr (faultPut d u true) s)) := if_neg (faultCounts_iff.2 h)

/-- A voltage out of bounds: a report of VLOG and VARR, a silent die of VLNK and VMIF. -/
theorem supplyFault_voltage : exec (.supplyFault d u 2) s = .next (
    if d.toNat ≤ 2 then svcRpt s codePower (BitVec.ofNat 64 u.toNat) [BitVec.ofNat 64 d.toNat]
    else if 16 ≤ u.toNat then s
    else rimSilent (if d.toNat = 3 then u.toNat else 16 + u.toNat) s) := if_neg (faultCounts_iff.2 h)

theorem supplyFault_silences (hd : 3 ≤ d.toNat) (hu : u.toNat < 16) :
    exec (.supplyFault d u 2) s = .next (rimSilent (if d = 3 then u.toNat else 16 + u.toNat) s) := by
  have three : d.toNat = 3 ↔ d = 3 := (BitVec.toNat_inj (x := d) (y := 3#4))
  rw [supplyFault_voltage h, if_neg (by omega), if_neg (by omega), if_congr three rfl rfl]

end

theorem supplyFault_kind3 : exec (.supplyFault d u 3) s = .next s := by
  by_cases h : faultCounts d s
  · exact if_neg (faultCounts_iff.2 h)
  · exact supplyFault_ignored h

end

/-- A unit in foldback starts again. -/
def startedAgain (ok : Bool) (s : State) : State :=
  { s with pwr := { s.pwr with
    retries := s.pwr.retries + 1
    foldback := !ok } }

theorem softStartRetry_eq (ok : Bool) (s : State) : exec (.softStartRetry ok) s =
    if (!s.pwr.foldback) = true then .next s
    else .next (if ok = false ∧ s.pwr.retries = 2 then latchOff (startedAgain ok s) else startedAgain ok s) := by
  have third : s.pwr.retries + 1 = 3 ↔ s.pwr.retries = 2 := by bv_omega
  have failed : ((!ok) = true ∧ (startedAgain ok s).pwr.retries = 3) ↔ ok = false ∧ s.pwr.retries = 2 :=
    and_congr (Iff.of_eq (Bool.not_eq_true' ok)) third
  exact if_congr Iff.rfl rfl (congrArg Host.Outcome.next (if_congr failed rfl rfl))

theorem latchOff_effect (s : State) : (latchOff s).pwr = { s.pwr with
      latched := true
      foldback := false
      pwrOk := false } ∧
    (latchOff s).flt.fatal = true ∧ alertOn (latchOff s) = true ∧ (latchOff s).svc.admitStop = true := by
  obtain ⟨pwr, fatal, alertN, stop⟩ := classX_effect codePower (svcRpt (onPwr (fun p => { p with
    latched := true
    foldback := false
    pwrOk := false }) s) codePower s.pwr.fUnit.toNat [BitVec.ofNat 64 s.pwr.fDomain.toNat])
  exact ⟨pwr, fatal, alertOn_of_alertN alertN, stop⟩

/-! ### The hold-up store (R584, R585) -/

/-- The gauge's estimates as a check takes them. -/
def gaugeTaken (ev eq vs : BitVec 16) (s : State) : State :=
  { s with pwr := { s.pwr with
    ev := ev
    eq := eq
    vstore := vs } }

theorem gaugeCheck_eq (ev eq vs : BitVec 16) (s : State) : exec (.gaugeCheck ev eq vs) s = .next (
    if (ev.toNat + 1500 < eq.toNat ∨ eq.toNat + 1500 < ev.toNat) ∧ s.pwr.qOff = false then
      svcRpt (onPwr (fun p => { p with
        gaugeBad := true
        qOff := true }) (gaugeTaken ev eq vs s)) codePower 0 []
    else gaugeTaken ev eq vs s) := by
  refine congrArg Host.Outcome.next (if_congr ?_ rfl rfl)
  simp only [Bool.or_eq_true, decide_eq_true_eq, Bool.not_eq_true']

theorem holdupChargeTimeout_eq (s : State) : exec .holdupChargeTimeout s = .next (
    if s.pwr.pwrOk = false ∧ s.pwr.ev.toNat < 10000 ∧ (s.pwr.feedA = true ∨ s.pwr.feedB = true) then svcRpt s codePower 0 [] else s) := by
  refine congrArg Host.Outcome.next (if_congr ?_ rfl rfl)
  simp only [Bool.or_eq_true, Bool.not_eq_true']

/-! ### Pod alignment (R591) -/

/-- The module runs pod alignment: as a member or a hawk, on the grid. -/
def aligns (s : State) : Prop := (s.pod.st = 2 ∨ s.pod.st = 3) ∧ s.clk.offGrid = false

theorem aligns_iff (s : State) : (!(s.pod.st == 2 || s.pod.st == 3) || s.clk.offGrid) = true ↔ ¬ aligns s := by
  rw [← Bool.not_eq_false, Bool.or_eq_false_iff, Bool.not_eq_false', Bool.or_eq_true, beq_iff_eq, beq_iff_eq]
  rfl

/-- The state after a step of the alignment loop, before a lost lock is reported. -/
def aligned (err : BitVec 32) (s : State) : State :=
  { s with
    draws := s.draws + 1
    clk := alignStep err (Config.pllTrim s.draws) s.clk }

theorem podAlignment_rests {err : BitVec 32} {s : State} (h : ¬ aligns s) : exec (.podAlignment err) s = .next s :=
  if_pos ((aligns_iff s).2 h)

theorem podAlignment_steps {err : BitVec 32} {s : State} (h : aligns s) : exec (.podAlignment err) s = .next (
    if (s.clk.podLock && !(aligned err s).clk.podLock) = true then
      svcRpt (aligned err s) 0x19 (BitVec.ofNat 64 svcNode) [BitVec.ofInt 64 err.toInt]
    else aligned err s) :=
  if_neg fun hn => (aligns_iff s).1 hn h

/-- The trim that the loop applies stays within 30 ppm. -/
theorem alignStep_adj (err : BitVec 32) (trim : Int) (c : Clk) : (alignStep err trim c).adj.toInt = max (-30000) (min 30000 trim) := by
  change (BitVec.ofInt 16 (max (-30000) (min 30000 trim))).toInt = _
  rw [BitVec.toInt_ofInt]
  refine Int.bmod_eq_of_le ?_ ?_ <;> simp

/-- Whether a frame boundary is within 200 ns of pod time. -/
def frameNear (err : BitVec 32) : Bool := decide (-200 ≤ err.toInt) && decide (err.toInt ≤ 200)

theorem alignStep_near {err : BitVec 32} (h : frameNear err = true) (trim : Int) (c : Clk) : (alignStep err trim c).outRun = 0 ∧
    (alignStep err trim c).podLock = if 1023 ≤ c.inRun then true else c.podLock := by
  unfold frameNear at h
  simp only [alignStep, h, if_true]
  refine ⟨trivial, ?_⟩
  by_cases hr : 1023 ≤ c.inRun
  · rw [if_pos (by omega), if_pos hr]
  · rw [if_neg (by omega), if_neg (by omega), if_neg hr]

theorem alignStep_off {err : BitVec 32} (h : frameNear err = false) (trim : Int) (c : Clk) : (alignStep err trim c).inRun = 0 ∧
    (alignStep err trim c).podLock = if 15 ≤ c.outRun then false else c.podLock := by
  unfold frameNear at h
  simp only [alignStep, h, Bool.false_eq_true, if_false]
  refine ⟨trivial, ?_⟩
  by_cases hr : 15 ≤ c.outRun
  · rw [if_neg (by omega), if_pos (by omega), if_pos hr]
  · rw [if_neg (by omega), if_neg (by omega), if_neg hr]

/-! ### Slips and temperature (R594, R629) -/

/-- A slip comes again on its port within 1 s. -/
def slipsAgain (site : Site) (port : Fin 5) (s : State) : Prop :=
  0 < sget 0 s.clk.slipTimes (8 * site.val + port.val) ∧
    s.time + 1 < sget 0 s.clk.slipTimes (8 * site.val + port.val) + 1000000000 * 7927920

theorem elasticBufferSlip_eq (site : Site) (port : Fin 5) (s : State) [Decidable (slipsAgain site port s)] :
    exec (.elasticBufferSlip site port) s = .next (svcRpt
      (chargeEvent (unitTile site) 0x19 { s with clk := slipNote site port s.frames s.time s.clk }).1 0x19 (BitVec.ofNat 64 site.val)
      [BitVec.ofNat 64 port.val, if slipsAgain site port s then 1 else 0]) := by
  refine congrArg (fun m => Host.Outcome.next (svcRpt _ 0x19 _ [BitVec.ofNat 64 port.val, m])) (if_congr ?_ rfl rfl)
  simp only [slipsAgain, Bool.and_eq_true, decide_eq_true_eq]

/-- A calibration block's reading above 95 °C is noted, one above 100 °C as an alert. -/
def heatNoted (b : Block) (temp : BitVec 12) (p : Pwr) : Pwr :=
  { p with
    overTemp := if p.overTemp.contains b.val then p.overTemp else p.overTemp ++ [b.val]
    tempAlert := p.tempAlert || decide (1600 < temp.toInt) }

theorem mem_heatNoted (b : Block) (temp : BitVec 12) (p : Pwr) : b.val ∈ (heatNoted b temp p).overTemp := by
  unfold heatNoted
  simp only
  split
  next h => exact List.contains_iff_mem.1 h
  next => exact List.mem_append_right _ List.mem_cons_self

theorem heatNoted_alert {temp : BitVec 12} (h : 1600 < temp.toInt) (b : Block) (p : Pwr) : (heatNoted b temp p).tempAlert = true := by
  simp only [heatNoted, h, decide_true, Bool.or_true]

theorem heatNoted_no_alert {temp : BitVec 12} (h : temp.toInt ≤ 1600) (b : Block) (p : Pwr) :
    (heatNoted b temp p).tempAlert = p.tempAlert := by
  simp only [heatNoted, h.not_gt, decide_false, Bool.or_false]

/-- The reading is reported. -/
def heatReported (b : Block) (temp : BitVec 12) (s : State) : State := svcRpt (onPwr (heatNoted b temp) s) codePower (BitVec.ofNat 64 b.val) []

section
variable {b : Block} {temp : BitVec 12} {s : State}

theorem temperatureLimit_cool (h : temp.toInt ≤ 1520) : exec (.temperatureLimit b temp) s = .next (onPwr (fun p => { p with
    overTemp := p.overTemp.filter (· != b.val)
    tempAlert := p.tempAlert && !(p.overTemp.filter (· != b.val)).isEmpty }) s) := if_pos h

theorem temperatureLimit_warm (h : 1520 < temp.toInt) : exec (.temperatureLimit b temp) s = .next (
    if 1680 < temp.toInt then classX codePower (tilesLost (onPwr (fun p => { p with hot := true }) (heatReported b temp s)))
    else heatReported b temp s) := if_neg h.not_ge

end

/-- Settles O53: each watch has its equation; `latchOff_effect` and `classX_effect` say what ends the service. -/
theorem supplyFollowsItsRules : Obligations.SupplyFollowsItsRules := by
  unfold Obligations.SupplyFollowsItsRules
  refine ⟨?loss, fun b s => ⟨_, feedReturn_eq b s, rfl⟩, ?fault, ?retry, latchOff_effect, ?gauge, fun s => ⟨rfl, rfl⟩, ?holdup,
    ?alignment, ?loop, ?slip, ?heat⟩
  case loss =>
    intro b s
    have was : (if b then s.pwr.feedB else s.pwr.feedA) = feedOn b s.pwr := rfl
    have other : (if b then s.pwr.feedA else s.pwr.feedB) = feedOn (!b) s.pwr := by cases b <;> rfl
    rw [was, other]
    refine ⟨_, feedLoss_eq b s, ?_, fun h => alertOn_feedPut h ?_, fun h ho => if_pos ⟨h, ho⟩⟩
    · split <;> rfl
    · split <;> rfl
  case fault =>
    intro d u k s
    refine ⟨supplyFault_ignored, fun h hk => ?_, fun h hk => ?_, fun h hk hd => ?_, fun h hk hd hu => hk ▸ supplyFault_silences h hd hu,
      fun h hk hd hu => ?_, fun hk => hk ▸ supplyFault_kind3⟩
    · rw [hk]
      exact supplyFault_foldback h
    · rw [hk]
      exact supplyFault_service h
    · rw [hk, supplyFault_voltage h, if_pos hd]
    · rw [hk, supplyFault_voltage h, if_neg (by omega), if_pos hu]
  case retry =>
    intro ok s
    refine ⟨fun hf => (softStartRetry_eq ok s).trans (if_pos ((Bool.not_eq_true' _).mpr hf)), fun hf h => ?_, fun hf ho hr => ?_⟩
    · rw [softStartRetry_eq, hf]
      exact congrArg Host.Outcome.next (if_neg fun hn => h.elim (fun ho => ne_true_of_eq_false hn.1 ho) fun hr => hr hn.2)
    · rw [softStartRetry_eq, hf]
      exact congrArg Host.Outcome.next (if_pos ⟨ho, hr⟩)
  case gauge =>
    intro ev eq vs s
    exact ⟨fun h => (gaugeCheck_eq ev eq vs s).trans (congrArg Host.Outcome.next (if_pos h)), fun h =>
      (gaugeCheck_eq ev eq vs s).trans (congrArg Host.Outcome.next (if_neg h))⟩
  case holdup =>
    intro s
    exact ⟨fun h => (holdupChargeTimeout_eq s).trans (congrArg Host.Outcome.next (if_pos h)), fun h =>
      (holdupChargeTimeout_eq s).trans (congrArg Host.Outcome.next (if_neg h))⟩
  case alignment =>
    intro err s
    refine ⟨podAlignment_rests, fun h => ⟨_, podAlignment_steps h, ?_⟩⟩
    split
    next => exact ⟨rfl, rfl, fun _ _ => rfl⟩
    next hl => exact ⟨rfl, rfl, fun hs ht => absurd (by rw [hs, ht]; rfl) hl⟩
  case loop =>
    intro err trim c
    have adj := alignStep_adj err trim c
    refine ⟨rfl, by omega, by omega, fun hl hh => ?_, fun h => ?_⟩
    · obtain ⟨run, lock⟩ := alignStep_near (err := err) (by simp [frameNear, hl, hh]) trim c
      exact ⟨run, fun hr => lock.trans (if_pos hr), fun hr => lock.trans (if_neg hr.not_ge)⟩
    · obtain ⟨run, lock⟩ := alignStep_off (err := err) (by simp [frameNear]; omega) trim c
      exact ⟨run, fun hr => lock.trans (if_pos hr), fun hr => lock.trans (if_neg hr.not_ge)⟩
  case slip =>
    classical
    intro site port s
    refine ⟨fun h => ?_, fun h => ?_⟩
    · have h : slipsAgain site port s := h
      rw [elasticBufferSlip_eq, if_pos h]
    · have h : ¬ slipsAgain site port s := h
      rw [elasticBufferSlip_eq, if_neg h]
  case heat =>
    intro b temp s
    by_cases hc : temp.toInt ≤ 1520
    · refine ⟨_, temperatureLimit_cool hc, fun _ => ⟨?_, rfl, fun he => ?_⟩, by omega, by omega, by omega, by omega, by omega⟩
      · simp [onPwr]
      · have he : s.pwr.overTemp.filter (· != b.val) = [] := he
        simp [onPwr, he]
    · by_cases hx : 1680 < temp.toInt
      · obtain ⟨pwr, fatal, alertN, -⟩ := classX_effect codePower (tilesLost (onPwr (fun p => { p with hot := true }) (heatReported b temp s)))
        refine ⟨_, (temperatureLimit_warm (by omega)).trans (congrArg Host.Outcome.next (if_pos hx)), by omega, fun _ => ?_, fun h => ⟨?_,
          alertOn_of_alertN alertN⟩, by omega, fun _ => ⟨fatal, ?_, ?_⟩, by omega⟩ <;> rw [pwr]
        · exact mem_heatNoted b temp s.pwr
        · exact heatNoted_alert h b s.pwr
        · rfl
        · rfl
      · exact ⟨_, (temperatureLimit_warm (by omega)).trans (congrArg Host.Outcome.next (if_neg hx)), by omega,
          fun _ => mem_heatNoted b temp s.pwr,
          fun h => ⟨heatNoted_alert h b s.pwr, alertOn_of_tempAlert (heatNoted_alert h b s.pwr)⟩,
          fun _ h => ⟨heatNoted_no_alert h b s.pwr, rfl⟩, by omega, fun _ _ => ⟨_, rfl⟩⟩

end Sys2Proof.Machine
end

section
/-! How the module loses its power, resets, boots and freezes, and their obligation (R534, R572, R585, R587, R600-R602, R606-R614). -/

namespace Sys2Proof.Machine

/-! ### The last gasp (R572, R585-R587) -/

/-- The last gasp of a module that is still powered, with the journal where the store holds 2.0 J. -/
def gasped (s : State) : State :=
  let writes : Bool := decide (2000 ≤ s.pwr.ev.toNat)
  onPwr (fun p => { p with act := 4, pwrOk := false, journal := writes, lastGasp := true })
    (coldClear (if writes then onHist (fun h => { h with opt := s.flt.opt }) s else s))

/-- Both feeds are gone, and the module is not yet in P4. -/
def gasps (s : State) : Prop := s.pwr.feedA = false ∧ s.pwr.feedB = false ∧ s.pwr.act ≠ 4

theorem gasps_iff (s : State) : (s.pwr.feedA || s.pwr.feedB || s.pwr.act == 4) = true ↔ ¬ gasps s := by
  rw [← Bool.not_eq_false, Bool.or_eq_false_iff, Bool.or_eq_false_iff, beq_eq_false_iff_ne, and_assoc]
  rfl

theorem lastGasp_rests {s : State} (h : ¬ gasps s) : exec .lastGasp s = .next s := if_pos ((gasps_iff s).2 h)

theorem lastGasp_acts {s : State} (h : gasps s) : exec .lastGasp s = .next (gasped s) := if_neg fun hn => (gasps_iff s).1 hn h

theorem gasped_hist (s : State) : (gasped s).hist = if 2000 ≤ s.pwr.ev.toNat then { s.hist with opt := s.flt.opt } else s.hist := by
  unfold gasped
  by_cases h : 2000 ≤ s.pwr.ev.toNat
  · simp only [h, decide_true, if_true]
    rfl
  · simp only [h, decide_false, Bool.false_eq_true, if_false]
    rfl

/-- The last gasp clears what a cold reset clears, and keeps the rest. -/
theorem gasped_frame (s : State) : (gasped s).resid = s.resid ∧ (gasped s).pending = s.pending ∧
    ∀ site, tileAt (gasped s) site = { Tile.reset with fab := fabKept (tileAt s site).fab } := by
  unfold gasped
  by_cases h : 2000 ≤ s.pwr.ev.toNat
  · simp only [h, decide_true, if_true]
    exact ⟨rfl, rfl, fun site => coldClear_tile (onHist (fun h => { h with opt := s.flt.opt }) s) site⟩
  · simp only [h, decide_false, Bool.false_eq_true, if_false]
    exact ⟨rfl, rfl, fun site => coldClear_tile s site⟩

/-! ### Cold resets (R602, R606, R607) -/

/-- A cold reset in which PWR_OK cannot rise: the module waits in stage 0. -/
def unpowered (cause : BitVec 2) (s : State) : State :=
  onPwr (fun p => { p with pwrOk := false }) (onSvc (fun v => { v with lastCold := cause }) (coldClear s))

section
variable {s : State} (a : BootArgs)

theorem coldReset_unpowered (h : pwrRises s.pwr = false) (cause : BitVec 2) (asked : Bool) : coldReset a cause asked s = unpowered cause s :=
  if_pos ((Bool.not_eq_true' _).mpr h)

theorem coldReset_powered (h : pwrRises s.pwr = true) (cause : BitVec 2) (asked : Bool) :
    coldReset a cause asked s = if asked then coldBoot a cause s else sieEvent (coldBoot a cause s) :=
  if_neg fun hn => ne_true_of_eq_false ((Bool.not_eq_true' _).mp hn) h

theorem coldReset_exec (h : pwrRises s.pwr = true) :
    exec (.coldReset a) s = .next (sieEvent (coldBoot a (if s.pwr.lastGasp then 3 else 0) s)) :=
  congrArg Host.Outcome.next ((if_pos h).trans (coldReset_powered a h _ false))

theorem coldReset_waits (h : pwrRises s.pwr = false) : exec (.coldReset a) s = .next s :=
  congrArg Host.Outcome.next (if_neg (ne_true_of_eq_false h))

theorem rstN_eq : exec (.rstN a) s = .next (if s.pwr.act = 4 then s else coldReset a 1 false s) := rfl

theorem svcResetCold_eq : exec (.svcResetCold a) s = .next (coldReset a 2 true s) := rfl

end

/-! ### The boot (R534, R600-R604) -/

/-- The stages of a boot from STRAPS to DRAM, each where the halt code lets it complete. -/
def bootStages (a : BootArgs) (cause : BitVec 2) (s : State) : State :=
  let s1 := bootStraps (onSvc (fun v => { v with lastCold := cause, bootMs := a.ms }) { coldClear s with pwr := pwrBoot s.pwr })
  let s2 := if bootDoes a.halt 2 then bootFuses s1 else s1
  let s3 := if bootDoes a.halt 4 then bootLath a.silent s2 else s2
  let s4 := if bootDoes a.halt 6 then bootHistory s3 else s3
  if bootDoes a.halt 7 then bootDram s4 else s4

theorem coldBoot_halted {a : BootArgs} {h : Nat} (hh : haltStage a.halt = some h) (cause : BitVec 2) (s : State) : coldBoot a cause s =
    onSvc (fun v => { v with stage := 15, haltStage := BitVec.ofNat 4 h, halt := a.halt, mgmtUp := true }) (bootStages a cause s) := by
  simp only [coldBoot, hh]
  rfl

theorem coldBoot_unhalted {a : BootArgs} (hh : haltStage a.halt = none) (cause : BitVec 2) (s : State) :
    coldBoot a cause s = bootImage (bootPorts (bootStages a cause s)) := by
  simp only [coldBoot, hh]
  rfl

theorem svc_ite {b : Bool} {s t : State} (h : t.svc = s.svc) : (if b then t else s).svc = s.svc := by
  split
  · exact h
  · rfl

/-- The stages after STRAPS leave the service die. -/
theorem bootStages_svc (a : BootArgs) (cause : BitVec 2) (s : State) : (bootStages a cause s).svc =
    (bootStraps (onSvc (fun v => { v with lastCold := cause, bootMs := a.ms }) { coldClear s with pwr := pwrBoot s.pwr })).svc := by
  unfold bootStages
  rw [svc_ite (bootDram_svc _), svc_ite (bootHistory_svc _), svc_ite (bootLath_svc ..), svc_ite (bootFuses_svc _)]

theorem bootStages_straps (a : BootArgs) (cause : BitVec 2) (s : State) : (bootStages a cause s).svc.straps = s.svc.pins := by
  rw [bootStages_svc]
  rfl

theorem bootStages_lastCold (a : BootArgs) (cause : BitVec 2) (s : State) : (bootStages a cause s).svc.lastCold = cause := by
  rw [bootStages_svc]
  rfl

theorem alertOn_of_stage {s : State} (h : s.svc.stage ≠ 10) : alertOn s = true := by
  simp only [alertOn, bne_iff_ne.2 h, Bool.or_true]

/-- IMAGE begins the load of slot A from the flash, and ends the boot otherwise. -/
theorem bootImage_stage (s : State) : (bootImage s).svc.stage = 9 ∨ (bootImage s).svc.stage = 10 := by
  unfold bootImage
  split
  · left
    exact congrArg Svc.stage (dramStore_svc ..)
  · exact .inr rfl

/-- A life-cycle change that erases the secret table: to RETIRED, and from OPEN to PRODUCTION (R535). -/
theorem bootFuses_sec {s : State} (h : s.sec.lcPend = true) : (bootFuses s).sec.lc = s.sec.lcNext ∧ (bootFuses s).sec.lcPend = false ∧
    (s.sec.lcNext = 2 → (bootFuses s).sec.ownLock = true) ∧
    (s.sec.lcNext = 3 ∨ (s.sec.lc = 1 ∧ s.sec.lcNext = 2) → (bootFuses s).sec.seals = [] ∧ (bootFuses s).sec.weights = []) := by
  have sec : (bootFuses s).sec = { s.sec with
      chal := Config.challenge s.draws
      lc := s.sec.lcNext
      lcPend := false
      ownLock := s.sec.ownLock || s.sec.lcNext == 2
      seals := if s.sec.lcNext == 3 || (s.sec.lc == 1 && s.sec.lcNext == 2) then [] else s.sec.seals
      weights := if s.sec.lcNext == 3 || (s.sec.lc == 1 && s.sec.lcNext == 2) then [] else s.sec.weights } := by
    simp only [bootFuses, h, Bool.not_true, Bool.false_eq_true, if_false]
    split <;> rfl
  rw [sec]
  refine ⟨rfl, rfl, fun hn => ?_, fun hn => ?_⟩
  · simp [hn]
  · have drop : (s.sec.lcNext == 3 || (s.sec.lc == 1 && s.sec.lcNext == 2)) = true := by simpa using hn
    exact ⟨if_pos drop, if_pos drop⟩

theorem bootFuses_lc_of_none {s : State} (h : s.sec.lcPend = false) : (bootFuses s).sec.lc = s.sec.lc := by
  simp only [bootFuses, h, Bool.not_false, if_true]

theorem bootStraps_mgmtIp4 (s : State) : (bootStraps s).svc.mgmtIp4.toNat =
    169 * 2 ^ 24 + 254 * 2 ^ 16 + (1 + strapSlot (bootStraps s)) * 2 ^ 8 + (16 + strapMaddr (bootStraps s)) := by
  have slot : strapSlot (bootStraps s) < 128 := Nat.mod_lt _ (by decide)
  have maddr : strapMaddr (bootStraps s) < 16 := Nat.mod_lt _ (by decide)
  change (BitVec.ofNat 32 (0xA9FE0000 + 256 * (1 + strapSlot (bootStraps s)) + 16 + strapMaddr (bootStraps s))).toNat = _
  rw [BitVec.toNat_ofNat, Nat.mod_eq_of_lt (by omega)]
  omega

/-! ### The other resets (R606-R609, R614) -/

theorem svcResetWarm_eq (a : WarmArgs) (s : State) : exec (.svcResetWarm a) s = .next (
    if (warmReset { a with asked := true } s).svc.frz = 0 then freezeEnd (s.svc.frz != 0) (warmReset { a with asked := true } s)
    else warmReset { a with asked := true } s) := rfl

/-- The end of a freeze sends a pod member back to rejoin. -/
theorem freezeEnd_frozen (s : State) : (freezeEnd true s).svc.freezePin = true ∧ (s.pod.st = 2 → (freezeEnd true s).pod.st = 1) := by
  unfold freezeEnd
  simp only [Bool.true_and, beq_iff_eq]
  split
  next => exact ⟨rfl, fun _ => rfl⟩
  next h => exact ⟨rfl, fun hn => absurd hn h⟩

/-- A port as its reset leaves it. -/
def portReset (p : Nat) (d : LinkDie) : LinkDie :=
  portPut p { portAt (portDown p d) p with en := (portAt (portDown p d) p).en && !(portAt (portDown p d) p).modeSt } (portDown p d)

section
variable {s : State}

theorem svcResetTile_eq (site : BitVec 13) : exec (.svcResetTile site) s = .next (
    if s.svc.warming = true ∨ 8064 ≤ site.toNat then s else tileResetNow site.toNat true s) := rfl

theorem svcResetPort_eq (port : BitVec 6) : exec (.svcResetPort port) s = .next (
    if s.svc.warming = true ∨ 48 ≤ port.toNat then s else portsDown (port.toNat / 3) (portReset (port.toNat % 3)) s) := rfl

end

/-! ### Freezes (R611-R613) -/

theorem freezeN_eq (us : BitVec 16) (s : State) : exec (.freezeN us) s =
    .next (if s.svc.pinEn = true ∧ 1 ≤ us.toNat then freezeStart 1 s else s) := rfl

section
variable {s : State}

theorem freezeStart_frozen (c : BitVec 2) (h : s.svc.frz ≠ 0) : freezeStart c s = s := if_pos h

theorem freezeStart_ignored (c : BitVec 2) (h : s.svc.frz = 0) (hl : s.sec.level.toNat < 2 ∨ s.svc.warming = true) :
    freezeStart c s = freezeIgnore s :=
  (if_neg (not_not.2 h)).trans (if_pos hl)

theorem freezeStart_starts (c : BitVec 2) (h : s.svc.frz = 0) (hl : 2 ≤ s.sec.level.toNat) (hw : s.svc.warming = false) :
    freezeStart c s = { s with svc := { s.svc with
      frz := 1
      frzCause := c
      stopFrame := BitVec.ofNat 48 (s.frames + 4)
      freezePin := false } } :=
  (if_neg (not_not.2 h)).trans (if_neg fun hn => hn.elim hl.not_gt (ne_true_of_eq_false hw))

variable (stop : BitVec 48) (c : BitVec 2)

theorem freeze_ignored (h : s.svc.frz ≠ 0 ∨ s.sec.level.toNat < 2) : exec (.freeze stop c) s = .next s :=
  congrArg Host.Outcome.next (if_pos h)

theorem freeze_starts (h : s.svc.frz = 0) (hl : 2 ≤ s.sec.level.toNat) : exec (.freeze stop c) s = .next { s with svc := { s.svc with
    frz := 1
    frzCause := c
    stopFrame := stop
    freezePin := false } } :=
  congrArg Host.Outcome.next (if_neg fun hn => hn.elim (fun hf => hf h) hl.not_gt)

end

theorem freezeStop_eq (s : State) : exec .freezeStop s = .next (
    if s.svc.frz = 1 ∧ s.svc.stopFrame.toNat ≤ s.frames % 2 ^ 48 then { s with svc := { s.svc with frz := 2 } } else s) := rfl

/-- Settles O55: `gasped_frame` and `coldClear_tile` say what a loss of power leaves, `bootStages_svc` what the stages of a boot do; the other
commands have an equation each. -/
theorem resetsAndFreezesAct : Obligations.ResetsAndFreezesAct := by
  unfold Obligations.ResetsAndFreezesAct
  refine ⟨fun s => ⟨lastGasp_rests, fun h => ⟨_, lastGasp_acts h, ?gasp⟩⟩, ?clear, ?cold, ?halted, ?unhalted,
    fun s => ⟨bootFuses_lc_of_none, bootFuses_sec⟩, fun s => ⟨rfl, bootStraps_mgmtIp4 s⟩, fun pins s => rfl, ?warm, ?tile, ?port, fun v s => rfl,
    ?pin,
    fun c s => ⟨freezeStart_frozen c, freezeStart_ignored c, freezeStart_starts c⟩,
    fun stop c s => ⟨freeze_ignored stop c, freeze_starts stop c⟩, ?stop⟩
  case gasp =>
    obtain ⟨resid, pending, tiles⟩ := gasped_frame s
    have hist := gasped_hist s
    refine ⟨rfl, rfl, rfl, decide_eq_true_iff, ?_, fun he => ?_, fun he => hist.trans (if_neg he.not_ge), rfl, rfl, rfl, resid, pending,
      fun site => ?_⟩
    · rw [hist]
      split <;> rfl
    · rw [hist, if_pos he]
    · rw [tiles site]
      exact ⟨rfl, rfl⟩
  case clear =>
    intro s site
    have tile := coldClear_tile s site
    exact ⟨rfl, rfl, rfl, rfl, rfl, rfl, rfl, rfl, rfl, rfl, rfl, rfl, rfl, rfl, rfl, rfl, rfl, rfl, rfl, rfl, rfl, by rw [tile]; rfl⟩
  case cold =>
    intro a s
    refine ⟨coldReset_waits a, coldReset_exec a, fun h4 => (rstN_eq a).trans (congrArg Host.Outcome.next (if_pos h4)), fun h4 h => ?_, fun h => ?_,
      fun h => ⟨⟨unpowered 2 s, ?_, rfl, rfl, rfl, rfl⟩, fun h4 => ⟨unpowered 1 s, ?_, rfl, rfl, rfl, rfl⟩⟩⟩
    · rw [rstN_eq, if_neg h4, coldReset_powered a h]
      rfl
    · rw [svcResetCold_eq, coldReset_powered a h]
      rfl
    · rw [svcResetCold_eq, coldReset_unpowered a h]
    · rw [rstN_eq, if_neg h4, coldReset_unpowered a h]
  case halted =>
    intro a h c s hh
    rw [coldBoot_halted hh]
    exact ⟨rfl, rfl, rfl, rfl, bootStages_straps a c s, bootStages_lastCold a c s, alertOn_of_stage (by simp [onSvc])⟩
  case unhalted =>
    intro a c s hh
    rw [coldBoot_unhalted hh]
    exact bootImage_stage _
  case warm =>
    intro a s
    exact ⟨fun h => (svcResetWarm_eq a s).trans (congrArg Host.Outcome.next (if_neg h)), fun h =>
      (svcResetWarm_eq a s).trans (congrArg Host.Outcome.next (if_pos h)), freezeEnd_frozen _⟩
  case tile =>
    intro site s
    exact ⟨fun h => (svcResetTile_eq site).trans (congrArg Host.Outcome.next (if_pos h)), fun hw hs =>
      (svcResetTile_eq site).trans (congrArg Host.Outcome.next (if_neg fun hn => hn.elim (ne_true_of_eq_false hw) hs.not_ge))⟩
  case port =>
    intro port s
    exact ⟨fun h => (svcResetPort_eq port).trans (congrArg Host.Outcome.next (if_pos h)), fun hw hp =>
      (svcResetPort_eq port).trans (congrArg Host.Outcome.next (if_neg fun hn => hn.elim (ne_true_of_eq_false hw) hp.not_ge))⟩
  case pin =>
    intro us s
    refine ⟨fun hp hu => (freezeN_eq us s).trans (congrArg Host.Outcome.next (if_pos ⟨hp, hu⟩)), fun h =>
      (freezeN_eq us s).trans (congrArg Host.Outcome.next (if_neg fun hn => h.elim (fun hp => ne_true_of_eq_false hp hn.1) fun hu => ?_)), rfl⟩
    have := hn.2
    simp [hu] at this
  case stop =>
    intro s
    exact ⟨fun h => (freezeStop_eq s).trans (congrArg Host.Outcome.next (if_pos h)), fun h =>
      (freezeStop_eq s).trans (congrArg Host.Outcome.next (if_neg h))⟩

end Sys2Proof.Machine
end
